-- ==== Sys2Proof/Word.lean ====
section
/-! DEFINITION. The word types of the package (R3: bit 0 is the least significant bit of every field). -/

namespace Sys2Proof

/-- A register or scalar value: 64 bits. -/
abbrev Word := BitVec 64

/-- A byte of memory. -/
abbrev Byte := BitVec 8

/-- One kibibyte, mebibyte and gibibyte (Notation: binary prefixes). -/
abbrev kib : Nat := 1024
abbrev mib : Nat := 1048576
abbrev gib : Nat := 1073741824

end Sys2Proof
end

