-- ==== Sys2Proof/Syntax.lean ====
section
/-! DEFINITION. The commands of the UZ8 node package and their operands.

One command is one whole step of the package (95_what_each_step_holds.md). The table gives the rows no bits and no
operands; the operands are what the rule of each row needs from outside: who acts, on which unit, and what arrives. -/

namespace Sys2Proof

/-- Who makes a register access (R6, Table 17-7 ORIGIN). A host acts through its link (R422), and its partition is the
one that names the link (R425). The in-package OS acts for one of the partitions it owns. -/
inductive Origin where
  | host (link : BitVec 2)
  | os (part : BitVec 3)
  /-- `forHost`: acting for the management host (Table 17-7). -/
  | mgmt (forHost : Bool)
  | rom
  | fabric
  deriving DecidableEq, Repr

/-- What the ECC of a word read finds (R45, R207, R208): nothing, a corrected error, or an uncorrectable one. The spec does
not say when errors arise; the command brings the outcome. -/
inductive Ecc where
  | clean
  /-- HBM: corrected by the on-die code (R207); scratchpad: corrected (R45). -/
  | corrected
  /-- HBM: corrected by the controller's symbol code (R207). -/
  | symbol
  | uncorrectable
  /-- Scratchpad and instruction store: the words corrected, counted from the access's first, in the order they were read (R45). -/
  | words (ws : List (BitVec 16))
  deriving DecidableEq, Repr

/-- A word whose ECC found something (R45, R108, R207, R208): a line of HBM data, the checksum word of an HBM tile by an address of the tile, a
scratchpad word of a cluster, or a word of the unit's own that runs the command: a buffer, a table, a log or a staging slot (log 116). -/
inductive EccAt where
  | hbm (a : BitVec 39)
  | sum (a : BitVec 39)
  | spad (c : BitVec 8) (a : BitVec 22)
  | unit
  deriving DecidableEq, Repr

/-- What the ECC found there. -/
structure EccHit where
  place : EccAt
  ecc : Ecc
  deriving DecidableEq, Repr

/-- The fields of a format S instruction after OPC and FN (Table 02-2); `ext` is the extension word when EXT is 1, and `fetch` what the ECC of
the instruction store found as the words were fetched (R45). -/
structure SFmt where
  sd : BitVec 5
  sa : BitVec 5
  sb : BitVec 5
  ims : Bool
  rsv : BitVec 3
  imm : BitVec 32
  ext : Option (BitVec 64)
  fetch : Ecc := .clean
  deriving DecidableEq, Repr

/-- The fields of a format V instruction after OPC and FN (Table 02-3); `regs` is what the protection of the vector registers and predicates
found as the instruction read them (R87). -/
structure VFmt where
  vd : BitVec 5
  va : BitVec 5
  vb : BitVec 5
  pg : BitVec 3
  pn : Bool
  ew : BitVec 3
  ims : Bool
  rsv : BitVec 4
  imm : BitVec 24
  ext : Option (BitVec 64)
  fetch : Ecc := .clean
  regs : Ecc := .clean
  deriving DecidableEq, Repr

/-- A mover: tile mover TM0 to TM3 of a cluster (R57), or a bulk channel (R229). -/
inductive Mover where
  | tile (c : BitVec 8) (tm : BitVec 2)
  | bulk (ch : BitVec 6)
  deriving DecidableEq, Repr

/-- Who makes a line access at a Lichen engine (R191). -/
inductive Requester where
  | ovusk (hart : BitVec 7)
  | other
  deriving DecidableEq, Repr

/-- A line read or write (R191). `write` holds the bytes written from byte `off` of the line; none is a read. `hit` says
whether the memory-side cache held the line (R195); `fill` that an Ovusk cache takes the line, `dirty` modified (R193). -/
structure LineReq where
  addr : BitVec 39
  off : BitVec 6
  len : BitVec 7
  write : Option (List (BitVec 8))
  who : Requester
  hit : Bool
  fill : Bool
  dirty : Bool
  ecc : Ecc
  deriving DecidableEq, Repr

/-- A narrow request (Table 08-4) but for its OP, which the command is. `hit` bit i: lane i hits in the cache. -/
structure NarrowReq where
  fn : BitVec 2
  w32 : Bool
  fetch : Bool
  part : BitVec 4
  lanes : BitVec 8
  hit : BitVec 8
  addr : List (BitVec 39)
  data : List (BitVec 64)
  /-- The Ovusk core that makes the request, if one does (R194). -/
  hart : Option (BitVec 7) := none
  /-- What the ECC of the DRAM found for lanes that miss (R207, R208). -/
  ecc : List EccHit := []
  deriving DecidableEq, Repr

/-- A Lichen stream issued by solver channel `ch` (R202): the eight words of its descriptor, and what the ECC found as it read, where it begins
at once (R207, R208). -/
structure StreamReq where
  ch : BitVec 6
  words : List (BitVec 64)
  ecc : List EccHit := []
  deriving DecidableEq, Repr

/-- What a patrol scrub pass found (R209): stack offsets, and the outcome of each. -/
structure ScrubOutcome where
  hits : List (BitVec 38 × Ecc)
  deriving DecidableEq, Repr

/-- Where a doorbell write comes from (R233): a host function's BAR2, a job window of KIND 2, or an Ovusk core. -/
inductive DbSrc where
  | fn (link : BitVec 2) (f : BitVec 6)
  | window
  | core
  deriving DecidableEq, Repr

/-- What the other members of a multi-member solve bring to it (R136, R155): at each reduction point the values of every member in the order of
the communicator, of which the channel's own are its own; the parameter digest of each member, and the PATTERN_DIGEST of rank 0; the halo entries
of each product; the end code of highest rank that a peer carried; a fault of a reduction point. Empty for a solve with one member. `ecc` is what
the ECC found in what the channel read (R162). -/
structure SolvePeers where
  points : List (List (List (BitVec 64)))
  digests : List (BitVec 64)
  pattern0 : List (BitVec 8)
  halo : List (List (BitVec 64))
  peerEnd : Option (BitVec 8)
  fault : Option (BitVec 8)
  ecc : List EccHit := []
  deriving DecidableEq, Repr

/-- A mover, and what the ECC found in what its step reads (R207, R208). -/
structure MoverOp where
  mover : Mover
  ecc : List EccHit
  deriving DecidableEq, Repr

/-- EPI's fields, and what the ECC found in its descriptor (R45, R87). -/
structure EpiIssue where
  fmt : VFmt
  ecc : Ecc
  deriving DecidableEq, Repr

/-- The cluster of an epilogue that starts, and what the ECC found in the tile queue's entry and in the scratchpad operands (R87). -/
structure EpiStart where
  c : BitVec 8
  tq : Ecc
  sp : Ecc
  deriving DecidableEq, Repr

/-- The cluster of an epilogue that ends, and what the ECC found in the unit (R87). -/
structure EpiEnd where
  c : BitVec 8
  ecc : Ecc
  deriving DecidableEq, Repr

/-- The address of an LR or SC, and what the ECC of the DRAM found there (R207, R208). -/
structure HartAddr where
  addr : BitVec 39
  ecc : Ecc
  deriving DecidableEq, Repr

/-- A queue command, and what the ECC found in what the command's step reads (R162, R207, R208, R243). -/
structure CmdReads where
  id : Nat
  ecc : List EccHit
  deriving DecidableEq, Repr

/-- A job slot, and what the ECC found in what its step of the launch reads (R207, R208, R366, R370). -/
structure SlotReads where
  slot : BitVec 3
  ecc : List EccHit
  deriving DecidableEq, Repr

/-- The system of a batch that ends, and what the ECC found in what it read (R178). -/
structure SystemEnd where
  n : Nat
  ecc : List EccHit
  deriving DecidableEq, Repr

/-- The stack of a stream that completes, and what the ECC found as the next waiting one read (R207, R208). -/
structure StreamEnd where
  st : BitVec 4
  ecc : List EccHit
  deriving DecidableEq, Repr

/-- The value of a doorbell write, and what the ECC found in the context that it fetches (R243). -/
structure DbValue where
  value : BitVec 17
  ecc : List EccHit
  deriving DecidableEq, Repr

/-- Whether a replay succeeds, and the LINK_SEQ from which the other end asked for one, where it did (R246). -/
structure ReplayReq where
  ok : Bool
  ask : Option (BitVec 12)
  deriving DecidableEq, Repr

/-- A fabric cell (Tables 10-3 and 10-5): header, 64 payload bytes and E2E_CRC. -/
structure Cell where
  type : BitVec 4
  tc : BitVec 3
  comb : Bool
  jobTag : BitVec 16
  dstEp : BitVec 20
  srcEp : BitVec 20
  srcRank : BitVec 17
  route : BitVec 7
  offset : BitVec 40
  seq : BitVec 32
  win : BitVec 8
  floorGap : BitVec 10
  op : BitVec 4
  len : BitVec 7
  resp : BitVec 3
  payload : List (BitVec 8)
  crc : BitVec 32
  /-- Of a COMB_ATOMIC: it is as ATOMIC_F (Table 10-4). The spec gives the header no bit that says so (log 52). -/
  fetch : Bool := false
  /-- LINK_SEQ and the returned credits of the trailer (Table 10-5), and the port of the link that carries the cell. -/
  linkSeq : BitVec 12 := 0
  credit : BitVec 20 := 0
  port : BitVec 5 := 0
  deriving DecidableEq, Repr

/-- What a Chain engine's checks find as it takes a cell (R298, R305): the outcome of the staging words that it consumes, and whether the residue
of an adder, comparator or shifter differs from its prediction. -/
structure ChainWords where
  staging : Ecc
  residue : Bool
  deriving DecidableEq, Repr

/-- A cell that reads memory here, and what the ECC found in it and in the Hub's own tables and buffers (R207, R208, R288). -/
structure CellReads where
  cell : Cell
  ecc : List EccHit
  deriving DecidableEq, Repr

/-- A CHAIN or SYNC cell, and what the Chain engine's checks find as it takes it. -/
structure ChainCell where
  cell : Cell
  words : ChainWords
  deriving DecidableEq, Repr

/-- A cell at a port, and what the ECC found in the port's buffer (R287). -/
structure PortCell where
  cell : Cell
  ecc : Ecc
  deriving DecidableEq, Repr

/-- The combining entry that closes, and what the ECC found in what it reads here (R207, R208). -/
structure CombClose where
  n : Nat
  ecc : List EccHit
  deriving DecidableEq, Repr

/-- The publication, and what the ECC found in its setpoints (R207, R208, R357). -/
structure PubTick where
  n : BitVec 4
  ecc : List EccHit
  deriving DecidableEq, Repr

/-- Whether a part was written and read back, and what the ECC found in the image and the pool (R389, R400). -/
structure PartCopy where
  ok : Bool
  ecc : Ecc
  deriving DecidableEq, Repr

/-- How many audit entries are asked for, and the SEQ of those that read back damaged (R442, R456). -/
structure AuditGet where
  n : BitVec 8
  damaged : List (BitVec 64)
  deriving DecidableEq, Repr

/-- Names a flow (R257): traffic class, job tag, and the other end's rank; `hub` carries a combining Hub's endpoint when
the source is a Hub. -/
structure FlowKey where
  tc : BitVec 3
  tag : BitVec 16
  rank : BitVec 17
  hub : Option (BitVec 20)
  deriving DecidableEq, Repr

/-- The time a PTP exchange gives (R320): the source's time at this moment, and TAI minus UTC. -/
structure PtpTime where
  port : BitVec 1
  time : BitVec 64
  utcOffset : BitVec 16
  deriving DecidableEq, Repr

/-- Payload of a time cell (Table 12-3). -/
structure TimeCell where
  state : BitVec 8
  utcOffset : BitVec 16
  t1 : BitVec 64
  t2 : BitVec 64
  t3 : BitVec 64
  deriving DecidableEq, Repr

/-- A UDP datagram at a field port (R339): port, destination MAC, source address, destination UDP port and UDP payload. -/
structure FieldPacket where
  port : BitVec 1
  dstMac : BitVec 48
  srcIp : BitVec 32
  dstUdp : BitVec 16
  data : List (BitVec 8)
  /-- What the ECC found in the map entries that the record reads (R207, R208, R357). -/
  ecc : List EccHit := []
  deriving DecidableEq, Repr

/-- One ASDU of an IEC 61850-9-2 frame (R345): its APPID, destination address, smpCnt, smpSynch, and dataset pairs of value
and quality. -/
structure SampledAsdu where
  port : BitVec 1
  dstMac : BitVec 48
  appid : BitVec 16
  smpCnt : BitVec 16
  smpSynch : BitVec 8
  pairs : List (BitVec 32 × BitVec 32)
  /-- What the ECC found in the map entries that the record reads (R207, R208, R357). -/
  ecc : List EccHit := []
  deriving DecidableEq, Repr

/-- A write, atomic or reduction that meets a granule not yet copied (R387): the byte address and the bytes it writes. -/
structure HeldAccess where
  addr : BitVec 39
  bytes : List (BitVec 8)
  deriving DecidableEq, Repr

/-- What the governor reads at a control tick (R403, R404, R407): package power over the last 1 ms, the input voltage, whether
each cluster group could issue more, and the power that each lever setting would draw in the next period, as the prediction
gives it for the setting now in force. -/
structure PowerSample where
  watts : BitVec 16
  mv : BitVec 16
  milliJ : BitVec 32
  /-- Prediction for the next period: entry k gives the watts at operating point k with every group at level 1, and the milliwatts
  that each further issue level of one group adds there. -/
  base : List (BitVec 16)
  perLevel : List (BitVec 16)
  deriving DecidableEq, Repr

/-- One regulator's reading (R403, R418). -/
structure RailSample where
  rail : BitVec 6
  mv : BitVec 16
  deciA : BitVec 16
  temp : BitVec 8
  phaseLost : Bool
  deriving DecidableEq, Repr

/-- An access through BAR4 (R424). -/
inductive Bar4Op where
  | read (a : BitVec 39) (n : BitVec 13) (e : Ecc)
  | write (a : BitVec 39) (bytes : List (BitVec 8))
  | fetchAdd (a : BitVec 39) (w32 : Bool) (v : BitVec 64) (e : Ecc)
  | swap (a : BitVec 39) (w32 : Bool) (v : BitVec 64) (e : Ecc)
  | cas (a : BitVec 39) (w32 : Bool) (cmp new : BitVec 64) (e : Ecc)
  | cas128 (a : BitVec 39)
  deriving DecidableEq, Repr

/-- One division of a bandwidth resource (R435): which resource, its capacity in force, and each partition's demand. -/
structure ArbiterDemand where
  resource : BitVec 4
  index : BitVec 4
  capacity : Nat
  nominal : Nat
  demand : List Nat
  deriving DecidableEq, Repr

/-- One millisecond of a partition's supply (R436). -/
structure BreachSample where
  resource : BitVec 4
  index : BitVec 4
  cause : BitVec 4
  demand : Nat
  received : Nat
  capacity : Nat
  nominal : Nat
  servedDeadline : Option (BitVec 3)
  deadlineKept : Bool
  deriving DecidableEq, Repr

/-- A firmware image (Table 18-2), whole. -/
structure FwImage where
  bytes : List (BitVec 8)
  deriving DecidableEq, Repr

/-- PLDM firmware data (R449): offset, bytes, and whether the transfer is complete. -/
structure PldmData where
  off : BitVec 32
  data : List (BitVec 8)
  last : Bool
  deriving DecidableEq, Repr


/-- The commands of the block: one constructor for each row of spec/opcode_table.json, in its order. -/
inductive Instr where
  /-- REGISTER_WRITE (R6). A write to a register field with no behaviour of its own is applied per its access type, clamped where WC, and audited. -/
  | registerWrite (o : Origin) (a : BitVec 28) (v : BitVec 64)
  /-- BAD_SIZE_ACCESS (R5). A register access of wrong size or alignment reads zero or is discarded, and sets ERR.ACC_BAD. -/
  | badSizeAccess (o : Origin) (a : BitVec 28) (size : BitVec 8) (w : Option (BitVec 64))
  /-- HELD_WRITES_APPLY (R16). When a block's clock returns, its held writes are applied in arrival order and WR_PEND clears. -/
  | heldWritesApply (page : BitVec 16)
  /-- CFG_DIGEST_READ (R14). A read of CFG_DIGEST is delayed until the digest covers every earlier write, held writes included. -/
  | cfgDigestRead (o : Origin) (page : BitVec 16)
  /-- JOB_DIGEST_READ (R368). A read of GLB.JOB_DIGEST is delayed up to 20 µs until the job configuration digest reflects every earlier write. -/
  | jobDigestRead (o : Origin) (w : BitVec 3)
  /-- THR_RUN_START (R40). A write of 1 to THR_RUN.START starts an OFF or HALTED thread at its THR_PC. -/
  | thrRunStart (o : Origin) (c : BitVec 8) (m : BitVec 8)
  /-- THR_RUN_STOP (R41). A write of 1 to THR_RUN.STOP halts a thread at an instruction boundary. -/
  | thrRunStop (o : Origin) (c : BitVec 8) (m : BitVec 8)
  /-- ADD (R52). Scalar integer add. -/
  | add (c : BitVec 8) (t : BitVec 3) (i : SFmt)
  /-- SUB (R52). Scalar integer subtract. -/
  | sub (c : BitVec 8) (t : BitVec 3) (i : SFmt)
  /-- MUL (R52). Scalar multiply, low 64 bits. -/
  | mul (c : BitVec 8) (t : BitVec 3) (i : SFmt)
  /-- MULHU (R52). High 64 bits of the unsigned product. -/
  | mulhu (c : BitVec 8) (t : BitVec 3) (i : SFmt)
  /-- MULHS (R52). High 64 bits of the signed product. -/
  | mulhs (c : BitVec 8) (t : BitVec 3) (i : SFmt)
  /-- AND (R52). Scalar bitwise AND. -/
  | andI (c : BitVec 8) (t : BitVec 3) (i : SFmt)
  /-- OR (R52). Scalar bitwise OR. -/
  | orI (c : BitVec 8) (t : BitVec 3) (i : SFmt)
  /-- XOR (R52). Scalar bitwise XOR. -/
  | xor (c : BitVec 8) (t : BitVec 3) (i : SFmt)
  /-- SLL (R52). Shift left logical. -/
  | sll (c : BitVec 8) (t : BitVec 3) (i : SFmt)
  /-- SRL (R52). Shift right logical. -/
  | srl (c : BitVec 8) (t : BitVec 3) (i : SFmt)
  /-- SRA (R52). Shift right arithmetic. -/
  | sra (c : BitVec 8) (t : BitVec 3) (i : SFmt)
  /-- MIN (R52). Signed scalar minimum. -/
  | min (c : BitVec 8) (t : BitVec 3) (i : SFmt)
  /-- MAX (R52). Signed scalar maximum. -/
  | max (c : BitVec 8) (t : BitVec 3) (i : SFmt)
  /-- MINU (R52). Unsigned scalar minimum. -/
  | minu (c : BitVec 8) (t : BitVec 3) (i : SFmt)
  /-- MAXU (R52). Unsigned scalar maximum. -/
  | maxu (c : BitVec 8) (t : BitVec 3) (i : SFmt)
  /-- SEQ (R52). Set if equal. -/
  | seq (c : BitVec 8) (t : BitVec 3) (i : SFmt)
  /-- SLT (R52). Set if less than, signed. -/
  | slt (c : BitVec 8) (t : BitVec 3) (i : SFmt)
  /-- SLTU (R52). Set if less than, unsigned. -/
  | sltu (c : BitVec 8) (t : BitVec 3) (i : SFmt)
  /-- DIVU (R52). Unsigned quotient, all ones for a zero divisor. -/
  | divu (c : BitVec 8) (t : BitVec 3) (i : SFmt)
  /-- REMU (R52). Unsigned remainder, the dividend for a zero divisor. -/
  | remu (c : BitVec 8) (t : BitVec 3) (i : SFmt)
  /-- FADD (R52). FP64 add in the thread's rounding mode. -/
  | fadd (c : BitVec 8) (t : BitVec 3) (i : SFmt)
  /-- FSUB (R52). FP64 subtract. -/
  | fsub (c : BitVec 8) (t : BitVec 3) (i : SFmt)
  /-- FMUL (R52). FP64 multiply. -/
  | fmul (c : BitVec 8) (t : BitVec 3) (i : SFmt)
  /-- FMA (R52). FP64 fused multiply-add with one rounding and the package's NaN choices. -/
  | fma (c : BitVec 8) (t : BitVec 3) (i : SFmt)
  /-- FDIV (R52). FP64 divide. -/
  | fdiv (c : BitVec 8) (t : BitVec 3) (i : SFmt)
  /-- FSQRT (R52). FP64 square root. -/
  | fsqrt (c : BitVec 8) (t : BitVec 3) (i : SFmt)
  /-- FMIN (R52). FP64 minimum with canonical NaN and -0 below +0. -/
  | fmin (c : BitVec 8) (t : BitVec 3) (i : SFmt)
  /-- FMAX (R52). FP64 maximum with canonical NaN and -0 below +0. -/
  | fmax (c : BitVec 8) (t : BitVec 3) (i : SFmt)
  /-- FEQ (R52). FP64 equal compare. -/
  | feq (c : BitVec 8) (t : BitVec 3) (i : SFmt)
  /-- FLT (R52). FP64 less-than compare. -/
  | flt (c : BitVec 8) (t : BitVec 3) (i : SFmt)
  /-- FLE (R52). FP64 less-or-equal compare. -/
  | fle (c : BitVec 8) (t : BitVec 3) (i : SFmt)
  /-- FCVT_I (R52). FP64 to int64, saturating, NaN to zero with INVALID. -/
  | fcvtI (c : BitVec 8) (t : BitVec 3) (i : SFmt)
  /-- FCVT_F (R52). int64 to FP64. -/
  | fcvtF (c : BitVec 8) (t : BitVec 3) (i : SFmt)
  /-- FABS (R52). FP64 absolute value, no flags. -/
  | fabs (c : BitVec 8) (t : BitVec 3) (i : SFmt)
  /-- FNEG (R52). FP64 negate, no flags. -/
  | fneg (c : BitVec 8) (t : BitVec 3) (i : SFmt)
  /-- FRM (R52). Sets the thread's FP64 rounding mode. -/
  | frm (c : BitVec 8) (t : BitVec 3) (i : SFmt)
  /-- BR (R52). Unconditional relative branch. -/
  | br (c : BitVec 8) (t : BitVec 3) (i : SFmt)
  /-- BZ (R52). Branch if zero. -/
  | bz (c : BitVec 8) (t : BitVec 3) (i : SFmt)
  /-- BNZ (R52). Branch if not zero. -/
  | bnz (c : BitVec 8) (t : BitVec 3) (i : SFmt)
  /-- BLT (R52). Branch if less than, signed. -/
  | blt (c : BitVec 8) (t : BitVec 3) (i : SFmt)
  /-- BGE (R52). Branch if greater or equal, signed. -/
  | bge (c : BitVec 8) (t : BitVec 3) (i : SFmt)
  /-- CALL (R52). Saves the return PC and branches. -/
  | call (c : BitVec 8) (t : BitVec 3) (i : SFmt)
  /-- JR (R52). Jumps to the word index in a register. -/
  | jr (c : BitVec 8) (t : BitVec 3) (i : SFmt)
  /-- LDS_B (R53). Scratchpad byte load, zero-extended. -/
  | ldsB (c : BitVec 8) (t : BitVec 3) (i : SFmt) (e : Ecc)
  /-- LDS_H (R53). Scratchpad halfword load, zero-extended. -/
  | ldsH (c : BitVec 8) (t : BitVec 3) (i : SFmt) (e : Ecc)
  /-- LDS_W (R53). Scratchpad word load, zero-extended. -/
  | ldsW (c : BitVec 8) (t : BitVec 3) (i : SFmt) (e : Ecc)
  /-- LDS_D (R53). Scratchpad doubleword load. -/
  | ldsD (c : BitVec 8) (t : BitVec 3) (i : SFmt) (e : Ecc)
  /-- LDS_BS (R53). Scratchpad byte load, sign-extended. -/
  | ldsBs (c : BitVec 8) (t : BitVec 3) (i : SFmt) (e : Ecc)
  /-- LDS_HS (R53). Scratchpad halfword load, sign-extended. -/
  | ldsHs (c : BitVec 8) (t : BitVec 3) (i : SFmt) (e : Ecc)
  /-- LDS_WS (R53). Scratchpad word load, sign-extended. -/
  | ldsWs (c : BitVec 8) (t : BitVec 3) (i : SFmt) (e : Ecc)
  /-- STS_B (R53). Scratchpad byte store. -/
  | stsB (c : BitVec 8) (t : BitVec 3) (i : SFmt)
  /-- STS_H (R53). Scratchpad halfword store. -/
  | stsH (c : BitVec 8) (t : BitVec 3) (i : SFmt)
  /-- STS_W (R53). Scratchpad word store. -/
  | stsW (c : BitVec 8) (t : BitVec 3) (i : SFmt)
  /-- STS_D (R53). Scratchpad doubleword store. -/
  | stsD (c : BitVec 8) (t : BitVec 3) (i : SFmt)
  /-- LDG (R53). 8-byte remote load at a fabric address after the sender-side checks. -/
  | ldg (c : BitVec 8) (t : BitVec 3) (i : SFmt)
  /-- STG (R53). 8-byte remote store at a fabric address. -/
  | stg (c : BitVec 8) (t : BitVec 3) (i : SFmt)
  /-- AADD (R53). Fetching 64-bit integer atomic add. -/
  | aadd (c : BitVec 8) (t : BitVec 3) (i : SFmt)
  /-- AADDN (R53). Non-fetching 64-bit integer atomic add. -/
  | aaddn (c : BitVec 8) (t : BitVec 3) (i : SFmt)
  /-- AMIN (R53). Fetching signed atomic minimum. -/
  | amin (c : BitVec 8) (t : BitVec 3) (i : SFmt)
  /-- AMINN (R53). Non-fetching signed atomic minimum. -/
  | aminn (c : BitVec 8) (t : BitVec 3) (i : SFmt)
  /-- AMAX (R53). Fetching signed atomic maximum. -/
  | amax (c : BitVec 8) (t : BitVec 3) (i : SFmt)
  /-- AMAXN (R53). Non-fetching signed atomic maximum. -/
  | amaxn (c : BitVec 8) (t : BitVec 3) (i : SFmt)
  /-- ACAS (R53). Atomic compare-and-swap returning the old value. -/
  | acas (c : BitVec 8) (t : BitVec 3) (i : SFmt)
  /-- AFMIN (R53). FP64 atomic minimum. -/
  | afmin (c : BitVec 8) (t : BitVec 3) (i : SFmt)
  /-- AFMAX (R53). FP64 atomic maximum. -/
  | afmax (c : BitVec 8) (t : BitVec 3) (i : SFmt)
  /-- AFADD (R255). FP64 atomic add, only at the package's own rank. -/
  | afadd (c : BitVec 8) (t : BitVec 3) (i : SFmt)
  /-- FENCE (R264). Closes the scope's epoch and waits for it and earlier epochs to complete. -/
  | fence (c : BitVec 8) (t : BitVec 3) (i : SFmt)
  /-- IFENCE (R48). Makes completed mover writes to the instruction store visible to fetch. -/
  | ifence (c : BitVec 8) (t : BitVec 3) (i : SFmt)
  /-- YIELD (R52). Ends the thread's run of issue. -/
  | yield (c : BitVec 8) (t : BitVec 3) (i : SFmt)
  /-- WAITC (R59). Waits until a tile mover completion counter reaches a value. -/
  | waitc (c : BitVec 8) (t : BitVec 3) (i : SFmt)
  /-- WAITM (R59). Waits until a scratchpad word is at least a value. -/
  | waitm (c : BitVec 8) (t : BitVec 3) (i : SFmt)
  /-- TSTART (R40). Starts another thread of the cluster at a given word. -/
  | tstart (c : BitVec 8) (t : BitVec 3) (i : SFmt)
  /-- HALT (R41). Halts the issuing thread. -/
  | halt (c : BitVec 8) (t : BitVec 3) (i : SFmt)
  /-- CSRR (R52). Reads a register of the cluster's own CLU page. -/
  | csrr (c : BitVec 8) (t : BitVec 3) (i : SFmt)
  /-- TICK (R52). Reads the Cadence counter. -/
  | tick (c : BitVec 8) (t : BitVec 3) (i : SFmt)
  /-- FLAGS (R52). Reads the sticky flags and clears the selected ones. -/
  | flags (c : BitVec 8) (t : BitVec 3) (i : SFmt)
  /-- MCLAIM (R54). Claims the matrix engine, waiting if held. -/
  | mclaim (c : BitVec 8) (t : BitVec 3) (i : SFmt)
  /-- MREL (R54). Releases the matrix claim once issued operations finish; passes it to a waiter. -/
  | mrel (c : BitVec 8) (t : BitVec 3) (i : SFmt)
  /-- TQCLAIM (R54). Claims the tile queue, waiting if held. -/
  | tqclaim (c : BitVec 8) (t : BitVec 3) (i : SFmt)
  /-- TQREL (R54). Releases the tile queue claim. -/
  | tqrel (c : BitVec 8) (t : BitVec 3) (i : SFmt)
  /-- MVGO (R57). Copies a descriptor onto a tile mover's queue, waiting if full. -/
  | mvgo (c : BitVec 8) (t : BitVec 3) (i : SFmt)
  /-- TQWAIT (R56). Waits for a tile queue entry and returns its header. -/
  | tqwait (c : BitVec 8) (t : BitVec 3) (i : SFmt)
  /-- TQPOP (R56). Frees the head tile queue entry. -/
  | tqpop (c : BitVec 8) (t : BitVec 3) (i : SFmt)
  /-- TQLD (R56). Loads 256 bytes of the head entry into a vector register. -/
  | tqld (c : BitVec 8) (t : BitVec 3) (i : VFmt) (e : Ecc)
  /-- VADD (R73). Vector integer add. -/
  | vadd (c : BitVec 8) (t : BitVec 3) (i : VFmt)
  /-- VSUB (R73). Vector integer subtract. -/
  | vsub (c : BitVec 8) (t : BitVec 3) (i : VFmt)
  /-- VMUL (R73). Vector integer multiply, low bits. -/
  | vmul (c : BitVec 8) (t : BitVec 3) (i : VFmt)
  /-- VMIN (R73). Vector signed minimum. -/
  | vmin (c : BitVec 8) (t : BitVec 3) (i : VFmt)
  /-- VMAX (R73). Vector signed maximum. -/
  | vmax (c : BitVec 8) (t : BitVec 3) (i : VFmt)
  /-- VMINU (R73). Vector unsigned minimum. -/
  | vminu (c : BitVec 8) (t : BitVec 3) (i : VFmt)
  /-- VMAXU (R73). Vector unsigned maximum. -/
  | vmaxu (c : BitVec 8) (t : BitVec 3) (i : VFmt)
  /-- VAND (R73). Vector bitwise AND. -/
  | vand (c : BitVec 8) (t : BitVec 3) (i : VFmt)
  /-- VOR (R73). Vector bitwise OR. -/
  | vor (c : BitVec 8) (t : BitVec 3) (i : VFmt)
  /-- VXOR (R73). Vector bitwise XOR. -/
  | vxor (c : BitVec 8) (t : BitVec 3) (i : VFmt)
  /-- VSLL (R73). Vector shift left logical. -/
  | vsll (c : BitVec 8) (t : BitVec 3) (i : VFmt)
  /-- VSRL (R73). Vector shift right logical. -/
  | vsrl (c : BitVec 8) (t : BitVec 3) (i : VFmt)
  /-- VSRA (R73). Vector shift right arithmetic. -/
  | vsra (c : BitVec 8) (t : BitVec 3) (i : VFmt)
  /-- VIDX (R73). Writes an index sequence from a scalar base. -/
  | vidx (c : BitVec 8) (t : BitVec 3) (i : VFmt)
  /-- VFADD (R72). Vector FP add. -/
  | vfadd (c : BitVec 8) (t : BitVec 3) (i : VFmt)
  /-- VFSUB (R72). Vector FP subtract. -/
  | vfsub (c : BitVec 8) (t : BitVec 3) (i : VFmt)
  /-- VFMUL (R72). Vector FP multiply. -/
  | vfmul (c : BitVec 8) (t : BitVec 3) (i : VFmt)
  /-- VFMA (R72). Vector FP fused multiply-add. -/
  | vfma (c : BitVec 8) (t : BitVec 3) (i : VFmt)
  /-- VFDIV (R72). Vector FP divide. -/
  | vfdiv (c : BitVec 8) (t : BitVec 3) (i : VFmt)
  /-- VFSQRT (R72). Vector FP square root. -/
  | vfsqrt (c : BitVec 8) (t : BitVec 3) (i : VFmt)
  /-- VFMIN (R72). Vector FP minimum. -/
  | vfmin (c : BitVec 8) (t : BitVec 3) (i : VFmt)
  /-- VFMAX (R72). Vector FP maximum. -/
  | vfmax (c : BitVec 8) (t : BitVec 3) (i : VFmt)
  /-- VFABS (R73). Vector FP absolute value. -/
  | vfabs (c : BitVec 8) (t : BitVec 3) (i : VFmt)
  /-- VFNEG (R73). Vector FP negate. -/
  | vfneg (c : BitVec 8) (t : BitVec 3) (i : VFmt)
  /-- VCMPEQ (R72). Vector equal compare into a predicate. -/
  | vcmpeq (c : BitVec 8) (t : BitVec 3) (i : VFmt)
  /-- VCMPNE (R72). Vector not-equal compare. -/
  | vcmpne (c : BitVec 8) (t : BitVec 3) (i : VFmt)
  /-- VCMPLT (R72). Vector less-than compare. -/
  | vcmplt (c : BitVec 8) (t : BitVec 3) (i : VFmt)
  /-- VCMPLE (R72). Vector less-or-equal compare. -/
  | vcmple (c : BitVec 8) (t : BitVec 3) (i : VFmt)
  /-- VCMPLTU (R73). Vector unsigned less-than compare. -/
  | vcmpltu (c : BitVec 8) (t : BitVec 3) (i : VFmt)
  /-- VCMPLEU (R73). Vector unsigned less-or-equal compare. -/
  | vcmpleu (c : BitVec 8) (t : BitVec 3) (i : VFmt)
  /-- VCMPUN (R72). Vector unordered compare. -/
  | vcmpun (c : BitVec 8) (t : BitVec 3) (i : VFmt)
  /-- PAND (R73). Predicate AND over 256 bits. -/
  | pand (c : BitVec 8) (t : BitVec 3) (i : VFmt)
  /-- POR (R73). Predicate OR. -/
  | por (c : BitVec 8) (t : BitVec 3) (i : VFmt)
  /-- PXOR (R73). Predicate XOR. -/
  | pxor (c : BitVec 8) (t : BitVec 3) (i : VFmt)
  /-- PNOT (R73). Predicate NOT. -/
  | pnot (c : BitVec 8) (t : BitVec 3) (i : VFmt)
  /-- VCOMPRESS (R76). Packs active elements to the low elements. -/
  | vcompress (c : BitVec 8) (t : BitVec 3) (i : VFmt)
  /-- VEXPAND (R76). Spreads low elements to active positions. -/
  | vexpand (c : BitVec 8) (t : BitVec 3) (i : VFmt)
  /-- VSEL (R73). Selects elements by predicate. -/
  | vsel (c : BitVec 8) (t : BitVec 3) (i : VFmt)
  /-- VSLIDEDN (R73). Slides elements down by an immediate. -/
  | vslidedn (c : BitVec 8) (t : BitVec 3) (i : VFmt)
  /-- VSLIDEUP (R73). Slides elements up by an immediate. -/
  | vslideup (c : BitVec 8) (t : BitVec 3) (i : VFmt)
  /-- VSPLAT (R73). Broadcasts operand B to active elements. -/
  | vsplat (c : BitVec 8) (t : BitVec 3) (i : VFmt)
  /-- VINS (R73). Inserts a scalar into one element. -/
  | vins (c : BitVec 8) (t : BitVec 3) (i : VFmt)
  /-- VEXT (R73). Extracts one element to a scalar. -/
  | vext (c : BitVec 8) (t : BitVec 3) (i : VFmt)
  /-- VPCNT (R73). Counts active elements. -/
  | vpcnt (c : BitVec 8) (t : BitVec 3) (i : VFmt)
  /-- VCVT (R77). Converts elements to a target format with RNE or stochastic rounding. -/
  | vcvt (c : BitVec 8) (t : BitVec 3) (i : VFmt)
  /-- VLD (R74). Unit-stride vector scratchpad load. -/
  | vld (c : BitVec 8) (t : BitVec 3) (i : VFmt) (e : Ecc)
  /-- VST (R74). Unit-stride vector scratchpad store. -/
  | vst (c : BitVec 8) (t : BitVec 3) (i : VFmt)
  /-- VLDG (R74). Vector load at a fabric address. -/
  | vldg (c : BitVec 8) (t : BitVec 3) (i : VFmt)
  /-- VSTG (R74). Vector store at a fabric address. -/
  | vstg (c : BitVec 8) (t : BitVec 3) (i : VFmt)
  /-- VRSUM (R80). Fixed-tree vector sum into a scalar. -/
  | vrsum (c : BitVec 8) (t : BitVec 3) (i : VFmt)
  /-- VRSUMA (R80). Tree sum added to the scalar destination. -/
  | vrsuma (c : BitVec 8) (t : BitVec 3) (i : VFmt)
  /-- VRMIN (R80). Tree minimum. -/
  | vrmin (c : BitVec 8) (t : BitVec 3) (i : VFmt)
  /-- VRMAX (R80). Tree maximum. -/
  | vrmax (c : BitVec 8) (t : BitVec 3) (i : VFmt)
  /-- VRMINU (R80). Tree unsigned minimum. -/
  | vrminu (c : BitVec 8) (t : BitVec 3) (i : VFmt)
  /-- VRMAXU (R80). Tree unsigned maximum. -/
  | vrmaxu (c : BitVec 8) (t : BitVec 3) (i : VFmt)
  /-- SETVL (R68). Sets the vector length. -/
  | setvl (c : BitVec 8) (t : BitVec 3) (i : VFmt)
  /-- EPI (R82). Copies an epilogue descriptor for the tile queue head. -/
  | epi (c : BitVec 8) (t : BitVec 3) (x : EpiIssue)
  /-- VSEAL (R75). Writes the checksum of a scratchpad tile. -/
  | vseal (c : BitVec 8) (t : BitVec 3) (i : VFmt)
  /-- MZERO (R117). Zeroes an accumulator or pair with a held format. -/
  | mzero (c : BitVec 8) (t : BitVec 3) (i : VFmt)
  /-- MLDA (R120). Loads an accumulator from scratchpad, normalising pairs. -/
  | mlda (c : BitVec 8) (t : BitVec 3) (i : VFmt)
  /-- MSTA (R120). Stores an accumulator to scratchpad as a sealing write. -/
  | msta (c : BitVec 8) (t : BitVec 3) (i : VFmt)
  /-- MPUSH (R117). Pushes an accumulator to the tile queue. -/
  | mpush (c : BitVec 8) (t : BitVec 3) (i : VFmt)
  /-- MFENCE (R117). Waits for the thread's matrix operations, stores and pushes. -/
  | mfence (c : BitVec 8) (t : BitVec 3) (i : VFmt)
  /-- MMA (R118). Runs an operation descriptor computing the defined dot product. -/
  | mma (c : BitVec 8) (t : BitVec 3) (i : VFmt) (e : Ecc)
  /-- MATRIX_OP_COMPLETE (R130). A matrix operation's results become final and its flags are set. -/
  | matrixOpComplete (c : BitVec 8) (e : Ecc)
  /-- TILE_QUEUE_PUSH (R55). A finished tile enters the tile queue once an entry is free. -/
  | tileQueuePush (c : BitVec 8)
  /-- EPILOGUE_START (R83). The epilogue unit starts on the head entry once one exists and frees it after reading. -/
  | epilogueStart (x : EpiStart)
  /-- EPILOGUE_DONE (R85). The epilogue seals touched tiles and writes its completion word. -/
  | epilogueDone (x : EpiEnd)
  /-- REMOTE_RESULT (R37). A remote load or fetching atomic result is written and the thread becomes ready. -/
  | remoteResult (c : BitVec 8) (t : BitVec 3)
  /-- WAITM_WAKE (R59). A write to the watched line wakes a WAITM thread to re-examine. -/
  | waitmWake (c : BitVec 8) (t : BitVec 3)
  /-- CLUSTER_WIPE_DONE (R64). The cluster reset wipe completes and pending STARTs take effect. -/
  | clusterWipeDone (c : BitVec 8)
  /-- RUN (R42). RUN command starts named program threads after its checks. -/
  | run (id : Nat)
  /-- RUN_COMMIT (R42). The RUN command commits when every thread it started is HALTED. -/
  | runCommit (id : Nat)
  /-- RUN_DEADLINE (R42). At the deadline tick the RUN command's threads are halted and it commits DEADLINE_MISS. -/
  | runDeadline (id : Nat)
  /-- MOVER_COPY (R221). A COPY descriptor moves a line pattern, with optional conversion and wrap. -/
  | moverCopy (x : MoverOp)
  /-- MOVER_GATHER (R221). A GATHER descriptor gathers 8-byte words through the narrow path. -/
  | moverGather (x : MoverOp)
  /-- MOVER_SCATTER (R221). A SCATTER descriptor applies words with NOP through the narrow path. -/
  | moverScatter (x : MoverOp)
  /-- MOVER_SEAL (R221). A SEAL descriptor reseals the HBM tiles of its pattern. -/
  | moverSeal (x : MoverOp)
  /-- DESCRIPTOR_END (R226). A descriptor ends DONE or DESC_BAD, counts in TM_DONE and writes any record or status. -/
  | descriptorEnd (m : Mover)
  /-- SLV_BIND_WRITE (R164). A write to SLV.BIND or SPAD binds or unbinds clusters where allowed. -/
  | slvBindWrite (o : Origin) (ch : BitVec 6) (r : BitVec 3) (v : BitVec 64)
  /-- SOLVE (R142). SOLVE command makes its checks and begins on its schedule channel. -/
  | solve (x : CmdReads)
  /-- DIGEST (R138). DIGEST command computes a matrix pattern digest into its descriptor. -/
  | digest (x : CmdReads)
  /-- SOLVE_START (R143). A waiting solver command takes its channel once it is idle. -/
  | solveStart (ch : BitVec 6)
  /-- SOLVE_END (R153). A solve reaches its end, writes outputs, record and report, and commits. -/
  | solveEnd (ch : BitVec 6) (p : SolvePeers)
  /-- SOLVE_DEADLINE (R181). At the deadline tick an unfinished solver command stops at its next hand-off or boundary. -/
  | solveDeadline (id : Nat)
  /-- BATCH_DENSE (R172). BATCH_DENSE command solves dense systems by partial-pivoting LU. -/
  | batchDense (x : CmdReads)
  /-- BATCH_SPARSE (R173). BATCH_SPARSE command solves sparse systems on a common filled pattern. -/
  | batchSparse (x : CmdReads)
  /-- BATCH_START (R169). A batch command starts once every named channel is idle. -/
  | batchStart (id : Nat)
  /-- BATCH_SYSTEM_END (R175). A slot ends a system, writes its status entry and takes the next system. -/
  | batchSystemEnd (id : Nat) (x : SystemEnd)
  /-- BATCH_COMMIT (R177). The batch command decides its status, writes its report and commits. -/
  | batchCommit (id : Nat)
  /-- LINE_ACCESS (R191). A Lichen engine applies a line read or write to its stack in arrival order. -/
  | lineAccess (r : LineReq)
  /-- NARROW_GATHER (R199). Narrow request reads 8-byte lanes. -/
  | narrowGather (r : NarrowReq)
  /-- NARROW_SCATTER (R199). Narrow request writes 8-byte lanes. -/
  | narrowScatter (r : NarrowReq)
  /-- NARROW_ADD (R199). Narrow atomic integer add. -/
  | narrowAdd (r : NarrowReq)
  /-- NARROW_MIN (R199). Narrow atomic signed minimum. -/
  | narrowMin (r : NarrowReq)
  /-- NARROW_MAX (R199). Narrow atomic signed maximum. -/
  | narrowMax (r : NarrowReq)
  /-- NARROW_MINU (R199). Narrow atomic unsigned minimum. -/
  | narrowMinu (r : NarrowReq)
  /-- NARROW_MAXU (R199). Narrow atomic unsigned maximum. -/
  | narrowMaxu (r : NarrowReq)
  /-- NARROW_AND (R199). Narrow atomic AND. -/
  | narrowAnd (r : NarrowReq)
  /-- NARROW_OR (R199). Narrow atomic OR. -/
  | narrowOr (r : NarrowReq)
  /-- NARROW_XOR (R199). Narrow atomic XOR. -/
  | narrowXor (r : NarrowReq)
  /-- NARROW_SWAP (R199). Narrow atomic swap. -/
  | narrowSwap (r : NarrowReq)
  /-- NARROW_CAS (R199). Narrow atomic compare-and-swap. -/
  | narrowCas (r : NarrowReq)
  /-- NARROW_FMIN (R199). Narrow FP64 atomic minimum. -/
  | narrowFmin (r : NarrowReq)
  /-- NARROW_FMAX (R199). Narrow FP64 atomic maximum. -/
  | narrowFmax (r : NarrowReq)
  /-- NARROW_FADD (R199). Narrow FP64 atomic add. -/
  | narrowFadd (r : NarrowReq)
  /-- NARROW_ILLEGAL (R199). A narrow request with an illegal OP, FN, W32 or FETCH is refused and sets OP_BAD. -/
  | narrowIllegal (op : BitVec 4) (r : NarrowReq)
  /-- COALESCE_TIMEOUT (R197). A lane's 64 ns coalescing wait expires and its sector access is made. -/
  | coalesceTimeout (st : BitVec 4)
  /-- LR (R194). Ovusk LR sets a reservation on a line in the Lichen engine. -/
  | lr (hart : BitVec 7) (x : HartAddr)
  /-- SC (R194). Ovusk SC stores only while its reservation stands. -/
  | sc (hart : BitVec 7) (x : HartAddr) (w32 : Bool) (v : BitVec 64)
  /-- RESERVATION_LAPSE (R194). A reservation lapses 10 µs after its LR. -/
  | reservationLapse (st : BitVec 4) (hart : BitVec 7)
  /-- SPMV (R203). Stream computing a sparse product row range. -/
  | spmv (st : BitVec 4) (x : StreamReq)
  /-- SPMV_SUB (R203). Stream computing a residual row range. -/
  | spmvSub (st : BitVec 4) (x : StreamReq)
  /-- SWEEP_DIV (R203). Stream computing a triangular sweep level with division. -/
  | sweepDiv (st : BitVec 4) (x : StreamReq)
  /-- GATHER_SUM (R203). Stream summing gathered values per row. -/
  | gatherSum (st : BitVec 4) (x : StreamReq)
  /-- GATHER_MIN (R203). Stream taking the minimum of gathered values per row. -/
  | gatherMin (st : BitVec 4) (x : StreamReq)
  /-- GATHER_MAX (R203). Stream taking the maximum of gathered values per row. -/
  | gatherMax (st : BitVec 4) (x : StreamReq)
  /-- STREAM_COMPLETE (R205). A stream's Y writes are sealed and its completion word is written. -/
  | streamComplete (x : StreamEnd)
  /-- SCRUB_PASS (R209). The patrol scrubber completes a pass over the stack each SCRUB_HOURS. -/
  | scrubPass (st : BitVec 4) (x : ScrubOutcome)
  /-- STACK_THERMAL_SAMPLE (R210). Each 1 ms the stack temperature is read and the thermal state updated. -/
  | stackThermalSample (st : BitVec 4) (temp : BitVec 8) (trend : BitVec 16)
  /-- HBM_WIPE_DONE (R215). Stack training and wipe complete, READY is set and waiting requests proceed. -/
  | hbmWipeDone (st : BitVec 4)
  /-- SQ_DOORBELL (R233). A doorbell advances a queue's SQ_TAIL, clamped. -/
  | sqDoorbell (d : DbSrc) (i : BitVec 20) (x : DbValue)
  /-- CQ_DOORBELL (R233). A doorbell advances a queue's CQ_HEAD, clamped. -/
  | cqDoorbell (d : DbSrc) (i : BitVec 20) (x : DbValue)
  /-- CTX_OP_READ (R231). CTX_OP 1 reads the selected queue context into CTX_DATA. -/
  | ctxOpRead (o : Origin)
  /-- CTX_OP_WRITE (R231). CTX_OP 2 writes CTX_DATA to the context, with enable and admission checks. -/
  | ctxOpWrite (o : Origin)
  /-- LAUNCH_TICK_REACHED (R317). A command's launch tick is reached on its die's counter. -/
  | launchTickReached (id : Nat)
  /-- COMMAND_START (R235). A fetched command reserves a completion slot and starts once its ring order, launch tick and engine allow. -/
  | commandStart (id : Nat)
  /-- COMPLETION_COMMIT (R237). A command's completion takes its commit point and its record is written. -/
  | completionCommit (x : CmdReads)
  /-- ABORT (R239). ABORT command races the target's completion for the commit point. -/
  | abort (id : Nat)
  /-- ABORTED_RECORD (R239). The ABORTED record is written once the engine stops or a slot is free. -/
  | abortedRecord (id : Nat)
  /-- MOVE (R236). MOVE command runs a descriptor chain on a bulk channel. -/
  | move (id : Nat)
  /-- MOVE_DEADLINE (R236). A MOVE past its deadline stops at the next descriptor boundary and ends DEADLINE_MISS. -/
  | moveDeadline (id : Nat)
  /-- MOV_STOP (R242). CTRL.STOP stops the channel at the next descriptor boundary or at once when idle. -/
  | movStop (o : Origin) (ch : BitVec 6)
  /-- MOV_RESUME (R242). CTRL.RESUME cancels a stop or returns a stopped channel to running. -/
  | movResume (o : Origin) (ch : BitVec 6)
  /-- HOST_COMPLETION (R226). A PCIe completion from host memory arrives; an error ends the descriptor DESC_BAD. -/
  | hostCompletion (m : Mover) (ok : Bool)
  /-- HOST_TIMEOUT (R226). No host completion within 50 ms ends the descriptor DESC_BAD. -/
  | hostTimeout (m : Mover)
  /-- LOAD_CELL (R259). A LOAD cell is read at the handling die and replied to. -/
  | loadCell (x : CellReads)
  /-- STORE_CELL (R259). A STORE cell is applied once and acknowledged. -/
  | storeCell (x : CellReads)
  /-- ATOMIC_CELL (R259). A non-fetching ATOMIC cell is applied once and replied to. -/
  | atomicCell (x : CellReads)
  /-- ATOMIC_F_CELL (R274). A fetching atomic is applied once with a reply cache entry, or refused RETRY_LATER. -/
  | atomicFCell (x : CellReads)
  /-- COMB_ATOMIC_CELL (R278). A combined atomic from a Hub's flow is applied or combined further. -/
  | combAtomicCell (x : CellReads)
  /-- COMB_LOAD_CELL (R278). A combined load from a Hub's flow is read or combined further. -/
  | combLoadCell (x : CellReads)
  /-- REPLY_CELL (R262). A REPLY completes its access once, or resets the timer on RETRY_LATER, or is fanned out to contributors. -/
  | replyCell (x : Cell)
  /-- ACK_CELL (R262). An ACK completes the acknowledged flow cells toward fences. -/
  | ackCell (x : Cell)
  /-- FLOOR_CELL (R258). A FLOOR cell advances the receive window and frees reply cache entries. -/
  | floorCell (x : Cell)
  /-- TRANSIT_CELL (R271). A cell not for this package is forwarded along its route code. -/
  | transitCell (port : BitVec 5) (x : PortCell)
  /-- ACK_SEND (R260). An ACK leaves within 200 ns of applications, sharing those in the interval. -/
  | ackSend (die : BitVec 1) (k : FlowKey)
  /-- FLOOR_TIMER (R258). A FLOOR cell is sent when an advanced floor has not been carried for 10 µs. -/
  | floorTimer (k : FlowKey)
  /-- RETRANSMIT_TIMEOUT (R261). An unacknowledged cell's timer expires and it is sent again, failing its slot on the eighth. -/
  | retransmitTimeout (k : FlowKey) (seq : BitVec 32)
  /-- COMBINE_WINDOW_CLOSE (R278). A combining entry closes after COMB_NS and one combined cell is sent. -/
  | combineWindowClose (die : BitVec 1) (x : CombClose)
  /-- REPLY_CACHE_AGE (R274). A reply cache entry is freed after 100 ms without a floor from its source. -/
  | replyCacheAge (die : BitVec 1) (k : FlowKey)
  /-- LINK_REPLAY (R246). A cell in an uncorrectable codeword is dropped and a replay requested. -/
  | linkReplay (port : BitVec 5) (x : ReplayReq)
  /-- LINK_DOWN (R246). After 16 failed replays the link goes down, retrains and its slots are marked failed. -/
  | linkDown (port : BitVec 5)
  /-- LINK_UP (R283). A fabric port finishes training and comes up. -/
  | linkUp (port : BitVec 5) (peerPort : BitVec 5) (peerEp : BitVec 20)
  /-- BARRIER (R302). Chain BARRIER collective. -/
  | barrier (x : CmdReads)
  /-- ALLREDUCE (R301). Chain ALLREDUCE collective by tree or ring. -/
  | allreduce (x : CmdReads)
  /-- REDUCE (R302). Chain REDUCE to a root. -/
  | reduce (x : CmdReads)
  /-- BROADCAST (R302). Chain BROADCAST from a root. -/
  | broadcast (x : CmdReads)
  /-- REDUCE_SCATTER (R301). Chain REDUCE_SCATTER writing part i on member i. -/
  | reduceScatter (x : CmdReads)
  /-- ALLGATHER (R301). Chain ALLGATHER. -/
  | allgather (x : CmdReads)
  /-- CONFIRM_WAIT (R307). Ends once earlier collectives on the communicator are confirmed clean. -/
  | confirmWait (id : Nat)
  /-- COMM_CREATE (R291). Creates a communicator as a collective over its member list. -/
  | commCreate (x : CmdReads)
  /-- COMM_FREE (R291). Frees a communicator locally. -/
  | commFree (id : Nat)
  /-- CHAIN_UP (R302). An UP data cell arrives for tree combining or is staged early. -/
  | chainUp (x : ChainCell)
  /-- CHAIN_DOWN (R306). A DOWN cell delivers the result; the member commits when its down wave and output stand. -/
  | chainDown (x : ChainCell)
  /-- RING_RS (R303). A ring reduce-scatter step's data arrives. -/
  | ringRs (x : ChainCell)
  /-- RING_AG (R303). A ring all-gather step's data arrives. -/
  | ringAg (x : ChainCell)
  /-- CHUNK (R298). A CHUNK cell completes a chunk, checked by CRC and combined or stored. -/
  | chunk (x : ChainCell)
  /-- CHAIN_READY (R299). A READY cell lets a ring step send to its receiver. -/
  | chainReady (x : ChainCell)
  /-- CHAIN_END (R302). An END cell carries the down wave to a member with no output. -/
  | chainEnd (x : ChainCell)
  /-- CONFIRM_UP (R306). A CONFIRM_UP combines poison, digests and arrival ticks up the tree. -/
  | confirmUp (x : ChainCell)
  /-- CONFIRM_DOWN (R306). A CONFIRM_DOWN confirms the collective clean or poisoned and fills the slowest-member record. -/
  | confirmDown (x : ChainCell)
  /-- CONFIRM_TIMEOUT (R306). No CONFIRM_DOWN within 50 µs plus allowance poisons the collective. -/
  | confirmTimeout (slot : BitVec 3) (comm : BitVec 12) (seq : BitVec 32)
  /-- COLLECTIVE_STALL (R309). A collective without progress for STALL_MS is poisoned. -/
  | collectiveStall (slot : BitVec 3) (comm : BitVec 12) (seq : BitVec 32)
  /-- FRAME_START (R318). A frame boundary passes; a cut frame opens its field buffer bank. -/
  | frameStart
  /-- FRAME_EN_WRITE (R319). A write of FRAME_EN starts frames at the next boundary if time is LOCKED or HOLDOVER. -/
  | frameEnWrite (o : Origin) (en : Bool)
  /-- PTP_MESSAGE (R320). A PTP message on the field port updates offset, stepping or slewing the counter. -/
  | ptpMessage (x : PtpTime)
  /-- TIME_EXCHANGE (R322). Each millisecond a child sends a time request to its parent. -/
  | timeExchange
  /-- TIME_REQUEST (R322). A parent answers a time request with a timestamped response. -/
  | timeRequest (port : BitVec 5) (x : TimeCell)
  /-- TIME_RESPONSE (R322). A child computes its offset to its parent from a time response. -/
  | timeResponse (port : BitVec 5) (x : TimeCell) (t4 : BitVec 64)
  /-- HOLDOVER_ENTRY (R324). Every phase source absent for 2 s puts time in HOLDOVER and sets TIME_LOST. -/
  | holdoverEntry
  /-- PPS_IN (R325). A 1PPS input rising edge is taken or flagged PPS_BAD. -/
  | ppsIn
  /-- PPS_OUT (R325). The 1PPS output rises at each whole second plus adjustment. -/
  | ppsOut
  /-- REF10M_LOST (R471). Loss of the enabled 10 MHz reference sets REF_LOST. -/
  | ref10mLost
  /-- STEP (R332). STEP command logs the ending step's digest and sets the step register. -/
  | step (x : CmdReads)
  /-- C37_DATA_FRAME (R344). An accepted C37.118.2 data frame's components are mapped into the open bank. -/
  | c37DataFrame (p : FieldPacket)
  /-- SAMPLED_VALUE_ASDU (R345). An IEC 61850-9-2 ASDU is scaled and mapped as a record. -/
  | sampledValueAsdu (p : SampledAsdu)
  /-- TELEMETRY_RECORD (R346). A UDP telemetry record's values are mapped as a record. -/
  | telemetryRecord (p : FieldPacket)
  /-- FIELD_FRAME_DROP (R339). A field port frame not consumed is dropped and counted. -/
  | fieldFrameDrop (port : BitVec 1)
  /-- INGEST_WINDOW_CLOSE (R348). The ingest window of a cut frame closes and the close fill begins. -/
  | ingestWindowClose
  /-- CLOSE_FILL_COMPLETE (R351). The close fill completes and the bank is sealed. -/
  | closeFillComplete
  /-- PUBLICATION_TICK (R353). At the publication tick the gate is examined and dispatch or error datagrams are sent. -/
  | publicationTick (x : PubTick)
  /-- FIO_ENABLE (R354). A write of FIO.CTRL.EN enables field I/O if its configuration passes. -/
  | fioEnable (o : Origin) (slot : BitVec 3) (ports : BitVec 2)
  /-- PARTITION_NAME (R360). Fabric management's write of SLOT_CFG.PARTITION names the slot's partition. -/
  | partitionName (p : BitVec 3)
  /-- JOB_LOAD (R361). A write of LOADING takes a FREE slot to LOADING. -/
  | jobLoad (o : Origin) (tag : BitVec 16) (rank : BitVec 17)
  /-- JOB_ACCEPT (R362). A write of ACCEPTING starts the job or is held pending. -/
  | jobAccept (o : Origin) (tag : BitVec 16) (rank : BitVec 17)
  /-- JOB_ABANDON (R373). A write of WIPING to a LOADING slot abandons the start and wipes. -/
  | jobAbandon (o : Origin)
  /-- JOB_DRAIN (R373). A write of DRAINING starts the job-scope reset and drain. -/
  | jobDrain (o : Origin)
  /-- DRAIN_END (R373). Flows idle or 5 ms pass, and the slot becomes WIPING. -/
  | drainEnd (slot : BitVec 3)
  /-- WIPE_COMPLETE (R373). The teardown wipe reports clean; the slot becomes FREE and a report is sent. -/
  | wipeComplete (slot : BitVec 3) (ok : Bool)
  /-- FROND_START (R366). At FROND_TICK each package starts fetching segments. -/
  | frondStart (slot : BitVec 3)
  /-- FROND_POLL (R366). Every 20 µs a waiting package reads its source's HELD. -/
  | frondPoll (slot : BitVec 3)
  /-- FROND_SEGMENT_VERIFIED (R366). A fetched segment is verified and HELD advances, or it is refetched. -/
  | frondSegmentVerified (x : SlotReads)
  /-- FROND_SWITCH (R367). No reply from the parent for 5 ms switches to the alternate parent. -/
  | frondSwitch (slot : BitVec 3)
  /-- LAUNCH_BARRIER_START (R370). Holding all segments, a package starts the launch digest barrier. -/
  | launchBarrierStart (slot : BitVec 3)
  /-- THREAD_LAUNCH (R370). After the barrier passes and the copy ends, t0 starts at the later of LAUNCH_TICK. -/
  | threadLaunch (x : SlotReads)
  /-- DIGEST_SWEEP (R371). Digest check n begins at its sweep tick. -/
  | digestSweep (slot : BitVec 3)
  /-- SNAPSHOT (R379). SNAPSHOT command raises a Spore request. -/
  | snapshot (id : Nat)
  /-- SNAPSHOT_POLICY_TIMER (R379). The policy interval passes at the root and a request is raised. -/
  | snapshotPolicyTimer (slot : BitVec 3)
  /-- REQUEST (R380). A Spore REQUEST arrives and is forwarded or accepted by the root. -/
  | request (slot : BitVec 3) (child : BitVec 4)
  /-- ANNOUNCE (R381). ANNOUNCE carries Q and generation; the member sets its quiesce tick. -/
  | announce (slot : BitVec 3)
  /-- QUIESCE_TICK (R381). At q the job's engines stop issue. -/
  | quiesceTick (slot : BitVec 3)
  /-- LOCAL_DRAIN_DONE (R382). The member's own drain ends and DRAINED is sent once children report. -/
  | localDrainDone (slot : BitVec 3)
  /-- DRAINED (R382). A DRAINED message from a child arrives. -/
  | drained (slot : BitVec 3) (child : BitVec 4)
  /-- SNAP_DRAIN_TIMEOUT (R382). A drain beyond DRAIN.MS is the job fault SNAP_CONSISTENCY. -/
  | snapDrainTimeout (slot : BitVec 3)
  /-- CAPTURE (R383). CAPTURE arms copy-on-write and starts the image capture. -/
  | capture (slot : BitVec 3)
  /-- CAPTURE_DONE (R383). The package image capture completes and CAPTURED is sent. -/
  | captureDone (slot : BitVec 3)
  /-- CAPTURED (R383). A CAPTURED message from a child arrives. -/
  | captured (slot : BitVec 3) (child : BitVec 4)
  /-- RESUME (R384). RESUME restarts issue and background copy begins. -/
  | resume (slot : BitVec 3)
  /-- COW_HOLD (R387). A write to an uncopied eligible granule is held and a priority copy begins. -/
  | cowHold (slot : BitVec 3) (w : HeldAccess)
  /-- PRIORITY_COPY_DONE (R387). The priority copy of a granule ends and its held accesses proceed. -/
  | priorityCopyDone (slot : BitVec 3) (g : BitVec 18)
  /-- PART_COPY_DONE (R389). A member's part and manifest are written and read back, and PART_DONE is sent. -/
  | partCopyDone (slot : BitVec 3) (x : PartCopy)
  /-- PART_DONE (R389). A PART_DONE message from a child arrives. -/
  | partDone (slot : BitVec 3) (child : BitVec 4)
  /-- COMMITTED (R389). COMMITTED makes the member write VALID and its DONE record. -/
  | committed (slot : BitVec 3)
  /-- ABANDONED (R390). ABANDONED stops copying and writes an ABORTED record. -/
  | abandoned (slot : BitVec 3)
  /-- RECORDED (R391). A RECORDED message from a child arrives. -/
  | recorded (slot : BitVec 3) (child : BitVec 4)
  /-- GEN_READY (R391). GEN_READY sets GEN_JOB to the generation. -/
  | genReady (slot : BitVec 3)
  /-- WAVE_TIMEOUT (R392). No down message within WAVE.MS ends the snapshot or restore as a fault. -/
  | waveTimeout (slot : BitVec 3)
  /-- RESTORE_FILL_DONE (R395). A member finishes its restore checks and fill and sends FILLED. -/
  | restoreFillDone (slot : BitVec 3) (hostOk : Bool)
  /-- FILLED (R395). A FILLED message from a child arrives. -/
  | filled (slot : BitVec 3) (child : BitVec 4)
  /-- RESTORE_RESUME (R395). RESTORE_RESUME restarts issue from the restored state. -/
  | restoreResume (slot : BitVec 3)
  /-- REPLAY_RESULT (R396). A REPLAY_RESULT message from a child arrives. -/
  | replayResult (slot : BitVec 3) (child : BitVec 4)
  /-- VERDICT (R396). VERDICT completes or rejects the restore. -/
  | verdict (slot : BitVec 3)
  /-- REPLAY_TIMEOUT (R395). No STEP commits within REPLAY.MS and the restore fails. -/
  | replayTimeout (slot : BitVec 3)
  /-- SPORE_ENABLE (R401). A write of SLOT_CTRL.EN is applied if the slot's snapshot configuration passes. -/
  | sporeEnable (o : Origin) (trig : BitVec 5) (restore : Bool)
  /-- BROWN_OUT (R402). Input below 38 V for 50 µs stops every clock and causes cold reset. -/
  | brownOut (mv : BitVec 16)
  /-- OVER_VOLTAGE (R402). Input above 62 V for 10 µs acts as brown-out. -/
  | overVoltage (mv : BitVec 16)
  /-- PEAK_HIT (R405). A 1 µs power sample above 4,200 W throttles every group to the floor. -/
  | peakHit (w : BitVec 16)
  /-- GOVERNOR_TICK (R407). Each 1 ms control tick the governor moves operating points and issue levels. -/
  | governorTick (x : PowerSample)
  /-- CAP_WRITE (R404). A write to CAP_W or WINDOW_S restarts the averaging window. -/
  | capWrite (o : Origin) (v : BitVec 64)
  /-- BROKER_PERIOD (R412). Every 10 ms members send REPORTs and the root computes budgets. -/
  | brokerPeriod
  /-- POWER_REPORT (R412). A REPORT POWER cell reaches the broker root. -/
  | powerReport (x : Cell)
  /-- POWER_GRANT (R414). A GRANT POWER cell sets the member's budget unless stale. -/
  | powerGrant (x : Cell)
  /-- DIE_THERMAL_SAMPLE (R415). Each 100 µs a die's junction is read and its thermal state updated. -/
  | dieThermalSample (d : BitVec 3) (temp : Option (BitVec 8))
  /-- REGULATOR_WARNING (R418). A regulator phase failure or overheat raises a regulator warning. -/
  | regulatorWarning (x : RailSample)
  /-- RAIL_FAIL (R418). A rail out of regulation for 10 µs holds its die in reset and fences every stack. -/
  | railFail (x : RailSample)
  /-- HOST_LINK_DOWN (R426). A host link goes down and OWNER_LOST is set while jobs continue. -/
  | hostLinkDown (l : BitVec 2)
  /-- PERST (R478). PERST_N of a link resets its PCIe state and MSI-X tables. -/
  | perst (l : BitVec 2) (asserted : Bool)
  /-- HOST_LINK_TRAIN (R476). A host link trains once PERST_N is high and the management core is out of reset. -/
  | hostLinkTrain (l : BitVec 2)
  /-- BAR4_ACCESS (R424). A host BAR4 access or AtomicOp is applied to the partition's HBM or read as zero. -/
  | bar4Access (l : BitVec 2) (x : Bar4Op)
  /-- ARBITER_DIVIDE (R435). Each 1 µs each bandwidth arbiter divides capacity by the order of guarantees. -/
  | arbiterDivide (x : ArbiterDemand)
  /-- BREACH (R436). Each 1 ms a breach of a partition's guarantee is judged and recorded. -/
  | breach (p : BitVec 3) (x : BreachSample)
  /-- PARTITION_ENABLE (R428). A write of PRT.CTRL.EN enables the partition if its resources and shares fit. -/
  | partitionEnable (o : Origin) (p : BitVec 3)
  /-- PRESET (R431). A write of PRESET makes a reset of partition scope. -/
  | preset (o : Origin) (p : BitVec 3)
  /-- PARTITION_WIPE_DONE (R431). The partition wipe reports clean and STAT.WIPING clears. -/
  | partitionWipeDone (p : BitVec 3) (ok : Bool)
  /-- CLASS_WRITE (R430). A write of PRT.CLASS sets class and real-time privilege, resetting batch channels on withdrawal. -/
  | classWrite (o : Origin) (p : BitVec 3) (v : BitVec 64)
  /-- ROM_BOOT (R446). The ROM senses fuses, applies changes, reads and verifies the image and jumps to firmware. -/
  | romBoot
  /-- RECOVERY_GO (R447). RCV_CTRL.GO starts a recovery image fetch, unless busy. -/
  | recoveryGo (l : BitVec 2)
  /-- RECOVERY_FETCH_DONE (R447). The recovery fetch ends; the image is validated, written and booted, or the cause recorded. -/
  | recoveryFetchDone (x : Option FwImage)
  /-- REQUEST_FIRMWARE_DATA (R449). PLDM firmware data is staged in stack 0's system region. -/
  | requestFirmwareData (i : BitVec 3) (x : PldmData)
  /-- APPLY_COMPLETE (R449). The flash write and read-back of an update complete. -/
  | applyComplete (ok : Bool)
  /-- ACTIVATE_FIRMWARE (R449). ActivateFirmware sets UPD_PENDING for the next cold reset. -/
  | activateFirmware (i : BitVec 3) (selfContained : Bool)
  /-- GET_VERSION (R451). SPDM GET_VERSION. -/
  | getVersion (i : BitVec 3)
  /-- GET_CAPABILITIES (R451). SPDM GET_CAPABILITIES. -/
  | getCapabilities (i : BitVec 3)
  /-- NEGOTIATE_ALGORITHMS (R451). SPDM NEGOTIATE_ALGORITHMS. -/
  | negotiateAlgorithms (i : BitVec 3)
  /-- GET_DIGESTS (R451). SPDM GET_DIGESTS. -/
  | getDigests (i : BitVec 3)
  /-- GET_CERTIFICATE (R451). SPDM GET_CERTIFICATE, refused in BLANK and RETIRED. -/
  | getCertificate (i : BitVec 3) (off : BitVec 16) (len : BitVec 16)
  /-- CHALLENGE (R452). SPDM CHALLENGE answered with a signed CHALLENGE_AUTH. -/
  | challenge (i : BitVec 3) (nonce : BitVec 256)
  /-- GET_MEASUREMENTS (R451). SPDM GET_MEASUREMENTS of the measurement blocks. -/
  | getMeasurements (i : BitVec 3) (index : BitVec 8) (signed : Bool) (nonce : BitVec 256)
  /-- CHUNK_GET (R452). SPDM CHUNK_GET returns a chunk of a large response. -/
  | chunkGet (i : BitVec 3) (n : BitVec 16)
  /-- PQ_SIG (R452). Vendor command returning the SLH-DSA signature over the last signed digest. -/
  | pqSig (i : BitVec 3)
  /-- PQ_CERT (R452). Vendor command returning the SLH-DSA chain. -/
  | pqCert (i : BitVec 3)
  /-- SET_ENDPOINT_ID (R455). MCTP Set Endpoint ID sets an interface's endpoint ID. -/
  | setEndpointId (i : BitVec 3) (eid : BitVec 8)
  /-- ENTDAA (R455). I3C ENTDAA assigns the package a dynamic address. -/
  | entdaa (a : BitVec 7)
  /-- PLDM_SENSOR_READ (R457). A PLDM type 2 request reads a numeric sensor. -/
  | pldmSensorRead (i : BitVec 3) (n : BitVec 16)
  /-- MCTP_REG_READ (R456). Evbor REG_READ reads a BAR0 register. -/
  | mctpRegRead (i : BitVec 3) (off : BitVec 32)
  /-- MCTP_REG_WRITE (R456). Evbor REG_WRITE writes a BAR0 register for the management host. -/
  | mctpRegWrite (i : BitVec 3) (off : BitVec 32) (v : BitVec 64)
  /-- AUDIT_READ (R456). Evbor AUDIT_READ returns audit entries. -/
  | auditRead (i : BitVec 3) (seq : BitVec 64) (x : AuditGet)
  /-- AUDIT_ACK (R456). Evbor AUDIT_ACK advances DRAINED_SEQ. -/
  | auditAck (i : BitVec 3) (seq : BitVec 64)
  /-- MCTP_RESET (R456). Evbor RESET makes a package, partition or job reset. -/
  | mctpReset (i : BitVec 3) (scope : BitVec 8) (index : BitVec 8)
  /-- MGMT_REG_READ (R458). A fabric management MGMT REG_READ is answered with a REG_REPLY. -/
  | mgmtRegRead (x : Cell)
  /-- MGMT_REG_WRITE (R459). A fabric management MGMT REG_WRITE is applied once per REQ_ID and answered. -/
  | mgmtRegWrite (x : Cell)
  /-- MC_RESTART (R461). An uncorrectable management SRAM error restarts the management core from flash. -/
  | mcRestart
  /-- LCS_REQ (R453). A write of LCS.REQ names the next state and loads a fresh NONCE. -/
  | lcsReq (o : Origin) (v : BitVec 64)
  /-- LCS_CONFIRM (R453). A CONFIRM matching NONCE sets PENDING for the next cold reset. -/
  | lcsConfirm (o : Origin) (v : BitVec 64)
  /-- INPUT_POWER_ON (R475). The 48 V input rises through 40 V and soft start begins. -/
  | inputPowerOn (mv : BitVec 16)
  /-- RAILS_REGULATE (R475). Every rail regulates; straps are sampled, PWRGD rises and the counter starts. -/
  | railsRegulate (straps : BitVec 3)
  /-- PACKAGE_RESET (R477). A package reset wipes everything and restarts the power-up sequence. -/
  | packageReset
  /-- INPUT_VOLTAGE_WARNING (R402). The 48 V input, sampled every 1 µs, leaves the 42.0 V to 58.0 V warning band and sets PWR.ERR.VIN_WARN with a regulator warning. -/
  | inputVoltageWarning (mv : BitVec 16)
  /-- INPUT_BACK_IN_RANGE (R477). After an over-voltage, the input falls back into range and the package restarts at row 0 of the power-up sequence. -/
  | inputBackInRange (mv : BitVec 16)
  /-- FIELD_PORT_LINK_DOWN (R357). A field port's Ethernet link goes down, FIO.STAT.LINK clears and FIO.ERR.LINK_DOWN is set. -/
  | fieldPortLinkDown (port : BitVec 1)
  /-- FIELD_PORT_LINK_UP (R339). An enabled field port's link trains and comes up, so FIO.STAT.LINK is set and frames and PTP can be received. -/
  | fieldPortLinkUp (port : BitVec 1)
  /-- REF10M_RETURN (R320). The enabled 10 MHz reference becomes present again and resumes supplying the counter's frequency. -/
  | ref10mReturn
  /-- TIME_SOURCE_LOST (R320). A phase source in use ceases to be present and the counter takes its phase from the next available source in order. -/
  | timeSourceLost (src : BitVec 2)
  /-- OVUSK_CORE_RESET (R426). Ovusk cores enter or leave reset, changing OWNER_UP of OS-owned partitions and setting ERR.OWNER_LOST when the last core enters reset. -/
  | ovuskCoreReset (up : BitVec 7)
  /-- OPERATING_POINT_CHANGE (R406). A chosen operating point takes effect on the Kamgina dies and Ovusk cores within 20 µs of the decision, changing the clock rates. -/
  | operatingPointChange
  deriving DecidableEq, Repr

end Sys2Proof
end

