-- ==== Sys2Proof/Machine/Sparse.lean ====
section
/-! DEFINITION. Sparse maps in one canonical form: keys strictly rising, and no entry equal to what an unlisted key reads as.
Memories, register files and unit tables are all held so, which makes equal contents equal data. -/

namespace Sys2Proof.Machine

/-- A map from addresses or indices to values; an unlisted key reads as a default given at each use. -/
abbrev Sparse (α : Type) := List (Nat × α)

/-- The value at key `k`; `d` where nothing is listed. -/
def spGet {α : Type} (d : α) : Sparse α → Nat → α
  | [], _ => d
  | (j, v) :: m, k => if j = k then v else spGet d m k

/-- Removes key `k`. -/
def spDel {α : Type} : Sparse α → Nat → Sparse α
  | [], _ => []
  | (j, v) :: m, k => if j = k then spDel m k else (j, v) :: spDel m k

/-- Lists `v` at key `k`, in order. -/
def spIns {α : Type} : Sparse α → Nat → α → Sparse α
  | [], k, v => [(k, v)]
  | (j, w) :: m, k, v =>
    if j = k then (k, v) :: m else if k < j then (k, v) :: (j, w) :: m else (j, w) :: spIns m k v

/-- Writes `v` at key `k`; writing the default `d` removes the entry. -/
def spPut {α : Type} [DecidableEq α] (d : α) (m : Sparse α) (k : Nat) (v : α) : Sparse α :=
  if v = d then spDel m k else spIns m k v

/-- Keys strictly rising, all at least `lo`. -/
def spSorted {α : Type} (lo : Nat) : Sparse α → Bool
  | [] => true
  | (j, _) :: m => decide (lo ≤ j) && spSorted (j + 1) m

/-- Canonical form: strictly rising keys and no entry equal to the default. -/
def spWf {α : Type} [DecidableEq α] (d : α) (m : Sparse α) : Bool :=
  spSorted 0 m && m.all (fun e => decide (e.2 ≠ d))

/-- Removes every key in [lo, lo + n). -/
def spClear {α : Type} (m : Sparse α) (lo n : Nat) : Sparse α :=
  m.filter (fun e => !(decide (lo ≤ e.1) && decide (e.1 < lo + n)))

/-- Byte memory: unlisted bytes read as zero. -/
abbrev Memory := List Host.Cell

/-- The canonical form of a byte memory. -/
abbrev Memory.wf (m : Memory) : Bool := spWf (0 : BitVec 8) m

/-- One byte. -/
def readByte (m : Memory) (a : Nat) : Byte := spGet 0 m a

/-- Writes one byte, keeping the canonical form. -/
def writeByte (m : Memory) (a : Nat) (b : Byte) : Memory := spPut 0 m a b

/-- `n` bytes from address `a`, lowest first. -/
def readBytes (m : Memory) (a : Nat) : Nat → List Byte
  | 0 => []
  | n + 1 => readByte m a :: readBytes m (a + 1) n

/-- Writes the bytes at `a`, `a + 1`, .... -/
def writeBytes (m : Memory) (a : Nat) : List Byte → Memory
  | [] => m
  | b :: bs => writeBytes (writeByte m a b) (a + 1) bs

/-- The number whose little-endian bytes these are (R3). -/
def leNat : List Byte → Nat
  | [] => 0
  | b :: bs => b.toNat + 256 * leNat bs

/-- The `n` little-endian bytes of a number (R3). -/
def natLe : Nat → Nat → List Byte
  | 0, _ => []
  | n + 1, v => BitVec.ofNat 8 v :: natLe n (v / 256)

/-- The number whose big-endian bytes these are (network order). -/
def beNat (bs : List Byte) : Nat := bs.foldl (fun a b => a * 256 + b.toNat) 0

/-- The `n` big-endian bytes of a number. -/
def natBe (n v : Nat) : List Byte := (natLe n v).reverse

/-- An `n`-byte little-endian number in memory. -/
def readLe (m : Memory) (a n : Nat) : Nat := leNat (readBytes m a n)

/-- A 64-bit word in memory. -/
def readWord (m : Memory) (a : Nat) : Word := BitVec.ofNat 64 (readLe m a 8)

/-- Stores an `n`-byte little-endian number. -/
def writeLe (m : Memory) (a n v : Nat) : Memory := writeBytes m a (natLe n v)

/-- `n` 64-bit words from address `a`. -/
def readWords (m : Memory) (a : Nat) : Nat → List Word
  | 0 => []
  | n + 1 => readWord m a :: readWords m (a + 8) n

/-- Bits [hi:lo] of a number. -/
def bitsOf (v hi lo : Nat) : Nat := (v >>> lo) % 2 ^ (hi + 1 - lo)

/-- Replaces bits [hi:lo] of a number. -/
def setBits (v hi lo x : Nat) : Nat :=
  (v - (bitsOf v hi lo) * 2 ^ lo) + (x % 2 ^ (hi + 1 - lo)) * 2 ^ lo

/-- The signed reading of the low `w` bits of a number. -/
def toSigned (w v : Nat) : Int :=
  let u := v % 2 ^ w
  if u < 2 ^ (w - 1) then (u : Int) else (u : Int) - 2 ^ w

/-- The low `w` bits of an integer in two's complement. -/
def ofSigned (w : Nat) (x : Int) : Nat := (x % (2 ^ w : Int)).toNat

/-- Bounds a value into [lo, hi]. -/
def clampTo (lo hi v : Nat) : Nat := if v < lo then lo else if hi < v then hi else v

end Sys2Proof.Machine
end

