-- ==== Sys2Proof/Machine/Float.lean ====
section
/-! DEFINITION. Number formats, rounding and conversions (04_number_formats.md, R89 to R106), on exact values.
A finite value is a sign, a magnitude and a power of two, so sums and products are exact and each rounding happens once. -/

namespace Sys2Proof.Machine

/-- The exact reading of an encoding: a NaN (signalling or quiet), an infinity, or (-1)^neg · m · 2^e. -/
inductive Fv where
  | nan (sig : Bool)
  | inf (neg : Bool)
  | fin (neg : Bool) (m : Nat) (e : Int)
  deriving DecidableEq, Repr

/-- A binary format: exponent bits and fraction bits (Table 04-1). -/
structure Fmt where
  eb : Nat
  fb : Nat
  deriving DecidableEq, Repr

abbrev fp64 : Fmt := ⟨11, 52⟩
abbrev fp32 : Fmt := ⟨8, 23⟩
abbrev bf16 : Fmt := ⟨8, 7⟩
abbrev fp16 : Fmt := ⟨5, 10⟩

/-- The rounding modes of FRM (Table 02-5). -/
inductive Rm where
  | rne | rtz | rup | rdn
  deriving DecidableEq, Repr

/-- How a conversion rounds: a mode, or stochastically with one 32-bit draw (R100). -/
inductive Rnd where
  | mode (rm : Rm)
  | draw (r : Nat)
  deriving DecidableEq, Repr

/-! The sticky flags as values, in R34's bit order. -/
abbrev flInvalid : Nat := 1
abbrev flDivZero : Nat := 2
abbrev flOverflow : Nat := 4
abbrev flUnderflow : Nat := 8
abbrev flInexact : Nat := 16
abbrev flSaturated : Nat := 32

/-- Exponent bias. -/
def Fmt.bias (f : Fmt) : Int := 2 ^ (f.eb - 1) - 1

/-- Width in bits. -/
def Fmt.width (f : Fmt) : Nat := 1 + f.eb + f.fb

/-- The power of two of the least subnormal. -/
def Fmt.qmin (f : Fmt) : Int := 1 - f.bias - f.fb

/-- Encoding of +infinity. -/
def Fmt.infBits (f : Fmt) : Nat := (2 ^ f.eb - 1) * 2 ^ f.fb

/-- The canonical quiet NaN (R90, Table 04-2). -/
def Fmt.qnan (f : Fmt) : Nat := f.infBits + 2 ^ (f.fb - 1)

/-- The sign bit as a value. -/
def Fmt.signBit (f : Fmt) : Nat := 2 ^ (f.eb + f.fb)

/-- R89: the value of an encoding. -/
def fpVal (f : Fmt) (b : Nat) : Fv :=
  let neg := bitsOf b (f.eb + f.fb) (f.eb + f.fb) == 1
  let ex := (b >>> f.fb) % 2 ^ f.eb
  let fr := b % 2 ^ f.fb
  if ex = 2 ^ f.eb - 1 then
    if fr = 0 then .inf neg else .nan (decide (fr < 2 ^ (f.fb - 1)))
  else if ex = 0 then .fin neg fr f.qmin
  else .fin neg (2 ^ f.fb + fr) (f.qmin + (ex : Int) - 1)

/-- Sets the sign bit of a magnitude encoding. -/
def withSign (f : Fmt) (neg : Bool) (mag : Nat) : Nat := if neg then f.signBit + mag else mag

/-- Whether a magnitude with remainder `rem` of `2 ^ sh` below kept part `k` is rounded up. -/
def roundsUp (rm : Rm) (neg : Bool) (k rem sh : Nat) : Bool :=
  match rm with
  | .rne => decide (2 ^ sh < 2 * rem) || (decide (2 * rem = 2 ^ sh) && decide (k % 2 = 1))
  | .rtz => false
  | .rup => !neg && decide (rem ≠ 0)
  | .rdn => neg && decide (rem ≠ 0)

/-- The multiple of 2^q that m·2^e rounds to, as the multiplier, with whether it is inexact. -/
def roundAt (rm : Rm) (neg : Bool) (m : Nat) (e q : Int) : Nat × Bool :=
  if q ≤ e then (m * 2 ^ (e - q).toNat, false)
  else
    let sh := (q - e).toNat
    let k := m >>> sh
    let rem := m % 2 ^ sh
    (if roundsUp rm neg k rem sh then k + 1 else k, decide (rem ≠ 0))

/-- R100: as `roundAt`, with the draw deciding. -/
def drawAt (r m : Nat) (e q : Int) : Nat × Bool :=
  if q ≤ e then (m * 2 ^ (e - q).toNat, false)
  else
    let sh := (q - e).toNat
    let k := m >>> sh
    let rem := m % 2 ^ sh
    (if decide (r < (2 ^ 32 * rem) >>> sh) then k + 1 else k, decide (rem ≠ 0))

/-- The magnitude encoding whose multiplier is `k` at power `q`: subnormal, normal, or one step beyond. -/
def encodeAt (f : Fmt) (k : Nat) (q : Int) : Nat := (q - f.qmin).toNat * 2 ^ f.fb + k

/-- The power of the last kept bit of m·2^e at precision `p`, with no least exponent. -/
def quantumOf (m : Nat) (e : Int) (p : Nat) : Int := e + ((Nat.log2 m : Nat) : Int) + 1 - p

/-- Whether m·2^e is below 2^t. -/
def belowPow (m : Nat) (e t : Int) : Bool := decide (m = 0) || decide (e + ((Nat.log2 m : Nat) : Int) < t)

/-- R91, R99, R103: a finite value rounded to an IEEE format in a mode, with its flags. -/
def roundMode (f : Fmt) (rm : Rm) (neg : Bool) (m : Nat) (e : Int) : Nat × Nat :=
  if m = 0 then (withSign f neg 0, 0)
  else
    let p := f.fb + 1
    let q0 := quantumOf m e p
    let q := max q0 f.qmin
    let (k, inex) := roundAt rm neg m e q
    let enc := encodeAt f k q
    if f.infBits ≤ enc then
      let toInf := match rm with
        | .rne => true
        | .rtz => false
        | .rup => !neg
        | .rdn => neg
      (withSign f neg (if toInf then f.infBits else f.infBits - 1), flOverflow ||| flInexact)
    else
      let (k0, _) := roundAt rm neg m e q0
      let tiny := belowPow k0 q0 (1 - f.bias)
      (withSign f neg enc,
        (if inex then flInexact else 0) ||| (if inex && tiny then flUnderflow else 0))

/-- R100, R91: a finite value rounded stochastically to an IEEE format. -/
def roundDraw (f : Fmt) (r : Nat) (neg : Bool) (m : Nat) (e : Int) : Nat × Nat :=
  if m = 0 then (withSign f neg 0, 0)
  else
    let q := max (quantumOf m e (f.fb + 1)) f.qmin
    let (kd, inex) := roundAt .rtz neg m e q
    let encDown := encodeAt f kd q
    if f.infBits ≤ encDown || (decide (encDown + 1 = f.infBits) && inex) then
      (withSign f neg f.infBits, flOverflow ||| flInexact)
    else
      let (k, _) := drawAt r m e q
      (withSign f neg (encodeAt f k q),
        (if inex then flInexact else 0) |||
        (if inex && belowPow m e (1 - f.bias) then flUnderflow else 0))

/-- Tables 04-5 and 04-7, IEEE column: a value converted to an IEEE format. -/
def convIeee (f : Fmt) (rnd : Rnd) : Fv → Nat × Nat
  | .nan sig => (f.qnan, if sig then flInvalid else 0)
  | .inf neg => (withSign f neg f.infBits, 0)
  | .fin neg m e =>
    match rnd with
    | .mode rm => roundMode f rm neg m e
    | .draw r => roundDraw f r neg m e

/-- An FP32 value in format `f`, exactly: in its own format the bits themselves; wider, a NaN keeps its sign, its payload and whether it signals
(R71, R83, R84). -/
def widen32 (f : Fmt) (b : Nat) : Nat :=
  if f = fp32 then b % 2 ^ 32 else
  match fpVal fp32 b with
  | .nan _ => withSign f (bitsOf b 31 31 == 1) (f.infBits + b % 2 ^ 23 * 2 ^ (f.fb - 23))
  | v => (convIeee f (.mode .rne) v).1

/-- An exact integer m · 2^e as a signed pair. -/
abbrev Dy := Int × Int

/-- The exact sum. -/
def dyAdd (a b : Dy) : Dy :=
  let e := min a.2 b.2
  (a.1 * 2 ^ (a.2 - e).toNat + b.1 * 2 ^ (b.2 - e).toNat, e)

/-- The signed mantissa of a finite value. -/
def signedM (neg : Bool) (m : Nat) : Int := if neg then -(m : Int) else (m : Int)

/-- A nonzero exact number as a value; zero takes the sign given. -/
def dyToFv (zneg : Bool) (x : Dy) : Fv :=
  if x.1 = 0 then .fin zneg 0 0 else .fin (decide (x.1 < 0)) x.1.natAbs x.2

/-- Whether a value is a signalling NaN. -/
def Fv.isSig : Fv → Bool
  | .nan s => s
  | _ => false

/-- Whether a value is a NaN. -/
def Fv.isNan : Fv → Bool
  | .nan _ => true
  | _ => false

/-- Negates a value; a NaN stays as it is. -/
def Fv.negate : Fv → Fv
  | .nan s => .nan s
  | .inf n => .inf !n
  | .fin n m e => .fin (!n) m e

/-- Whether the sign of a value is negative. -/
def Fv.isNeg : Fv → Bool
  | .nan _ => false
  | .inf n => n
  | .fin n _ _ => n

/-- The exact sum of two values, with the invalid flag (IEEE 754-2019 addition). The result NaN is quiet; INVALID is in the flags. -/
def fvAdd (rm : Rm) (a b : Fv) : Fv × Nat :=
  match a, b with
  | .nan s, y => (.nan false, if s || y.isSig then flInvalid else 0)
  | _, .nan s => (.nan false, if s then flInvalid else 0)
  | .inf n, .inf k => if n = k then (.inf n, 0) else (.nan false, flInvalid)
  | .inf n, .fin _ _ _ => (.inf n, 0)
  | .fin _ _ _, .inf n => (.inf n, 0)
  | .fin n m e, .fin k l g =>
    let z := if m = 0 && l = 0 && n = k then n else decide (rm = .rdn)
    (dyToFv z (dyAdd (signedM n m, e) (signedM k l, g)), 0)

/-- The exact product of two values, with the invalid flag. -/
def fvMul (a b : Fv) : Fv × Nat :=
  match a, b with
  | .nan s, y => (.nan false, if s || y.isSig then flInvalid else 0)
  | _, .nan s => (.nan false, if s then flInvalid else 0)
  | .inf n, .inf k => (.inf (n != k), 0)
  | .inf n, .fin k m _ => if m = 0 then (.nan false, flInvalid) else (.inf (n != k), 0)
  | .fin n m _, .inf k => if m = 0 then (.nan false, flInvalid) else (.inf (n != k), 0)
  | .fin n m e, .fin k l g => (.fin (n != k) (m * l) (e + g), 0)

/-- The exact quotient to more than `p + 2` bits with a sticky last bit; DIVZERO and INVALID as IEEE 754-2019. -/
def fvDiv (p : Nat) (a b : Fv) : Fv × Nat :=
  match a, b with
  | .nan s, y => (.nan false, if s || y.isSig then flInvalid else 0)
  | _, .nan s => (.nan false, if s then flInvalid else 0)
  | .inf _, .inf _ => (.nan false, flInvalid)
  | .inf n, .fin k _ _ => (.inf (n != k), 0)
  | .fin n _ _, .inf k => (.fin (n != k) 0 0, 0)
  | .fin n m e, .fin k l g =>
    if l = 0 then
      if m = 0 then (.nan false, flInvalid) else (.inf (n != k), flDivZero)
    else
      let s := Nat.log2 l + p + 4
      let q := (m <<< s) / l
      let st := if (m <<< s) % l = 0 then 0 else 1
      (.fin (n != k) (2 * q + st) (e - g - s - 1), 0)

/-- Integer square root by bits, from bit `k - 1` down. -/
def isqrtFrom (n : Nat) : Nat → Nat → Nat
  | 0, r => r
  | k + 1, r => if (r + 2 ^ k) * (r + 2 ^ k) ≤ n then isqrtFrom n k (r + 2 ^ k) else isqrtFrom n k r

/-- The square root to more than `p + 2` bits with a sticky last bit. -/
def fvSqrt (p : Nat) : Fv → Fv × Nat
  | .nan s => (.nan false, if s then flInvalid else 0)
  | .inf n => if n then (.nan false, flInvalid) else (.inf false, 0)
  | .fin n m e =>
    if m = 0 then (.fin n 0 0, 0)
    else if n then (.nan false, flInvalid)
    else
      let s := 2 * (p + 4) + (e % 2).toNat
      let x := m <<< s
      let r := isqrtFrom x (Nat.log2 x / 2 + 1) 0
      let st := if r * r = x then 0 else 1
      (.fin false (2 * r + st) ((e - s) / 2 - 1), 0)

/-- The value less than, for values that are not NaN; zeros compare equal. -/
def fvLt (a b : Fv) : Bool :=
  match a, b with
  | .nan _, _ => false
  | _, .nan _ => false
  | .inf n, .inf k => n && !k
  | .inf n, .fin _ _ _ => n
  | .fin _ _ _, .inf k => !k
  | .fin n m e, .fin k l g =>
    decide ((dyAdd (signedM n m, e) (- signedM k l, g)).1 < 0)

/-- Equality of values that are not NaN; zeros compare equal. -/
def fvEq (a b : Fv) : Bool :=
  match a, b with
  | .nan _, _ => false
  | _, .nan _ => false
  | .inf n, .inf k => n == k
  | .inf _, .fin _ _ _ => false
  | .fin _ _ _, .inf _ => false
  | .fin n m e, .fin k l g => decide ((dyAdd (signedM n m, e) (- signedM k l, g)).1 = 0)

/-- Rounds an exact result with its flags. -/
def fpRound (f : Fmt) (rm : Rm) (x : Fv × Nat) : Nat × Nat :=
  let r := convIeee f (.mode rm) x.1
  (r.1, r.2 ||| x.2)

/-- R52, R72: addition, subtraction and multiplication. -/
def fpAdd (f : Fmt) (rm : Rm) (a b : Nat) : Nat × Nat := fpRound f rm (fvAdd rm (fpVal f a) (fpVal f b))
def fpSub (f : Fmt) (rm : Rm) (a b : Nat) : Nat × Nat := fpRound f rm (fvAdd rm (fpVal f a) (fpVal f b).negate)
def fpMul (f : Fmt) (rm : Rm) (a b : Nat) : Nat × Nat := fpRound f rm (fvMul (fpVal f a) (fpVal f b))

/-- R52: fused multiply-add with one rounding. With a NaN operand the result is the canonical NaN, and INVALID is set only
for a signalling operand, whatever the product. -/
def fpFma (f : Fmt) (rm : Rm) (a b c : Nat) : Nat × Nat :=
  let x := fpVal f a
  let y := fpVal f b
  let z := fpVal f c
  if x.isNan || y.isNan || z.isNan then (f.qnan, if x.isSig || y.isSig || z.isSig then flInvalid else 0)
  else
    let p := fvMul x y
    if p.1.isNan then (f.qnan, flInvalid) else fpRound f rm (fvAdd rm p.1 z)

/-- R52, R72: division and square root. -/
def fpDiv (f : Fmt) (rm : Rm) (a b : Nat) : Nat × Nat := fpRound f rm (fvDiv (f.fb + 1) (fpVal f a) (fpVal f b))
def fpSqrt (f : Fmt) (rm : Rm) (a : Nat) : Nat × Nat := fpRound f rm (fvSqrt (f.fb + 1) (fpVal f a))

/-- Strict order with −0 below +0 (R52). -/
def fvLtZ (a b : Fv) : Bool := fvLt a b || (fvEq a b && a.isNeg && !b.isNeg)

/-- R52: minimum and maximum; any NaN gives the canonical NaN, a signalling NaN sets INVALID (DEDUCED, log 20). -/
def fpMin (f : Fmt) (a b : Nat) : Nat × Nat :=
  let x := fpVal f a
  let y := fpVal f b
  if x.isNan || y.isNan then (f.qnan, if x.isSig || y.isSig then flInvalid else 0)
  else (if fvLtZ y x then b else a, 0)
def fpMax (f : Fmt) (a b : Nat) : Nat × Nat :=
  let x := fpVal f a
  let y := fpVal f b
  if x.isNan || y.isNan then (f.qnan, if x.isSig || y.isSig then flInvalid else 0)
  else (if fvLtZ x y then b else a, 0)

/-- Quiet compares set INVALID for a signalling NaN only; signalling compares for any NaN (IEEE 754-2019, R72). -/
def cmpFlags (signalling : Bool) (x y : Fv) : Nat :=
  if x.isSig || y.isSig || (signalling && (x.isNan || y.isNan)) then flInvalid else 0
def fpEq (f : Fmt) (a b : Nat) : Bool × Nat :=
  (fvEq (fpVal f a) (fpVal f b), cmpFlags false (fpVal f a) (fpVal f b))
def fpLt (f : Fmt) (a b : Nat) : Bool × Nat :=
  (fvLt (fpVal f a) (fpVal f b), cmpFlags true (fpVal f a) (fpVal f b))
def fpLe (f : Fmt) (a b : Nat) : Bool × Nat :=
  (fvLt (fpVal f a) (fpVal f b) || fvEq (fpVal f a) (fpVal f b), cmpFlags true (fpVal f a) (fpVal f b))
def fpUn (f : Fmt) (a b : Nat) : Bool × Nat :=
  ((fpVal f a).isNan || (fpVal f b).isNan, cmpFlags false (fpVal f a) (fpVal f b))

/-- The value of a signed integer of width `w`. -/
def intVal (w b : Nat) : Fv :=
  let x := toSigned w b
  .fin (decide (x < 0)) x.natAbs 0

/-- Table 04-7, integer column: a value converted to a signed integer of width `w`. -/
def convInt (w : Nat) (rnd : Rnd) : Fv → Nat × Nat
  | .nan _ => (0, flInvalid)
  | .inf neg => (if neg then 2 ^ (w - 1) else 2 ^ (w - 1) - 1, flSaturated)
  | .fin neg m e =>
    let lim := if neg then 2 ^ (w - 1) else 2 ^ (w - 1) - 1
    let r := match rnd with
      | .mode rm => roundAt rm neg m e 0
      | .draw d =>
        let dn := roundAt .rtz neg m e 0
        if lim < dn.1 || (decide (dn.1 = lim) && dn.2) then (lim + 1, true) else drawAt d m e 0
    if lim < r.1 then (if neg then 2 ^ (w - 1) else 2 ^ (w - 1) - 1, flSaturated)
    else (ofSigned w (signedM neg r.1), if r.2 then flInexact else 0)

/-! ## MX formats (R92 to R96, R105, R106). A format is named by its code of Table 03-3, 0x4 to 0x9. -/

/-- The element format of an MX code; MXINT8 (0x9) has none. -/
def mxFmt : Nat → Fmt
  | 4 => ⟨4, 3⟩
  | 5 => ⟨5, 2⟩
  | 6 => ⟨3, 2⟩
  | 7 => ⟨2, 3⟩
  | _ => ⟨2, 1⟩

/-- Element width in bits (Table 04-3). -/
def mxWidth : Nat → Nat
  | 6 => 6
  | 7 => 6
  | 8 => 4
  | _ => 8

/-- emax of Table 04-3. -/
def mxEmax : Nat → Nat
  | 4 => 8
  | 5 => 15
  | 6 => 4
  | 7 => 2
  | 8 => 2
  | _ => 0

/-- The encoding of the largest finite magnitude (Table 04-3). -/
def mxMaxEnc : Nat → Nat
  | 4 => 0x7E
  | 5 => 0x7B
  | 6 => 0x1F
  | 7 => 0x1F
  | 8 => 0x7
  | _ => 0x7F

/-- R92 to R94: the value of an element, before the scale. -/
def mxElemVal (code b : Nat) : Fv :=
  if code = 9 then
    let x := toSigned 8 b
    .fin (decide (x < 0)) x.natAbs (-6)
  else
    let f := mxFmt code
    let mag := b % f.signBit
    let neg := decide (f.signBit ≤ b % 2 ^ f.width)
    if code = 4 && mag = 0x7F then .nan false
    else if code = 5 && 0x7C < mag then .nan false
    else if code = 5 && mag = 0x7C then .inf neg
    else
      let ex := mag / 2 ^ f.fb
      let fr := mag % 2 ^ f.fb
      if ex = 0 then .fin neg fr f.qmin else .fin neg (2 ^ f.fb + fr) (f.qmin + (ex : Int) - 1)

/-- R105: the exponent x of a block's scale, before the code's offset. -/
def mxScaleExp (code : Nat) (vs : List Fv) : Int :=
  let x := vs.foldl (fun (a : Option (Option Int)) v =>
    match v with
    | .nan _ => a
    | .inf _ => some none
    | .fin _ m e =>
      if m = 0 then a
      else match a with
        | none => some (some (e + ((Nat.log2 m : Nat) : Int)))
        | some none => some none
        | some (some y) => some (some (max y (e + ((Nat.log2 m : Nat) : Int))))) none
  match x with
  | none => -127
  | some none => 127
  | some (some l) => min (max (l - mxEmax code) (-127)) 127

/-- One element of a block with no NaN, after division by 2^x, and whether it saturated (R103, R105). -/
def mxElem (code : Nat) (rnd : Rnd) (x : Int) : Fv → Nat × Bool
  | .nan _ => (0, false)
  | .inf neg =>
    if code = 9 then (if neg then 0x81 else 0x7F, true)
    else (withSign (mxFmt code) neg (mxMaxEnc code), true)
  | .fin neg m e =>
    let sat := !belowPow m e (127 + mxEmax code + 1)
    let f := mxFmt code
    let q := if code = 9 then -6 else if m = 0 then f.qmin else max (quantumOf m (e - x) (f.fb + 1)) f.qmin
    let k := match rnd with
      | .mode rm => (roundAt rm neg m (e - x) q).1
      | .draw r => (drawAt r m (e - x) q).1
    if code = 9 then
      let k' := min k 127
      (ofSigned 8 (signedM neg (if sat then 127 else k')), sat)
    else
      let enc := min (encodeAt f k q) (mxMaxEnc code)
      (withSign f neg (if sat then mxMaxEnc code else enc), sat)

/-- R105, R106: one block of 32 values: scale byte, element encodings and flags. `rnd i` rounds element i. -/
def mxBlock (code : Nat) (rnd : Nat → Rnd) (vs : List Fv) : Nat × List Nat × Nat :=
  if vs.any Fv.isNan then
    let fl := if vs.any Fv.isSig then flInvalid else 0
    if code = 4 || code = 5 then (0x7F, vs.map (fun _ => 0x7F), fl)
    else (0xFF, vs.map (fun _ => 0), fl)
  else
    let x := mxScaleExp code vs
    let es := (List.range vs.length).map (fun i => mxElem code (rnd i) x (vs.getD i (.fin false 0 0)))
    ((x + 127).toNat, es.map Prod.fst, if es.any Prod.snd then flSaturated else 0)

/-- Group size of Table 04-4. -/
def mxGroup (code : Nat) : Nat := 32 * mxWidth code + 8

/-- R96: the bit position, within the row, of element `j`, and the byte of its block's scale. -/
def mxElemBit (code j : Nat) : Nat := 8 * (mxGroup code * (j / 256)) + mxWidth code * (j % 256)
def mxScaleByte (code j : Nat) : Nat := mxGroup code * (j / 256) + 32 * mxWidth code + (j / 32) % 8

/-! ## The draw function (R330). -/

/-- mix(z). -/
def mix64 (z0 : Nat) : Nat :=
  let z1 := z0 ^^^ (z0 >>> 29)
  let z2 := (0x9E6C63D0676A9A99 * z1) % 2 ^ 64
  let z3 := z2 ^^^ (z2 >>> 32)
  let z4 := (0xA24BAED4963EE407 * z3) % 2 ^ 64
  z4 ^^^ (z4 >>> 29)

/-- R330: the draw, 32 bits. -/
def drawOf (seed step stream rank ordinal unit index : Nat) : Nat :=
  let w2 := ((stream <<< 48) ||| (rank <<< 31) ||| (ordinal <<< 23) ||| (unit <<< 19)) % 2 ^ 64
  mix64 (mix64 (mix64 (seed ^^^ step) ^^^ w2) ^^^ index) >>> 32

/-! ## The FP64X2 pair (R97, R98, R127). -/

/-- The exact number of a finite value. -/
def fvDy : Fv → Dy
  | .fin n m e => (signedM n m, e)
  | _ => (0, 0)

/-- Whether a value is finite. -/
def Fv.isFin : Fv → Bool
  | .fin _ _ _ => true
  | _ => false

/-- R127: renormalises t and u, an exact two-sum; the pair's encodings and OVERFLOW. -/
def pairNorm (t u : Nat) : (Nat × Nat) × Nat :=
  let x := fpVal fp64 t
  let y := fpVal fp64 u
  if x.isFin && y.isFin then
    let s := (fvAdd .rne x y).1
    let h := (convIeee fp64 (.mode .rne) s).1
    if (fpVal fp64 h).isFin then
      let l := dyToFv false (dyAdd (fvDy s) ((- (fvDy (fpVal fp64 h)).1), (fvDy (fpVal fp64 h)).2))
      ((h, (convIeee fp64 (.mode .rne) l).1), 0)
    else ((h, 0), flOverflow)
  else
    let r := fpAdd fp64 .rne t u
    ((r.1, 0), r.2)

end Sys2Proof.Machine
end

