-- ==== Sys2Proof/Config.lean ====
section
/-! DEFINITION. What an implementation fixes and what the spec leaves open. Every `opaque` constant below has no body: no
proof can see its value, so a theorem about it holds whatever it is. -/

namespace Sys2Proof

/-- A value the spec leaves open, numbered by the state's `fresh` counter (log 3). -/
opaque Config.freeWord : Nat → BitVec 64

/-- The management core's random source: LCS nonces (R453), Evbor request identifiers and SPDM nonces (log 6). -/
opaque Config.random : Nat → BitVec 64

/-- Whether an RSA-3072 PSS signature verifies, given the modulus, the message and the signature (R445; log 6). -/
opaque Config.rsaValid : List (BitVec 8) → List (BitVec 8) → List (BitVec 8) → Bool

/-- Whether an SLH-DSA signature verifies, given the key's bytes, the message and the signature (R445; log 6). -/
opaque Config.slhValid : List (BitVec 8) → List (BitVec 8) → List (BitVec 8) → Bool

/-- The signature the device makes with its identity key: RSA-3072 for SPDM, SLH-DSA for the vendor commands (R452; log 6). -/
opaque Config.rsaSign : List (BitVec 8) → List (BitVec 8)
opaque Config.slhSign : List (BitVec 8) → List (BitVec 8)

/-- The device's certificate chains, RSA-3072 and SLH-DSA (R451, R452; log 6). -/
opaque Config.rsaChain : List (BitVec 8)
opaque Config.slhChain : List (BitVec 8)

/-- The fused key hashes of R445, 48 bytes each (log 7). -/
opaque Config.rsaKeyHash : List (BitVec 8)
opaque Config.slhKeyHash : List (BitVec 8)

/-- VERSION and signed message of the image that the package was delivered with (log 7). -/
opaque Config.shippedVersion : BitVec 64
opaque Config.shippedMessage : List (BitVec 8)

/-- SHA-384 of the identity's RSA public key, of the ROM, and of the device data chains (R450, R451; log 6). -/
opaque Config.idHash : List (BitVec 8)
opaque Config.romHash : List (BitVec 8)
opaque Config.chainsHash : List (BitVec 8)

/-- Bytes of a chunk of a large SPDM response (R452), and the digest M that a signed response's signature covers, which is over
messages whose bytes DSP0274 lays out: response number and byte (log 6). -/
opaque Config.chunkBytes : Nat
opaque Config.spdmDigest : Nat → List (BitVec 8)

/-- One step of the Chebyshev iteration of the polynomial preconditioner at one element, whose recurrence R149 does not give: LMIN, LMAX, the
number of the step, the pivot, r, A z, z, and z before the step before (log 30). -/
opaque Config.chebyshev : Nat → Nat → Nat → List (BitVec 64) → BitVec 64

/-- The Givens rotation that zeroes the second of two numbers, and its application to a pair, whose roundings R147 does not give
(log 30). -/
opaque Config.givens : BitVec 64 → BitVec 64 → BitVec 64 × BitVec 64
opaque Config.rotate : BitVec 64 × BitVec 64 → BitVec 64 → BitVec 64 → BitVec 64 × BitVec 64

/-- The draw and the step of a cluster that runs no job, which R330 and R331 give to a job's clusters only: cluster, stream, unit and
index; cluster (log 84). -/
opaque Config.idleDraw : Nat → Nat → Nat → Nat → BitVec 32
opaque Config.idleStep : Nat → BitVec 64

/-- The threads of a cluster whose next source operand is still being computed (R37), as bits: cluster, instructions issued, time (log 94). -/
opaque Config.operandBusy : Nat → Nat → Nat → BitVec 8

/-- Whether a launch of a solver command, by its OPC, needs the matrix engine (bit 0) and the tile queue (bit 1) of its clusters, which the
spec says of no command (R61; log 96). -/
opaque Config.launchNeeds : Nat → BitVec 2

/-- What early arrivals have left in a communicator's staging region, from its start on; the spec gives it no layout (R299, log 54). -/
opaque Config.staged : Nat → List (BitVec 8)

/-- What a solver channel has left in its reserved scratchpad range, such as the partial factors of R178, whose layout the spec does not give
(log 114). -/
opaque Config.scratch : Nat → List (BitVec 8)

/-- Stack offset at which a stack's checksum array begins in the system region, whose layout the spec does not give (R188; log 106). -/
opaque Config.sumBase : BitVec 38

/-- The credits that a cell returns in its trailer (Table 10-5), which the time at which receive buffers empty decides (R247; log 51): port, and
number of the cell on the link. -/
opaque Config.linkCredit : Nat → Nat → BitVec 20

/-- The stepping that ID reports: the first production stepping (R9; log 7). -/
def Config.stepMajor : Nat := 0x01
def Config.stepMinor : Nat := 0x00

end Sys2Proof
end

