-- ==== Sys2Proof/Machine/RegTable.lean ====
section
/-! DEFINITION. The register field tables of the chapters, as data: per block, one row for each field (offset, bits, access
type, class, reset value). A reset written in the spec as per unit (Per channel, Per port, Fused, p, s) is 0 here and is
given in Machine/Bus.lean where the register is read. -/

namespace Sys2Proof.Machine

/-- The register blocks of Table 00-11. -/
inductive Block where
  | glb
  | prt
  | aud
  | cad
  | pwr
  | thm
  | mgt
  | sec
  | lcs
  | clu
  | slv
  | lch
  | hbm
  | mov
  | qmg
  | fab
  | hub
  | chn
  | fio
  | spo
  deriving DecidableEq, Repr

/-- The access types of Table 00-8. WC stands beside RW or RWL and is a flag of the row. -/
inductive Access where
  | rw | ro | w1c | wo | rwl
  deriving DecidableEq, Repr

/-- One row of a register field table. -/
structure FieldRow where
  off : Nat
  hi : Nat
  lo : Nat
  acc : Access
  wc : Bool
  dclass : Bool
  reset : Nat
  deriving DecidableEq, Repr

/-- A field, by block, offset and bits. -/
structure Fld where
  blk : Block
  off : Nat
  hi : Nat
  lo : Nat
  deriving DecidableEq, Repr

/-- Base address of a block (Table 00-11). -/
def blockBase : Block → Nat
  | .glb => 0x0
  | .prt => 0x1000
  | .aud => 0x9000
  | .cad => 0xa000
  | .pwr => 0xb000
  | .thm => 0xc000
  | .mgt => 0xd000
  | .sec => 0xe000
  | .lcs => 0xf000
  | .clu => 0x100000
  | .slv => 0x200000
  | .lch => 0x300000
  | .hbm => 0x310000
  | .mov => 0x400000
  | .qmg => 0x500000
  | .fab => 0x600000
  | .hub => 0x620000
  | .chn => 0x700000
  | .fio => 0x800000
  | .spo => 0x900000

/-- Pages of a block (Table 00-11). -/
def blockPages : Block → Nat
  | .glb => 1
  | .prt => 8
  | .aud => 1
  | .cad => 1
  | .pwr => 1
  | .thm => 1
  | .mgt => 1
  | .sec => 1
  | .lcs => 1
  | .clu => 256
  | .slv => 64
  | .lch => 16
  | .hbm => 16
  | .mov => 64
  | .qmg => 1
  | .fab => 20
  | .hub => 2
  | .chn => 2
  | .fio => 1
  | .spo => 1

/-- Block type code (Table 00-11). -/
def blockCode : Block → Nat
  | .glb => 0x1
  | .prt => 0x2
  | .aud => 0x3
  | .cad => 0x4
  | .pwr => 0x5
  | .thm => 0x6
  | .mgt => 0x7
  | .sec => 0x8
  | .lcs => 0x9
  | .clu => 0x10
  | .slv => 0x11
  | .lch => 0x12
  | .hbm => 0x13
  | .mov => 0x14
  | .qmg => 0x15
  | .fab => 0x20
  | .hub => 0x21
  | .chn => 0x22
  | .fio => 0x30
  | .spo => 0x31

/-- The blocks, in Table 00-11's order. -/
def allBlocks : List Block :=
  [.glb, .prt, .aud, .cad, .pwr, .thm, .mgt, .sec, .lcs, .clu] ++
  [.slv, .lch, .hbm, .mov, .qmg, .fab, .hub, .chn, .fio, .spo]

/-- Table 14-6: the fields of GLB. -/
def fieldsGlb : List FieldRow :=
  [⟨0x8, 63, 56, .ro, false, false, 0x8⟩,
   ⟨0x8, 55, 48, .ro, false, false, 0x4⟩,
   ⟨0x8, 47, 40, .ro, false, false, 0x10⟩,
   ⟨0x8, 39, 32, .ro, false, false, 0xff⟩,
   ⟨0x10, 63, 63, .rw, true, false, 0x0⟩,
   ⟨0x18, 15, 8, .ro, false, false, 0x0⟩,
   ⟨0x18, 7, 0, .ro, false, false, 0x0⟩,
   ⟨0x20, 19, 19, .w1c, false, false, 0x0⟩,
   ⟨0x20, 18, 18, .w1c, false, false, 0x0⟩,
   ⟨0x20, 16, 16, .w1c, false, false, 0x0⟩,
   ⟨0x20, 2, 2, .w1c, false, false, 0x0⟩,
   ⟨0x20, 1, 1, .w1c, false, false, 0x0⟩] ++
  [⟨0x40, 2, 0, .rw, true, false, 0x0⟩,
   ⟨0x48, 35, 35, .ro, false, false, 0x0⟩,
   ⟨0x48, 34, 32, .rw, true, false, 0x0⟩,
   ⟨0x48, 31, 0, .rw, true, false, 0x0⟩,
   ⟨0x50, 52, 32, .rw, true, false, 0x0⟩,
   ⟨0x50, 19, 0, .rw, true, false, 0x0⟩,
   ⟨0x58, 63, 0, .rw, true, false, 0x0⟩,
   ⟨0x60, 63, 0, .rw, true, false, 0x0⟩,
   ⟨0x68, 63, 0, .rw, true, false, 0x0⟩,
   ⟨0x70, 63, 0, .rw, true, false, 0x0⟩,
   ⟨0x78, 63, 0, .rw, true, false, 0x0⟩,
   ⟨0x80, 63, 0, .rw, true, false, 0x0⟩] ++
  [⟨0x88, 38, 12, .rw, true, false, 0x0⟩,
   ⟨0x90, 16, 0, .rw, true, false, 0x2⟩,
   ⟨0x98, 63, 0, .rw, true, false, 0x0⟩,
   ⟨0xa0, 63, 0, .rw, true, false, 0x0⟩,
   ⟨0xa8, 63, 63, .rw, true, false, 0x0⟩,
   ⟨0xa8, 62, 62, .rw, true, false, 0x0⟩,
   ⟨0xa8, 60, 56, .rw, true, false, 0x0⟩,
   ⟨0xa8, 49, 33, .rw, true, false, 0x0⟩,
   ⟨0xa8, 16, 0, .rw, true, false, 0x0⟩,
   ⟨0xb0, 58, 42, .rw, true, false, 0x0⟩,
   ⟨0xb0, 37, 21, .rw, true, false, 0x0⟩,
   ⟨0xb0, 16, 0, .rw, true, false, 0x0⟩] ++
  [⟨0xb8, 58, 42, .rw, true, false, 0x0⟩,
   ⟨0xb8, 37, 21, .rw, true, false, 0x0⟩,
   ⟨0xb8, 16, 0, .rw, true, false, 0x0⟩,
   ⟨0xc0, 58, 42, .rw, true, false, 0x0⟩,
   ⟨0xc0, 37, 21, .rw, true, false, 0x0⟩,
   ⟨0xc0, 16, 0, .rw, true, false, 0x0⟩,
   ⟨0xc8, 58, 42, .rw, true, false, 0x0⟩,
   ⟨0xc8, 37, 21, .rw, true, false, 0x0⟩,
   ⟨0xc8, 16, 0, .rw, true, false, 0x0⟩,
   ⟨0xd0, 58, 42, .rw, true, false, 0x0⟩,
   ⟨0xd0, 37, 21, .rw, true, false, 0x0⟩,
   ⟨0xd0, 16, 0, .rw, true, false, 0x0⟩] ++
  [⟨0xd8, 58, 42, .rw, true, false, 0x0⟩,
   ⟨0xd8, 37, 21, .rw, true, false, 0x0⟩,
   ⟨0xd8, 16, 0, .rw, true, false, 0x0⟩,
   ⟨0xe0, 21, 0, .rw, true, false, 0x2710⟩,
   ⟨0xe8, 19, 0, .rw, true, false, 0xfffff⟩,
   ⟨0xf0, 3, 0, .ro, false, false, 0x0⟩,
   ⟨0xf8, 63, 32, .ro, false, false, 0x0⟩,
   ⟨0xf8, 16, 16, .ro, false, false, 0x0⟩,
   ⟨0xf8, 15, 0, .ro, false, false, 0x0⟩,
   ⟨0x100, 63, 0, .ro, false, false, 0x0⟩,
   ⟨0x108, 63, 0, .ro, false, false, 0x0⟩,
   ⟨0x110, 63, 0, .ro, false, false, 0x0⟩] ++
  [⟨0x118, 63, 0, .ro, false, false, 0x0⟩,
   ⟨0x120, 63, 0, .ro, false, false, 0x0⟩,
   ⟨0x128, 63, 0, .ro, false, false, 0x0⟩,
   ⟨0x130, 63, 0, .ro, false, false, 0x0⟩,
   ⟨0x138, 63, 0, .ro, false, false, 0x0⟩,
   ⟨0x140, 63, 0, .ro, false, false, 0x0⟩]

/-- Table 17-8: the fields of PRT. -/
def fieldsPrt : List FieldRow :=
  [⟨0x8, 2, 0, .ro, false, false, 0x0⟩,
   ⟨0x10, 63, 63, .rw, true, false, 0x0⟩,
   ⟨0x10, 1, 1, .wo, false, false, 0x0⟩,
   ⟨0x10, 0, 0, .rwl, true, false, 0x0⟩,
   ⟨0x18, 18, 18, .ro, false, false, 0x0⟩,
   ⟨0x18, 17, 17, .ro, false, false, 0x0⟩,
   ⟨0x18, 11, 8, .ro, false, false, 0x0⟩,
   ⟨0x20, 16, 16, .w1c, false, false, 0x0⟩,
   ⟨0x20, 1, 1, .w1c, false, false, 0x0⟩,
   ⟨0x20, 0, 0, .w1c, false, false, 0x0⟩,
   ⟨0x40, 6, 4, .rwl, true, false, 0x0⟩,
   ⟨0x40, 1, 0, .rwl, true, false, 0x0⟩] ++
  [⟨0x48, 35, 32, .rw, true, false, 0x1⟩,
   ⟨0x48, 23, 16, .rw, true, false, 0x0⟩,
   ⟨0x48, 8, 8, .rw, true, false, 0x0⟩,
   ⟨0x48, 1, 0, .rw, true, false, 0x2⟩,
   ⟨0x50, 31, 0, .rw, true, false, 0x0⟩,
   ⟨0x58, 63, 0, .rw, true, false, 0x0⟩,
   ⟨0x60, 63, 0, .rw, true, false, 0x0⟩,
   ⟨0x68, 63, 0, .rw, true, false, 0x0⟩,
   ⟨0x70, 63, 0, .rw, true, false, 0x0⟩,
   ⟨0x78, 63, 0, .rw, true, false, 0x0⟩,
   ⟨0x80, 63, 0, .rw, true, false, 0x0⟩,
   ⟨0x88, 52, 32, .rw, true, false, 0x0⟩] ++
  [⟨0x88, 19, 0, .rw, true, false, 0x0⟩,
   ⟨0x90, 63, 0, .rw, true, false, 0x0⟩,
   ⟨0x98, 47, 0, .rw, true, false, 0x0⟩,
   ⟨0xa0, 1, 1, .rw, false, false, 0x0⟩,
   ⟨0xa0, 0, 0, .rw, true, false, 0x0⟩,
   ⟨0xa8, 23, 16, .rw, true, false, 0x0⟩,
   ⟨0xa8, 15, 8, .rw, true, false, 0x0⟩,
   ⟨0xa8, 7, 0, .rw, true, false, 0x0⟩,
   ⟨0xb0, 15, 0, .rw, true, false, 0x0⟩,
   ⟨0xb8, 10, 0, .rw, false, false, 0x0⟩,
   ⟨0xc0, 19, 0, .rw, true, false, 0x0⟩,
   ⟨0xc8, 63, 60, .ro, false, false, 0x0⟩] ++
  [⟨0xc8, 59, 56, .ro, false, false, 0x0⟩,
   ⟨0xc8, 55, 53, .ro, false, false, 0x0⟩,
   ⟨0xc8, 52, 52, .ro, false, false, 0x0⟩,
   ⟨0xc8, 3, 0, .ro, false, false, 0x0⟩,
   ⟨0xd0, 63, 0, .ro, false, false, 0x0⟩,
   ⟨0xd8, 63, 0, .ro, false, false, 0x0⟩,
   ⟨0xe0, 63, 0, .ro, false, false, 0x0⟩,
   ⟨0xe8, 63, 0, .ro, false, false, 0x0⟩]

/-- Table 17-9: the fields of AUD. -/
def fieldsAud : List FieldRow :=
  [⟨0x8, 63, 56, .ro, false, false, 0x10⟩,
   ⟨0x8, 55, 48, .ro, false, false, 0x14⟩,
   ⟨0x8, 15, 0, .ro, false, false, 0x1000⟩,
   ⟨0x10, 63, 63, .rw, true, false, 0x0⟩,
   ⟨0x18, 20, 0, .ro, false, false, 0x0⟩,
   ⟨0x20, 16, 16, .w1c, false, false, 0x0⟩,
   ⟨0x20, 1, 1, .w1c, false, false, 0x0⟩,
   ⟨0x20, 0, 0, .w1c, false, false, 0x0⟩,
   ⟨0x40, 63, 0, .ro, false, false, 0x0⟩,
   ⟨0x48, 63, 0, .rw, true, false, 0x0⟩,
   ⟨0x50, 63, 0, .ro, false, false, 0x0⟩,
   ⟨0x58, 63, 0, .ro, false, false, 0x0⟩] ++
  [⟨0x60, 63, 0, .ro, false, false, 0x0⟩,
   ⟨0x68, 63, 0, .rw, true, false, 0x0⟩,
   ⟨0x70, 63, 0, .ro, false, false, 0x0⟩,
   ⟨0x78, 63, 0, .ro, false, false, 0x0⟩,
   ⟨0x80, 63, 0, .ro, false, false, 0x0⟩,
   ⟨0x88, 63, 0, .ro, false, false, 0x0⟩,
   ⟨0x90, 63, 0, .ro, false, false, 0x0⟩,
   ⟨0x98, 63, 0, .ro, false, false, 0x0⟩,
   ⟨0xa0, 63, 0, .ro, false, false, 0x0⟩,
   ⟨0xa8, 63, 0, .ro, false, false, 0x0⟩]

/-- Table 12-7: the fields of CAD. -/
def fieldsCad : List FieldRow :=
  [⟨0x8, 63, 56, .ro, false, false, 0xf0⟩,
   ⟨0x8, 55, 48, .ro, false, false, 0xc8⟩,
   ⟨0x8, 7, 0, .ro, false, false, 0x8⟩,
   ⟨0x10, 63, 63, .rw, true, false, 0x0⟩,
   ⟨0x10, 12, 12, .rwl, false, false, 0x0⟩,
   ⟨0x10, 11, 8, .rwl, false, false, 0xf⟩,
   ⟨0x10, 1, 1, .rwl, false, false, 0x0⟩,
   ⟨0x10, 0, 0, .rw, true, false, 0x0⟩,
   ⟨0x18, 15, 12, .ro, false, false, 0x0⟩,
   ⟨0x18, 11, 8, .ro, false, false, 0x0⟩,
   ⟨0x18, 4, 4, .ro, false, false, 0x0⟩,
   ⟨0x18, 2, 0, .ro, false, false, 0x0⟩] ++
  [⟨0x20, 16, 16, .w1c, false, false, 0x0⟩,
   ⟨0x20, 3, 3, .w1c, false, false, 0x0⟩,
   ⟨0x20, 2, 2, .w1c, false, false, 0x0⟩,
   ⟨0x20, 1, 1, .w1c, false, false, 0x0⟩,
   ⟨0x20, 0, 0, .w1c, false, false, 0x0⟩,
   ⟨0x40, 63, 0, .ro, false, false, 0x0⟩,
   ⟨0x48, 15, 0, .rwl, true, false, 0x25⟩,
   ⟨0x50, 63, 0, .rw, true, false, 0x0⟩,
   ⟨0x58, 7, 0, .rw, true, false, 0x32⟩,
   ⟨0x60, 31, 0, .ro, false, false, 0x0⟩,
   ⟨0x68, 63, 0, .ro, false, false, 0x0⟩,
   ⟨0x70, 63, 0, .ro, false, false, 0x0⟩] ++
  [⟨0x78, 8, 8, .rwl, false, false, 0x0⟩,
   ⟨0x78, 4, 0, .rwl, true, false, 0x0⟩,
   ⟨0x80, 0, 0, .rwl, false, false, 0x0⟩,
   ⟨0x88, 31, 0, .rwl, true, false, 0x0⟩,
   ⟨0x90, 31, 0, .rwl, true, false, 0x0⟩,
   ⟨0x98, 63, 0, .ro, false, false, 0x0⟩,
   ⟨0xc0, 2, 0, .rw, true, false, 0x0⟩,
   ⟨0xc8, 63, 0, .rw, true, false, 0x0⟩,
   ⟨0xd0, 63, 0, .ro, false, false, 0x0⟩,
   ⟨0xd8, 63, 0, .rw, true, false, 0x0⟩,
   ⟨0xe0, 63, 0, .rw, true, false, 0x0⟩,
   ⟨0xe8, 63, 0, .rw, true, false, 0x0⟩] ++
  [⟨0xf0, 63, 0, .rw, true, false, 0x0⟩,
   ⟨0xf8, 63, 0, .rw, true, false, 0x0⟩,
   ⟨0x100, 63, 0, .rw, true, false, 0x0⟩,
   ⟨0x108, 63, 0, .rw, true, false, 0x0⟩,
   ⟨0x110, 63, 0, .rw, true, false, 0x0⟩,
   ⟨0x118, 63, 0, .rw, true, false, 0x0⟩,
   ⟨0x120, 63, 0, .rw, true, false, 0x0⟩,
   ⟨0x128, 63, 0, .rw, true, false, 0x0⟩,
   ⟨0x130, 63, 0, .rw, true, false, 0x0⟩,
   ⟨0x140, 3, 0, .rw, false, false, 0x0⟩,
   ⟨0x148, 63, 0, .ro, false, false, 0x0⟩,
   ⟨0x150, 63, 0, .ro, false, false, 0x0⟩] ++
  [⟨0x158, 63, 0, .ro, false, false, 0x0⟩,
   ⟨0x160, 63, 0, .ro, false, false, 0x0⟩]

/-- Table 16-5: the fields of PWR. -/
def fieldsPwr : List FieldRow :=
  [⟨0x8, 63, 48, .ro, false, false, 0x1068⟩,
   ⟨0x8, 47, 32, .ro, false, false, 0xd48⟩,
   ⟨0x8, 15, 8, .ro, false, false, 0x30⟩,
   ⟨0x8, 3, 0, .ro, false, false, 0x8⟩,
   ⟨0x10, 63, 63, .rw, true, false, 0x0⟩,
   ⟨0x18, 31, 31, .ro, false, false, 0x0⟩,
   ⟨0x18, 30, 30, .ro, false, false, 0x0⟩,
   ⟨0x18, 29, 29, .ro, false, false, 0x0⟩,
   ⟨0x18, 11, 0, .ro, false, false, 0xfff⟩,
   ⟨0x20, 17, 17, .w1c, false, false, 0x0⟩,
   ⟨0x20, 3, 3, .w1c, false, false, 0x0⟩,
   ⟨0x20, 2, 2, .w1c, false, false, 0x0⟩] ++
  [⟨0x20, 1, 1, .w1c, false, false, 0x0⟩,
   ⟨0x20, 0, 0, .w1c, false, false, 0x0⟩,
   ⟨0x40, 43, 32, .rwl, true, false, 0xd48⟩,
   ⟨0x40, 20, 16, .rwl, true, false, 0x5⟩,
   ⟨0x40, 9, 0, .rwl, true, false, 0x40⟩,
   ⟨0x48, 11, 0, .ro, false, false, 0xd48⟩,
   ⟨0x50, 63, 63, .rw, false, false, 0x0⟩,
   ⟨0x50, 50, 48, .rw, true, false, 0x0⟩,
   ⟨0x50, 43, 32, .rw, true, false, 0xd48⟩,
   ⟨0x50, 27, 16, .rw, true, false, 0x32⟩,
   ⟨0x50, 11, 0, .rw, true, false, 0x320⟩,
   ⟨0x58, 63, 32, .rw, true, false, 0x7d0⟩] ++
  [⟨0x58, 11, 0, .rw, false, false, 0x0⟩,
   ⟨0x60, 15, 0, .ro, false, false, 0x0⟩,
   ⟨0x68, 15, 0, .ro, false, false, 0x0⟩,
   ⟨0x70, 15, 0, .ro, false, false, 0x0⟩,
   ⟨0x78, 63, 0, .ro, false, false, 0x0⟩,
   ⟨0x80, 15, 0, .ro, false, false, 0x0⟩,
   ⟨0x88, 63, 0, .ro, false, false, 0x1111111111111111⟩,
   ⟨0x90, 63, 0, .ro, false, false, 0x1111111111111111⟩,
   ⟨0x98, 63, 0, .ro, false, false, 0x0⟩,
   ⟨0xa0, 63, 0, .ro, false, false, 0x0⟩,
   ⟨0xa8, 63, 0, .ro, false, false, 0x0⟩,
   ⟨0xb0, 5, 0, .rw, true, false, 0x0⟩] ++
  [⟨0xb8, 63, 48, .ro, false, false, 0x0⟩,
   ⟨0xb8, 47, 32, .ro, false, false, 0x0⟩,
   ⟨0xb8, 31, 24, .ro, false, false, 0x0⟩,
   ⟨0xb8, 3, 0, .ro, false, false, 0x0⟩]

/-- Table 16-6: the fields of THM. -/
def fieldsThm : List FieldRow :=
  [⟨0x8, 7, 0, .ro, false, false, 0x7⟩,
   ⟨0x10, 63, 63, .rw, true, false, 0x0⟩,
   ⟨0x18, 20, 0, .ro, false, false, 0x0⟩,
   ⟨0x20, 2, 2, .w1c, false, false, 0x0⟩,
   ⟨0x20, 1, 1, .w1c, false, false, 0x0⟩,
   ⟨0x20, 0, 0, .w1c, false, false, 0x0⟩,
   ⟨0x40, 55, 0, .ro, false, false, 0x0⟩,
   ⟨0x48, 55, 0, .ro, false, false, 0x0⟩,
   ⟨0x50, 63, 0, .ro, false, false, 0x0⟩,
   ⟨0x58, 63, 0, .ro, false, false, 0x0⟩]

/-- Table 18-8: the fields of MGT. -/
def fieldsMgt : List FieldRow :=
  [⟨0x8, 63, 32, .ro, false, false, 0x12f8c⟩,
   ⟨0x8, 15, 0, .ro, false, false, 0x40⟩,
   ⟨0x10, 63, 63, .rw, true, false, 0x0⟩,
   ⟨0x18, 3, 2, .ro, false, false, 0x0⟩,
   ⟨0x18, 1, 1, .ro, false, false, 0x0⟩,
   ⟨0x18, 0, 0, .ro, false, false, 0x0⟩,
   ⟨0x20, 3, 3, .w1c, false, false, 0x0⟩,
   ⟨0x20, 2, 2, .w1c, false, false, 0x0⟩,
   ⟨0x20, 1, 1, .w1c, false, false, 0x0⟩,
   ⟨0x20, 0, 0, .w1c, false, false, 0x0⟩,
   ⟨0x40, 63, 0, .ro, false, false, 0x0⟩,
   ⟨0x48, 7, 0, .ro, false, false, 0x0⟩] ++
  [⟨0x50, 4, 0, .rwl, false, false, 0x1⟩,
   ⟨0x58, 19, 0, .rwl, true, false, 0xfffff⟩,
   ⟨0x60, 63, 0, .rw, false, false, 0x0⟩,
   ⟨0x68, 24, 0, .rw, true, false, 0x0⟩,
   ⟨0x70, 0, 0, .wo, false, false, 0x0⟩,
   ⟨0x78, 15, 15, .ro, false, false, 0x0⟩,
   ⟨0x78, 7, 0, .ro, false, false, 0x0⟩,
   ⟨0x80, 15, 0, .ro, false, false, 0x0⟩,
   ⟨0x88, 63, 0, .ro, false, false, 0x0⟩,
   ⟨0x90, 63, 0, .ro, false, false, 0x0⟩]

/-- Table 18-9: the fields of SEC. -/
def fieldsSec : List FieldRow :=
  [⟨0x18, 9, 9, .ro, false, false, 0x0⟩,
   ⟨0x18, 8, 8, .ro, false, false, 0x0⟩,
   ⟨0x18, 7, 0, .ro, false, false, 0x0⟩,
   ⟨0x40, 63, 0, .ro, false, false, 0x0⟩,
   ⟨0x48, 63, 0, .ro, false, false, 0x0⟩,
   ⟨0x50, 63, 0, .ro, false, false, 0x0⟩,
   ⟨0x58, 63, 0, .ro, false, false, 0x0⟩,
   ⟨0x60, 63, 0, .ro, false, false, 0x0⟩,
   ⟨0x68, 63, 0, .ro, false, false, 0x0⟩,
   ⟨0x70, 63, 0, .ro, false, false, 0x0⟩,
   ⟨0x78, 63, 0, .ro, false, false, 0x0⟩,
   ⟨0x80, 63, 0, .ro, false, false, 0x0⟩] ++
  [⟨0x88, 63, 0, .ro, false, false, 0x0⟩,
   ⟨0x90, 63, 0, .ro, false, false, 0x0⟩,
   ⟨0x98, 63, 0, .ro, false, false, 0x0⟩,
   ⟨0xa0, 63, 0, .ro, false, false, 0x0⟩]

/-- Table 18-10: the fields of LCS. -/
def fieldsLcs : List FieldRow :=
  [⟨0x10, 63, 63, .rw, true, false, 0x0⟩,
   ⟨0x18, 8, 8, .ro, false, false, 0x0⟩,
   ⟨0x18, 1, 0, .ro, false, false, 0x0⟩,
   ⟨0x40, 1, 0, .rw, true, false, 0x0⟩,
   ⟨0x48, 63, 0, .ro, false, false, 0x0⟩,
   ⟨0x50, 63, 0, .wo, false, false, 0x0⟩]

/-- Table 02-8: the fields of CLU. -/
def fieldsClu : List FieldRow :=
  [⟨0x8, 63, 56, .ro, false, false, 0x20⟩,
   ⟨0x8, 55, 48, .ro, false, false, 0x10⟩,
   ⟨0x8, 47, 32, .ro, false, false, 0x100⟩,
   ⟨0x8, 31, 16, .ro, false, false, 0x1000⟩,
   ⟨0x8, 15, 8, .ro, false, false, 0x4⟩,
   ⟨0x8, 7, 0, .ro, false, false, 0x8⟩,
   ⟨0x10, 63, 63, .rw, true, false, 0x0⟩,
   ⟨0x18, 17, 17, .ro, false, false, 0x0⟩,
   ⟨0x18, 16, 16, .ro, false, false, 0x1⟩,
   ⟨0x18, 14, 14, .ro, false, false, 0x0⟩,
   ⟨0x18, 13, 9, .ro, false, false, 0x0⟩,
   ⟨0x18, 8, 8, .ro, false, false, 0x0⟩] ++
  [⟨0x18, 7, 0, .ro, false, false, 0x0⟩,
   ⟨0x20, 17, 16, .w1c, false, false, 0x0⟩,
   ⟨0x20, 5, 0, .w1c, false, false, 0x0⟩,
   ⟨0x40, 15, 8, .wo, false, false, 0x0⟩,
   ⟨0x40, 7, 0, .wo, false, false, 0x0⟩,
   ⟨0x48, 31, 0, .ro, false, false, 0x0⟩,
   ⟨0x50, 63, 0, .ro, false, false, 0x0⟩,
   ⟨0x58, 14, 0, .rw, false, false, 0x0⟩,
   ⟨0x60, 14, 0, .rw, false, false, 0x0⟩,
   ⟨0x68, 14, 0, .rw, false, false, 0x0⟩,
   ⟨0x70, 14, 0, .rw, false, false, 0x0⟩,
   ⟨0x78, 14, 0, .rw, false, false, 0x0⟩] ++
  [⟨0x80, 14, 0, .rw, false, false, 0x0⟩,
   ⟨0x88, 14, 0, .rw, false, false, 0x0⟩,
   ⟨0x90, 14, 0, .rw, false, false, 0x0⟩,
   ⟨0x98, 7, 7, .ro, false, false, 0x0⟩,
   ⟨0x98, 6, 4, .ro, false, false, 0x0⟩,
   ⟨0x98, 3, 3, .ro, false, false, 0x0⟩,
   ⟨0x98, 2, 0, .ro, false, false, 0x0⟩,
   ⟨0xa0, 23, 16, .rwl, true, false, 0x10⟩,
   ⟨0xa0, 15, 0, .rwl, true, false, 0x100⟩,
   ⟨0xa8, 63, 63, .ro, false, false, 0x0⟩,
   ⟨0xa8, 61, 56, .ro, false, false, 0x0⟩,
   ⟨0xa8, 3, 0, .ro, false, false, 0x0⟩] ++
  [⟨0xb0, 63, 32, .ro, false, false, 0x0⟩,
   ⟨0xb0, 31, 0, .ro, false, false, 0x0⟩,
   ⟨0xb8, 63, 32, .ro, false, false, 0x0⟩,
   ⟨0xb8, 31, 0, .ro, false, false, 0x0⟩,
   ⟨0xc0, 63, 40, .ro, false, false, 0x0⟩,
   ⟨0xc0, 4, 0, .ro, false, false, 0x0⟩,
   ⟨0xc8, 63, 0, .ro, false, false, 0x0⟩,
   ⟨0xd0, 63, 0, .ro, false, false, 0x0⟩,
   ⟨0xd8, 63, 0, .ro, false, false, 0x0⟩,
   ⟨0xe0, 63, 32, .ro, false, false, 0x0⟩,
   ⟨0xe0, 31, 16, .ro, false, false, 0x0⟩,
   ⟨0xe0, 15, 0, .ro, false, false, 0x0⟩] ++
  [⟨0xe8, 21, 0, .ro, false, false, 0x0⟩]

/-- Tables 06-13 and 07-7: the fields of SLV. -/
def fieldsSlv : List FieldRow :=
  [⟨0x8, 63, 62, .ro, false, false, 0x0⟩,
   ⟨0x8, 47, 40, .ro, false, false, 0x40⟩,
   ⟨0x8, 39, 32, .ro, false, false, 0x10⟩,
   ⟨0x8, 15, 8, .ro, false, false, 0x3f⟩,
   ⟨0x8, 7, 0, .ro, false, false, 0x7⟩,
   ⟨0x10, 63, 63, .rw, true, false, 0x0⟩,
   ⟨0x10, 0, 0, .rwl, false, false, 0x0⟩,
   ⟨0x18, 19, 16, .ro, false, false, 0x0⟩,
   ⟨0x18, 8, 0, .ro, false, false, 0x0⟩,
   ⟨0x20, 18, 18, .w1c, false, false, 0x0⟩,
   ⟨0x20, 17, 17, .w1c, false, false, 0x0⟩,
   ⟨0x20, 16, 16, .w1c, false, false, 0x0⟩] ++
  [⟨0x20, 2, 2, .w1c, false, false, 0x0⟩,
   ⟨0x20, 1, 1, .w1c, false, false, 0x0⟩,
   ⟨0x20, 0, 0, .w1c, false, false, 0x0⟩,
   ⟨0x40, 63, 0, .rwl, true, false, 0x0⟩,
   ⟨0x48, 63, 0, .rwl, true, false, 0x0⟩,
   ⟨0x50, 63, 0, .rwl, true, false, 0x0⟩,
   ⟨0x58, 63, 0, .rwl, true, false, 0x0⟩,
   ⟨0x60, 3, 0, .rwl, true, false, 0x1⟩,
   ⟨0x68, 63, 0, .rwl, true, true, 0x3d70000000000000⟩,
   ⟨0x80, 63, 0, .ro, false, false, 0x0⟩,
   ⟨0x88, 63, 0, .ro, false, false, 0x0⟩,
   ⟨0x90, 63, 0, .ro, false, false, 0x0⟩] ++
  [⟨0x98, 63, 48, .ro, false, false, 0x0⟩,
   ⟨0x98, 31, 0, .ro, false, false, 0x0⟩,
   ⟨0xa0, 63, 56, .ro, false, false, 0x0⟩,
   ⟨0xa0, 47, 32, .ro, false, false, 0x0⟩,
   ⟨0xa0, 7, 0, .ro, false, false, 0x0⟩,
   ⟨0xa8, 63, 0, .ro, false, false, 0x0⟩,
   ⟨0x8, 61, 56, .ro, false, false, 0x10⟩,
   ⟨0x8, 31, 24, .ro, false, false, 0x80⟩,
   ⟨0x8, 23, 16, .ro, false, false, 0xc⟩,
   ⟨0x18, 20, 20, .ro, false, false, 0x0⟩,
   ⟨0x20, 3, 3, .w1c, false, false, 0x0⟩,
   ⟨0xb0, 63, 0, .ro, false, false, 0x0⟩] ++
  [⟨0xb8, 63, 0, .ro, false, false, 0x0⟩,
   ⟨0xc0, 63, 0, .ro, false, false, 0x0⟩,
   ⟨0xc8, 63, 0, .ro, false, false, 0x0⟩,
   ⟨0xd0, 7, 0, .ro, false, false, 0x0⟩]

/-- Table 08-10: the fields of LCH. -/
def fieldsLch : List FieldRow :=
  [⟨0x8, 63, 56, .ro, false, false, 0x20⟩,
   ⟨0x8, 55, 48, .ro, false, false, 0x10⟩,
   ⟨0x8, 47, 32, .ro, false, false, 0x200⟩,
   ⟨0x8, 23, 16, .ro, false, false, 0x8⟩,
   ⟨0x8, 3, 0, .ro, false, false, 0x0⟩,
   ⟨0x10, 63, 63, .rw, true, false, 0x0⟩,
   ⟨0x10, 1, 0, .rwl, true, false, 0x0⟩,
   ⟨0x18, 16, 16, .ro, false, false, 0x0⟩,
   ⟨0x18, 15, 15, .ro, false, false, 0x0⟩,
   ⟨0x18, 14, 14, .ro, false, false, 0x0⟩,
   ⟨0x18, 13, 13, .ro, false, false, 0x0⟩,
   ⟨0x18, 12, 12, .ro, false, false, 0x0⟩] ++
  [⟨0x18, 3, 0, .ro, false, false, 0x0⟩,
   ⟨0x20, 18, 18, .w1c, false, false, 0x0⟩,
   ⟨0x20, 17, 17, .w1c, false, false, 0x0⟩,
   ⟨0x20, 16, 16, .w1c, false, false, 0x0⟩,
   ⟨0x20, 1, 1, .w1c, false, false, 0x0⟩,
   ⟨0x20, 0, 0, .w1c, false, false, 0x0⟩,
   ⟨0x40, 63, 0, .ro, false, false, 0x0⟩,
   ⟨0x48, 63, 0, .ro, false, false, 0x0⟩,
   ⟨0x50, 63, 0, .ro, false, false, 0x0⟩,
   ⟨0x58, 63, 0, .ro, false, false, 0x0⟩,
   ⟨0x60, 63, 0, .ro, false, false, 0x0⟩,
   ⟨0x68, 63, 0, .ro, false, false, 0x0⟩] ++
  [⟨0x70, 63, 0, .ro, false, false, 0x0⟩,
   ⟨0x78, 63, 0, .ro, false, false, 0x0⟩,
   ⟨0x80, 63, 0, .ro, false, false, 0x0⟩,
   ⟨0x88, 63, 0, .ro, false, false, 0x0⟩,
   ⟨0x90, 63, 0, .ro, false, false, 0x0⟩,
   ⟨0x98, 63, 0, .ro, false, false, 0x0⟩]

/-- Table 08-11: the fields of HBM. -/
def fieldsHbm : List FieldRow :=
  [⟨0x8, 63, 48, .ro, false, false, 0x18⟩,
   ⟨0x8, 47, 40, .ro, false, false, 0x20⟩,
   ⟨0x8, 39, 32, .ro, false, false, 0x8⟩,
   ⟨0x8, 31, 16, .ro, false, false, 0x2328⟩,
   ⟨0x10, 63, 63, .rw, true, false, 0x0⟩,
   ⟨0x10, 15, 8, .rwl, true, false, 0x10⟩,
   ⟨0x10, 7, 0, .rwl, true, false, 0x18⟩,
   ⟨0x18, 31, 24, .ro, false, false, 0x0⟩,
   ⟨0x18, 23, 16, .ro, false, false, 0x0⟩,
   ⟨0x18, 10, 8, .ro, false, false, 0x0⟩,
   ⟨0x18, 0, 0, .ro, false, false, 0x0⟩,
   ⟨0x20, 18, 18, .w1c, false, false, 0x0⟩] ++
  [⟨0x20, 16, 16, .w1c, false, false, 0x0⟩,
   ⟨0x20, 1, 1, .w1c, false, false, 0x0⟩,
   ⟨0x20, 0, 0, .w1c, false, false, 0x0⟩,
   ⟨0x40, 63, 32, .ro, false, false, 0x0⟩,
   ⟨0x40, 31, 0, .ro, false, false, 0x0⟩,
   ⟨0x48, 37, 0, .ro, false, false, 0x0⟩,
   ⟨0x50, 37, 0, .ro, false, false, 0x0⟩,
   ⟨0x58, 31, 0, .ro, false, false, 0x0⟩,
   ⟨0x60, 15, 0, .ro, false, false, 0x0⟩,
   ⟨0x68, 63, 0, .ro, false, false, 0x0⟩,
   ⟨0x70, 63, 0, .ro, false, false, 0x0⟩]

/-- Table 09-7: the fields of MOV. -/
def fieldsMov : List FieldRow :=
  [⟨0x8, 63, 56, .ro, false, false, 0x40⟩,
   ⟨0x8, 1, 0, .ro, false, false, 0x0⟩,
   ⟨0x10, 63, 63, .rw, true, false, 0x0⟩,
   ⟨0x10, 1, 1, .wo, false, false, 0x0⟩,
   ⟨0x10, 0, 0, .wo, false, false, 0x0⟩,
   ⟨0x18, 19, 16, .ro, false, false, 0x0⟩,
   ⟨0x18, 15, 0, .ro, false, false, 0x0⟩,
   ⟨0x20, 17, 17, .w1c, false, false, 0x0⟩,
   ⟨0x20, 16, 16, .w1c, false, false, 0x0⟩,
   ⟨0x20, 1, 1, .w1c, false, false, 0x0⟩,
   ⟨0x20, 0, 0, .w1c, false, false, 0x0⟩,
   ⟨0x40, 63, 48, .ro, false, false, 0x0⟩] ++
  [⟨0x40, 19, 0, .ro, false, false, 0x0⟩,
   ⟨0x48, 63, 0, .ro, false, false, 0x0⟩,
   ⟨0x50, 63, 0, .ro, false, false, 0x0⟩,
   ⟨0x58, 63, 0, .ro, false, false, 0x0⟩,
   ⟨0x60, 63, 0, .ro, false, false, 0x0⟩,
   ⟨0x68, 39, 0, .ro, false, false, 0x0⟩]

/-- Table 09-8: the fields of QMG. -/
def fieldsQmg : List FieldRow :=
  [⟨0x8, 63, 56, .ro, false, false, 0x14⟩,
   ⟨0x8, 47, 32, .ro, false, false, 0x4000⟩,
   ⟨0x8, 31, 16, .ro, false, false, 0x1000⟩,
   ⟨0x10, 63, 63, .rw, true, false, 0x0⟩,
   ⟨0x18, 16, 16, .ro, false, false, 0x0⟩,
   ⟨0x18, 14, 0, .ro, false, false, 0x0⟩,
   ⟨0x20, 16, 16, .w1c, false, false, 0x0⟩,
   ⟨0x20, 1, 1, .w1c, false, false, 0x0⟩,
   ⟨0x20, 0, 0, .w1c, false, false, 0x0⟩,
   ⟨0x40, 38, 6, .rwl, true, false, 0x0⟩,
   ⟨0x48, 19, 0, .rw, true, false, 0x0⟩,
   ⟨0x50, 1, 0, .wo, false, false, 0x0⟩] ++
  [⟨0x58, 63, 0, .rw, false, false, 0x0⟩,
   ⟨0x60, 63, 0, .rw, false, false, 0x0⟩,
   ⟨0x68, 63, 0, .rw, false, false, 0x0⟩,
   ⟨0x70, 63, 0, .rw, false, false, 0x0⟩,
   ⟨0x78, 63, 0, .rw, false, false, 0x0⟩,
   ⟨0x80, 63, 0, .rw, false, false, 0x0⟩,
   ⟨0x88, 63, 0, .rw, false, false, 0x0⟩,
   ⟨0x90, 63, 0, .rw, false, false, 0x0⟩,
   ⟨0x98, 63, 32, .ro, false, false, 0x0⟩,
   ⟨0x98, 19, 0, .ro, false, false, 0x0⟩,
   ⟨0xa0, 8, 0, .ro, false, false, 0x0⟩,
   ⟨0xa8, 63, 0, .ro, false, false, 0x0⟩] ++
  [⟨0xb0, 63, 0, .ro, false, false, 0x0⟩,
   ⟨0xb8, 63, 0, .ro, false, false, 0x0⟩,
   ⟨0xc0, 63, 0, .ro, false, false, 0x0⟩,
   ⟨0xc8, 63, 0, .ro, false, false, 0x0⟩]

/-- Table 10-14: the fields of FAB. -/
def fieldsFab : List FieldRow :=
  [⟨0x8, 63, 56, .ro, false, false, 0x8⟩,
   ⟨0x8, 55, 40, .ro, false, false, 0xc8⟩,
   ⟨0x8, 35, 32, .ro, false, false, 0x0⟩,
   ⟨0x10, 63, 63, .rw, true, false, 0x0⟩,
   ⟨0x10, 15, 8, .rwl, true, false, 0x10⟩,
   ⟨0x10, 0, 0, .rwl, false, false, 0x1⟩,
   ⟨0x18, 20, 20, .ro, false, false, 0x0⟩,
   ⟨0x18, 19, 16, .ro, false, false, 0x0⟩,
   ⟨0x18, 9, 8, .ro, false, false, 0x0⟩,
   ⟨0x20, 16, 16, .w1c, false, false, 0x0⟩,
   ⟨0x20, 2, 2, .w1c, false, false, 0x0⟩,
   ⟨0x20, 1, 1, .w1c, false, false, 0x0⟩] ++
  [⟨0x20, 0, 0, .w1c, false, false, 0x0⟩,
   ⟨0x40, 28, 24, .ro, false, false, 0x0⟩,
   ⟨0x40, 19, 0, .ro, false, false, 0xfffff⟩,
   ⟨0x48, 63, 0, .ro, false, false, 0x0⟩,
   ⟨0x50, 63, 0, .ro, false, false, 0x0⟩,
   ⟨0x58, 63, 0, .ro, false, false, 0x0⟩,
   ⟨0x60, 63, 0, .ro, false, false, 0x0⟩,
   ⟨0x68, 63, 0, .ro, false, false, 0x0⟩,
   ⟨0x70, 63, 0, .ro, false, false, 0x0⟩,
   ⟨0x78, 63, 0, .ro, false, false, 0x0⟩,
   ⟨0x80, 31, 0, .ro, false, false, 0x0⟩]

/-- Table 10-15: the fields of HUB. -/
def fieldsHub : List FieldRow :=
  [⟨0x8, 63, 56, .ro, false, false, 0x11⟩,
   ⟨0x8, 55, 48, .ro, false, false, 0x10⟩,
   ⟨0x8, 47, 40, .ro, false, false, 0xc⟩,
   ⟨0x8, 39, 32, .ro, false, false, 0xe⟩,
   ⟨0x8, 31, 24, .ro, false, false, 0x8⟩,
   ⟨0x8, 23, 16, .ro, false, false, 0x8⟩,
   ⟨0x10, 63, 63, .rw, true, false, 0x0⟩,
   ⟨0x10, 41, 32, .rwl, true, false, 0x3e8⟩,
   ⟨0x18, 7, 0, .ro, false, false, 0x0⟩,
   ⟨0x20, 20, 20, .w1c, false, false, 0x0⟩,
   ⟨0x20, 19, 19, .w1c, false, false, 0x0⟩,
   ⟨0x20, 16, 16, .w1c, false, false, 0x0⟩] ++
  [⟨0x20, 2, 2, .w1c, false, false, 0x0⟩,
   ⟨0x20, 1, 1, .w1c, false, false, 0x0⟩,
   ⟨0x20, 0, 0, .w1c, false, false, 0x0⟩,
   ⟨0x40, 19, 0, .rwl, false, false, 0xfffff⟩,
   ⟨0x48, 19, 0, .rw, true, false, 0x11244⟩,
   ⟨0x50, 2, 0, .rw, false, false, 0x0⟩,
   ⟨0x58, 63, 60, .rw, true, false, 0x0⟩,
   ⟨0x58, 47, 32, .rw, true, false, 0x0⟩,
   ⟨0x58, 16, 0, .rw, true, false, 0x0⟩,
   ⟨0x60, 49, 32, .rw, true, false, 0x0⟩,
   ⟨0x60, 16, 0, .rw, true, false, 0x0⟩,
   ⟨0x68, 16, 0, .rw, true, false, 0x0⟩] ++
  [⟨0x70, 63, 63, .rw, false, false, 0x0⟩,
   ⟨0x70, 19, 0, .rw, false, false, 0x0⟩,
   ⟨0x78, 7, 0, .rw, false, false, 0x0⟩,
   ⟨0x80, 63, 63, .rw, false, false, 0x0⟩,
   ⟨0x80, 62, 60, .rw, true, false, 0x0⟩,
   ⟨0x80, 59, 56, .rw, false, false, 0x0⟩,
   ⟨0x80, 39, 0, .rw, true, false, 0x0⟩,
   ⟨0x88, 39, 0, .rw, true, false, 0x0⟩,
   ⟨0x90, 63, 0, .rw, true, false, 0x0⟩,
   ⟨0x98, 18, 16, .rw, false, false, 0x0⟩,
   ⟨0x98, 8, 0, .rw, true, false, 0x0⟩,
   ⟨0xa0, 63, 63, .rw, false, false, 0x0⟩] ++
  [⟨0xa0, 62, 62, .rw, false, false, 0x0⟩,
   ⟨0xa0, 61, 60, .rw, true, false, 0x0⟩,
   ⟨0xa0, 20, 16, .rw, true, false, 0x0⟩,
   ⟨0xa0, 6, 0, .rw, false, false, 0x0⟩,
   ⟨0xa8, 63, 0, .ro, false, false, 0x0⟩,
   ⟨0xb0, 63, 0, .ro, false, false, 0x0⟩,
   ⟨0xb8, 63, 0, .ro, false, false, 0x0⟩,
   ⟨0xc0, 63, 0, .ro, false, false, 0x0⟩,
   ⟨0xc8, 63, 0, .ro, false, false, 0x0⟩,
   ⟨0xd0, 63, 0, .ro, false, false, 0x0⟩,
   ⟨0xd8, 63, 0, .ro, false, false, 0x0⟩,
   ⟨0xe0, 33, 17, .ro, false, false, 0x0⟩] ++
  [⟨0xe0, 16, 0, .ro, false, false, 0x0⟩,
   ⟨0xe8, 63, 0, .ro, false, false, 0x0⟩,
   ⟨0xf0, 63, 0, .ro, false, false, 0x0⟩,
   ⟨0xf8, 63, 0, .ro, false, false, 0x0⟩]

/-- Table 11-7: the fields of CHN. -/
def fieldsChn : List FieldRow :=
  [⟨0x8, 63, 56, .ro, false, false, 0xc⟩,
   ⟨0x8, 55, 48, .ro, false, false, 0x40⟩,
   ⟨0x8, 47, 32, .ro, false, false, 0x1000⟩,
   ⟨0x8, 7, 0, .ro, false, false, 0x10⟩,
   ⟨0x10, 63, 63, .rw, true, false, 0x0⟩,
   ⟨0x10, 47, 32, .rwl, true, false, 0x3e8⟩,
   ⟨0x10, 23, 0, .rwl, true, true, 0x10000⟩,
   ⟨0x18, 22, 16, .ro, false, false, 0x0⟩,
   ⟨0x18, 12, 0, .ro, false, false, 0x0⟩,
   ⟨0x20, 19, 19, .w1c, false, false, 0x0⟩,
   ⟨0x20, 18, 18, .w1c, false, false, 0x0⟩,
   ⟨0x20, 17, 17, .w1c, false, false, 0x0⟩] ++
  [⟨0x20, 16, 16, .w1c, false, false, 0x0⟩,
   ⟨0x20, 1, 1, .w1c, false, false, 0x0⟩,
   ⟨0x20, 0, 0, .w1c, false, false, 0x0⟩,
   ⟨0x40, 18, 16, .rw, true, false, 0x0⟩,
   ⟨0x40, 11, 0, .rw, false, false, 0x0⟩,
   ⟨0x48, 63, 63, .ro, false, false, 0x0⟩,
   ⟨0x48, 49, 32, .ro, false, false, 0x0⟩,
   ⟨0x48, 16, 0, .ro, false, false, 0x0⟩,
   ⟨0x50, 63, 32, .ro, false, false, 0x0⟩,
   ⟨0x50, 31, 0, .ro, false, false, 0x0⟩,
   ⟨0x58, 3, 0, .rw, false, false, 0x0⟩,
   ⟨0x60, 63, 32, .ro, false, false, 0x0⟩] ++
  [⟨0x60, 26, 24, .ro, false, false, 0x0⟩,
   ⟨0x60, 16, 0, .ro, false, false, 0x0⟩,
   ⟨0x68, 63, 0, .ro, false, false, 0x0⟩,
   ⟨0x70, 63, 0, .ro, false, false, 0x0⟩,
   ⟨0x78, 63, 0, .ro, false, false, 0x0⟩,
   ⟨0x80, 63, 0, .ro, false, false, 0x0⟩,
   ⟨0x88, 63, 0, .ro, false, false, 0x0⟩,
   ⟨0x90, 63, 0, .ro, false, false, 0x0⟩,
   ⟨0x98, 63, 0, .ro, false, false, 0x0⟩]

/-- Table 13-6: the fields of FIO. -/
def fieldsFio : List FieldRow :=
  [⟨0x8, 63, 56, .ro, false, false, 0x2⟩,
   ⟨0x8, 55, 40, .ro, false, false, 0x190⟩,
   ⟨0x8, 39, 32, .ro, false, false, 0x14⟩,
   ⟨0x8, 31, 24, .ro, false, false, 0xc⟩,
   ⟨0x8, 7, 0, .ro, false, false, 0x10⟩,
   ⟨0x10, 63, 63, .rw, true, false, 0x0⟩,
   ⟨0x10, 10, 8, .rw, true, false, 0x0⟩,
   ⟨0x10, 5, 4, .rwl, false, false, 0x0⟩,
   ⟨0x10, 0, 0, .rw, true, false, 0x0⟩,
   ⟨0x18, 19, 16, .ro, false, false, 0x0⟩,
   ⟨0x18, 5, 4, .ro, false, false, 0x0⟩,
   ⟨0x20, 17, 17, .w1c, false, false, 0x0⟩] ++
  [⟨0x20, 16, 16, .w1c, false, false, 0x0⟩,
   ⟨0x20, 3, 3, .w1c, false, false, 0x0⟩,
   ⟨0x20, 2, 2, .w1c, false, false, 0x0⟩,
   ⟨0x20, 1, 1, .w1c, false, false, 0x0⟩,
   ⟨0x20, 0, 0, .w1c, false, false, 0x0⟩,
   ⟨0x40, 47, 0, .rw, true, false, 0x0⟩,
   ⟨0x48, 47, 0, .rw, true, false, 0x0⟩,
   ⟨0x50, 31, 0, .rw, true, false, 0x0⟩,
   ⟨0x58, 31, 0, .rw, true, false, 0x0⟩,
   ⟨0x60, 15, 0, .rw, true, false, 0xb860⟩,
   ⟨0x68, 31, 0, .rw, true, false, 0x0⟩,
   ⟨0x70, 16, 0, .rw, true, false, 0x1⟩] ++
  [⟨0x78, 31, 0, .rw, true, false, 0x989680⟩,
   ⟨0x80, 23, 0, .rw, true, false, 0x186a0⟩,
   ⟨0x88, 38, 12, .rw, true, false, 0x0⟩,
   ⟨0x90, 38, 12, .rw, true, false, 0x0⟩,
   ⟨0x98, 38, 12, .rw, true, false, 0x0⟩,
   ⟨0xa0, 20, 0, .rw, true, false, 0x1⟩,
   ⟨0xa8, 38, 12, .rw, true, false, 0x0⟩,
   ⟨0xb0, 12, 0, .rw, true, false, 0x0⟩,
   ⟨0xb8, 38, 12, .rw, true, false, 0x0⟩,
   ⟨0xc0, 4, 0, .rw, true, false, 0x0⟩,
   ⟨0xc8, 38, 12, .rw, true, false, 0x0⟩,
   ⟨0xd0, 4, 0, .rw, true, false, 0xa⟩] ++
  [⟨0xd8, 19, 0, .ro, false, false, 0x0⟩,
   ⟨0xe0, 19, 0, .rw, true, false, 0x0⟩,
   ⟨0xe8, 19, 0, .rw, true, false, 0x0⟩,
   ⟨0xf0, 63, 0, .ro, false, false, 0x0⟩,
   ⟨0xf8, 63, 0, .ro, false, false, 0x0⟩,
   ⟨0x100, 63, 0, .ro, false, false, 0x0⟩,
   ⟨0x108, 63, 0, .ro, false, false, 0x0⟩,
   ⟨0x110, 63, 0, .ro, false, false, 0x0⟩,
   ⟨0x118, 63, 0, .ro, false, false, 0x0⟩,
   ⟨0x120, 63, 0, .ro, false, false, 0x0⟩,
   ⟨0x128, 63, 0, .ro, false, false, 0x0⟩,
   ⟨0x130, 20, 0, .ro, false, false, 0x0⟩] ++
  [⟨0x138, 63, 0, .ro, false, false, 0x0⟩,
   ⟨0x140, 63, 0, .ro, false, false, 0x0⟩,
   ⟨0x148, 63, 0, .ro, false, false, 0x0⟩]

/-- Table 15-7: the fields of SPO. -/
def fieldsSpo : List FieldRow :=
  [⟨0x8, 63, 56, .ro, false, false, 0x20⟩,
   ⟨0x8, 55, 48, .ro, false, false, 0x2⟩,
   ⟨0x8, 47, 32, .ro, false, false, 0x800⟩,
   ⟨0x8, 31, 16, .ro, false, false, 0x40⟩,
   ⟨0x8, 7, 0, .ro, false, false, 0x8⟩,
   ⟨0x10, 63, 63, .rw, true, false, 0x0⟩,
   ⟨0x18, 19, 16, .ro, false, false, 0x0⟩,
   ⟨0x18, 2, 0, .ro, false, false, 0x0⟩,
   ⟨0x20, 19, 19, .w1c, false, false, 0x0⟩,
   ⟨0x20, 16, 16, .w1c, false, false, 0x0⟩,
   ⟨0x20, 4, 4, .w1c, false, false, 0x0⟩,
   ⟨0x20, 3, 3, .w1c, false, false, 0x0⟩] ++
  [⟨0x20, 2, 2, .w1c, false, false, 0x0⟩,
   ⟨0x20, 1, 1, .w1c, false, false, 0x0⟩,
   ⟨0x20, 0, 0, .w1c, false, false, 0x0⟩,
   ⟨0x40, 2, 0, .rw, true, false, 0x0⟩,
   ⟨0x48, 16, 16, .rw, true, false, 0x0⟩,
   ⟨0x48, 12, 8, .rw, false, false, 0x3⟩,
   ⟨0x48, 0, 0, .rw, true, false, 0x0⟩,
   ⟨0x50, 3, 0, .rw, true, false, 0x0⟩,
   ⟨0x58, 38, 12, .rw, true, false, 0x0⟩,
   ⟨0x60, 63, 12, .rw, true, false, 0x0⟩,
   ⟨0x68, 47, 12, .rw, true, false, 0x0⟩,
   ⟨0x70, 19, 0, .rw, true, false, 0x0⟩] ++
  [⟨0x78, 5, 0, .rw, false, false, 0x0⟩,
   ⟨0x80, 63, 63, .rw, true, false, 0x0⟩,
   ⟨0x80, 49, 32, .rw, true, false, 0x0⟩,
   ⟨0x80, 17, 0, .rw, true, false, 0x0⟩,
   ⟨0x88, 63, 63, .rw, false, false, 0x0⟩,
   ⟨0x88, 31, 0, .rw, true, false, 0x0⟩,
   ⟨0x90, 31, 0, .rw, true, false, 0xea60⟩,
   ⟨0x98, 19, 0, .rw, true, false, 0xc8⟩,
   ⟨0xa0, 15, 0, .rw, true, false, 0x32⟩,
   ⟨0xa8, 15, 0, .rw, true, false, 0x64⟩,
   ⟨0xb0, 31, 0, .rw, true, false, 0x927c0⟩,
   ⟨0xb8, 63, 0, .rw, true, false, 0x0⟩] ++
  [⟨0xc0, 31, 0, .rw, true, false, 0x4e20⟩,
   ⟨0xc8, 63, 48, .rw, false, false, 0x64⟩,
   ⟨0xc8, 47, 32, .rw, false, false, 0x64⟩,
   ⟨0xc8, 31, 16, .rw, false, false, 0x64⟩,
   ⟨0xc8, 15, 0, .rw, false, false, 0x64⟩,
   ⟨0xd0, 15, 0, .rw, true, false, 0x1f4⟩,
   ⟨0xd8, 63, 0, .ro, false, false, 0x0⟩,
   ⟨0xe0, 63, 0, .ro, false, false, 0x0⟩,
   ⟨0xe8, 63, 0, .ro, false, false, 0x0⟩,
   ⟨0xf0, 63, 0, .ro, false, false, 0x0⟩,
   ⟨0xf8, 63, 0, .ro, false, false, 0x0⟩,
   ⟨0x100, 63, 0, .ro, false, false, 0x0⟩] ++
  [⟨0x108, 31, 0, .ro, false, false, 0x0⟩,
   ⟨0x110, 31, 0, .ro, false, false, 0x0⟩,
   ⟨0x118, 47, 0, .ro, false, false, 0x0⟩,
   ⟨0x120, 49, 32, .ro, false, false, 0x0⟩,
   ⟨0x120, 17, 0, .ro, false, false, 0x0⟩,
   ⟨0x128, 63, 0, .ro, false, false, 0x0⟩,
   ⟨0x130, 63, 0, .ro, false, false, 0x0⟩,
   ⟨0x138, 7, 0, .ro, false, false, 0x0⟩,
   ⟨0x140, 63, 0, .ro, false, false, 0x0⟩,
   ⟨0x148, 63, 0, .ro, false, false, 0x0⟩,
   ⟨0x150, 7, 0, .ro, false, false, 0x0⟩]

/-- The header fields that every page has beside its own (Tables 00-7 and 00-10; R10 to R12): STAT[63:62], ERR[63:62],
ERR_MASK, IRQ_EN, LOCK, ID and CFG_DIGEST. CAP has no field of its own here: its row has no bits, so that what no block gives a field stays
reserved (R7). -/
def fieldsHeader : List FieldRow :=
  [⟨0x0, 63, 0, .ro, false, false, 0⟩, ⟨0x8, 0, 1, .ro, false, false, 0⟩, ⟨0x10, 63, 63, .rw, true, false, 0⟩,
   ⟨0x18, 63, 63, .ro, false, false, 0⟩, ⟨0x18, 62, 62, .ro, false, false, 0⟩, ⟨0x20, 63, 63, .w1c, false, false, 0⟩, ⟨0x20, 62, 62, .w1c, false, false, 0⟩,
   ⟨0x28, 63, 0, .rw, false, false, 0⟩, ⟨0x30, 63, 0, .rw, false, false, 0⟩, ⟨0x38, 63, 0, .ro, false, false, 0⟩]

/-- The block-specific rows of a block. -/
def blockFields : Block → List FieldRow
  | .glb => fieldsGlb
  | .prt => fieldsPrt
  | .aud => fieldsAud
  | .cad => fieldsCad
  | .pwr => fieldsPwr
  | .thm => fieldsThm
  | .mgt => fieldsMgt
  | .sec => fieldsSec
  | .lcs => fieldsLcs
  | .clu => fieldsClu
  | .slv => fieldsSlv
  | .lch => fieldsLch
  | .hbm => fieldsHbm
  | .mov => fieldsMov
  | .qmg => fieldsQmg
  | .fab => fieldsFab
  | .hub => fieldsHub
  | .chn => fieldsChn
  | .fio => fieldsFio
  | .spo => fieldsSpo

/-! The named fields, BLOCK_REG_FIELD. -/
namespace F

abbrev CLU_CAP_VLEN64 : Fld := ⟨.clu, 0x8, 63, 56⟩
abbrev CLU_CAP_TQ_DEPTH : Fld := ⟨.clu, 0x8, 55, 48⟩
abbrev CLU_CAP_ISTORE_KIB : Fld := ⟨.clu, 0x8, 47, 32⟩
abbrev CLU_CAP_SPAD_KIB : Fld := ⟨.clu, 0x8, 31, 16⟩
abbrev CLU_CAP_MOVERS : Fld := ⟨.clu, 0x8, 15, 8⟩
abbrev CLU_CAP_THREADS : Fld := ⟨.clu, 0x8, 7, 0⟩
abbrev CLU_CTRL_LOCK : Fld := ⟨.clu, 0x10, 63, 63⟩
abbrev CLU_STAT_FAULTED : Fld := ⟨.clu, 0x18, 17, 17⟩
abbrev CLU_STAT_WIPING : Fld := ⟨.clu, 0x18, 16, 16⟩
abbrev CLU_STAT_BOUND_ACTIVE : Fld := ⟨.clu, 0x18, 14, 14⟩
abbrev CLU_STAT_TQ_OCC : Fld := ⟨.clu, 0x18, 13, 9⟩
abbrev CLU_STAT_MTX_BUSY : Fld := ⟨.clu, 0x18, 8, 8⟩
abbrev CLU_STAT_RUNNING : Fld := ⟨.clu, 0x18, 7, 0⟩
abbrev CLU_ERR_FAULTS : Fld := ⟨.clu, 0x20, 17, 16⟩
abbrev CLU_ERR_ERRORS : Fld := ⟨.clu, 0x20, 5, 0⟩
abbrev CLU_THR_RUN_STOP : Fld := ⟨.clu, 0x40, 15, 8⟩
abbrev CLU_THR_RUN_START : Fld := ⟨.clu, 0x40, 7, 0⟩
abbrev CLU_THR_STATE_STATE : Fld := ⟨.clu, 0x48, 31, 0⟩
abbrev CLU_HALT_CAUSE_CAUSE : Fld := ⟨.clu, 0x50, 63, 0⟩
abbrev CLU_THR_PC0_PC : Fld := ⟨.clu, 0x58, 14, 0⟩
abbrev CLU_THR_PC1_PC : Fld := ⟨.clu, 0x60, 14, 0⟩
abbrev CLU_THR_PC2_PC : Fld := ⟨.clu, 0x68, 14, 0⟩
abbrev CLU_THR_PC3_PC : Fld := ⟨.clu, 0x70, 14, 0⟩
abbrev CLU_THR_PC4_PC : Fld := ⟨.clu, 0x78, 14, 0⟩
abbrev CLU_THR_PC5_PC : Fld := ⟨.clu, 0x80, 14, 0⟩
abbrev CLU_THR_PC6_PC : Fld := ⟨.clu, 0x88, 14, 0⟩
abbrev CLU_THR_PC7_PC : Fld := ⟨.clu, 0x90, 14, 0⟩
abbrev CLU_ENG_OWNER_MTX_HELD : Fld := ⟨.clu, 0x98, 7, 7⟩
abbrev CLU_ENG_OWNER_MTX_THREAD : Fld := ⟨.clu, 0x98, 6, 4⟩
abbrev CLU_ENG_OWNER_TQ_HELD : Fld := ⟨.clu, 0x98, 3, 3⟩
abbrev CLU_ENG_OWNER_TQ_THREAD : Fld := ⟨.clu, 0x98, 2, 0⟩
abbrev CLU_SCHED_AGE_LIMIT : Fld := ⟨.clu, 0xa0, 23, 16⟩
abbrev CLU_SCHED_QUANTUM : Fld := ⟨.clu, 0xa0, 15, 0⟩
abbrev CLU_BIND_BOUND : Fld := ⟨.clu, 0xa8, 63, 63⟩
abbrev CLU_BIND_CHANNEL : Fld := ⟨.clu, 0xa8, 61, 56⟩
abbrev CLU_BIND_SPAD_RES : Fld := ⟨.clu, 0xa8, 3, 0⟩
abbrev CLU_TM_DONE_A_TM1 : Fld := ⟨.clu, 0xb0, 63, 32⟩
abbrev CLU_TM_DONE_A_TM0 : Fld := ⟨.clu, 0xb0, 31, 0⟩
abbrev CLU_TM_DONE_B_TM3 : Fld := ⟨.clu, 0xb8, 63, 32⟩
abbrev CLU_TM_DONE_B_TM2 : Fld := ⟨.clu, 0xb8, 31, 0⟩
abbrev CLU_TQ_STAT_PUSH_SEQ : Fld := ⟨.clu, 0xc0, 63, 40⟩
abbrev CLU_TQ_STAT_OCC : Fld := ⟨.clu, 0xc0, 4, 0⟩
abbrev CLU_ISSUE_CNT_COUNT : Fld := ⟨.clu, 0xc8, 63, 0⟩
abbrev CLU_IDLE_CNT_COUNT : Fld := ⟨.clu, 0xd0, 63, 0⟩
abbrev CLU_SWITCH_CNT_COUNT : Fld := ⟨.clu, 0xd8, 63, 0⟩
abbrev CLU_ECC_STAT_SPAD_CE : Fld := ⟨.clu, 0xe0, 63, 32⟩
abbrev CLU_ECC_STAT_ISTORE_CE : Fld := ⟨.clu, 0xe0, 31, 16⟩
abbrev CLU_ECC_STAT_TQ_CE : Fld := ⟨.clu, 0xe0, 15, 0⟩
abbrev CLU_ECC_ADDR_LAST_CE : Fld := ⟨.clu, 0xe8, 21, 0⟩
abbrev SLV_CAP_KIND : Fld := ⟨.slv, 0x8, 63, 62⟩
abbrev SLV_CAP_MAX_M : Fld := ⟨.slv, 0x8, 47, 40⟩
abbrev SLV_CAP_MAX_DEGREE : Fld := ⟨.slv, 0x8, 39, 32⟩
abbrev SLV_CAP_PC_SET : Fld := ⟨.slv, 0x8, 15, 8⟩
abbrev SLV_CAP_METHOD_SET : Fld := ⟨.slv, 0x8, 7, 0⟩
abbrev SLV_CTRL_LOCK : Fld := ⟨.slv, 0x10, 63, 63⟩
abbrev SLV_CTRL_EN : Fld := ⟨.slv, 0x10, 0, 0⟩
abbrev SLV_STAT_STATE : Fld := ⟨.slv, 0x18, 19, 16⟩
abbrev SLV_STAT_SLOTS : Fld := ⟨.slv, 0x18, 8, 0⟩
abbrev SLV_ERR_COLL_POISONED : Fld := ⟨.slv, 0x20, 18, 18⟩
abbrev SLV_ERR_TILE_CHECK : Fld := ⟨.slv, 0x20, 17, 17⟩
abbrev SLV_ERR_ECC_UE : Fld := ⟨.slv, 0x20, 16, 16⟩
abbrev SLV_ERR_BIND_REFUSED : Fld := ⟨.slv, 0x20, 2, 2⟩
abbrev SLV_ERR_LAUNCH_REFUSED : Fld := ⟨.slv, 0x20, 1, 1⟩
abbrev SLV_ERR_CMD_ERROR : Fld := ⟨.slv, 0x20, 0, 0⟩
abbrev SLV_BIND0_CLUSTERS : Fld := ⟨.slv, 0x40, 63, 0⟩
abbrev SLV_BIND1_CLUSTERS : Fld := ⟨.slv, 0x48, 63, 0⟩
abbrev SLV_BIND2_CLUSTERS : Fld := ⟨.slv, 0x50, 63, 0⟩
abbrev SLV_BIND3_CLUSTERS : Fld := ⟨.slv, 0x58, 63, 0⟩
abbrev SLV_SPAD_RES : Fld := ⟨.slv, 0x60, 3, 0⟩
abbrev SLV_TAU_TAU : Fld := ⟨.slv, 0x68, 63, 0⟩
abbrev SLV_LAUNCH_CNT_COUNT : Fld := ⟨.slv, 0x80, 63, 0⟩
abbrev SLV_ITER_CNT_COUNT : Fld := ⟨.slv, 0x88, 63, 0⟩
abbrev SLV_PIVREPL_CNT_COUNT : Fld := ⟨.slv, 0x90, 63, 0⟩
abbrev SLV_CUR_TAG : Fld := ⟨.slv, 0x98, 63, 48⟩
abbrev SLV_CUR_ITER : Fld := ⟨.slv, 0x98, 31, 0⟩
abbrev SLV_LAST_STATUS : Fld := ⟨.slv, 0xa0, 63, 56⟩
abbrev SLV_LAST_TAG : Fld := ⟨.slv, 0xa0, 47, 32⟩
abbrev SLV_LAST_CAUSE : Fld := ⟨.slv, 0xa0, 7, 0⟩
abbrev SLV_BUSY_TICKS_COUNT : Fld := ⟨.slv, 0xa8, 63, 0⟩
abbrev SLV_CAP_SYS_LOG2 : Fld := ⟨.slv, 0x8, 61, 56⟩
abbrev SLV_CAP_MAX_DENSE : Fld := ⟨.slv, 0x8, 31, 24⟩
abbrev SLV_CAP_SPARSE_LOG2 : Fld := ⟨.slv, 0x8, 23, 16⟩
abbrev SLV_STAT_RT_PRIV : Fld := ⟨.slv, 0x18, 20, 20⟩
abbrev SLV_ERR_PRIV_REFUSED : Fld := ⟨.slv, 0x20, 3, 3⟩
abbrev SLV_SYS_CNT_COUNT : Fld := ⟨.slv, 0xb0, 63, 0⟩
abbrev SLV_ZERO_CNT_COUNT : Fld := ⟨.slv, 0xb8, 63, 0⟩
abbrev SLV_OVF_CNT_COUNT : Fld := ⟨.slv, 0xc0, 63, 0⟩
abbrev SLV_UNFIN_CNT_COUNT : Fld := ⟨.slv, 0xc8, 63, 0⟩
abbrev SLV_SET_MASK : Fld := ⟨.slv, 0xd0, 7, 0⟩
abbrev LCH_CAP_CACHE_MIB : Fld := ⟨.lch, 0x8, 63, 56⟩
abbrev LCH_CAP_WAYS : Fld := ⟨.lch, 0x8, 55, 48⟩
abbrev LCH_CAP_WINDOW : Fld := ⟨.lch, 0x8, 47, 32⟩
abbrev LCH_CAP_STREAMS : Fld := ⟨.lch, 0x8, 23, 16⟩
abbrev LCH_CAP_STACK : Fld := ⟨.lch, 0x8, 3, 0⟩
abbrev LCH_CTRL_LOCK : Fld := ⟨.lch, 0x10, 63, 63⟩
abbrev LCH_CTRL_ALLOC : Fld := ⟨.lch, 0x10, 1, 0⟩
abbrev LCH_STAT_READY : Fld := ⟨.lch, 0x18, 16, 16⟩
abbrev LCH_STAT_THROTTLED : Fld := ⟨.lch, 0x18, 15, 15⟩
abbrev LCH_STAT_FENCED : Fld := ⟨.lch, 0x18, 14, 14⟩
abbrev LCH_STAT_COW_ACTIVE : Fld := ⟨.lch, 0x18, 13, 13⟩
abbrev LCH_STAT_WIPING : Fld := ⟨.lch, 0x18, 12, 12⟩
abbrev LCH_STAT_STREAMS_ACT : Fld := ⟨.lch, 0x18, 3, 0⟩
abbrev LCH_ERR_FENCED : Fld := ⟨.lch, 0x20, 18, 18⟩
abbrev LCH_ERR_TILE_CHECK : Fld := ⟨.lch, 0x20, 17, 17⟩
abbrev LCH_ERR_ECC_UE : Fld := ⟨.lch, 0x20, 16, 16⟩
abbrev LCH_ERR_STREAM_BAD : Fld := ⟨.lch, 0x20, 1, 1⟩
abbrev LCH_ERR_OP_BAD : Fld := ⟨.lch, 0x20, 0, 0⟩
abbrev LCH_HIT_CNT_COUNT : Fld := ⟨.lch, 0x40, 63, 0⟩
abbrev LCH_MISS_CNT_COUNT : Fld := ⟨.lch, 0x48, 63, 0⟩
abbrev LCH_NARROW_CNT_COUNT : Fld := ⟨.lch, 0x50, 63, 0⟩
abbrev LCH_SECTOR_CNT_COUNT : Fld := ⟨.lch, 0x58, 63, 0⟩
abbrev LCH_ATOMIC_CNT_COUNT : Fld := ⟨.lch, 0x60, 63, 0⟩
abbrev LCH_STREAM_CNT_COUNT : Fld := ⟨.lch, 0x68, 63, 0⟩
abbrev LCH_ENTRY_CNT_COUNT : Fld := ⟨.lch, 0x70, 63, 0⟩
abbrev LCH_RECALL_CNT_COUNT : Fld := ⟨.lch, 0x78, 63, 0⟩
abbrev LCH_COW_HOLD_CNT_COUNT : Fld := ⟨.lch, 0x80, 63, 0⟩
abbrev LCH_THROTTLE_TICKS_COUNT : Fld := ⟨.lch, 0x88, 63, 0⟩
abbrev LCH_READ_BYTES_COUNT : Fld := ⟨.lch, 0x90, 63, 0⟩
abbrev LCH_WRITE_BYTES_COUNT : Fld := ⟨.lch, 0x98, 63, 0⟩
abbrev HBM_CAP_CAP_GIB : Fld := ⟨.hbm, 0x8, 63, 48⟩
abbrev HBM_CAP_PCH : Fld := ⟨.hbm, 0x8, 47, 40⟩
abbrev HBM_CAP_HEIGHT : Fld := ⟨.hbm, 0x8, 39, 32⟩
abbrev HBM_CAP_PIN_MBPS : Fld := ⟨.hbm, 0x8, 31, 16⟩
abbrev HBM_CTRL_LOCK : Fld := ⟨.hbm, 0x10, 63, 63⟩
abbrev HBM_CTRL_CE_WARN : Fld := ⟨.hbm, 0x10, 15, 8⟩
abbrev HBM_CTRL_SCRUB_HOURS : Fld := ⟨.hbm, 0x10, 7, 0⟩
abbrev HBM_STAT_TEMP : Fld := ⟨.hbm, 0x18, 31, 24⟩
abbrev HBM_STAT_TEMP_MAX : Fld := ⟨.hbm, 0x18, 23, 16⟩
abbrev HBM_STAT_TSTATE : Fld := ⟨.hbm, 0x18, 10, 8⟩
abbrev HBM_STAT_TRAINED : Fld := ⟨.hbm, 0x18, 0, 0⟩
abbrev HBM_ERR_FENCED : Fld := ⟨.hbm, 0x20, 18, 18⟩
abbrev HBM_ERR_UE : Fld := ⟨.hbm, 0x20, 16, 16⟩
abbrev HBM_ERR_HOT : Fld := ⟨.hbm, 0x20, 1, 1⟩
abbrev HBM_ERR_CE_RISING : Fld := ⟨.hbm, 0x20, 0, 0⟩
abbrev HBM_CE_CNT_ONDIE : Fld := ⟨.hbm, 0x40, 63, 32⟩
abbrev HBM_CE_CNT_CTRL : Fld := ⟨.hbm, 0x40, 31, 0⟩
abbrev HBM_CE_ADDR_OFFSET : Fld := ⟨.hbm, 0x48, 37, 0⟩
abbrev HBM_UE_ADDR_OFFSET : Fld := ⟨.hbm, 0x50, 37, 0⟩
abbrev HBM_CE_RATE_PER_HOUR : Fld := ⟨.hbm, 0x58, 31, 0⟩
abbrev HBM_TEMP_TREND_MC_PER_S : Fld := ⟨.hbm, 0x60, 15, 0⟩
abbrev HBM_SCRUB_PASS_COUNT : Fld := ⟨.hbm, 0x68, 63, 0⟩
abbrev HBM_REFRESH_2X_TICKS_COUNT : Fld := ⟨.hbm, 0x70, 63, 0⟩
abbrev MOV_CAP_GBPS : Fld := ⟨.mov, 0x8, 63, 56⟩
abbrev MOV_CAP_SERVICE : Fld := ⟨.mov, 0x8, 1, 0⟩
abbrev MOV_CTRL_LOCK : Fld := ⟨.mov, 0x10, 63, 63⟩
abbrev MOV_CTRL_RESUME : Fld := ⟨.mov, 0x10, 1, 1⟩
abbrev MOV_CTRL_STOP : Fld := ⟨.mov, 0x10, 0, 0⟩
abbrev MOV_STAT_STATE : Fld := ⟨.mov, 0x18, 19, 16⟩
abbrev MOV_STAT_DESC_IDX : Fld := ⟨.mov, 0x18, 15, 0⟩
abbrev MOV_ERR_TILE_CHECK : Fld := ⟨.mov, 0x20, 17, 17⟩
abbrev MOV_ERR_ECC_UE : Fld := ⟨.mov, 0x20, 16, 16⟩
abbrev MOV_ERR_HOST_ERR : Fld := ⟨.mov, 0x20, 1, 1⟩
abbrev MOV_ERR_DESC_BAD : Fld := ⟨.mov, 0x20, 0, 0⟩
abbrev MOV_CUR_TAG : Fld := ⟨.mov, 0x40, 63, 48⟩
abbrev MOV_CUR_QUEUE : Fld := ⟨.mov, 0x40, 19, 0⟩
abbrev MOV_BYTES_CNT_COUNT : Fld := ⟨.mov, 0x48, 63, 0⟩
abbrev MOV_DESC_CNT_COUNT : Fld := ⟨.mov, 0x50, 63, 0⟩
abbrev MOV_BAD_CNT_COUNT : Fld := ⟨.mov, 0x58, 63, 0⟩
abbrev MOV_LAST_BAD_ADDR : Fld := ⟨.mov, 0x60, 63, 0⟩
abbrev MOV_WRAP_POS_OFFSET : Fld := ⟨.mov, 0x68, 39, 0⟩
abbrev QMG_CAP_QUEUES_LOG2 : Fld := ⟨.qmg, 0x8, 63, 56⟩
abbrev QMG_CAP_CACHE : Fld := ⟨.qmg, 0x8, 47, 32⟩
abbrev QMG_CAP_PIN_MAX : Fld := ⟨.qmg, 0x8, 31, 16⟩
abbrev QMG_CTRL_LOCK : Fld := ⟨.qmg, 0x10, 63, 63⟩
abbrev QMG_STAT_READY : Fld := ⟨.qmg, 0x18, 16, 16⟩
abbrev QMG_STAT_CACHED : Fld := ⟨.qmg, 0x18, 14, 0⟩
abbrev QMG_ERR_ECC_UE : Fld := ⟨.qmg, 0x20, 16, 16⟩
abbrev QMG_ERR_ADMIT_REFUSED : Fld := ⟨.qmg, 0x20, 1, 1⟩
abbrev QMG_ERR_CTX_BAD : Fld := ⟨.qmg, 0x20, 0, 0⟩
abbrev QMG_CTX_BASE_BASE : Fld := ⟨.qmg, 0x40, 38, 6⟩
abbrev QMG_CTX_SEL_QUEUE : Fld := ⟨.qmg, 0x48, 19, 0⟩
abbrev QMG_CTX_OP_OP : Fld := ⟨.qmg, 0x50, 1, 0⟩
abbrev QMG_CTX_DATA0_DATA : Fld := ⟨.qmg, 0x58, 63, 0⟩
abbrev QMG_CTX_DATA1_DATA : Fld := ⟨.qmg, 0x60, 63, 0⟩
abbrev QMG_CTX_DATA2_DATA : Fld := ⟨.qmg, 0x68, 63, 0⟩
abbrev QMG_CTX_DATA3_DATA : Fld := ⟨.qmg, 0x70, 63, 0⟩
abbrev QMG_CTX_DATA4_DATA : Fld := ⟨.qmg, 0x78, 63, 0⟩
abbrev QMG_CTX_DATA5_DATA : Fld := ⟨.qmg, 0x80, 63, 0⟩
abbrev QMG_CTX_DATA6_DATA : Fld := ⟨.qmg, 0x88, 63, 0⟩
abbrev QMG_CTX_DATA7_DATA : Fld := ⟨.qmg, 0x90, 63, 0⟩
abbrev QMG_RANGE_COUNT : Fld := ⟨.qmg, 0x98, 63, 32⟩
abbrev QMG_RANGE_FIRST : Fld := ⟨.qmg, 0x98, 19, 0⟩
abbrev QMG_DL_SUM_SHARES : Fld := ⟨.qmg, 0xa0, 8, 0⟩
abbrev QMG_CMD_CNT_COUNT : Fld := ⟨.qmg, 0xa8, 63, 0⟩
abbrev QMG_CTX_MISS_CNT_COUNT : Fld := ⟨.qmg, 0xb0, 63, 0⟩
abbrev QMG_DB_CLAMP_CNT_COUNT : Fld := ⟨.qmg, 0xb8, 63, 0⟩
abbrev QMG_ABORT_WON_CNT_COUNT : Fld := ⟨.qmg, 0xc0, 63, 0⟩
abbrev QMG_ABORT_LATE_CNT_COUNT : Fld := ⟨.qmg, 0xc8, 63, 0⟩
abbrev FAB_CAP_LANES : Fld := ⟨.fab, 0x8, 63, 56⟩
abbrev FAB_CAP_GBPS : Fld := ⟨.fab, 0x8, 55, 40⟩
abbrev FAB_CAP_ROLE : Fld := ⟨.fab, 0x8, 35, 32⟩
abbrev FAB_CTRL_LOCK : Fld := ⟨.fab, 0x10, 63, 63⟩
abbrev FAB_CTRL_RETRY_WARN : Fld := ⟨.fab, 0x10, 15, 8⟩
abbrev FAB_CTRL_EN : Fld := ⟨.fab, 0x10, 0, 0⟩
abbrev FAB_STAT_UP : Fld := ⟨.fab, 0x18, 20, 20⟩
abbrev FAB_STAT_LANES_UP : Fld := ⟨.fab, 0x18, 19, 16⟩
abbrev FAB_STAT_LT : Fld := ⟨.fab, 0x18, 9, 8⟩
abbrev FAB_ERR_ECC_UE : Fld := ⟨.fab, 0x20, 16, 16⟩
abbrev FAB_ERR_RETRY_RISING : Fld := ⟨.fab, 0x20, 2, 2⟩
abbrev FAB_ERR_REPLAY_FAIL : Fld := ⟨.fab, 0x20, 1, 1⟩
abbrev FAB_ERR_LINK_DOWN : Fld := ⟨.fab, 0x20, 0, 0⟩
abbrev FAB_PEER_PORT : Fld := ⟨.fab, 0x40, 28, 24⟩
abbrev FAB_PEER_EP : Fld := ⟨.fab, 0x40, 19, 0⟩
abbrev FAB_TX_CELLS_COUNT : Fld := ⟨.fab, 0x48, 63, 0⟩
abbrev FAB_RX_CELLS_COUNT : Fld := ⟨.fab, 0x50, 63, 0⟩
abbrev FAB_FEC_CORR_COUNT : Fld := ⟨.fab, 0x58, 63, 0⟩
abbrev FAB_FEC_UNCORR_COUNT : Fld := ⟨.fab, 0x60, 63, 0⟩
abbrev FAB_REPLAY_CNT_COUNT : Fld := ⟨.fab, 0x68, 63, 0⟩
abbrev FAB_CREDIT_STALL_COUNT : Fld := ⟨.fab, 0x70, 63, 0⟩
abbrev FAB_DOWN_CNT_COUNT : Fld := ⟨.fab, 0x78, 63, 0⟩
abbrev FAB_REPLAY_RATE_PER_S : Fld := ⟨.fab, 0x80, 31, 0⟩
abbrev HUB_CAP_RANKS_LOG2 : Fld := ⟨.hub, 0x8, 63, 56⟩
abbrev HUB_CAP_REPLY_LOG2 : Fld := ⟨.hub, 0x8, 55, 48⟩
abbrev HUB_CAP_COMB_LOG2 : Fld := ⟨.hub, 0x8, 47, 40⟩
abbrev HUB_CAP_FLOWS_LOG2 : Fld := ⟨.hub, 0x8, 39, 32⟩
abbrev HUB_CAP_WIN_LOG2 : Fld := ⟨.hub, 0x8, 31, 24⟩
abbrev HUB_CAP_JOBS : Fld := ⟨.hub, 0x8, 23, 16⟩
abbrev HUB_CTRL_LOCK : Fld := ⟨.hub, 0x10, 63, 63⟩
abbrev HUB_CTRL_COMB_NS : Fld := ⟨.hub, 0x10, 41, 32⟩
abbrev HUB_STAT_ACCEPTING : Fld := ⟨.hub, 0x18, 7, 0⟩
abbrev HUB_ERR_ROUTE_LOST : Fld := ⟨.hub, 0x20, 20, 20⟩
abbrev HUB_ERR_ATOMIC_UNKNOWN : Fld := ⟨.hub, 0x20, 19, 19⟩
abbrev HUB_ERR_ECC_UE : Fld := ⟨.hub, 0x20, 16, 16⟩
abbrev HUB_ERR_REPLY_FULL : Fld := ⟨.hub, 0x20, 2, 2⟩
abbrev HUB_ERR_STALE_TAG : Fld := ⟨.hub, 0x20, 1, 1⟩
abbrev HUB_ERR_DROP : Fld := ⟨.hub, 0x20, 0, 0⟩
abbrev HUB_ENDPOINT_EP : Fld := ⟨.hub, 0x40, 19, 0⟩
abbrev HUB_TC_WEIGHT_WEIGHTS : Fld := ⟨.hub, 0x48, 19, 0⟩
abbrev HUB_JOB_SEL_SLOT : Fld := ⟨.hub, 0x50, 2, 0⟩
abbrev HUB_JOB_CTL_STATE : Fld := ⟨.hub, 0x58, 63, 60⟩
abbrev HUB_JOB_CTL_TAG : Fld := ⟨.hub, 0x58, 47, 32⟩
abbrev HUB_JOB_CTL_MY_RANK : Fld := ⟨.hub, 0x58, 16, 0⟩
abbrev HUB_JOB_RANKS_COUNT : Fld := ⟨.hub, 0x60, 49, 32⟩
abbrev HUB_JOB_RANKS_BASE : Fld := ⟨.hub, 0x60, 16, 0⟩
abbrev HUB_RT_SEL_RANK : Fld := ⟨.hub, 0x68, 16, 0⟩
abbrev HUB_RT_DATA_VALID : Fld := ⟨.hub, 0x70, 63, 63⟩
abbrev HUB_RT_DATA_EP : Fld := ⟨.hub, 0x70, 19, 0⟩
abbrev HUB_WIN_SEL_WINDOW : Fld := ⟨.hub, 0x78, 7, 0⟩
abbrev HUB_WIN_DATA0_VALID : Fld := ⟨.hub, 0x80, 63, 63⟩
abbrev HUB_WIN_DATA0_KIND : Fld := ⟨.hub, 0x80, 62, 60⟩
abbrev HUB_WIN_DATA0_PERM : Fld := ⟨.hub, 0x80, 59, 56⟩
abbrev HUB_WIN_DATA0_OFF_BASE : Fld := ⟨.hub, 0x80, 39, 0⟩
abbrev HUB_WIN_DATA1_SIZE : Fld := ⟨.hub, 0x88, 39, 0⟩
abbrev HUB_WIN_DATA2_LOCAL_BASE : Fld := ⟨.hub, 0x90, 63, 0⟩
abbrev HUB_ROUTE_SEL_SLOT : Fld := ⟨.hub, 0x98, 18, 16⟩
abbrev HUB_ROUTE_SEL_KEY : Fld := ⟨.hub, 0x98, 8, 0⟩
abbrev HUB_ROUTE_DATA_VALID : Fld := ⟨.hub, 0xa0, 63, 63⟩
abbrev HUB_ROUTE_DATA_FAILED : Fld := ⟨.hub, 0xa0, 62, 62⟩
abbrev HUB_ROUTE_DATA_PRI : Fld := ⟨.hub, 0xa0, 61, 60⟩
abbrev HUB_ROUTE_DATA_PORT : Fld := ⟨.hub, 0xa0, 20, 16⟩
abbrev HUB_ROUTE_DATA_ROUTE : Fld := ⟨.hub, 0xa0, 6, 0⟩
abbrev HUB_FWD_CNT_COUNT : Fld := ⟨.hub, 0xa8, 63, 0⟩
abbrev HUB_RETX_CNT_COUNT : Fld := ⟨.hub, 0xb0, 63, 0⟩
abbrev HUB_PATH_FAIL_CNT_COUNT : Fld := ⟨.hub, 0xb8, 63, 0⟩
abbrev HUB_DUP_CNT_COUNT : Fld := ⟨.hub, 0xc0, 63, 0⟩
abbrev HUB_STALE_TAG_CNT_COUNT : Fld := ⟨.hub, 0xc8, 63, 0⟩
abbrev HUB_DROP_CNT_COUNT : Fld := ⟨.hub, 0xd0, 63, 0⟩
abbrev HUB_RETRY_LATER_CNT_COUNT : Fld := ⟨.hub, 0xd8, 63, 0⟩
abbrev HUB_REPLY_OCC_HIGH : Fld := ⟨.hub, 0xe0, 33, 17⟩
abbrev HUB_REPLY_OCC_NOW : Fld := ⟨.hub, 0xe0, 16, 0⟩
abbrev HUB_COMB_CNT_COUNT : Fld := ⟨.hub, 0xe8, 63, 0⟩
abbrev HUB_AGE_FREE_CNT_COUNT : Fld := ⟨.hub, 0xf0, 63, 0⟩
abbrev HUB_FLOW_MISS_CNT_COUNT : Fld := ⟨.hub, 0xf8, 63, 0⟩
abbrev CHN_CAP_COMMS_LOG2 : Fld := ⟨.chn, 0x8, 63, 56⟩
abbrev CHN_CAP_CONTEXTS : Fld := ⟨.chn, 0x8, 55, 48⟩
abbrev CHN_CAP_STAGE_KIB : Fld := ⟨.chn, 0x8, 47, 32⟩
abbrev CHN_CAP_RADIX : Fld := ⟨.chn, 0x8, 7, 0⟩
abbrev CHN_CTRL_LOCK : Fld := ⟨.chn, 0x10, 63, 63⟩
abbrev CHN_CTRL_STALL_MS : Fld := ⟨.chn, 0x10, 47, 32⟩
abbrev CHN_CTRL_THRESHOLD : Fld := ⟨.chn, 0x10, 23, 0⟩
abbrev CHN_STAT_INFLIGHT : Fld := ⟨.chn, 0x18, 22, 16⟩
abbrev CHN_STAT_COMMS : Fld := ⟨.chn, 0x18, 12, 0⟩
abbrev CHN_ERR_CHUNK_CRC : Fld := ⟨.chn, 0x20, 19, 19⟩
abbrev CHN_ERR_RESIDUE : Fld := ⟨.chn, 0x20, 18, 18⟩
abbrev CHN_ERR_COLL_POISONED : Fld := ⟨.chn, 0x20, 17, 17⟩
abbrev CHN_ERR_ECC_UE : Fld := ⟨.chn, 0x20, 16, 16⟩
abbrev CHN_ERR_COMM_REFUSED : Fld := ⟨.chn, 0x20, 1, 1⟩
abbrev CHN_ERR_INFLIGHT_OVER : Fld := ⟨.chn, 0x20, 0, 0⟩
abbrev CHN_COMM_SEL_SLOT : Fld := ⟨.chn, 0x40, 18, 16⟩
abbrev CHN_COMM_SEL_COMM : Fld := ⟨.chn, 0x40, 11, 0⟩
abbrev CHN_COMM_INFO_VALID : Fld := ⟨.chn, 0x48, 63, 63⟩
abbrev CHN_COMM_INFO_MEMBERS : Fld := ⟨.chn, 0x48, 49, 32⟩
abbrev CHN_COMM_INFO_MY_INDEX : Fld := ⟨.chn, 0x48, 16, 0⟩
abbrev CHN_COMM_SEQ_NEXT : Fld := ⟨.chn, 0x50, 63, 32⟩
abbrev CHN_COMM_SEQ_CONFIRMED : Fld := ⟨.chn, 0x50, 31, 0⟩
abbrev CHN_SM_SEL_ENTRY : Fld := ⟨.chn, 0x58, 3, 0⟩
abbrev CHN_SM_DATA0_SEQ : Fld := ⟨.chn, 0x60, 63, 32⟩
abbrev CHN_SM_DATA0_REASON : Fld := ⟨.chn, 0x60, 26, 24⟩
abbrev CHN_SM_DATA0_RANK : Fld := ⟨.chn, 0x60, 16, 0⟩
abbrev CHN_SM_DATA1_LATE_TICKS : Fld := ⟨.chn, 0x68, 63, 0⟩
abbrev CHN_COLL_CNT_COUNT : Fld := ⟨.chn, 0x70, 63, 0⟩
abbrev CHN_RING_CNT_COUNT : Fld := ⟨.chn, 0x78, 63, 0⟩
abbrev CHN_POISON_CNT_COUNT : Fld := ⟨.chn, 0x80, 63, 0⟩
abbrev CHN_EARLY_CNT_COUNT : Fld := ⟨.chn, 0x88, 63, 0⟩
abbrev CHN_BYTES_CNT_COUNT : Fld := ⟨.chn, 0x90, 63, 0⟩
abbrev CHN_CONFIRM_MAX_TICKS : Fld := ⟨.chn, 0x98, 63, 0⟩
abbrev CAD_CAP_MAX_RATE : Fld := ⟨.cad, 0x8, 63, 56⟩
abbrev CAD_CAP_SLEW_PPM : Fld := ⟨.cad, 0x8, 55, 48⟩
abbrev CAD_CAP_JOBS : Fld := ⟨.cad, 0x8, 7, 0⟩
abbrev CAD_CTRL_LOCK : Fld := ⟨.cad, 0x10, 63, 63⟩
abbrev CAD_CTRL_MASTER : Fld := ⟨.cad, 0x10, 12, 12⟩
abbrev CAD_CTRL_SRC_EN : Fld := ⟨.cad, 0x10, 11, 8⟩
abbrev CAD_CTRL_PPS_OUT_EN : Fld := ⟨.cad, 0x10, 1, 1⟩
abbrev CAD_CTRL_FRAME_EN : Fld := ⟨.cad, 0x10, 0, 0⟩
abbrev CAD_STAT_SRC : Fld := ⟨.cad, 0x18, 15, 12⟩
abbrev CAD_STAT_PRESENT : Fld := ⟨.cad, 0x18, 11, 8⟩
abbrev CAD_STAT_FRAME_RUN : Fld := ⟨.cad, 0x18, 4, 4⟩
abbrev CAD_STAT_STATE : Fld := ⟨.cad, 0x18, 2, 0⟩
abbrev CAD_ERR_ECC_UE : Fld := ⟨.cad, 0x20, 16, 16⟩
abbrev CAD_ERR_PPS_BAD : Fld := ⟨.cad, 0x20, 3, 3⟩
abbrev CAD_ERR_REF_LOST : Fld := ⟨.cad, 0x20, 2, 2⟩
abbrev CAD_ERR_STEP_NEEDED : Fld := ⟨.cad, 0x20, 1, 1⟩
abbrev CAD_ERR_TIME_LOST : Fld := ⟨.cad, 0x20, 0, 0⟩
abbrev CAD_TICK_COUNT : Fld := ⟨.cad, 0x40, 63, 0⟩
abbrev CAD_UTC_OFFSET_SECONDS : Fld := ⟨.cad, 0x48, 15, 0⟩
abbrev CAD_FRAME_EPOCH_TICK : Fld := ⟨.cad, 0x50, 63, 0⟩
abbrev CAD_FRAME_RATE_FPS : Fld := ⟨.cad, 0x58, 7, 0⟩
abbrev CAD_FRAME_NUMBER : Fld := ⟨.cad, 0x60, 31, 0⟩
abbrev CAD_FRAME_TICK_TICK : Fld := ⟨.cad, 0x68, 63, 0⟩
abbrev CAD_OFFSET_NS : Fld := ⟨.cad, 0x70, 63, 0⟩
abbrev CAD_PARENT_VALID : Fld := ⟨.cad, 0x78, 8, 8⟩
abbrev CAD_PARENT_PORT : Fld := ⟨.cad, 0x78, 4, 0⟩
abbrev CAD_PTP_PORT : Fld := ⟨.cad, 0x80, 0, 0⟩
abbrev CAD_PPS_OUT_ADJ_NS : Fld := ⟨.cad, 0x88, 31, 0⟩
abbrev CAD_PPS_IN_DELAY_NS : Fld := ⟨.cad, 0x90, 31, 0⟩
abbrev CAD_HOLDOVER_TICKS_COUNT : Fld := ⟨.cad, 0x98, 63, 0⟩
abbrev CAD_JOB_SEL_SLOT : Fld := ⟨.cad, 0xc0, 2, 0⟩
abbrev CAD_SEED_SEED : Fld := ⟨.cad, 0xc8, 63, 0⟩
abbrev CAD_STEP_STEP : Fld := ⟨.cad, 0xd0, 63, 0⟩
abbrev CAD_PROG_DIGEST0_DATA : Fld := ⟨.cad, 0xd8, 63, 0⟩
abbrev CAD_PROG_DIGEST1_DATA : Fld := ⟨.cad, 0xe0, 63, 0⟩
abbrev CAD_PROG_DIGEST2_DATA : Fld := ⟨.cad, 0xe8, 63, 0⟩
abbrev CAD_PROG_DIGEST3_DATA : Fld := ⟨.cad, 0xf0, 63, 0⟩
abbrev CAD_PROG_DIGEST4_DATA : Fld := ⟨.cad, 0xf8, 63, 0⟩
abbrev CAD_PROG_DIGEST5_DATA : Fld := ⟨.cad, 0x100, 63, 0⟩
abbrev CAD_WTS_DIGEST0_DATA : Fld := ⟨.cad, 0x108, 63, 0⟩
abbrev CAD_WTS_DIGEST1_DATA : Fld := ⟨.cad, 0x110, 63, 0⟩
abbrev CAD_WTS_DIGEST2_DATA : Fld := ⟨.cad, 0x118, 63, 0⟩
abbrev CAD_WTS_DIGEST3_DATA : Fld := ⟨.cad, 0x120, 63, 0⟩
abbrev CAD_WTS_DIGEST4_DATA : Fld := ⟨.cad, 0x128, 63, 0⟩
abbrev CAD_WTS_DIGEST5_DATA : Fld := ⟨.cad, 0x130, 63, 0⟩
abbrev CAD_LOG_SEL_ENTRY : Fld := ⟨.cad, 0x140, 3, 0⟩
abbrev CAD_LOG_STEP_STEP : Fld := ⟨.cad, 0x148, 63, 0⟩
abbrev CAD_LOG_DIGEST_DIGEST : Fld := ⟨.cad, 0x150, 63, 0⟩
abbrev CAD_LOG_TICK_TICK : Fld := ⟨.cad, 0x158, 63, 0⟩
abbrev CAD_STEP_CNT_COUNT : Fld := ⟨.cad, 0x160, 63, 0⟩
abbrev FIO_CAP_PORTS : Fld := ⟨.fio, 0x8, 63, 56⟩
abbrev FIO_CAP_GBPS : Fld := ⟨.fio, 0x8, 55, 40⟩
abbrev FIO_CAP_MAP_LOG2 : Fld := ⟨.fio, 0x8, 39, 32⟩
abbrev FIO_CAP_STREAMS_LOG2 : Fld := ⟨.fio, 0x8, 31, 24⟩
abbrev FIO_CAP_PUBS : Fld := ⟨.fio, 0x8, 7, 0⟩
abbrev FIO_CTRL_LOCK : Fld := ⟨.fio, 0x10, 63, 63⟩
abbrev FIO_CTRL_SLOT : Fld := ⟨.fio, 0x10, 10, 8⟩
abbrev FIO_CTRL_PORT_EN : Fld := ⟨.fio, 0x10, 5, 4⟩
abbrev FIO_CTRL_EN : Fld := ⟨.fio, 0x10, 0, 0⟩
abbrev FIO_STAT_STATE : Fld := ⟨.fio, 0x18, 19, 16⟩
abbrev FIO_STAT_LINK : Fld := ⟨.fio, 0x18, 5, 4⟩
abbrev FIO_ERR_TILE_CHECK : Fld := ⟨.fio, 0x20, 17, 17⟩
abbrev FIO_ERR_ECC_UE : Fld := ⟨.fio, 0x20, 16, 16⟩
abbrev FIO_ERR_LATE_LOST : Fld := ⟨.fio, 0x20, 3, 3⟩
abbrev FIO_ERR_PUB_ERR : Fld := ⟨.fio, 0x20, 2, 2⟩
abbrev FIO_ERR_CFG_BAD : Fld := ⟨.fio, 0x20, 1, 1⟩
abbrev FIO_ERR_LINK_DOWN : Fld := ⟨.fio, 0x20, 0, 0⟩
abbrev FIO_MAC0_MAC : Fld := ⟨.fio, 0x40, 47, 0⟩
abbrev FIO_MAC1_MAC : Fld := ⟨.fio, 0x48, 47, 0⟩
abbrev FIO_IP0_ADDR : Fld := ⟨.fio, 0x50, 31, 0⟩
abbrev FIO_IP1_ADDR : Fld := ⟨.fio, 0x58, 31, 0⟩
abbrev FIO_UDP_PORT_PORT : Fld := ⟨.fio, 0x60, 15, 0⟩
abbrev FIO_CUT_FIRST_FRAME : Fld := ⟨.fio, 0x68, 31, 0⟩
abbrev FIO_CUT_PERIOD_P : Fld := ⟨.fio, 0x70, 16, 0⟩
abbrev FIO_WINDOW_NS : Fld := ⟨.fio, 0x78, 31, 0⟩
abbrev FIO_ALIGN_TOL_NS : Fld := ⟨.fio, 0x80, 23, 0⟩
abbrev FIO_BANK0_ADDR : Fld := ⟨.fio, 0x88, 38, 12⟩
abbrev FIO_BANK1_ADDR : Fld := ⟨.fio, 0x90, 38, 12⟩
abbrev FIO_MAP_BASE_ADDR : Fld := ⟨.fio, 0x98, 38, 12⟩
abbrev FIO_MAP_COUNT_COUNT : Fld := ⟨.fio, 0xa0, 20, 0⟩
abbrev FIO_STREAM_BASE_ADDR : Fld := ⟨.fio, 0xa8, 38, 12⟩
abbrev FIO_STREAM_COUNT_COUNT : Fld := ⟨.fio, 0xb0, 12, 0⟩
abbrev FIO_PUB_BASE_ADDR : Fld := ⟨.fio, 0xb8, 38, 12⟩
abbrev FIO_PUB_COUNT_COUNT : Fld := ⟨.fio, 0xc0, 4, 0⟩
abbrev FIO_LATE_BASE_ADDR : Fld := ⟨.fio, 0xc8, 38, 12⟩
abbrev FIO_LATE_CFG_LOG2 : Fld := ⟨.fio, 0xd0, 4, 0⟩
abbrev FIO_LATE_TAIL_INDEX : Fld := ⟨.fio, 0xd8, 19, 0⟩
abbrev FIO_LATE_HEAD_INDEX : Fld := ⟨.fio, 0xe0, 19, 0⟩
abbrev FIO_INGEST_Q_QUEUE : Fld := ⟨.fio, 0xe8, 19, 0⟩
abbrev FIO_CUT_COUNT_K : Fld := ⟨.fio, 0xf0, 63, 0⟩
abbrev FIO_RX_CNT_COUNT : Fld := ⟨.fio, 0xf8, 63, 0⟩
abbrev FIO_DUP_CNT_COUNT : Fld := ⟨.fio, 0x100, 63, 0⟩
abbrev FIO_LATE_CNT_COUNT : Fld := ⟨.fio, 0x108, 63, 0⟩
abbrev FIO_EARLY_CNT_COUNT : Fld := ⟨.fio, 0x110, 63, 0⟩
abbrev FIO_MISALIGN_CNT_COUNT : Fld := ⟨.fio, 0x118, 63, 0⟩
abbrev FIO_DROP_CNT_COUNT : Fld := ⟨.fio, 0x120, 63, 0⟩
abbrev FIO_LATE_LOST_CNT_COUNT : Fld := ⟨.fio, 0x128, 63, 0⟩
abbrev FIO_STALE_LAST_COUNT : Fld := ⟨.fio, 0x130, 20, 0⟩
abbrev FIO_PUB_CNT_COUNT : Fld := ⟨.fio, 0x138, 63, 0⟩
abbrev FIO_PUB_ERR_CNT_COUNT : Fld := ⟨.fio, 0x140, 63, 0⟩
abbrev FIO_PUB_LAST_TICK : Fld := ⟨.fio, 0x148, 63, 0⟩
abbrev GLB_CAP_JOBS : Fld := ⟨.glb, 0x8, 63, 56⟩
abbrev GLB_CAP_SEG_MIB : Fld := ⟨.glb, 0x8, 55, 48⟩
abbrev GLB_CAP_FANOUT : Fld := ⟨.glb, 0x8, 47, 40⟩
abbrev GLB_CAP_FROND_WIN : Fld := ⟨.glb, 0x8, 39, 32⟩
abbrev GLB_CTRL_LOCK : Fld := ⟨.glb, 0x10, 63, 63⟩
abbrev GLB_STAT_ACCEPT_PEND : Fld := ⟨.glb, 0x18, 15, 8⟩
abbrev GLB_STAT_RUNNING : Fld := ⟨.glb, 0x18, 7, 0⟩
abbrev GLB_ERR_WIPE_FAIL : Fld := ⟨.glb, 0x20, 19, 19⟩
abbrev GLB_ERR_FROND_BAD : Fld := ⟨.glb, 0x20, 18, 18⟩
abbrev GLB_ERR_DIGEST_MISMATCH : Fld := ⟨.glb, 0x20, 16, 16⟩
abbrev GLB_ERR_LATE_ACCEPT : Fld := ⟨.glb, 0x20, 2, 2⟩
abbrev GLB_ERR_FROND_SWITCH : Fld := ⟨.glb, 0x20, 1, 1⟩
abbrev GLB_JOB_SEL_SLOT : Fld := ⟨.glb, 0x40, 2, 0⟩
abbrev GLB_SLOT_CFG_NAMED : Fld := ⟨.glb, 0x48, 35, 35⟩
abbrev GLB_SLOT_CFG_PARTITION : Fld := ⟨.glb, 0x48, 34, 32⟩
abbrev GLB_SLOT_CFG_CLU_GROUPS : Fld := ⟨.glb, 0x48, 31, 0⟩
abbrev GLB_JOB_QUEUES_COUNT : Fld := ⟨.glb, 0x50, 52, 32⟩
abbrev GLB_JOB_QUEUES_FIRST : Fld := ⟨.glb, 0x50, 19, 0⟩
abbrev GLB_JOB_UNITS0_UNITS : Fld := ⟨.glb, 0x58, 63, 0⟩
abbrev GLB_JOB_UNITS1_UNITS : Fld := ⟨.glb, 0x60, 63, 0⟩
abbrev GLB_JOB_UNITS2_UNITS : Fld := ⟨.glb, 0x68, 63, 0⟩
abbrev GLB_JOB_UNITS3_UNITS : Fld := ⟨.glb, 0x70, 63, 0⟩
abbrev GLB_JOB_UNITS4_UNITS : Fld := ⟨.glb, 0x78, 63, 0⟩
abbrev GLB_JOB_UNITS5_UNITS : Fld := ⟨.glb, 0x80, 63, 0⟩
abbrev GLB_FROND_BASE_ADDR : Fld := ⟨.glb, 0x88, 38, 12⟩
abbrev GLB_FROND_SEGS_S : Fld := ⟨.glb, 0x90, 16, 0⟩
abbrev GLB_FROND_TICK_TICK : Fld := ⟨.glb, 0x98, 63, 0⟩
abbrev GLB_LAUNCH_TICK_TICK : Fld := ⟨.glb, 0xa0, 63, 0⟩
abbrev GLB_FROND_TREE_PARENT_VALID : Fld := ⟨.glb, 0xa8, 63, 63⟩
abbrev GLB_FROND_TREE_ALT_VALID : Fld := ⟨.glb, 0xa8, 62, 62⟩
abbrev GLB_FROND_TREE_KIDS : Fld := ⟨.glb, 0xa8, 60, 56⟩
abbrev GLB_FROND_TREE_ALT : Fld := ⟨.glb, 0xa8, 49, 33⟩
abbrev GLB_FROND_TREE_PARENT : Fld := ⟨.glb, 0xa8, 16, 0⟩
abbrev GLB_FROND_KIDS0_KID2 : Fld := ⟨.glb, 0xb0, 58, 42⟩
abbrev GLB_FROND_KIDS0_KID1 : Fld := ⟨.glb, 0xb0, 37, 21⟩
abbrev GLB_FROND_KIDS0_KID0 : Fld := ⟨.glb, 0xb0, 16, 0⟩
abbrev GLB_FROND_KIDS1_KID2 : Fld := ⟨.glb, 0xb8, 58, 42⟩
abbrev GLB_FROND_KIDS1_KID1 : Fld := ⟨.glb, 0xb8, 37, 21⟩
abbrev GLB_FROND_KIDS1_KID0 : Fld := ⟨.glb, 0xb8, 16, 0⟩
abbrev GLB_FROND_KIDS2_KID2 : Fld := ⟨.glb, 0xc0, 58, 42⟩
abbrev GLB_FROND_KIDS2_KID1 : Fld := ⟨.glb, 0xc0, 37, 21⟩
abbrev GLB_FROND_KIDS2_KID0 : Fld := ⟨.glb, 0xc0, 16, 0⟩
abbrev GLB_FROND_KIDS3_KID2 : Fld := ⟨.glb, 0xc8, 58, 42⟩
abbrev GLB_FROND_KIDS3_KID1 : Fld := ⟨.glb, 0xc8, 37, 21⟩
abbrev GLB_FROND_KIDS3_KID0 : Fld := ⟨.glb, 0xc8, 16, 0⟩
abbrev GLB_FROND_KIDS4_KID2 : Fld := ⟨.glb, 0xd0, 58, 42⟩
abbrev GLB_FROND_KIDS4_KID1 : Fld := ⟨.glb, 0xd0, 37, 21⟩
abbrev GLB_FROND_KIDS4_KID0 : Fld := ⟨.glb, 0xd0, 16, 0⟩
abbrev GLB_FROND_KIDS5_KID2 : Fld := ⟨.glb, 0xd8, 58, 42⟩
abbrev GLB_FROND_KIDS5_KID1 : Fld := ⟨.glb, 0xd8, 37, 21⟩
abbrev GLB_FROND_KIDS5_KID0 : Fld := ⟨.glb, 0xd8, 16, 0⟩
abbrev GLB_SWEEP_MS : Fld := ⟨.glb, 0xe0, 21, 0⟩
abbrev GLB_REPORT_EP_EP : Fld := ⟨.glb, 0xe8, 19, 0⟩
abbrev GLB_STAGE_STAGE : Fld := ⟨.glb, 0xf0, 3, 0⟩
abbrev GLB_FROND_STAT_HELD : Fld := ⟨.glb, 0xf8, 63, 32⟩
abbrev GLB_FROND_STAT_ON_ALT : Fld := ⟨.glb, 0xf8, 16, 16⟩
abbrev GLB_FROND_STAT_REFETCH : Fld := ⟨.glb, 0xf8, 15, 0⟩
abbrev GLB_JOB_DIGEST0_DATA : Fld := ⟨.glb, 0x100, 63, 0⟩
abbrev GLB_JOB_DIGEST1_DATA : Fld := ⟨.glb, 0x108, 63, 0⟩
abbrev GLB_JOB_DIGEST2_DATA : Fld := ⟨.glb, 0x110, 63, 0⟩
abbrev GLB_JOB_DIGEST3_DATA : Fld := ⟨.glb, 0x118, 63, 0⟩
abbrev GLB_JOB_DIGEST4_DATA : Fld := ⟨.glb, 0x120, 63, 0⟩
abbrev GLB_JOB_DIGEST5_DATA : Fld := ⟨.glb, 0x128, 63, 0⟩
abbrev GLB_LAUNCH_KEY_KEY : Fld := ⟨.glb, 0x130, 63, 0⟩
abbrev GLB_SWEEP_CNT_COUNT : Fld := ⟨.glb, 0x138, 63, 0⟩
abbrev GLB_WIPE_TICKS_COUNT : Fld := ⟨.glb, 0x140, 63, 0⟩
abbrev SPO_CAP_POOL : Fld := ⟨.spo, 0x8, 63, 56⟩
abbrev SPO_CAP_SLOTS : Fld := ⟨.spo, 0x8, 55, 48⟩
abbrev SPO_CAP_GRAN_KIB : Fld := ⟨.spo, 0x8, 47, 32⟩
abbrev SPO_CAP_RANGES : Fld := ⟨.spo, 0x8, 31, 16⟩
abbrev SPO_CAP_JOBS : Fld := ⟨.spo, 0x8, 7, 0⟩
abbrev SPO_CTRL_LOCK : Fld := ⟨.spo, 0x10, 63, 63⟩
abbrev SPO_STAT_STATE : Fld := ⟨.spo, 0x18, 19, 16⟩
abbrev SPO_STAT_SLOT : Fld := ⟨.spo, 0x18, 2, 0⟩
abbrev SPO_ERR_SNAP_CONSISTENCY : Fld := ⟨.spo, 0x20, 19, 19⟩
abbrev SPO_ERR_ECC_UE : Fld := ⟨.spo, 0x20, 16, 16⟩
abbrev SPO_ERR_RESTORE_ABANDONED : Fld := ⟨.spo, 0x20, 4, 4⟩
abbrev SPO_ERR_REJECTED : Fld := ⟨.spo, 0x20, 3, 3⟩
abbrev SPO_ERR_ABANDONED : Fld := ⟨.spo, 0x20, 2, 2⟩
abbrev SPO_ERR_HOST_ERR : Fld := ⟨.spo, 0x20, 1, 1⟩
abbrev SPO_ERR_CFG_BAD : Fld := ⟨.spo, 0x20, 0, 0⟩
abbrev SPO_JOB_SEL_SLOT : Fld := ⟨.spo, 0x40, 2, 0⟩
abbrev SPO_SLOT_CTRL_RESTORE : Fld := ⟨.spo, 0x48, 16, 16⟩
abbrev SPO_SLOT_CTRL_TRIG_EN : Fld := ⟨.spo, 0x48, 12, 8⟩
abbrev SPO_SLOT_CTRL_EN : Fld := ⟨.spo, 0x48, 0, 0⟩
abbrev SPO_TREE_INDEX : Fld := ⟨.spo, 0x50, 3, 0⟩
abbrev SPO_MAILBOX_ADDR : Fld := ⟨.spo, 0x58, 38, 12⟩
abbrev SPO_HOST_BASE_ADDR : Fld := ⟨.spo, 0x60, 63, 12⟩
abbrev SPO_HOST_SIZE_BYTES : Fld := ⟨.spo, 0x68, 47, 12⟩
abbrev SPO_QUEUE_QUEUE : Fld := ⟨.spo, 0x70, 19, 0⟩
abbrev SPO_ELIG_SEL_RANGE : Fld := ⟨.spo, 0x78, 5, 0⟩
abbrev SPO_ELIG_DATA_VALID : Fld := ⟨.spo, 0x80, 63, 63⟩
abbrev SPO_ELIG_DATA_COUNT : Fld := ⟨.spo, 0x80, 49, 32⟩
abbrev SPO_ELIG_DATA_FIRST : Fld := ⟨.spo, 0x80, 17, 0⟩
abbrev SPO_INTERVAL_AUTO : Fld := ⟨.spo, 0x88, 63, 63⟩
abbrev SPO_INTERVAL_MS : Fld := ⟨.spo, 0x88, 31, 0⟩
abbrev SPO_MIN_GAP_MS : Fld := ⟨.spo, 0x90, 31, 0⟩
abbrev SPO_LEAD_US : Fld := ⟨.spo, 0x98, 19, 0⟩
abbrev SPO_DRAIN_MS : Fld := ⟨.spo, 0xa0, 15, 0⟩
abbrev SPO_WAVE_MS : Fld := ⟨.spo, 0xa8, 15, 0⟩
abbrev SPO_REPLAY_MS : Fld := ⟨.spo, 0xb0, 31, 0⟩
abbrev SPO_RESTORE_GEN_GEN : Fld := ⟨.spo, 0xb8, 63, 0⟩
abbrev SPO_HAZ_BASE_FIT : Fld := ⟨.spo, 0xc0, 31, 0⟩
abbrev SPO_HAZ_WEIGHT_W_CE : Fld := ⟨.spo, 0xc8, 63, 48⟩
abbrev SPO_HAZ_WEIGHT_W_RETRY : Fld := ⟨.spo, 0xc8, 47, 32⟩
abbrev SPO_HAZ_WEIGHT_W_REG : Fld := ⟨.spo, 0xc8, 31, 16⟩
abbrev SPO_HAZ_WEIGHT_W_TEMP : Fld := ⟨.spo, 0xc8, 15, 0⟩
abbrev SPO_TREND_WARN_MC_PER_S : Fld := ⟨.spo, 0xd0, 15, 0⟩
abbrev SPO_GEN_JOB_GEN : Fld := ⟨.spo, 0xd8, 63, 0⟩
abbrev SPO_GEN_LAST_GEN : Fld := ⟨.spo, 0xe0, 63, 0⟩
abbrev SPO_Q_TICK_TICK : Fld := ⟨.spo, 0xe8, 63, 0⟩
abbrev SPO_QUIESCE_TICK_TICK : Fld := ⟨.spo, 0xf0, 63, 0⟩
abbrev SPO_RESUME_TICK_TICK : Fld := ⟨.spo, 0xf8, 63, 0⟩
abbrev SPO_COMMIT_TICK_TICK : Fld := ⟨.spo, 0x100, 63, 0⟩
abbrev SPO_SUGGEST_INTERVAL_MS : Fld := ⟨.spo, 0x108, 31, 0⟩
abbrev SPO_HAZARD_FIT : Fld := ⟨.spo, 0x110, 31, 0⟩
abbrev SPO_PART_BYTES_BYTES : Fld := ⟨.spo, 0x118, 47, 0⟩
abbrev SPO_COPY_POS_DONE : Fld := ⟨.spo, 0x120, 49, 32⟩
abbrev SPO_COPY_POS_TOTAL : Fld := ⟨.spo, 0x120, 17, 0⟩
abbrev SPO_COW_HOLD_CNT_COUNT : Fld := ⟨.spo, 0x128, 63, 0⟩
abbrev SPO_HOLD_TICKS_COUNT : Fld := ⟨.spo, 0x130, 63, 0⟩
abbrev SPO_POOL_OCC_ENTRIES : Fld := ⟨.spo, 0x138, 7, 0⟩
abbrev SPO_SNAP_CNT_COUNT : Fld := ⟨.spo, 0x140, 63, 0⟩
abbrev SPO_ABANDON_CNT_COUNT : Fld := ⟨.spo, 0x148, 63, 0⟩
abbrev SPO_RESTORE_CAUSE_CAUSE : Fld := ⟨.spo, 0x150, 7, 0⟩
abbrev PWR_CAP_PEAK_W : Fld := ⟨.pwr, 0x8, 63, 48⟩
abbrev PWR_CAP_MAX_W : Fld := ⟨.pwr, 0x8, 47, 32⟩
abbrev PWR_CAP_RAILS : Fld := ⟨.pwr, 0x8, 15, 8⟩
abbrev PWR_CAP_OPS : Fld := ⟨.pwr, 0x8, 3, 0⟩
abbrev PWR_CTRL_LOCK : Fld := ⟨.pwr, 0x10, 63, 63⟩
abbrev PWR_STAT_READY : Fld := ⟨.pwr, 0x18, 31, 31⟩
abbrev PWR_STAT_CAP_UNATTAINABLE : Fld := ⟨.pwr, 0x18, 30, 30⟩
abbrev PWR_STAT_LIMITING : Fld := ⟨.pwr, 0x18, 29, 29⟩
abbrev PWR_STAT_OP : Fld := ⟨.pwr, 0x18, 11, 0⟩
abbrev PWR_ERR_RAIL_FAIL : Fld := ⟨.pwr, 0x20, 17, 17⟩
abbrev PWR_ERR_CAP_UNATTAINABLE : Fld := ⟨.pwr, 0x20, 3, 3⟩
abbrev PWR_ERR_PEAK_HIT : Fld := ⟨.pwr, 0x20, 2, 2⟩
abbrev PWR_ERR_VIN_WARN : Fld := ⟨.pwr, 0x20, 1, 1⟩
abbrev PWR_ERR_REG_WARN : Fld := ⟨.pwr, 0x20, 0, 0⟩
abbrev PWR_LIMIT_CAP_W : Fld := ⟨.pwr, 0x40, 43, 32⟩
abbrev PWR_LIMIT_WINDOW_S : Fld := ⟨.pwr, 0x40, 20, 16⟩
abbrev PWR_LIMIT_RAMP_US : Fld := ⟨.pwr, 0x40, 9, 0⟩
abbrev PWR_BUDGET_W : Fld := ⟨.pwr, 0x48, 11, 0⟩
abbrev PWR_BROKER0_EN : Fld := ⟨.pwr, 0x50, 63, 63⟩
abbrev PWR_BROKER0_SLOT : Fld := ⟨.pwr, 0x50, 50, 48⟩
abbrev PWR_BROKER0_JOB_W : Fld := ⟨.pwr, 0x50, 43, 32⟩
abbrev PWR_BROKER0_STEP_W : Fld := ⟨.pwr, 0x50, 27, 16⟩
abbrev PWR_BROKER0_FLOOR_W : Fld := ⟨.pwr, 0x50, 11, 0⟩
abbrev PWR_BROKER1_MIN_LATE : Fld := ⟨.pwr, 0x58, 63, 32⟩
abbrev PWR_BROKER1_COMM : Fld := ⟨.pwr, 0x58, 11, 0⟩
abbrev PWR_POWER_NOW_W : Fld := ⟨.pwr, 0x60, 15, 0⟩
abbrev PWR_POWER_AVG_W : Fld := ⟨.pwr, 0x68, 15, 0⟩
abbrev PWR_POWER_PEAK_W : Fld := ⟨.pwr, 0x70, 15, 0⟩
abbrev PWR_ENERGY_MJ : Fld := ⟨.pwr, 0x78, 63, 0⟩
abbrev PWR_VIN_MV : Fld := ⟨.pwr, 0x80, 15, 0⟩
abbrev PWR_ISSUE0_LEVEL : Fld := ⟨.pwr, 0x88, 63, 0⟩
abbrev PWR_ISSUE1_LEVEL : Fld := ⟨.pwr, 0x90, 63, 0⟩
abbrev PWR_THROTTLE_TICKS_COUNT : Fld := ⟨.pwr, 0x98, 63, 0⟩
abbrev PWR_UNATTAIN_TICKS_COUNT : Fld := ⟨.pwr, 0xa0, 63, 0⟩
abbrev PWR_GRANT_CNT_COUNT : Fld := ⟨.pwr, 0xa8, 63, 0⟩
abbrev PWR_REG_SEL_RAIL : Fld := ⟨.pwr, 0xb0, 5, 0⟩
abbrev PWR_REG_DATA_MV : Fld := ⟨.pwr, 0xb8, 63, 48⟩
abbrev PWR_REG_DATA_DECI_A : Fld := ⟨.pwr, 0xb8, 47, 32⟩
abbrev PWR_REG_DATA_TEMP : Fld := ⟨.pwr, 0xb8, 31, 24⟩
abbrev PWR_REG_DATA_FLAGS : Fld := ⟨.pwr, 0xb8, 3, 0⟩
abbrev THM_CAP_DIES : Fld := ⟨.thm, 0x8, 7, 0⟩
abbrev THM_CTRL_LOCK : Fld := ⟨.thm, 0x10, 63, 63⟩
abbrev THM_STAT_STATE : Fld := ⟨.thm, 0x18, 20, 0⟩
abbrev THM_ERR_SENSOR_BAD : Fld := ⟨.thm, 0x20, 2, 2⟩
abbrev THM_ERR_LIMIT : Fld := ⟨.thm, 0x20, 1, 1⟩
abbrev THM_ERR_HOT : Fld := ⟨.thm, 0x20, 0, 0⟩
abbrev THM_DIE_TEMP_TEMP : Fld := ⟨.thm, 0x40, 55, 0⟩
abbrev THM_DIE_MAX_TEMP : Fld := ⟨.thm, 0x48, 55, 0⟩
abbrev THM_HOT_TICKS_COUNT : Fld := ⟨.thm, 0x50, 63, 0⟩
abbrev THM_LIMIT_TICKS_COUNT : Fld := ⟨.thm, 0x58, 63, 0⟩
abbrev PRT_CAP_INDEX : Fld := ⟨.prt, 0x8, 2, 0⟩
abbrev PRT_CTRL_LOCK : Fld := ⟨.prt, 0x10, 63, 63⟩
abbrev PRT_CTRL_PRESET : Fld := ⟨.prt, 0x10, 1, 1⟩
abbrev PRT_CTRL_EN : Fld := ⟨.prt, 0x10, 0, 0⟩
abbrev PRT_STAT_WIPING : Fld := ⟨.prt, 0x18, 18, 18⟩
abbrev PRT_STAT_OWNER_UP : Fld := ⟨.prt, 0x18, 17, 17⟩
abbrev PRT_STAT_JOBS : Fld := ⟨.prt, 0x18, 11, 8⟩
abbrev PRT_ERR_FATAL_ERROR : Fld := ⟨.prt, 0x20, 16, 16⟩
abbrev PRT_ERR_BREACH : Fld := ⟨.prt, 0x20, 1, 1⟩
abbrev PRT_ERR_OWNER_LOST : Fld := ⟨.prt, 0x20, 0, 0⟩
abbrev PRT_OWNER_KIND : Fld := ⟨.prt, 0x40, 6, 4⟩
abbrev PRT_OWNER_LINK : Fld := ⟨.prt, 0x40, 1, 0⟩
abbrev PRT_CLASS_MIN_ISSUE : Fld := ⟨.prt, 0x48, 35, 32⟩
abbrev PRT_CLASS_ADMIT : Fld := ⟨.prt, 0x48, 23, 16⟩
abbrev PRT_CLASS_RT_PRIV : Fld := ⟨.prt, 0x48, 8, 8⟩
abbrev PRT_CLASS_CLASS : Fld := ⟨.prt, 0x48, 1, 0⟩
abbrev PRT_CLU_GROUPS_GROUPS : Fld := ⟨.prt, 0x50, 31, 0⟩
abbrev PRT_UNITS0_UNITS : Fld := ⟨.prt, 0x58, 63, 0⟩
abbrev PRT_UNITS1_UNITS : Fld := ⟨.prt, 0x60, 63, 0⟩
abbrev PRT_UNITS2_UNITS : Fld := ⟨.prt, 0x68, 63, 0⟩
abbrev PRT_UNITS3_UNITS : Fld := ⟨.prt, 0x70, 63, 0⟩
abbrev PRT_UNITS4_UNITS : Fld := ⟨.prt, 0x78, 63, 0⟩
abbrev PRT_UNITS5_UNITS : Fld := ⟨.prt, 0x80, 63, 0⟩
abbrev PRT_QUEUES_COUNT : Fld := ⟨.prt, 0x88, 52, 32⟩
abbrev PRT_QUEUES_FIRST : Fld := ⟨.prt, 0x88, 19, 0⟩
abbrev PRT_SLV_SET_CHANNELS : Fld := ⟨.prt, 0x90, 63, 0⟩
abbrev PRT_MOV_SET_CHANNELS : Fld := ⟨.prt, 0x98, 47, 0⟩
abbrev PRT_GRANTS_FABRIC_VIEW : Fld := ⟨.prt, 0xa0, 1, 1⟩
abbrev PRT_GRANTS_FIO : Fld := ⟨.prt, 0xa0, 0, 0⟩
abbrev PRT_SHARES_HOST : Fld := ⟨.prt, 0xa8, 23, 16⟩
abbrev PRT_SHARES_MEM : Fld := ⟨.prt, 0xa8, 15, 8⟩
abbrev PRT_SHARES_FAB : Fld := ⟨.prt, 0xa8, 7, 0⟩
abbrev PRT_FATAL_CLASSES : Fld := ⟨.prt, 0xb0, 15, 0⟩
abbrev PRT_IRQ_VECTOR : Fld := ⟨.prt, 0xb8, 10, 0⟩
abbrev PRT_VF_VF_STRIDE : Fld := ⟨.prt, 0xc0, 19, 0⟩
abbrev PRT_BREACH_LAST_RESOURCE : Fld := ⟨.prt, 0xc8, 63, 60⟩
abbrev PRT_BREACH_LAST_CAUSE : Fld := ⟨.prt, 0xc8, 59, 56⟩
abbrev PRT_BREACH_LAST_BY : Fld := ⟨.prt, 0xc8, 55, 53⟩
abbrev PRT_BREACH_LAST_DEADLINE_KEPT : Fld := ⟨.prt, 0xc8, 52, 52⟩
abbrev PRT_BREACH_LAST_INDEX : Fld := ⟨.prt, 0xc8, 3, 0⟩
abbrev PRT_BREACH_TICK_TICK : Fld := ⟨.prt, 0xd0, 63, 0⟩
abbrev PRT_BREACH_CNT_COUNT : Fld := ⟨.prt, 0xd8, 63, 0⟩
abbrev PRT_FATAL_CNT_COUNT : Fld := ⟨.prt, 0xe0, 63, 0⟩
abbrev PRT_BAR4_MISS_CNT_COUNT : Fld := ⟨.prt, 0xe8, 63, 0⟩
abbrev AUD_CAP_RING_LOG2 : Fld := ⟨.aud, 0x8, 63, 56⟩
abbrev AUD_CAP_SPILL_LOG2 : Fld := ⟨.aud, 0x8, 55, 48⟩
abbrev AUD_CAP_FLASH : Fld := ⟨.aud, 0x8, 15, 0⟩
abbrev AUD_CTRL_LOCK : Fld := ⟨.aud, 0x10, 63, 63⟩
abbrev AUD_STAT_OCC : Fld := ⟨.aud, 0x18, 20, 0⟩
abbrev AUD_ERR_ECC_UE : Fld := ⟨.aud, 0x20, 16, 16⟩
abbrev AUD_ERR_OVERRUN : Fld := ⟨.aud, 0x20, 1, 1⟩
abbrev AUD_ERR_HIGH_WATER : Fld := ⟨.aud, 0x20, 0, 0⟩
abbrev AUD_NEXT_SEQ_SEQ : Fld := ⟨.aud, 0x40, 63, 0⟩
abbrev AUD_DRAINED_SEQ_SEQ : Fld := ⟨.aud, 0x48, 63, 0⟩
abbrev AUD_LOST_CNT_COUNT : Fld := ⟨.aud, 0x50, 63, 0⟩
abbrev AUD_FLASH_FIRST_SEQ : Fld := ⟨.aud, 0x58, 63, 0⟩
abbrev AUD_FLASH_LAST_SEQ : Fld := ⟨.aud, 0x60, 63, 0⟩
abbrev AUD_READ_SEQ_SEQ : Fld := ⟨.aud, 0x68, 63, 0⟩
abbrev AUD_READ_DATA0_DATA : Fld := ⟨.aud, 0x70, 63, 0⟩
abbrev AUD_READ_DATA1_DATA : Fld := ⟨.aud, 0x78, 63, 0⟩
abbrev AUD_READ_DATA2_DATA : Fld := ⟨.aud, 0x80, 63, 0⟩
abbrev AUD_READ_DATA3_DATA : Fld := ⟨.aud, 0x88, 63, 0⟩
abbrev AUD_READ_DATA4_DATA : Fld := ⟨.aud, 0x90, 63, 0⟩
abbrev AUD_READ_DATA5_DATA : Fld := ⟨.aud, 0x98, 63, 0⟩
abbrev AUD_READ_DATA6_DATA : Fld := ⟨.aud, 0xa0, 63, 0⟩
abbrev AUD_READ_DATA7_DATA : Fld := ⟨.aud, 0xa8, 63, 0⟩
abbrev MGT_CAP_IANA : Fld := ⟨.mgt, 0x8, 63, 32⟩
abbrev MGT_CAP_FLASH_MIB : Fld := ⟨.mgt, 0x8, 15, 0⟩
abbrev MGT_CTRL_LOCK : Fld := ⟨.mgt, 0x10, 63, 63⟩
abbrev MGT_STAT_BOOT : Fld := ⟨.mgt, 0x18, 3, 2⟩
abbrev MGT_STAT_UPD_PENDING : Fld := ⟨.mgt, 0x18, 1, 1⟩
abbrev MGT_STAT_UPD_ACTIVE : Fld := ⟨.mgt, 0x18, 0, 0⟩
abbrev MGT_ERR_REPAIR_OUT : Fld := ⟨.mgt, 0x20, 3, 3⟩
abbrev MGT_ERR_MC_RESTART : Fld := ⟨.mgt, 0x20, 2, 2⟩
abbrev MGT_ERR_IMAGE_BAD : Fld := ⟨.mgt, 0x20, 1, 1⟩
abbrev MGT_ERR_UPD_FAIL : Fld := ⟨.mgt, 0x20, 0, 0⟩
abbrev MGT_FW_VER_VERSION : Fld := ⟨.mgt, 0x40, 63, 0⟩
abbrev MGT_BOOT_CAUSE_CAUSE : Fld := ⟨.mgt, 0x48, 7, 0⟩
abbrev MGT_MCTP_EN_IFACES : Fld := ⟨.mgt, 0x50, 4, 0⟩
abbrev MGT_FM_EP_EP : Fld := ⟨.mgt, 0x58, 19, 0⟩
abbrev MGT_RCV_ADDR_ADDR : Fld := ⟨.mgt, 0x60, 63, 0⟩
abbrev MGT_RCV_LEN_BYTES : Fld := ⟨.mgt, 0x68, 24, 0⟩
abbrev MGT_RCV_CTRL_GO : Fld := ⟨.mgt, 0x70, 0, 0⟩
abbrev MGT_RCV_STAT_BUSY : Fld := ⟨.mgt, 0x78, 15, 15⟩
abbrev MGT_RCV_STAT_CAUSE : Fld := ⟨.mgt, 0x78, 7, 0⟩
abbrev MGT_REPAIR_LEFT_ROWS : Fld := ⟨.mgt, 0x80, 15, 0⟩
abbrev MGT_MGMT_DROP_CNT_COUNT : Fld := ⟨.mgt, 0x88, 63, 0⟩
abbrev MGT_SPDM_CNT_COUNT : Fld := ⟨.mgt, 0x90, 63, 0⟩
abbrev SEC_STAT_KILLED : Fld := ⟨.sec, 0x18, 9, 9⟩
abbrev SEC_STAT_DEBUG_LOCK : Fld := ⟨.sec, 0x18, 8, 8⟩
abbrev SEC_STAT_SVN : Fld := ⟨.sec, 0x18, 7, 0⟩
abbrev SEC_RSA_KEY_HASH0_DATA : Fld := ⟨.sec, 0x40, 63, 0⟩
abbrev SEC_RSA_KEY_HASH1_DATA : Fld := ⟨.sec, 0x48, 63, 0⟩
abbrev SEC_RSA_KEY_HASH2_DATA : Fld := ⟨.sec, 0x50, 63, 0⟩
abbrev SEC_RSA_KEY_HASH3_DATA : Fld := ⟨.sec, 0x58, 63, 0⟩
abbrev SEC_RSA_KEY_HASH4_DATA : Fld := ⟨.sec, 0x60, 63, 0⟩
abbrev SEC_RSA_KEY_HASH5_DATA : Fld := ⟨.sec, 0x68, 63, 0⟩
abbrev SEC_SLH_KEY_HASH0_DATA : Fld := ⟨.sec, 0x70, 63, 0⟩
abbrev SEC_SLH_KEY_HASH1_DATA : Fld := ⟨.sec, 0x78, 63, 0⟩
abbrev SEC_SLH_KEY_HASH2_DATA : Fld := ⟨.sec, 0x80, 63, 0⟩
abbrev SEC_SLH_KEY_HASH3_DATA : Fld := ⟨.sec, 0x88, 63, 0⟩
abbrev SEC_SLH_KEY_HASH4_DATA : Fld := ⟨.sec, 0x90, 63, 0⟩
abbrev SEC_SLH_KEY_HASH5_DATA : Fld := ⟨.sec, 0x98, 63, 0⟩
abbrev SEC_ID_HASH_ID : Fld := ⟨.sec, 0xa0, 63, 0⟩
abbrev LCS_CTRL_LOCK : Fld := ⟨.lcs, 0x10, 63, 63⟩
abbrev LCS_STAT_PENDING : Fld := ⟨.lcs, 0x18, 8, 8⟩
abbrev LCS_STAT_STATE : Fld := ⟨.lcs, 0x18, 1, 0⟩
abbrev LCS_REQ_STATE : Fld := ⟨.lcs, 0x40, 1, 0⟩
abbrev LCS_NONCE_VALUE : Fld := ⟨.lcs, 0x48, 63, 0⟩
abbrev LCS_CONFIRM_VALUE : Fld := ⟨.lcs, 0x50, 63, 0⟩

end F

end Sys2Proof.Machine
end

