-- ==== Sys2Proof/Machine/StateParts.lean ====
section
/-! DEFINITION. The structured parts of the state: what the spec gives a unit beside its register fields. Every field has the
value it holds at reset as its default (log 1 where the spec gives none). -/

namespace Sys2Proof.Machine

/-- Where the package stands on the rows of Table 19-6, and the holds of R416, R402 and R477. -/
inductive PowStage where
  /-- No input, or input out of range. -/
  | off
  /-- Input above 40.0 V: soft start runs (1 ms row). -/
  | soft
  /-- Every rail regulates (9 ms row onward). -/
  | on
  /-- Trip hold (R416). -/
  | trip
  deriving DecidableEq, Repr

/-- Supply, rails and straps (chapters 16 and 19). -/
structure PowerState where
  stage : PowStage := .off
  /-- Over-voltage holds the package until the input is back in range (R402, R477). -/
  overVolt : Bool := false
  /-- Strap values sampled when the rails first regulated (R470): PORT0_SPLIT, PORT1_SPLIT, FACTORY. -/
  split0 : Bool := false
  split1 : Bool := false
  factory : Bool := false
  /-- A junction or rail failure holds these dies in reset, by die number (R418). -/
  heldDies : List Nat := []
  /-- Ovusk cores out of reset (R426). -/
  coresUp : Nat := 0
  deriving DecidableEq, Repr

/-- A write in a page's hold buffer (R16): who wrote, where, the page and bank of the register it reaches (R482), the value written and
the clamped value. -/
structure HeldWrite where
  origin : Origin
  addr : Nat
  place : Nat × Nat
  written : Word
  value : Word
  deriving DecidableEq, Repr

/-- An audit entry (Table 17-7). -/
structure AuditEntry where
  utc : Word
  tick : Word
  old : Word
  written : Word
  applied : Word
  page : Nat
  offset : Nat
  origin : Nat
  flags : Nat
  seq : Nat
  check : Word
  deriving DecidableEq, Repr

/-- The audit log (R438 to R440): entries held, newest first; the SEQ of the next entry and of the first undrained one. -/
structure AuditLog where
  entries : List AuditEntry := []
  next : Nat := 0
  drained : Nat := 0
  lost : Nat := 0
  /-- The newest 4,096 entries, copied to flash before a controlled reset (R440). -/
  flash : List AuditEntry := []
  deriving DecidableEq, Repr

/-- A host link (R422, R426, R476): PERST_N and whether the link is trained. -/
structure HostLink where
  perst : Bool := true
  up : Bool := false
  deriving DecidableEq, Repr

/-- An entry of a function's MSI-X table (R423; log 15). -/
structure MsixEntry where
  addr : Word := 0
  data : Nat := 0
  masked : Bool := true
  deriving DecidableEq, Repr

/-- A partition's breach record (R436): the millisecond (elapsed time) in which each resource was last breached. -/
structure PartState where
  lastBreach : List (Nat × Nat) := []
  /-- Bandwidth granted at the last division of each resource (R435), by resource · 16 + index. -/
  grants : List (Nat × Nat) := []
  deriving DecidableEq, Repr

/-! ### Clusters (chapters 02, 03, 05) -/

/-- Thread states of Table 02-1. -/
inductive ThrState where
  | off | ready | waitLocal | waitRemote | waitCount | waitTq | waitRes | halted | reserved
  deriving DecidableEq, Repr

/-- Issue and completion counts of a fence scope (R264): the open epoch, and closed epochs by number, oldest first. -/
structure Epochs where
  curId : Nat := 0
  issued : Nat := 0
  completed : Nat := 0
  closed : List (Nat × Nat × Nat) := []
  deriving DecidableEq, Repr, Inhabited

/-- What a waiting thread waits for (R37, R54, R57, R59, R82, R117, R264). -/
inductive Waiting where
  | none
  | counter (i val : Nat)
  /-- WAITM: address, value, and whether the line has been written since the last examination. -/
  | word (addr val : Nat) (woken : Bool)
  | tq (sd : Nat)
  | mclaim
  | tqclaim
  | mover (m : Nat) (desc : List Word)
  /-- 64 stores outstanding (R37). -/
  | stores
  /-- FENCE of a scope that closed epoch `id`. -/
  | fence (scope id : Nat)
  /-- FENCE that found four closed epochs. -/
  | fenceFull (scope oldest : Nat)
  | mrel
  | mfence
  /-- EPI with the epilogue unit busy: the descriptor. -/
  | epi (desc : List Byte)
  /-- A bound thread whose launch still needs the matrix claim, the tile queue claim (R61). -/
  | launch (mtx tq : Bool)
  deriving DecidableEq, Repr

/-- One piece of a remote result: byte offset in the destination, length, and the bytes once they are in. -/
structure RPart where
  off : Nat
  len : Nat
  data : Option (List Byte)
  deriving DecidableEq, Repr

/-- The remote result a thread waits for: a scalar or vector register, and its pieces. -/
structure Remote where
  vec : Bool
  reg : Nat
  parts : List RPart
  /-- VLDG: element width in bits, the active elements, and the byte of the pieces at which element 0 lies. -/
  w : Nat := 0
  act : List Nat := []
  start : Nat := 0
  deriving DecidableEq, Repr

/-- A thread (R34). Registers are sparse; an unlisted one holds zero. -/
structure Thread where
  pc : Nat := 0
  st : ThrState := .off
  cause : Nat := 0
  sr : Sparse Word := []
  vr : Sparse Nat := []
  pr : Sparse Nat := []
  vl : Nat := 0
  rm : Nat := 0
  flags : Nat := 0
  /-- Draw index and the step value of the last draw (R331). -/
  drawIdx : Nat := 0
  drawStep : Nat := 0
  wait : Waiting := .none
  /-- PC words by which the waiting instruction advances when its wait ends. -/
  adv : Nat := 0
  remote : Option Remote := .none
  /-- Remote stores and non-fetching atomics outstanding (R37). -/
  stores : Nat := 0
  /-- VSTG instructions outstanding: number and cells left (R74: each counts as one store). -/
  groups : List (Nat × Nat) := []
  nextGroup : Nat := 0
  /-- A STOP that waits for a remote result (R41). -/
  stopPend : Bool := false
  ep : Epochs := {}
  deriving DecidableEq, Repr

/-- Formats an accumulator can hold (R116): a pair's even member holds the hi parts, its odd one the lo parts. -/
inductive AccFmt where
  | fp64 | fp32 | hi | lo
  deriving DecidableEq, Repr

/-- A tile queue entry (R55, Table 02-7a). -/
structure TqEntry where
  seq : Nat
  tag : Nat
  fmt : Nat
  acc : Nat
  rows : Nat
  cols : Nat
  data : List Byte
  deriving DecidableEq, Repr

/-- A matrix operation in flight (R117, R130): what it does when it completes. `code` 0 is FP64, 1 FP32, 2 an FP64X2 pair;
loads and stores carry the address of row 0 and the bytes between rows. -/
inductive MtxOp where
  | zero (vd code : Nat)
  | load (vd code a stride : Nat)
  | store (vd code a stride : Nat)
  | push (vd tag fmt : Nat)
  /-- First accumulator, the four words of the descriptor, and what its operands were at issue (R121). -/
  | mma (vd : Nat) (w0 w1 w2 w3 : Nat) (seen : List Nat)
  deriving DecidableEq, Repr

/-- The epilogue unit (R82 to R85): idle, a descriptor waiting for the head entry, or an output computed and not yet done. -/
inductive EpiStage where
  | idle
  | waiting (thr : Nat) (desc : List Byte)
  /-- Writes (address, bytes), tiles sealed at the end, and the completion word's address. -/
  | running (thr : Nat) (writes : List (Nat × List Byte)) (doneAddr : Nat) (flags : Nat)
  deriving DecidableEq, Repr

/-- What the threads of a cluster share. -/
structure Cluster where
  mtxOwner : Option Nat := none
  tqOwner : Option Nat := none
  /-- Threads that wait, in the order they began to wait. -/
  waiters : List Nat := []
  /-- The thread that issued last, and how many instructions it has issued in a row while another thread was ready (R36). -/
  lastIssue : Nat := 0
  runLen : Nat := 0
  /-- Its last instruction was a remote access, or YIELD (R36, R52). -/
  lastRemote : Bool := false
  yielded : Bool := false
  /-- The holder of the matrix claim has halted: the claim is released once its operations have finished (R131). -/
  mtxRelease : Bool := false
  /-- Accumulator elements by register · 1024 + row · 32 + column (FP64X2: high and low words in two registers). -/
  acc : Sparse Word := []
  accFmt : Sparse AccFmt := []
  mops : List (Nat × MtxOp) := []
  /-- Finished tiles that wait to enter the tile queue, oldest first, with the thread that asked for each. -/
  pushPend : List (Nat × TqEntry) := []
  tq : List TqEntry := []
  pushSeq : Nat := 0
  epi : EpiStage := .idle
  epiCount : Nat := 0
  epiDraw : Nat := 0
  epiStep : Nat := 0
  wiping : Bool := true
  /-- Taken from a partition, and not yet wiped clean (R429). -/
  removed : Bool := false
  /-- START bits written during the wipe (R64). -/
  startPend : Nat := 0
  faulted : Bool := false
  /-- Instruction store writes of movers that no IFENCE has yet made visible: word and value (R48). -/
  stale : Sparse Word := []
  ep : Epochs := {}
  deriving DecidableEq, Repr

/-! ### Commands of the queues (chapter 09) -/

/-- Where a fetched command stands (R26, R235, R237, R239). -/
inductive CmdPhase where
  /-- Fetched; not started. -/
  | waiting
  /-- Started: holds a completion slot. -/
  | started
  /-- Its engine has taken it. -/
  | running
  /-- Its engine has ended it; its completion is not committed. -/
  | ended
  /-- An abort won its commit point; the engine still stops (R239). -/
  | aborted
  /-- Aborted before it started; its ABORTED record waits for a completion slot. -/
  | abortedNoSlot
  deriving DecidableEq, Repr

/-- An uncommitted command. -/
structure Cmd where
  id : Nat
  queue : Nat
  part : Nat
  /-- The eight words of its submission entry. -/
  words : List Word
  phase : CmdPhase := .waiting
  /-- Launch tick reached (R317), or none named. -/
  launched : Bool := false
  status : Nat := 0
  aux : Nat := 0
  flags : Nat := 0
  /-- Deadline passed: the engine stops at its next boundary (R181, R236). -/
  late : Bool := false
  /-- Its engine has stopped at a boundary after an abort (R239). -/
  stopped : Bool := false
  /-- Engine unit that runs it. -/
  unit : Nat := 0
  /-- Tick at which it was fetched, and whether a solver command then waited ahead of it on its ring (R313). -/
  fetched : Nat := 0
  behind : Bool := false
  /-- A fault raised before its commit point has ended it, which no later abort undoes (R239). -/
  byFault : Bool := false
  /-- HBM ranges whose contents are unspecified once a job fault ends the command (Table 06-7, R178). -/
  outs : List (Nat × Nat) := []
  /-- The tick at which an abort took its commit point (R239), and the parameter block that a solver command copied as it started (R141, R167). -/
  at_ : Option Nat := none
  block : List Word := []
  deriving DecidableEq, Repr

/-! ### The coherence point (chapter 08) -/

/-- An Ovusk reservation (R194). -/
structure Reservation where
  hart : Nat
  line : Nat
  at_ : Nat
  deriving DecidableEq, Repr

/-- A line that Ovusk caches hold (R193). -/
structure DirLine where
  line : Nat
  dirty : Bool
  deriving DecidableEq, Repr

/-- What the queue manager keeps beside a queue's context: completion slots reserved and not yet written, and the records
written since EN was set, from which PHASE follows (R235, R237). -/
structure QueueExtra where
  reserved : Nat := 0
  written : Nat := 0
  deriving DecidableEq, Repr

/-! ### Fabric (chapter 10) -/

/-- Who waits for a cell's answer. -/
inductive Owner where
  /-- Thread `t` of cluster `c`; `part` numbers the piece of its remote result, none for a store or non-fetching atomic. -/
  | thread (c t : Nat) (part : Option Nat)
  /-- Tile mover or bulk channel: the number of its descriptor; `load` numbers the piece read, none for a store. -/
  | tile (c m run : Nat) (load : Option Nat)
  | bulk (ch run : Nat) (load : Option Nat)
  /-- The Chain engine. -/
  | chain
  /-- Frond: a poll, or a line of a segment (segment, line). -/
  | frond (slot : Nat) (seg : Option (Nat × Nat))
  /-- A Spore message to a rank (R378). -/
  | spore (slot rank : Nat)
  /-- A combined cell of a Hub: the die and the number of its combining entry. -/
  | hub (die n : Nat)
  deriving DecidableEq, Repr

/-- An unacknowledged cell of a flow (R257, R261). -/
structure TxCell where
  seq : Nat
  cell : Cell
  owner : Owner
  /-- Fence epochs that count it: thread, cluster, job (R263, R264). -/
  epThread : Option Nat
  epCluster : Option Nat
  epJob : Option Nat
  /-- Route key and slot it was last sent on. -/
  key : Nat
  slot : Nat
  tries : Nat
  timeout : Nat
  sentAt : Nat
  /-- It has left at least once. -/
  sent : Bool := false
  deriving DecidableEq, Repr

/-- A flow at its source (R257, R258). -/
structure TxFlow where
  next : Nat := 0
  cells : List TxCell := []
  /-- Cells that wait for room in the send window, oldest first. -/
  queue : List TxCell := []
  /-- The floor last carried by a cell, and the time at which the floor last advanced. -/
  carried : Nat := 0
  advancedAt : Nat := 0
  /-- The slot TC2 cells keep (R269). -/
  slot : Option Nat := none
  deriving DecidableEq, Repr

/-- A flow at a handling die (R259): B, the numbers from B up that are applied, and applications not yet acknowledged. -/
structure RxFlow where
  base : Nat := 0
  applied : List Nat := []
  ackDue : Bool := false
  ackAt : Nat := 0
  /-- The source endpoint of the latest cell, where ACKs go. -/
  srcEp : Nat := 0
  deriving DecidableEq, Repr

/-- A reply cache entry (R274): a fetching atomic's result, or a contributor of a combining Hub (R279). -/
structure ReplyEntry where
  die : Nat
  key : FlowKey
  seq : Nat
  /-- RESP and data of the answer, once it is known. -/
  value : Option (Nat × List Byte)
  at_ : Nat
  deriving DecidableEq, Repr

/-- A combining entry (R278): the cells it holds, in order of arrival. -/
structure CombEntry where
  die : Nat
  n : Nat
  openedAt : Nat
  /-- Closed: the combined cell has been sent, and its answer is awaited. -/
  closed : Bool
  target : Bool
  cells : List Cell
  deriving DecidableEq, Repr

/-- A fabric port's link (R246): replays failed in a row, the times of the replays of the last 60 s, the last 4,096 cells sent, newest first,
and the numbers of the next cell to be sent and to be received. -/
structure Link where
  fails : Nat := 0
  replays : List Nat := []
  sent : List Cell := []
  txSeq : Nat := 0
  rxSeq : Nat := 0
  deriving DecidableEq, Repr

/-! ### Movers (chapter 09) -/

/-- The descriptor a mover runs (R226): whether it ends DESC_BAD, pieces of fabric source lines still to come, fabric stores of
its own not yet acknowledged, the flags of its conversion, and a host read it waits for with the time it was sent. -/
structure MovRun where
  desc : List Word
  descAddr : Nat := 0
  bad : Bool := false
  /-- Its transfer is over; only its end remains. -/
  isOver : Bool := true
  loads : List RPart := []
  stores : Nat := 0
  flags : Nat := 0
  hostAt : Option Nat := none
  hostErr : Bool := false
  /-- Its number among the descriptors of its mover, which the accesses it sends carry (R223), and the line reads it has sent (R228). -/
  seq : Nat := 0
  sent : Nat := 0
  deriving DecidableEq, Repr

/-- A tile mover (R57): descriptors queued, the head first, the run of the head once it has begun, and the number of the next one. -/
structure TileMover where
  q : List (List Word) := []
  run : Option MovRun := none
  next : Nat := 0
  deriving DecidableEq, Repr

/-- A bulk channel (R229, R236, R242): its command, the next descriptor's address, index and count, and the run. -/
structure Bulk where
  cmd : Option Nat := none
  addr : Nat := 0
  idx : Nat := 0
  count : Nat := 0
  bad : Nat := 0
  flags : Nat := 0
  run : Option MovRun := none
  stopReq : Bool := false
  stopped : Bool := false
  next : Nat := 0
  deriving DecidableEq, Repr

/-! ### Solver channels (chapters 06 and 07) -/

/-- What a set-up leaves in a preconditioner area (Table 06-6); its layout in memory is not the spec's (log 33). -/
inductive PcData where
  | none
  | diag (d : List Nat)
  /-- L and U on one pattern, row by row: ILU(0) and block-Jacobi. -/
  | lu (rows : List (List (Nat × Nat)))
  /-- L below the diagonal, and D. -/
  | ldl (rows : List (List (Nat × Nat))) (d : List Nat)
  deriving DecidableEq, Repr

/-- What a set-up left at an address: its data, and the number and length of the free bytes that stand for its layout there (log 33). -/
structure PcArea where
  addr : Nat
  first : Nat
  len : Nat
  data : PcData
  deriving DecidableEq, Repr

/-- A solver channel: the command that holds it, its state (Table 06-13), its start, its copy of the parameter block, what the launch
resolved, and the bytes of its input digest. -/
structure SlvChan where
  holder : Option Nat := .none
  stage : Nat := 0
  start : Nat := 0
  params : List Word := []
  /-- WARM of the report. -/
  warm : Nat := 0
  reuse : Bool := false
  /-- Deadline passed before the checks were. -/
  lateEarly : Bool := false
  inDigest : List Byte := []
  /-- The areas of R159 as they stood at the launch. -/
  areas : List (Nat × List Byte) := []
  /-- The tick since which STATE has not been idle, and τ as the launch took it (R150, R164). -/
  busyAt : Nat := 0
  tau : Nat := 0
  /-- The solve has several members (R155). -/
  multi : Bool := false
  deriving DecidableEq, Repr

/-- A batch command past its checks (R171 to R177). -/
structure BatchRun where
  id : Nat
  lead : Nat
  mask : Nat
  start : Nat
  params : List Word
  /-- The lowest system not started. -/
  next : Nat
  /-- Slots at work: channel, cluster, system. -/
  slots : List (Nat × Nat × Nat)
  /-- Slots free. -/
  free : List (Nat × Nat)
  /-- Systems ended: number, status, flags, pivots replaced. -/
  ends : List (Nat × Nat × Nat × Nat)
  inDigest : List Byte
  /-- The areas of R176 as they stood at the launch: those of the command, and those of each system. -/
  areas : List (Nat × List Byte) := []
  sys : List (List (Nat × List Byte)) := []
  /-- τ as the launch took it (R164, R173). -/
  tau : Nat := 0
  deriving DecidableEq, Repr

/-! ### Chain collectives (chapter 11) -/

/-- A communicator on this package (R291, Table 11-2): slot and number, its members' ranks in order. -/
structure Comm where
  slot : Nat
  num : Nat
  ranks : List Nat
  /-- SEQ of the next collective. -/
  next : Nat := 0
  /-- Staging region (R291). -/
  staging : Option Nat := none
  /-- Slowest-member record, newest first: sequence number, rank, lateness, reason (R312). -/
  slow : List (Nat × Nat × Nat × Nat) := []
  /-- Time of the previous arrival on it (R313). -/
  lastArrive : Nat := 0
  deriving DecidableEq, Repr

/-- Cells of one phase from one member: their data by CELL, and the chunks announced (first cell, cells, CRC). -/
structure CollRx where
  phase : Nat
  member : Nat
  cells : Sparse (List Byte) := []
  chunks : List (Nat × Nat × Nat) := []
  deriving DecidableEq, Repr

/-- A collective from its start until it is confirmed (R294 to R310). -/
structure Coll where
  slot : Nat
  comm : Nat
  seq : Nat
  /-- Its command; none for a digest check of the package's own (R369). -/
  cmd : Option Nat
  opc : Nat
  dtype : Nat
  rop : Nat
  count : Nat
  root : Nat
  dst : Nat
  digestAddr : Nat
  ring : Bool
  /-- The member's input, read at its start. -/
  input : List Byte
  inDigest : List Byte := []
  /-- Operation digest (R295). -/
  opDigest : Nat
  /-- Arrival tick and reason (R312, R313). -/
  arrive : Nat
  reason : Nat
  rx : List CollRx := []
  /-- READY of the ring receiver has come. -/
  ready : Bool := false
  upSent : Bool := false
  /-- Ring steps sent, and parts in hand. -/
  sent : Nat := 0
  parts : List (Nat × List Byte) := []
  /-- What the down wave brought: the result, or nothing for an END. -/
  down : Option (List Byte) := none
  overflow : Bool := false
  committed : Bool := false
  commitAt : Nat := 0
  poison : Bool := false
  /-- CONFIRM_UP payloads of the children, by member. -/
  conf : List (Nat × List Byte) := []
  confSent : Bool := false
  /-- Time of the last cell that came or went (R309). -/
  progress : Nat := 0
  /-- Passes still to be sent (R300): receiver, phase, bytes. -/
  later : List (Nat × Nat × List Byte) := []
  deriving DecidableEq, Repr

/-! ### Jobs (chapter 14) -/

/-- A Frond segment being fetched: its number, bytes wanted, and the lines that have come. -/
structure FrondFetch where
  seg : Nat
  len : Nat
  lines : Sparse (List Byte) := []
  deriving DecidableEq, Repr

/-- What a job slot holds beside its registers. -/
structure JobX where
  /-- Starting origin: 0 is fabric management, p + 1 the owner of partition p (R360). -/
  origin : Nat := 0
  /-- A write of ACCEPTING is held pending (R362). -/
  pend : Bool := false
  drainAt : Nat := 0
  wipeAt : Nat := 0
  /-- The broadcast has started; HELD last read at the source, the next segment to fetch, fetches in flight. -/
  started : Bool := false
  srcHeld : Nat := 0
  next : Nat := 0
  fetch : List FrondFetch := []
  /-- Time of the source's last reply, or of the first unanswered poll (R367). -/
  lastReply : Nat := 0
  polling : Bool := false
  /-- Segments fetched a second time. -/
  again : List Nat := []
  /-- Digest checks begun, the launch barrier counted (R371), and whether one is in progress. -/
  checks : Nat := 0
  checking : Bool := false
  /-- The launch barrier has passed. -/
  passed : Bool := false
  /-- The last teardown wipe reported a failure, and the slot stays WIPING (R373). -/
  wipeFailed : Bool := false
  deriving DecidableEq, Repr

/-! ### The Lichen engine's queues (chapter 08) -/

/-- A stream past its checks (R203): what it writes to Y, its completion target, its entries, and whether every value is finite. -/
structure LichStream where
  ch : Nat
  cmd : Nat
  cluster : Nat
  spad : Nat
  y : Nat
  vals : List Nat
  entries : Nat
  finite : Bool
  deriving DecidableEq, Repr

/-- A stream that waits at an engine, as its channel issued it (R202, R206): channel and its command, operation, rows, the addresses of its
arrays by word, and its completion target. -/
structure WaitStream where
  ch : Nat
  cmd : Nat
  op : Nat
  rows : Nat
  arrays : List Nat
  cluster : Nat
  spad : Nat
  deriving DecidableEq, Repr

/-- What a Lichen engine holds (R195, R197, R206, R209): lines of the memory-side cache, 1 as in DRAM, 2 modified; sectors that narrow lanes wait
for, with the time each lane came; streams that run, and streams that wait; and when the patrol pass in progress began. -/
structure Lichen where
  cache : Sparse Nat := []
  window : List (Nat × Nat) := []
  run : List LichStream := []
  wait : List WaitStream := []
  scrubAt : Nat := 0
  deriving DecidableEq, Repr

/-! ### Spore (chapter 15) -/

/-- A Spore message (Table 15-2). -/
structure SporeMsg where
  kind : Nat
  flags : Nat
  cause : Nat
  count : Nat
  gen : Nat
  tick : Nat
  key : Nat
  value : Nat
  cost : Nat
  copy : Nat
  deriving DecidableEq, Repr

/-- A cluster image (Table 15-1). -/
structure CluImage where
  spad : Memory
  spadSum : Sparse Word
  istore : Sparse Word
  threads : List Thread
  clu : Cluster
  tms : List TileMover
  deriving DecidableEq, Repr

/-- A package image (R376): cluster images in ascending order, and the package section. -/
structure PkgImage where
  clusters : List CluImage
  qctx : Sparse (List Word)
  qx : Sparse QueueExtra
  cmds : List Cmd
  slv : Sparse SlvChan
  batch : List BatchRun
  bulk : Sparse Bulk
  /-- Preconditioner areas in the job's units, which its warm starts reuse (R157, R161). -/
  pcAreas : List PcArea
  comms : List Comm
  colls : List Coll
  /-- Cells staged for collectives not yet started (R299). -/
  early : List (Nat × Cell)
  tx : List (FlowKey × TxFlow)
  rx : List ((Nat × FlowKey) × RxFlow)
  ep : Epochs
  step : Word
  /-- Step log entries, 0 newest: step, digest, tick. -/
  stepLog : List (Nat × Nat × Nat)
  deriving DecidableEq, Repr, Inhabited

/-- What Spore keeps of a job slot. -/
structure SporeSlot where
  /-- STAT.STATE. -/
  stage : Nat := 0
  /-- A request waits at the root (R380); one has been forwarded and not yet answered (R379). -/
  held : Bool := false
  forwarded : Bool := false
  /-- The newest committed generation awaits its GEN_READY. -/
  genWait : Bool := false
  /-- RESUME tick of the newest committed generation, or the launch. -/
  lastResume : Nat := 0
  /-- The root's own down message. -/
  down : Option SporeMsg := none
  /-- Up messages of the wave in progress by child, and the member's own contribution. -/
  ups : List (Nat × SporeMsg) := []
  mine : Option SporeMsg := none
  /-- Tick at which the member's up message of a pause wave left. -/
  upAt : Option Nat := none
  /-- Messages that wait (receiver, mailbox offset, bytes), and receivers whose last message is not acknowledged. -/
  outbox : List (Nat × Nat × List Byte) := []
  busy : List Nat := []
  image : Option PkgImage := none
  /-- Eligible granules, with their data and checksums as captured. -/
  granules : List Nat := []
  data : Memory := []
  sums : Sparse Word := []
  copied : List Nat := []
  pool : List Nat := []
  /-- Accesses held: granule, time, access. -/
  holds : List (Nat × Nat × HeldAccess) := []
  copying : Bool := false
  holdStart : Nat := 0
  /-- Host slot of the part. -/
  part : Nat := 0
  /-- First STEP after the resume: step, digest, tick (R391). -/
  stepRec : Option (Nat × Nat × Nat) := none
  /-- A restore is in progress, and the replay record it is compared with. -/
  restoring : Bool := false
  replay : Nat × Nat := (0, 0)
  fillCause : Nat := 0
  /-- The first STEP has been recorded or compared. -/
  recorded : Bool := false
  deriving DecidableEq, Repr

/-! ### Time (chapter 12) and field I/O (chapter 13) -/

/-- What time keeping holds beside its registers: whether a source has ever locked, the offset still to be removed by slewing, ticks
for which the counter waits for its source, an offset that waits for the end of the jobs (R321), when the last phase source went, the
last exchange with the parent, the last whole second of the 1PPS output, and the next frame from FRAME_EPOCH while frames run. -/
structure TimeState where
  everLocked : Bool := false
  slew : Int := 0
  hold : Nat := 0
  pend : Option Int := none
  lostAt : Option Nat := none
  exchAt : Option Nat := none
  ppsSec : Option Nat := none
  frameNext : Option Nat := none
  deriving DecidableEq, Repr

/-- A stream descriptor as copied at the enable (Table 13-1); its layout gives FORMAT, PHNMR, ANNMR and DGNMR of each block. -/
structure FioStream where
  kind : Nat
  ports : Nat
  id : Nat
  srcIp : Nat
  sourceId : Nat
  first : Nat
  count : Nat
  comps : Nat
  layout : List (Nat × Nat × Nat × Nat)
  rate : Nat
  timeBase : Nat
  mac : Nat
  deriving DecidableEq, Repr

/-- A publication descriptor as copied at the enable (Table 13-4). -/
structure FioPub where
  offset : Nat
  src : Nat
  count : Nat
  ports : Nat
  dstUdp : Nat
  dstIp : Nat
  dstMac : Nat
  srcUdp : Nat
  gate : List Nat
  deriving DecidableEq, Repr

/-- The bank of a cut frame from the frame's start until its INGEST_CLOSED (R23, R348): the count k, the start tick, the entries written in
the window (flags, source, arrival), whether a product overflowed, and whether the window has closed and the close fill runs. -/
structure FioWin where
  k : Nat
  start : Nat
  got : Sparse (Nat × Nat × Nat) := []
  overflow : Bool := false
  filling : Bool := false
  deriving DecidableEq, Repr

/-- Field I/O: descriptors, F0 from FRAME_EPOCH, the banks in hand, oldest first, the cut frame last closed, and publications to come (index,
cut frame, its start). -/
structure FioState where
  streams : List FioStream := []
  pubs : List FioPub := []
  f0 : Nat := 0
  wins : List FioWin := []
  closed : Option Nat := none
  due : List (Nat × Nat × Nat) := []
  deriving DecidableEq, Repr

/-! ### Power (chapter 16) -/

/-- A member's latest REPORT at the broker root (R412): rank, FLAGS, MEASURED_W, CAP_W. -/
structure GovReport where
  rank : Nat
  flags : Nat
  measured : Nat
  cap : Nat
  deriving DecidableEq, Repr

/-- The governor and the broker (R404 to R414): power of each control period since the window began, newest first; the operating point
chosen; the issue level of each class, deadline first; whether a transient throttle (R405), a hold of R407 or R408, or a hold in this broker
period stands; operating points that heat imposes, by die index; failed sensors (R417); whether the input is outside its warning band; and the
broker's last epoch, reports, budgets, newest record entry read, and epoch of the last GRANT applied. -/
structure GovState where
  samples : List Nat := []
  op : Nat := 7
  levels : List Nat := [1, 1, 1]
  peak : Bool := false
  held : Bool := false
  limited : Bool := false
  dieOp : Sparse Nat := []
  badSensors : List Nat := []
  vinOut : Bool := false
  epoch : Nat := 0
  reports : List GovReport := []
  budgets : List (Nat × Nat) := []
  seen : Option Nat := none
  grantEpoch : Option Nat := none
  deriving DecidableEq, Repr

/-! ### Management (chapter 18) -/

/-- Fuses (R448, R453, R463): the life-cycle code, a change pending, the fused SVN, the kill fuse (log 7). -/
structure Fuses where
  lcs : Nat := 0
  pending : Bool := false
  svn : Nat := 0
  killed : Bool := false
  deriving DecidableEq, Repr

/-- What the image region holds (R443): the valid image that the package was delivered with (log 7), the bytes of an image written since, or
what a flash write that was cut short has left (R449). -/
inductive FlashImage where
  | shipped
  | written (b : List Byte)
  | torn
  deriving DecidableEq, Repr

/-- Flash (R443): the image region; whether device data holds wrapped keys and certificate chains; and the
repairs taken in each pseudo-channel's lifetime, by stack · 32 + pseudo-channel (R460). -/
structure Flash where
  image : FlashImage := .shipped
  keys : Bool := false
  repaired : Sparse Nat := []
  deriving DecidableEq, Repr

/-- What the responder holds of an MCTP interface (R452): the digest M of its last signed response, and a large response that waits
for CHUNK_GET. -/
structure SpdmState where
  m : Option (List Byte) := none
  large : List Byte := []
  deriving DecidableEq, Repr

/-- A PLDM update (R449): the interface it came in on, the bytes staged and how far they reach, and whether the flash write runs. -/
structure Update where
  iface : Nat
  staged : Memory := []
  len : Nat := 0
  applying : Bool := false
  deriving DecidableEq, Repr

/-- The management core's state beside its registers: an update; an image applied and not activated; resets that wait for
ApplyComplete, by scope and index; the link of a recovery fetch; endpoint IDs by interface and the I3C address (R455); SPDM by
interface; the last REG_WRITE requests with the times and payloads of their replies (R459); and the signed message of the running image. -/
structure MgmtState where
  upd : Option Update := none
  applied : Bool := false
  heldResets : List (Nat × Nat) := []
  rcv : Option Nat := none
  eids : Sparse Nat := []
  i3c : Option Nat := none
  spdm : Sparse SpdmState := []
  replies : List (Nat × Nat × List Byte) := []
  running : List Byte := []
  deriving DecidableEq, Repr

/-- What leaves the package, as its surroundings see it (log 12). -/
inductive Out where
  /-- A cell sent on a fabric port. -/
  | cell (port : Nat) (x : Cell)
  /-- A receiver asks for a replay from a LINK_SEQ (R246). -/
  | linkAsk (port seq : Nat)
  /-- A time cell: port, KIND, payload (Table 12-3). -/
  | timeCell (port kind : Nat) (x : TimeCell)
  /-- MSI-X message: link, function, vector (R432). -/
  | msix (link fn vec : Nat)
  | osIrq (part vec : Nat)
  | mgmtIrq (page : Nat)
  | fmIrq (page : Nat)
  /-- The value a register read returns. -/
  | regValue (v : Word)
  /-- BAR4 completion: data, poisoned bit (R424); none for an Unsupported Request. -/
  | bar4 (data : Option (List Byte × Bool))
  /-- A read of host memory sent to a link: mover, address, bytes (R226). -/
  | hostRead (link addr len : Nat)
  /-- Answer to a line request: bytes and poison. -/
  | line (data : List Byte) (poison : Bool)
  /-- Answer to a narrow request: eight lane values and a poison mask (R199, R208). -/
  | narrow (vals : List Word) (poison : Nat)
  | narrowRefused
  | scResult (hart : Nat) (ok : Bool)
  /-- A line recalled from an Ovusk cache, or invalidated there (R193). -/
  | recall (line : Nat)
  | invalidate (line : Nat)
  /-- A datagram on a field port: destination MAC and address, source and destination UDP ports, payload (R352). -/
  | datagram (port mac ip srcUdp dstUdp : Nat) (data : List Byte)
  /-- A response on an MCTP interface: message kind and bytes. -/
  | mctp (iface kind : Nat) (bytes : List Byte)
  /-- An MCTP or PLDM request the package sends. -/
  | pldm (iface cmd : Nat) (bytes : List Byte)
  | ppsEdge (tick : Nat)
  /-- A Frond poll or fetch read sent to a rank (R366). -/
  | frondRead (slot rank offset len : Nat)
  /-- Halo values that a solve's slots send to a neighbour: rank, first halo index there, and the values (R136, Table 06-3). -/
  | halo (rank first : Nat) (vals : List Nat)
  /-- What a member brings to the reduction points of a solve (R155): its parameter digest, its values at each, and its end code. -/
  | solvePoints (digest : Nat) (vals : List (List Nat)) (code : Nat)
  /-- An access fault of an Ovusk core (R427). -/
  | coreFault
  deriving DecidableEq, Repr

end Sys2Proof.Machine

/-- Byte `i` of the part of a package image that the spec gives no layout for (R376), and the image that such bytes stand for; the
layout of Table 15-1's first three rows is the spec's (log 43). -/
opaque Sys2Proof.Config.imageByte : Sys2Proof.Machine.PkgImage → Nat → BitVec 8
opaque Sys2Proof.Config.imageOf : List (BitVec 8) → Sys2Proof.Machine.PkgImage
end

