-- ==== Sys2Proof/Machine/State.lean ====
section
/-! DEFINITION. The state of the package, as plain data, and its reset. Tables indexed by a unit's number are sparse maps whose
unlisted entries read as that unit's reset value. -/

namespace Sys2Proof.Machine

/-- What stops the machine. The spec names no behaviour of this package that stops it: every error and every fault of the spec
is an effect on the state (an ERR bit, a halted thread, a faulted job), so only an operand that spells no command is here. -/
inductive Fault where
  /-- Raised by no meaning of the model: the spec calls an access to a place that does not exist a read of zero and a
  discarded write (R4, R21, R424), never a stop. Safe: a stop proves nothing about the hardware. -/
  | unreachable
  deriving DecidableEq, Repr

/-- Why a command has no meaning. -/
inductive Refusal where
  /-- An arm of the dispatch that has no meaning yet. Safe. -/
  | notModelled (mnemonic : String)
  deriving DecidableEq, Repr

/-- The whole state of the package. -/
structure State where
  /-- Commands that wait, first in, first out. -/
  pending : List Instr := []
  /-- Elapsed time in ns since the model's reset; timers are measured on it (log 8). -/
  now : Nat := 0
  /-- The Cadence counter (R316). -/
  cad : Nat := 0
  /-- Next number of a value the spec leaves open. The model's own field (log 3). -/
  fresh : Nat := 0
  /-- Supply, rails and straps (chapter 19). -/
  pow : PowerState := {}
  /-- Register fields, by bank and BAR0 offset. -/
  regs : Sparse Word := []
  /-- The partitions that a set ERR bit of a shared page concerns (R12, R432), as bits, by 64 · the ERR register's address + bit. -/
  errFor : Sparse Nat := []
  /-- Hold buffers of pages whose clock is stopped, by page (R16). -/
  holds : Sparse (List HeldWrite) := []
  /-- The audit log (R438 to R440). -/
  aud : AuditLog := {}
  /-- HBM data by HBM address, and checksum slots by tile (R186, R108). -/
  hbm : Memory := []
  hbmSum : Sparse Word := []
  /-- Memory of the hosts, by link · 2^64 + PCIe address. -/
  hostMem : Memory := []
  /-- Scratchpads by cluster · 2^22 + address, and their checksum slots by cluster · 1024 + tile (R43, R46). -/
  spad : Memory := []
  spadSum : Sparse Word := []
  /-- Instruction stores by cluster · 32768 + word (R47). -/
  istore : Sparse Word := []
  /-- Threads by cluster · 8 + thread (R34). -/
  threads : Sparse Thread := []
  /-- What the threads of a cluster share. -/
  clus : Sparse Cluster := []
  /-- Uncommitted commands, in the order fetched. -/
  cmds : List Cmd := []
  nextCmd : Nat := 0
  /-- Fence counts of job scopes (R264). -/
  jobEp : Sparse Epochs := []
  /-- Ovusk reservations and cached lines, newest first (R193, R194). -/
  resv : List Reservation := []
  dir : List DirLine := []
  /-- Cached queue contexts as eight words each, and the order of their use, latest first (R232). -/
  qctx : Sparse (List Word) := []
  qlru : List Nat := []
  qx : Sparse QueueExtra := []
  /-- Job slots whose engines a Spore quiesce holds (R381). -/
  quiesced : List Nat := []
  /-- Fence counts of cluster scopes are with the clusters; those of job scopes are above (R264). Flows sent, receive windows by
  handling die, reply caches, combining tables, links. -/
  tx : List (FlowKey × TxFlow) := []
  rx : List ((Nat × FlowKey) × RxFlow) := []
  replyCache : List ReplyEntry := []
  comb : List CombEntry := []
  nextComb : Nat := 0
  links : Sparse Link := []
  /-- Flow states by the last use, newest first: die, whether the package is the source, flow (R257). -/
  flowLru : List (Nat × Bool × FlowKey) := []
  /-- Tile movers by cluster · 4 + mover, and bulk channels. -/
  tms : Sparse TileMover := []
  bulk : Sparse Bulk := []
  /-- Solver channels, batch commands, and what solves have left in preconditioner areas, by address. -/
  slv : Sparse SlvChan := []
  batch : List BatchRun := []
  pcAreas : List PcArea := []
  /-- Communicators. -/
  comms : List Comm := []
  colls : List Coll := []
  /-- CHAIN and SYNC cells of collectives not yet started here (R299): slot, communicator, cell. -/
  early : List (Nat × Nat × Cell) := []
  /-- Times at which a stack was last THROTTLED and the package last held back by its cap (R313). -/
  hotAt : Option Nat := none
  capAt : Option Nat := none
  /-- Lichen engines by stack. -/
  lich : Sparse Lichen := []
  /-- Controller corrections by stack, row and time, and rows recorded for repair (R460). -/
  ceLog : List (Nat × Nat × Nat) := []
  /-- Corrections of the last hour, by stack and time (R209). -/
  ceTimes : List (Nat × Nat) := []
  repairs : List (Nat × Nat) := []
  /-- Job slots. -/
  jobs : Sparse JobX := []
  /-- Spore by job slot, and the times at which each warning's condition became true (R393). -/
  spore : Sparse SporeSlot := []
  warnings : List (Nat × Nat) := []
  /-- Time keeping (chapter 12) and field I/O (chapter 13). -/
  time : TimeState := {}
  fio : FioState := {}
  /-- Latest completion record of each queue and tag: queue, tag, status, tick (R353). -/
  records : List (Nat × Nat × Nat × Nat) := []
  /-- Package images whose bytes Spore has written to a host. The model's own field: the layout of the bytes is open (log 43). -/
  images : List PkgImage := []
  /-- The power governor and broker (chapter 16). -/
  gov : GovState := {}
  /-- Fuses, flash and the management core (chapter 18). -/
  fuses : Fuses := {}
  flash : Flash := {}
  mgmt : MgmtState := {}
  /-- Host links. -/
  hostLinks : Sparse HostLink := []
  /-- MSI-X tables by (link · 64 + function) · 2048 + vector, R423. -/
  msix : Sparse MsixEntry := []
  /-- Partitions' breach and arbiter state. -/
  parts : Sparse PartState := []
  /-- What the package has sent out, newest first. The model's own field (log 12). -/
  out : List Out := []
  deriving DecidableEq, Repr

/-- The machine right after reset: the package before its 48 V input is applied (row 0 of Table 19-6; log 13). -/
def State.reset : State := {}

end Sys2Proof.Machine
end

