-- ==== Sys2Proof/Machine/Operands.lean ====
section
/-! DEFINITION. The operand forms of the two instruction formats (R34, R49, Tables 02-2 and 02-3). -/

namespace Sys2Proof.Machine

/-! ### Scalar registers and operands (Operand B of R49) -/

def Thread.rd (x : Thread) (r : Nat) : Word := if r = 0 then 0 else spGet 0 x.sr r
/-- s0 ignores writes (R34). -/
def Thread.wr (x : Thread) (r : Nat) (v : Word) : Thread := if r = 0 then x else { x with sr := spPut 0 x.sr r v }

/-- The immediate of a format S instruction: IMM32 sign-extended, or the extension word. -/
def sImm (i : SFmt) : Word := i.ext.getD (i.imm.signExtend 64)
/-- Operand B (Table 02-2, IMS). -/
def sOpB (x : Thread) (i : SFmt) : Word := if i.ims then sImm i else x.rd i.sb.toNat
def sOpA (x : Thread) (i : SFmt) : Word := x.rd i.sa.toNat
/-- Words of an instruction (R49). -/
def sWords (i : SFmt) : Nat := if i.ext.isSome then 2 else 1

def vImm (i : VFmt) : Word := i.ext.getD (i.imm.signExtend 64)
def vWords (i : VFmt) : Nat := if i.ext.isSome then 2 else 1

abbrev pcMod : Nat := 32768
def Thread.advance (x : Thread) (n : Nat) : Thread := { x with pc := (x.pc + n) % pcMod }

end Sys2Proof.Machine
end

