-- ==== Sys2Proof/Machine/Hash.lean ====
section
/-! DEFINITION. Checksums and digests: the CRC-64 of R13 and R107, the CRC-32C of fabric cells and chunks, the CRC-16 of
IEEE C37.118.2 frames, and SHA-384. The CRC-64 parameters are the spec's; the others are taken from the standards the spec
names (PRESUMED, log 2). -/

namespace Sys2Proof.Machine

/-- One bit step of a CRC fed most significant bit first. -/
def crcBit (w poly c : Nat) : Nat :=
  let t := (c <<< 1) % 2 ^ w
  if c >>> (w - 1) = 1 then t ^^^ poly else t

/-- `n` bit steps. -/
def crcBits (w poly : Nat) : Nat → Nat → Nat
  | 0, c => c
  | n + 1, c => crcBits w poly n (crcBit w poly c)

/-- A CRC of width `w` over bytes, each most significant bit first. -/
def crcMsb (w poly : Nat) (c : Nat) (bs : List Byte) : Nat :=
  bs.foldl (fun a b => crcBits w poly 8 (a ^^^ (b.toNat <<< (w - 8)))) c

/-- R13, R107: CRC-64, initial value zero, no reflection, no final inversion. -/
def crc64 (bs : List Byte) : Word := BitVec.ofNat 64 (crcMsb 64 0x42F0E1EBA9EA3693 0 bs)

/-- One bit step of a reflected CRC. -/
def crcBitR (poly c : Nat) : Nat := if c % 2 = 1 then (c >>> 1) ^^^ poly else c >>> 1

/-- `n` reflected bit steps. -/
def crcBitsR (poly : Nat) : Nat → Nat → Nat
  | 0, c => c
  | n + 1, c => crcBitsR poly n (crcBitR poly c)

/-- CRC-32C (Castagnoli): reflected, initial and final inversion. -/
def crc32c (bs : List Byte) : Nat :=
  (bs.foldl (fun a b => crcBitsR 0x82F63B78 8 (a ^^^ b.toNat)) 0xFFFFFFFF) ^^^ 0xFFFFFFFF

/-- CRC-CCITT of IEEE C37.118.2 frames: polynomial 0x1021, initial value all ones. -/
def crcCcitt (bs : List Byte) : Nat := crcMsb 16 0x1021 0xFFFF bs

/-! ## SHA-384 -/

/-- The 80 round constants. -/
def shaK : List Nat :=
  [0x428A2F98D728AE22, 0x7137449123EF65CD, 0xB5C0FBCFEC4D3B2F, 0xE9B5DBA58189DBBC,
   0x3956C25BF348B538, 0x59F111F1B605D019, 0x923F82A4AF194F9B, 0xAB1C5ED5DA6D8118,
   0xD807AA98A3030242, 0x12835B0145706FBE, 0x243185BE4EE4B28C, 0x550C7DC3D5FFB4E2,
   0x72BE5D74F27B896F, 0x80DEB1FE3B1696B1, 0x9BDC06A725C71235, 0xC19BF174CF692694] ++
  [0xE49B69C19EF14AD2, 0xEFBE4786384F25E3, 0x0FC19DC68B8CD5B5, 0x240CA1CC77AC9C65,
   0x2DE92C6F592B0275, 0x4A7484AA6EA6E483, 0x5CB0A9DCBD41FBD4, 0x76F988DA831153B5,
   0x983E5152EE66DFAB, 0xA831C66D2DB43210, 0xB00327C898FB213F, 0xBF597FC7BEEF0EE4,
   0xC6E00BF33DA88FC2, 0xD5A79147930AA725, 0x06CA6351E003826F, 0x142929670A0E6E70] ++
  [0x27B70A8546D22FFC, 0x2E1B21385C26C926, 0x4D2C6DFC5AC42AED, 0x53380D139D95B3DF,
   0x650A73548BAF63DE, 0x766A0ABB3C77B2A8, 0x81C2C92E47EDAEE6, 0x92722C851482353B,
   0xA2BFE8A14CF10364, 0xA81A664BBC423001, 0xC24B8B70D0F89791, 0xC76C51A30654BE30,
   0xD192E819D6EF5218, 0xD69906245565A910, 0xF40E35855771202A, 0x106AA07032BBD1B8] ++
  [0x19A4C116B8D2D0C8, 0x1E376C085141AB53, 0x2748774CDF8EEB99, 0x34B0BCB5E19B48A8,
   0x391C0CB3C5C95A63, 0x4ED8AA4AE3418ACB, 0x5B9CCA4F7763E373, 0x682E6FF3D6B2B8A3,
   0x748F82EE5DEFB2FC, 0x78A5636F43172F60, 0x84C87814A1F0AB72, 0x8CC702081A6439EC,
   0x90BEFFFA23631E28, 0xA4506CEBDE82BDE9, 0xBEF9A3F7B2C67915, 0xC67178F2E372532B] ++
  [0xCA273ECEEA26619C, 0xD186B8C721C0C207, 0xEADA7DD6CDE0EB1E, 0xF57D4F7FEE6ED178,
   0x06F067AA72176FBA, 0x0A637DC5A2C898A6, 0x113F9804BEF90DAE, 0x1B710B35131C471B,
   0x28DB77F523047D84, 0x32CAAB7B40C72493, 0x3C9EBE0A15C9BEBC, 0x431D67C49C100D4C,
   0x4CC5D4BECB3E42B6, 0x597F299CFC657E2A, 0x5FCB6FAB3AD6FAEC, 0x6C44198C4A475817]

/-- The initial hash value of SHA-384. -/
def shaIv : List Nat :=
  [0xCBBB9D5DC1059ED8, 0x629A292A367CD507, 0x9159015A3070DD17, 0x152FECD8F70E5939,
   0x67332667FFC00B31, 0x8EB44A8768581511, 0xDB0C2E0D64F98FA7, 0x47B5481DBEFA4FA4]

/-- Rotate right in 64 bits. -/
def rotr64 (n x : Nat) : Nat := (x >>> n) ||| ((x <<< (64 - n)) % 2 ^ 64)

/-- The next message schedule word from the last 16, newest first. -/
def shaNextW (w : List Nat) : Nat :=
  let w2 := w.getD 1 0
  let w7 := w.getD 6 0
  let w15 := w.getD 14 0
  let w16 := w.getD 15 0
  let s0 := rotr64 1 w15 ^^^ rotr64 8 w15 ^^^ (w15 >>> 7)
  let s1 := rotr64 19 w2 ^^^ rotr64 61 w2 ^^^ (w2 >>> 6)
  (s1 + w7 + s0 + w16) % 2 ^ 64

/-- The eight working variables. -/
structure ShaSt where
  a : Nat
  b : Nat
  c : Nat
  d : Nat
  e : Nat
  f : Nat
  g : Nat
  h : Nat
  deriving DecidableEq, Repr

/-- One round. -/
def shaRound (s : ShaSt) (k w : Nat) : ShaSt :=
  let s1 := rotr64 14 s.e ^^^ rotr64 18 s.e ^^^ rotr64 41 s.e
  let ch := (s.e &&& s.f) ^^^ ((s.e ^^^ (2 ^ 64 - 1)) &&& s.g)
  let t1 := s.h + s1 + ch + k + w
  let s0 := rotr64 28 s.a ^^^ rotr64 34 s.a ^^^ rotr64 39 s.a
  let mj := (s.a &&& s.b) ^^^ (s.a &&& s.c) ^^^ (s.b &&& s.c)
  ⟨(t1 + s0 + mj) % 2 ^ 64, s.a, s.b, s.c, (s.d + t1) % 2 ^ 64, s.e, s.f, s.g⟩

/-- The rounds of a block: the schedule words still held, newest first, and the constants left. -/
def shaRounds : List Nat → List Nat → List Nat → ShaSt → ShaSt
  | [], _, _, s => s
  | k :: ks, m :: ms, w, s => shaRounds ks ms (m :: w) (shaRound s k m)
  | k :: ks, [], w, s =>
    let x := shaNextW w
    shaRounds ks [] ((x :: w).take 16) (shaRound s k x)

/-- `n` big-endian words of 8 bytes. -/
def beWords : Nat → List Byte → List Nat
  | 0, _ => []
  | n + 1, bs => beNat (bs.take 8) :: beWords n (bs.drop 8)

/-- One 128-byte block. -/
def shaBlock (h : List Nat) (blk : List Byte) : List Nat :=
  let g := fun i => h.getD i 0
  let s := shaRounds shaK (beWords 16 blk) [] ⟨g 0, g 1, g 2, g 3, g 4, g 5, g 6, g 7⟩
  [(g 0 + s.a) % 2 ^ 64, (g 1 + s.b) % 2 ^ 64, (g 2 + s.c) % 2 ^ 64, (g 3 + s.d) % 2 ^ 64,
   (g 4 + s.e) % 2 ^ 64, (g 5 + s.f) % 2 ^ 64, (g 6 + s.g) % 2 ^ 64, (g 7 + s.h) % 2 ^ 64]

/-- `n` blocks. -/
def shaBlocks : Nat → List Byte → List Nat → List Nat
  | 0, _, h => h
  | n + 1, bs, h => shaBlocks n (bs.drop 128) (shaBlock h (bs.take 128))

/-- SHA-384: 48 bytes. -/
def sha384 (bs : List Byte) : List Byte :=
  let n := bs.length
  let z := (128 - (n + 17) % 128) % 128
  let m := bs ++ [0x80] ++ List.replicate z 0 ++ natBe 16 (8 * n)
  ((shaBlocks (m.length / 128) m shaIv).take 6).flatMap (fun w => natBe 8 w)

end Sys2Proof.Machine
end

