-- ==== Sys2Proof/Machine/Ops.lean ====
section
/-! DEFINITION. Operations that every chapter shares: register fields, free values, errors and interrupts, the audit log,
partitions and job slots. -/

namespace Sys2Proof.Machine

/-- The outcome of a command that completes. -/
abbrev done (s : State) : Host.Outcome State Fault Refusal := .next s

/-! ### Register fields -/

/-- Reset value of a register (the tables' Reset column). -/
def resetWord (b : Block) (off : Nat) : Word :=
  BitVec.ofNat 64 ((blockFields b).foldl (fun a r => if r.off = off then a + r.reset * 2 ^ r.lo else a) 0)

/-- BAR0 address of a register of page `inst` of a block (R19). -/
def regAddr (b : Block) (inst off : Nat) : Nat := blockBase b + 4096 * inst + off

/-- Key of a register in the register file; `bank` numbers the copies behind a selector (R482). -/
def regKey (b : Block) (inst off bank : Nat) : Nat := 2 ^ 28 * bank + regAddr b inst off

def State.regW (s : State) (b : Block) (off : Nat) (inst : Nat := 0) (bank : Nat := 0) : Word :=
  spGet (resetWord b off) s.regs (regKey b inst off bank)

def State.setW (s : State) (b : Block) (off : Nat) (v : Word) (inst : Nat := 0) (bank : Nat := 0) : State :=
  { s with regs := spPut (resetWord b off) s.regs (regKey b inst off bank) v }

/-- A register field. -/
def State.getF (s : State) (f : Fld) (inst : Nat := 0) (bank : Nat := 0) : Nat :=
  bitsOf (s.regW f.blk f.off inst bank).toNat f.hi f.lo

/-- Sets a register field; the register's other fields keep their values. -/
def State.setF (s : State) (f : Fld) (v : Nat) (inst : Nat := 0) (bank : Nat := 0) : State :=
  s.setW f.blk f.off (BitVec.ofNat 64 (setBits (s.regW f.blk f.off inst bank).toNat f.hi f.lo v)) inst bank

/-- Adds to a counter, which wraps at its width. -/
def State.addF (s : State) (f : Fld) (n : Nat) (inst : Nat := 0) (bank : Nat := 0) : State :=
  s.setF f (s.getF f inst bank + n) inst bank

/-- Adds to a counter that saturates. -/
def State.addSat (s : State) (f : Fld) (n : Nat) (inst : Nat := 0) (bank : Nat := 0) : State :=
  s.setF f (Nat.min (s.getF f inst bank + n) (2 ^ (f.hi + 1 - f.lo) - 1)) inst bank

def State.emit (s : State) (o : Out) : State := { s with out := o :: s.out }

/-- Draws the next value the spec leaves open (log 3). -/
def State.free (s : State) : Word × State := (Config.freeWord s.fresh, { s with fresh := s.fresh + 1 })

/-- Draws from the management core's random source (log 6). -/
def State.rand (s : State) : Word × State := (Config.random s.fresh, { s with fresh := s.fresh + 1 })

/-! ### Partitions (R428) and job slots (R252, R360) -/

def testBit (v i : Nat) : Bool := (v >>> i) % 2 = 1

def State.partEn (s : State) (p : Nat) : Bool := s.getF F.PRT_CTRL_EN p = 1

abbrev partNums : List Nat := [0, 1, 2, 3, 4, 5, 6, 7]

/-- The enabled partition that satisfies a test; at most one holds a resource (R428). -/
def State.findPart (s : State) (test : Nat → Bool) : Option Nat :=
  partNums.find? (fun p => s.partEn p && test p)

/-- UNITS field of a PRT page: bit b of word w is unit 64w + b. -/
def State.prtUnit (s : State) (p u : Nat) : Bool :=
  u < 368 && testBit (s.regW .prt (0x58 + 8 * (u / 64)) p).toNat (u % 64)

def State.prtGroup (s : State) (p g : Nat) : Bool := testBit (s.getF F.PRT_CLU_GROUPS_GROUPS p) g

def State.prtQueue (s : State) (p q : Nat) : Bool :=
  s.getF F.PRT_QUEUES_FIRST p ≤ q && q < s.getF F.PRT_QUEUES_FIRST p + s.getF F.PRT_QUEUES_COUNT p

def State.partOfCluster (s : State) (c : Nat) : Option Nat := s.findPart (fun p => s.prtGroup p (c / 8))
def State.partOfUnit (s : State) (u : Nat) : Option Nat := s.findPart (fun p => s.prtUnit p u)
def State.partOfQueue (s : State) (q : Nat) : Option Nat := s.findPart (fun p => s.prtQueue p q)
def State.partOfSlv (s : State) (c : Nat) : Option Nat :=
  s.findPart (fun p => testBit (s.getF F.PRT_SLV_SET_CHANNELS p) c)
def State.partOfMov (s : State) (c : Nat) : Option Nat :=
  s.findPart (fun p => c < 48 && testBit (s.getF F.PRT_MOV_SET_CHANNELS p) c)
def State.fioPart (s : State) : Option Nat := s.findPart (fun p => s.getF F.PRT_GRANTS_FIO p = 1)

/-- The partition a host link owns (R425). -/
def State.partOfLink (s : State) (l : Nat) : Option Nat :=
  s.findPart (fun p => s.getF F.PRT_OWNER_KIND p = 1 && s.getF F.PRT_OWNER_LINK p = l)

/-- States of a job slot (Table 10-6). -/
abbrev slotFree : Nat := 0
abbrev slotWiping : Nat := 1
abbrev slotLoading : Nat := 2
abbrev slotAccepting : Nat := 3
abbrev slotDraining : Nat := 4

abbrev slotNums : List Nat := [0, 1, 2, 3, 4, 5, 6, 7]

def State.slotState (s : State) (j : Nat) : Nat := s.getF F.HUB_JOB_CTL_STATE 0 j
def State.slotTag (s : State) (j : Nat) : Nat := s.getF F.HUB_JOB_CTL_TAG 0 j
def State.myRank (s : State) (j : Nat) : Nat := s.getF F.HUB_JOB_CTL_MY_RANK 0 j

/-- The slot's partition, once it is named (R360). -/
def State.slotPart (s : State) (j : Nat) : Option Nat :=
  if s.getF F.GLB_SLOT_CFG_NAMED 0 j = 1 then some (s.getF F.GLB_SLOT_CFG_PARTITION 0 j) else none

def State.jobGroup (s : State) (j g : Nat) : Bool := testBit (s.getF F.GLB_SLOT_CFG_CLU_GROUPS 0 j) g
def State.jobUnit (s : State) (j u : Nat) : Bool :=
  u < 368 && testBit (s.regW .glb (0x58 + 8 * (u / 64)) 0 j).toNat (u % 64)
/-- Whether a queue is a job's: JOB_QUEUES is a range of the job's partition, past which its COUNT may run (R360, Table 14-5). -/
def State.jobQueue (s : State) (j q : Nat) : Bool :=
  s.getF F.GLB_JOB_QUEUES_FIRST 0 j ≤ q && q < s.getF F.GLB_JOB_QUEUES_FIRST 0 j + s.getF F.GLB_JOB_QUEUES_COUNT 0 j &&
  (match s.slotPart j with
   | some p => s.prtQueue p q
   | none => false)

/-- The slot in state ACCEPTING of a partition: its running job (R360 allows one). -/
def State.acceptingSlot (s : State) (p : Nat) : Option Nat :=
  slotNums.find? (fun j => s.slotState j = slotAccepting && s.slotPart j = some p)

/-- A slot whose job holds something, in LOADING, ACCEPTING or DRAINING. -/
def State.slotHolding (s : State) (test : Nat → Bool) : Option Nat :=
  slotNums.find? (fun j => (s.slotState j = slotAccepting || s.slotState j = slotDraining || s.slotState j = slotLoading) && test j)

def State.slotOfCluster (s : State) (c : Nat) : Option Nat := s.slotHolding (fun j => s.jobGroup j (c / 8))
def State.slotOfQueue (s : State) (q : Nat) : Option Nat := s.slotHolding (fun j => s.jobQueue j q)
/-- The slot that accepts cells of a tag (Table 10-6). -/
def State.slotOfTag (s : State) (tag : Nat) : Option Nat :=
  slotNums.find? (fun j => (s.slotState j = slotAccepting || s.slotState j = slotDraining) && s.slotTag j = tag)
def State.loadingSlotOfTag (s : State) (tag : Nat) : Option Nat :=
  slotNums.find? (fun j => s.slotState j = slotLoading && s.slotTag j = tag)

/-! ### Stages of a job (Table 14-6) -/
abbrev stageIdle : Nat := 0
abbrev stageLoading : Nat := 1
abbrev stageFronding : Nat := 2
abbrev stageBarrier : Nat := 3
abbrev stageRunning : Nat := 4
abbrev stageFaulted : Nat := 5
abbrev stageDraining : Nat := 6
abbrev stageWiping : Nat := 7

def State.stage (s : State) (j : Nat) : Nat := s.getF F.GLB_STAGE_STAGE 0 j
def State.setStage (s : State) (j v : Nat) : State := s.setF F.GLB_STAGE_STAGE v 0 j
def State.faulted (s : State) (j : Nat) : Bool := s.stage j = stageFaulted

/-! ### Errors and interrupts (R12, R432) -/

/-- The ERR bits of a page that raise an interrupt: set, enabled and unmasked (R12). -/
def State.irqBits (s : State) (b : Block) (inst : Nat) : Nat :=
  ((s.regW b 0x20 inst) &&& (s.regW b 0x30 inst) &&& ~~~(s.regW b 0x28 inst)).toNat

/-- The partition that owns a page (Table 17-4), where one does. -/
def State.pagePart (s : State) (b : Block) (inst : Nat) : Option Nat :=
  match b with
  | .clu => s.partOfCluster inst
  | .slv => s.partOfSlv inst
  | .mov => s.partOfMov inst
  | .fio => s.fioPart
  | _ => none

/-- Sends an interrupt to the owner of a partition (R432); a link that is down drops it (R426). -/
def State.irqPart (s : State) (p : Nat) : State :=
  let vec := s.getF F.PRT_IRQ_VECTOR p
  if s.getF F.PRT_OWNER_KIND p = 1 then
    let l := s.getF F.PRT_OWNER_LINK p
    if (spGet {} s.hostLinks l).up then s.emit (.msix l 0 vec) else s
  else if s.getF F.PRT_OWNER_KIND p = 2 then s.emit (.osIrq p vec) else s

/-- Key of an ERR bit of a page. -/
def errKey (b : Block) (inst bit : Nat) : Nat := 64 * regAddr b inst 0x20 + bit

/-- The partitions that ERR bits of a page concern, as bits (R432). -/
def State.errParts (s : State) (b : Block) (inst bits : Nat) : Nat :=
  (List.range 64).foldl (fun a i => if testBit bits i then a ||| spGet 0 s.errFor (errKey b inst i) else a) 0

/-- Sends the interrupt of a page to its recipients; `concern` has a bit for each partition that ERR bits of a shared page concern. -/
def State.irqPage (s : State) (b : Block) (inst concern : Nat) : State :=
  let page := (blockBase b) / 4096 + inst
  let s1 := match s.pagePart b inst with
    | some p => s.irqPart p
    | none =>
      let s2 := s.emit (.mgmtIrq page)
      if b = .fab || b = .hub then s2.emit (.fmIrq page) else s2
  (partNums.filter (fun p => testBit concern p && s.pagePart b inst ≠ some p)).foldl State.irqPart s1

/-- Raises the page's interrupt if an ERR bit newly meets the three conditions of R12, whichever of the three came last. -/
def State.irqSince (s0 s : State) (b : Block) (inst : Nat) : State :=
  let new := (s.irqBits b inst) &&& ((2 ^ 64 - 1) ^^^ (s0.irqBits b inst))
  if new = 0 then s else s.irqPage b inst (s.errParts b inst new)

/-- Records that an ERR bit of a shared page concerns a partition (R432). -/
def State.errConcerns (s : State) (f : Fld) (inst : Nat) (concern : Option Nat) : State :=
  match concern with
  | some p => let k := errKey f.blk inst f.lo; { s with errFor := spPut 0 s.errFor k (spGet 0 s.errFor k ||| 2 ^ p) }
  | none => s

/-- Forgets whom the ERR bits of a page that read 0 concerned. -/
def State.errForget (s : State) (b : Block) (inst : Nat) : State :=
  { s with errFor := s.errFor.filter (fun e => e.1 / 64 ≠ regAddr b inst 0x20 || testBit (s.regW b 0x20 inst).toNat (e.1 % 64)) }

/-- Sets an ERR bit (R11, R12). -/
def State.setErr (s : State) (f : Fld) (inst : Nat := 0) (concern : Option Nat := none) : State :=
  s.irqSince ((s.setF f 1 inst).errConcerns f inst concern) f.blk inst

/-- The two common ERR bits (Table 00-10). -/
abbrev errHoldOvf (b : Block) : Fld := ⟨b, 0x20, 63, 63⟩
abbrev errAccBad (b : Block) : Fld := ⟨b, 0x20, 62, 62⟩

/-! ### The audit log (R438, R439) -/

/-- An origin's byte (Table 17-7). -/
def originByte (s : State) : Origin → Nat
  | .host l => (s.partOfLink l.toNat).getD 0
  | .os _ => 0x10
  | .mgmt forHost => 0x20 + (if forHost then 1 else 0)
  | .rom => 0x30
  | .fabric => 0x40

abbrev fClamped : Nat := 1
abbrev fHeld : Nat := 2
abbrev fDiscarded : Nat := 4
abbrev fEvent : Nat := 8
abbrev fIgnored : Nat := 16
abbrev fLostBefore : Nat := 32

/-- Places in the spill region (R439). -/
abbrev auditPlaces : Nat := 1048576

/-- Bytes 0 to 55 of an entry (Table 17-7). -/
def AuditEntry.body (e : AuditEntry) : List Byte :=
  natLe 8 e.utc.toNat ++ natLe 8 e.tick.toNat ++ natLe 8 e.old.toNat ++ natLe 8 e.written.toNat ++ natLe 8 e.applied.toNat ++
  natLe 2 e.page ++ natLe 2 e.offset ++ natLe 1 e.origin ++ natLe 1 e.flags ++ natLe 2 0 ++ natLe 8 e.seq

/-- The whole entry, 64 bytes. -/
def AuditEntry.bytes (e : AuditEntry) : List Byte := e.body ++ natLe 8 e.check.toNat

/-- Undrained entries held. -/
def AuditLog.occ (a : AuditLog) : Nat := Nat.min (a.next - a.drained) auditPlaces

/-- Appends an entry (R438); the log never stalls a write (R439). -/
def State.audit (s : State) (origin page offset : Nat) (old written applied : Word) (flags : Nat) : State :=
  let a := s.aud
  let isOver := decide (auditPlaces ≤ a.next - a.drained)
  let prev : Word := match a.entries with
    | [] => 0
    | e :: _ => e.check
  let e0 : AuditEntry :=
    { utc := BitVec.ofNat 64 s.cad - 1000000000#64 * BitVec.ofNat 64 (s.getF F.CAD_UTC_OFFSET_SECONDS)
      tick := BitVec.ofNat 64 s.cad, old := old, written := written, applied := applied, page := page, offset := offset
      origin := origin, flags := flags + (if isOver then fLostBefore else 0), seq := a.next, check := 0 }
  let e := { e0 with check := crc64 (e0.body ++ natLe 8 prev.toNat) }
  let a1 := { a with entries := (e :: a.entries).take auditPlaces, next := a.next + 1
                     lost := a.lost + (if isOver then 1 else 0) }
  let s1 := { s with aud := a1 }
  let s2 := if isOver then s1.setErr F.AUD_ERR_OVERRUN else s1
  if 943719 ≤ a1.occ then s2.setErr F.AUD_ERR_HIGH_WATER else s2

/-- Appends the audit entry of an access to a register. -/
def State.auditReg (s : State) (o : Origin) (addr : Nat) (old written applied : Word) (flags : Nat) : State :=
  s.audit (originByte s o) (addr / 4096) (addr % 4096) old written applied flags

/-! ### Clocks (R476, R428) -/

/-- Whether the package serves register accesses at all: its rails regulate, no trip holds it (R469, R475). -/
def State.powered (s : State) : Bool := s.pow.stage = .on

/-- Whether the compute and fabric dies are released (R475). -/
def State.diesReady (s : State) : Bool := s.getF F.PWR_STAT_READY = 1

/-- The die that carries a block: 0 to 3 Kamgina, 4 and 5 Sordar, 6 Ovusk. -/
def blockDie (b : Block) (inst : Nat) : Nat :=
  match b with
  | .clu => inst / 64
  | .lch => inst / 4
  | .hbm => inst / 4
  | .fab => 4 + inst / 10
  | .hub => 4 + inst
  | .chn => 4 + inst
  | _ => 6

/-- STAT.CLK_OFF of a page (R476, R409): a cluster's clock also stops while no enabled partition holds its group. -/
def State.clkOff (s : State) (b : Block) (inst : Nat) : Bool :=
  !s.powered || s.pow.heldDies.contains (blockDie b inst) ||
  match b with
  | .clu => !s.diesReady || (s.partOfCluster inst).isNone
  | .lch => !s.diesReady
  | .hbm => !s.diesReady
  | .slv => !s.diesReady
  | .fab => !s.diesReady
  | .hub => !s.diesReady
  | .chn => !s.diesReady
  | _ => false

/-! ### Origins -/

/-- The partition an origin acts for: the one its host link owns (R425), or the OS-owned one it names (R426). -/
def State.originPart (s : State) : Origin → Option Nat
  | .host l => s.partOfLink l.toNat
  | .os p => if s.partEn p.toNat && s.getF F.PRT_OWNER_KIND p.toNat = 2 then some p.toNat else none
  | _ => none

/-- Bank of an origin's copy of a selector (R482). -/
def State.originCopy (s : State) : Origin → Nat
  | .host l => 1 + (s.partOfLink l.toNat).getD 8
  | .os _ => 16
  | .mgmt _ => 17
  | .rom => 18
  | .fabric => 19

/-! ### Time -/

/-- Nanoseconds in a millisecond and microsecond. -/
abbrev msec : Nat := 1000000
abbrev usec : Nat := 1000

end Sys2Proof.Machine
end

