-- ==== Sys2Proof/Machine/Engines.lean ====
section
/-! DEFINITION. What the engines hold for commands and threads: clusters and their claims (R54, R61), uncommitted commands (R235), solver
channels (R143) and bulk channels (R229), and how each gives up what it holds. -/

namespace Sys2Proof.Machine

/-! ### Clusters, threads and claims -/

def State.thr (s : State) (c t : Nat) : Thread := spGet {} s.threads (c * 8 + t)
def State.setThr (s : State) (c t : Nat) (x : Thread) : State := { s with threads := spPut {} s.threads (c * 8 + t) x }
def State.clu (s : State) (c : Nat) : Cluster := spGet {} s.clus c
def State.setClu (s : State) (c : Nat) (x : Cluster) : State := { s with clus := spPut {} s.clus c x }

abbrev thrNums : List Nat := [0, 1, 2, 3, 4, 5, 6, 7]

/-- A thread whose wait ends goes on after the instruction that waited. -/
def Thread.resume (x : Thread) : Thread := { x.advance x.adv with st := .ready, wait := .none, adv := 0 }

/-- The order of R36 counted from thread `t`. -/
def cyclicFrom (t : Nat) : List Nat := (List.range 8).map (fun i => (t + 1 + i) % 8)

/-- Whether a thread waits for a claim: MCLAIM or TQCLAIM, or a launch that needs it (R54, R61). -/
def Thread.wantsMtx (x : Thread) : Bool :=
  match x.wait with
  | .mclaim => true
  | .launch m _ => m
  | _ => false
def Thread.wantsTq (x : Thread) : Bool :=
  match x.wait with
  | .tqclaim => true
  | .launch _ q => q
  | _ => false

/-- A thread that has received a claim it waited for; a launch that needs the other one still waits. -/
def Thread.gotMtx (x : Thread) : Thread :=
  match x.wait with
  | .launch _ true => { x with wait := .launch false true }
  | _ => x.resume
def Thread.gotTq (x : Thread) : Thread :=
  match x.wait with
  | .launch true _ => { x with wait := .launch true false }
  | _ => x.resume

/-- Releases the matrix claim held by `t`: a waiting thread receives it in the order of R36 (R54). -/
def State.releaseMtx (s : State) (c t : Nat) : State :=
  let next := (cyclicFrom t).find? (fun u => (s.thr c u).wantsMtx)
  let s1 := s.setClu c { s.clu c with mtxOwner := next, mtxRelease := false }
  match next with
  | some u => s1.setThr c u (s1.thr c u).gotMtx
  | none => s1

def State.releaseTq (s : State) (c t : Nat) : State :=
  let next := (cyclicFrom t).find? (fun u => (s.thr c u).wantsTq)
  let s1 := s.setClu c { s.clu c with tqOwner := next }
  match next with
  | some u => s1.setThr c u (s1.thr c u).gotTq
  | none => s1

/-! ### Commands -/

def Cmd.word (c : Cmd) (i : Nat) : Nat := ((c.words[i]?).getD 0).toNat
def Cmd.opc (c : Cmd) : Nat := bitsOf (c.word 0) 63 56
def Cmd.engine (c : Cmd) : Nat := bitsOf (c.word 0) 53 48
def Cmd.tag (c : Cmd) : Nat := bitsOf (c.word 0) 15 0
def Cmd.launchTick (c : Cmd) : Nat := c.word 1
def Cmd.deadline (c : Cmd) : Nat := c.word 2
/-- Byte `i` of the entry, and bytes `i` to `i + n − 1` as a number. -/
def Cmd.byte (c : Cmd) (i : Nat) : Nat := bitsOf (c.word (i / 8)) (8 * (i % 8) + 7) (8 * (i % 8))
def Cmd.num (c : Cmd) (i n : Nat) : Nat := leNat ((List.range n).map (fun k => BitVec.ofNat 8 (c.byte (i + k))))

def State.cmd? (s : State) (id : Nat) : Option Cmd := s.cmds.find? (fun c => c.id = id)
def State.setCmd (s : State) (c : Cmd) : State := { s with cmds := s.cmds.map (fun d => if d.id = c.id then c else d) }
def State.dropCmd (s : State) (id : Nat) : State := { s with cmds := s.cmds.filter (fun c => c.id ≠ id) }

/-- Whether an entry is a solver or batch command. -/
def wordIsSolver (ws : List Word) : Bool :=
  let o := bitsOf ((ws[0]?).getD 0).toNat 63 56
  decide (0x50 ≤ o) && decide (o ≤ 0x53)

def Cmd.isSolver (c : Cmd) : Bool := wordIsSolver c.words
def Cmd.isBatch (c : Cmd) : Bool := c.opc = 0x52 || c.opc = 0x53
def Cmd.param (c : Cmd) : Nat := c.num 24 8
def Cmd.digestAddr (c : Cmd) : Nat := c.num 32 8

/-- Whether a fault ends a command: it has started, and nothing has taken its commit point (R239). -/
def Cmd.faultable (q : Cmd → Bool) (c : Cmd) : Bool :=
  q c && !c.byFault && (c.phase = .started || c.phase = .running || c.phase = .ended)

/-- Ends a command that has not committed with a fault's status (R162, R239). The flags it has gathered stay (R104). -/
def Cmd.fault (q : Cmd → Bool) (st : Nat) (c : Cmd) : Cmd :=
  if c.faultable q then { c with phase := .ended, status := st, aux := 0, byFault := true } else c

/-! ### Solver channels (R60, R61, R135, R143, R164, R169) -/

abbrev slvIdle : Nat := 0
abbrev slvChecks : Nat := 1
abbrev slvIterating : Nat := 3
abbrev slvHeld : Nat := 6

def State.chan (s : State) (ch : Nat) : SlvChan := spGet {} s.slv ch
def State.setChan (s : State) (ch : Nat) (x : SlvChan) : State := { s with slv := spPut {} s.slv ch x }

def isBatchCh (ch : Nat) : Bool := decide (56 ≤ ch)

/-- BIND word `q` of a channel. -/
def State.bindWord (s : State) (ch q : Nat) : Nat := (s.regW .slv (0x40 + 8 * q) ch).toNat

/-- The bound clusters, ascending: the channel's slots (R135). -/
def State.boundClusters (s : State) (ch : Nat) : List Nat :=
  (List.range 256).filter (fun c => testBit (s.bindWord ch (c / 64)) (c % 64))

/-- t7 of a bound cluster between launches: RESERVED, with no claim (R60). -/
def State.restThread7 (s : State) (c : Nat) : State :=
  let x := s.thr c 7
  if x.st ≠ .ready && x.st ≠ .waitRes then s
  else
    let s1 := s.setThr c 7 { x with st := .reserved, wait := .none, adv := 0 }
    let s2 := if (s1.clu c).mtxOwner = some 7 then s1.releaseMtx c 7 else s1
    if (s2.clu c).tqOwner = some 7 then s2.releaseTq c 7 else s2

/-- Whether a launch of a channel still waits for a claim (R61). -/
def State.launchWaits (s : State) (ch : Nat) : Bool := (s.boundClusters ch).any (fun c => (s.thr c 7).st = .waitRes)

/-- Records the status, tag and cause of the command that has ended (Table 06-13). -/
def State.slvLast (s : State) (ch tag status cause : Nat) : State :=
  ((s.setF F.SLV_LAST_STATUS status ch).setF F.SLV_LAST_TAG tag ch).setF F.SLV_LAST_CAUSE cause ch

/-- A channel gives up its command: BUSY_TICKS counts the time it was not idle, and SET.MASK names no command (Tables 06-13 and 07-7). -/
def State.leaveChannel (s : State) (ch : Nat) : State :=
  let x := s.chan ch
  let s1 := if x.stage = slvIdle then s
    else (s.boundClusters ch).foldl State.restThread7 (s.addF F.SLV_BUSY_TICKS_COUNT (s.cad - x.busyAt) ch)
  (if isBatchCh ch then s1.setF F.SLV_SET_MASK 0 ch else s1).setChan ch {}

/-! ### Bulk channels (R229) -/

def State.bulkCh (s : State) (ch : Nat) : Bulk := spGet {} s.bulk ch
def State.setBulk (s : State) (ch : Nat) (b : Bulk) : State := { s with bulk := spPut {} s.bulk ch b }

/-- A bulk channel gives up its command; a stop that waits takes effect. -/
def State.bulkRelease (s : State) (ch : Nat) : State :=
  let b := s.bulkCh ch
  s.setBulk ch { b with cmd := none, run := none, idx := 0, count := 0, bad := 0, flags := 0, stopReq := false, stopped := b.stopped || b.stopReq }

/-- The engine of a command that a fault ends stops: solver channels are idle and the lead's page records the end, whose cause code the spec
does not give (R162, R164, R167, log 21); a bulk channel between descriptors is free (R229). -/
def State.stopFor (s : State) (c : Cmd) (st : Nat) : State :=
  if c.isSolver then
    let chs := (List.range 64).filter (fun ch => (s.chan ch).holder = some c.id)
    let s1 := chs.foldl State.leaveChannel s
    let (w, s2) := s1.free
    let s3 := if chs.contains c.engine then s2.slvLast c.engine c.tag st (bitsOf w.toNat 7 0) else s2
    { s3 with batch := s3.batch.filter (fun r => r.id ≠ c.id) }
  else if c.opc = 0x60 then
    (List.range 48).foldl (fun s ch => if (s.bulkCh ch).cmd = some c.id && (s.bulkCh ch).run.isNone then s.bulkRelease ch else s) s
  else s

end Sys2Proof.Machine
end

