-- ==== Sys2Proof/Machine/Mem.lean ====
section
/-! DEFINITION. HBM and scratchpads as every engine reaches them: address decode (R187), plain and sealing writes (R109),
verification (R111), coherence with the Ovusk caches (R193, R194), and the job fault. -/

namespace Sys2Proof.Machine

/-- First address beyond HBM (R186). -/
abbrev hbmEnd : Nat := 0x5C00000000

abbrev domainSize : Nat := 0x1700000000

/-- Stack of an HBM address (Table 08-1). -/
def stackOf (a : Nat) : Nat :=
  let d := a % domainSize
  4 * (a / domainSize) + ((bitsOf d 13 12) ^^^ (bitsOf d 21 20) ^^^ (bitsOf d 29 28))

/-- Stack offset of an HBM address (Table 08-1). -/
def stackOffset (a : Nat) : Nat :=
  let d := a % domainSize
  4096 * bitsOf d 38 14 + bitsOf d 11 0

/-- Unit of an HBM address (R186). -/
def unitOf (a : Nat) : Nat := a / gib

/-- Tiles touched by `n` bytes at `a`. -/
def tilesOf (a n : Nat) : List Nat :=
  if n = 0 then [] else List.range' (a / 4096) ((a + n - 1) / 4096 + 1 - a / 4096)

/-! ### Job faults -/

/-- The job faults of the chapters. -/
inductive JobFault where
  | eccUe | tileCheck | fenced | atomicUnknown | routeLost | collPoisoned | digestMismatch | snapConsistency | fatalError
  deriving DecidableEq, Repr

/-- Completion status of a fault, where the spec gives one (Table 09-8); the others are free values (log 21). -/
def JobFault.status : JobFault → Option Nat
  | .atomicUnknown => some 0x30
  | .collPoisoned => some 0x31
  | .tileCheck => some 0x40
  | .digestMismatch => some 0x41
  | _ => none

/-- Free bytes for ranges whose contents the spec leaves open (log 3). -/
def freeBytes (k n : Nat) : List Byte :=
  (List.range n).map (fun i => BitVec.ofNat 8 ((Config.freeWord (k + i / 8)).toNat >>> (8 * (i % 8))))

/-- HBM whose contents are unspecified: free bytes, and a free checksum for each tile they touch. -/
def State.hbmLoose (s : State) (a n : Nat) : State :=
  { s with
    hbm := writeBytes s.hbm a (freeBytes s.fresh n)
    hbmSum := (tilesOf a n).foldl (fun m t => spPut 0 m t (Config.freeWord (s.fresh + n + (t - a / 4096)))) s.hbmSum
    fresh := s.fresh + 2 * n + 1 }

/-- Ends commands with a fault's status: their outputs that the spec leaves unspecified are free, and their engines stop (R162, R237, R239). -/
def State.faultCmds (s : State) (q : Cmd → Bool) (st : Nat) : State :=
  let ran := s.cmds.filter (Cmd.faultable q)
  let s1 := (ran.flatMap (fun c => c.outs)).foldl (fun s r => s.hbmLoose r.1 r.2) s
  let s2 := ran.foldl (fun s c => s.stopFor c st) s1
  { s2 with cmds := s2.cmds.map (Cmd.fault q st) }

/-- What a channel or mover that serves a command does when it meets a job fault: the command ends with the fault's status, whether or not a job
takes the fault (R112, R162); one whose commit point an abort took has stopped (R239). -/
def State.endFaulted (s : State) (id : Option Nat) (f : JobFault) : State :=
  match id.bind s.cmd? with
  | none => s
  | some c =>
    if c.phase = .aborted then (s.stopFor c 0x01).setCmd { c with stopped := true }
    else
      let (w, s1) := s.free
      s1.faultCmds (fun d => d.id = c.id) (f.status.getD (bitsOf w.toNat 7 0))

/-- A job fault: the slot's stage becomes FAULTED (Table 14-6), and it stays ACCEPTING (R372); the job's started commands that
have not committed end with the fault's status (R237), and what Table 06-7 and R178 leave unspecified is free; a restore before its resume is abandoned (R397). -/
def State.jobFault (s : State) (j : Nat) (f : JobFault) : State :=
  if s.faulted j then s else
  let (w, s1) := s.free
  let st := f.status.getD (bitsOf w.toNat 7 0)
  let x : SporeSlot := spGet {} s1.spore j
  let s2 := s1.setStage j stageFaulted
  let s2 := if x.restoring && x.stage ≠ 7 then s2.setErr F.SPO_ERR_RESTORE_ABANDONED 0 (s2.slotPart j) else s2
  s2.faultCmds (fun c => s.jobQueue j c.queue) st

/-- Faults every job that satisfies a test and is on the package. -/
def State.faultJobs (s : State) (f : JobFault) (test : Nat → Bool) : State :=
  slotNums.foldl (fun s j => if (s.slotState j = slotAccepting || s.slotState j = slotDraining) && test j then s.jobFault j f else s) s

/-- Faults the job of an option, where there is one. -/
def State.faultOpt (s : State) (j : Option Nat) (f : JobFault) : State :=
  match j with
  | some j => s.jobFault j f
  | none => s

/-- An error of a class that the partition may mark fatal (R433, Table 17-5). -/
def State.errorClass (s : State) (p : Option Nat) (bit : Nat) : State :=
  match p with
  | none => s
  | some p =>
    if testBit (s.getF F.PRT_FATAL_CLASSES p) bit then
      let s1 := ((s.addF F.PRT_FATAL_CNT_COUNT 1 p).setErr F.PRT_ERR_FATAL_ERROR p (some p))
      s1.faultOpt (s.acceptingSlot p) .fatalError
    else s

/-! ### HBM -/

/-- Whether a line holds one of `n` bytes at `a`. -/
def lineHit (a n l : Nat) : Bool := decide (a / 64 ≤ l) && decide (l ≤ (a + n - 1) / 64)

/-- A write clears the reservations of other harts on its lines (R194). -/
def State.clearResv (s : State) (a n : Nat) (hart : Option Nat) : State :=
  { s with resv := s.resv.filter (fun r => !(lineHit a n r.line && hart ≠ some r.hart)) }

/-- A line leaves the Ovusk caches: recalled where it is modified, else invalidated (R193). -/
def State.dropLine (s : State) (d : DirLine) : State :=
  (s.addF F.LCH_RECALL_CNT_COUNT 1 (stackOf (d.line * 64))).emit (if d.dirty then .recall d.line else .invalidate d.line)

/-- Takes the lines of a range out of the Ovusk caches (R193). -/
def State.dropDir (s : State) (a n : Nat) : State :=
  let s1 := (s.dir.filter (fun d => lineHit a n d.line)).foldl State.dropLine s
  { s1 with dir := s.dir.filter (fun d => !lineHit a n d.line) }

/-- A write, atomic or reduction at `n` bytes from `a` clears the reservations of other harts on its lines (R194) and takes the
lines out of the Ovusk caches; a modified line is recalled first (R193). `hart` is the Ovusk core whose cache writes the line, if any. -/
def State.ownLines (s : State) (a n : Nat) (hart : Option Nat) : State :=
  match hart with
  | some _ => s.clearResv a n hart
  | none => (s.clearResv a n none).dropDir a n

/-- A read by another requester recalls lines that an Ovusk cache holds modified (R193); they stay in the directory, clean. -/
def State.readLines (s : State) (a n : Nat) : State :=
  let s1 := (s.dir.filter (fun d => lineHit a n d.line && d.dirty)).foldl State.dropLine s
  { s1 with dir := s.dir.map (fun d => if lineHit a n d.line then { d with dirty := false } else d) }

/-! ### The memory-side cache and the narrow window (R195 to R197) -/

def State.lichen (s : State) (st : Nat) : Lichen := spGet {} s.lich st
def State.setLichen (s : State) (st : Nat) (x : Lichen) : State := { s with lich := spPut {} s.lich st x }

/-- Lines of a stack's memory-side cache (R195). -/
abbrev cacheLines : Nat := 524288

/-- A line in its stack's cache: 0 absent, 1 as in DRAM, 2 modified. -/
def State.cacheState (s : State) (l : Nat) : Nat := spGet 0 (s.lichen (stackOf (64 * l))).cache l

/-- A line leaves the cache, written back where it is modified. -/
def State.cacheDrop (s : State) (l : Nat) : State :=
  let st := stackOf (64 * l)
  let s1 := if s.cacheState l = 2 then s.addF F.LCH_WRITE_BYTES_COUNT 64 st else s
  s1.setLichen st { s1.lichen st with cache := spDel (s1.lichen st).cache l }

/-- Writes every modified line of a stack's cache to DRAM; the lines stay valid (R213). -/
def State.cacheClean (s : State) (st : Nat) : State :=
  let c := (s.lichen st).cache
  (s.addF F.LCH_WRITE_BYTES_COUNT (64 * (c.filter (fun e => e.2 = 2)).length) st).setLichen st { s.lichen st with cache := c.map (fun e => (e.1, 1)) }

/-- A line enters the cache, or is marked. The spec names neither the set a line takes nor the line that a full set replaces: the model replaces
a line only where the whole cache is full, and which one is a free value (log 105). -/
def State.cachePut (s : State) (l v : Nat) : State :=
  let st := stackOf (64 * l)
  let kept := (s.lichen st).cache
  let s1 := if kept.length < cacheLines || s.cacheState l ≠ 0 then s
    else { s.cacheDrop (((kept[(Config.freeWord s.fresh).toNat % kept.length]?).map (·.1)).getD 0) with fresh := s.fresh + 1 }
  s1.setLichen st { s1.lichen st with cache := spPut 0 (s1.lichen st).cache l v }

/-- How a read reaches a stack: lines, whole tiles of a mover or the sequential reads of a stream, or the narrow path (R195, R196). -/
inductive MemPath where
  | line | tile | narrow
  deriving DecidableEq, Repr

/-- Reads that fill the cache, by LCH.CTRL.ALLOC (R195). -/
def cacheFills (alloc : Nat) : MemPath → Bool
  | .line => alloc ≠ 2
  | .tile => alloc = 1
  | .narrow => true

/-- One line read: from the cache, or from DRAM. -/
def State.lineRead (s : State) (p : MemPath) (l : Nat) : State :=
  let st := stackOf (64 * l)
  if s.cacheState l ≠ 0 then s.addF F.LCH_HIT_CNT_COUNT 1 st
  else
    let s1 := (s.addF F.LCH_MISS_CNT_COUNT 1 st).addF F.LCH_READ_BYTES_COUNT 64 st
    if cacheFills (s.getF F.LCH_CTRL_ALLOC st) p then s1.cachePut l 1 else s1

/-- One line written, in the write-back cache; a write of part of it that misses reads the line first, a write of the whole never does. -/
def State.lineWritten (s : State) (whole : Bool) (l : Nat) : State :=
  let st := stackOf (64 * l)
  let s1 := if s.cacheState l ≠ 0 then s.addF F.LCH_HIT_CNT_COUNT 1 st
    else
      let s1 := s.addF F.LCH_MISS_CNT_COUNT 1 st
      if whole then s1 else s1.addF F.LCH_READ_BYTES_COUNT 64 st
  s1.cachePut l 2

/-- Lines that hold `n` bytes at `a`. -/
def linesIn (a n : Nat) : List Nat := if n = 0 then [] else List.range' (a / 64) ((a + n - 1) / 64 + 1 - a / 64)

/-- `n` bytes read at `a` by another requester than an Ovusk core: modified lines are recalled, and each line is served (R193, R195). -/
def State.memRead (s : State) (p : MemPath) (a n : Nat) : State := (linesIn a n).foldl (fun s l => s.lineRead p l) (s.readLines a n)

/-- Ranges read. -/
def State.memReads (s : State) (p : MemPath) (rs : List (Nat × Nat)) : State := rs.foldl (fun s r => s.memRead p r.1 r.2) s

/-- A sector that lanes of the window wait for is read: one 32-byte access serves all of them (R197). -/
def State.serveSector (s : State) (st k : Nat) : State :=
  let x := s.lichen st
  ((s.setLichen st { x with window := x.window.filter (fun l => l.1 ≠ k) }).addF F.LCH_SECTOR_CNT_COUNT 1 st).addF F.LCH_READ_BYTES_COUNT 32 st

/-- A lane that misses joins the window of its engine; where it is full the requester waits until the oldest sector has been served (R197). -/
def State.narrowMiss (s : State) (a : Nat) : State :=
  let st := stackOf a
  let s1 := match (s.lichen st).window with
    | e :: rest => if rest.length < 511 then s else s.serveSector st e.1
    | [] => s
  let x := s1.lichen st
  s1.setLichen st { x with window := x.window ++ [(a / 32, s.now)] }

/-- What a lane does to its word. -/
inductive LaneKind where
  | read | write | atomic
  deriving DecidableEq, Repr

/-- One lane served (R196, R197, R201): a hit from the cache; a miss through the window, but for an atomic, which first fills the line. -/
def State.lane (s : State) (k : LaneKind) (hit : Bool) (a : Nat) : State :=
  let st := stackOf a
  let s0 := s.addF F.LCH_NARROW_CNT_COUNT 1 st
  let s1 := if hit then s0.addF F.LCH_HIT_CNT_COUNT 1 st
    else
      let s1 := s0.addF F.LCH_MISS_CNT_COUNT 1 st
      if k = .atomic then s1.addF F.LCH_READ_BYTES_COUNT 64 st else s1.narrowMiss a
  s1.cachePut (a / 64) (if k = .read then Nat.max 1 (s1.cacheState (a / 64)) else 2)

/-- A lane of a requester whose hits are those of the cache as it stands. -/
def State.laneAt (s : State) (k : LaneKind) (a : Nat) : State := s.lane k (s.cacheState (a / 64) ≠ 0) a

/-- A read of one word or less through the narrow path. -/
def State.narrowRead (s : State) (a n : Nat) : State := (s.readLines a n).laneAt .read a

/-! ### Writes that meet Spore's copy (R213) -/

/-- Bytes of a granule (R383). -/
abbrev granBytes : Nat := 2097152

/-- Whether a granule is eligible and not yet copied. -/
def SporeSlot.uncopied (x : SporeSlot) (g : Nat) : Bool := x.copying && x.granules.contains g && !x.copied.contains g

/-- A write, atomic or reduction to a granule that Spore has not yet copied is held until it has been copied first (R213, R387). The copy is of
the granule as captured, so the model counts the hold and applies the access at once; it keeps the hold, with no bytes, for the copy that it
gives precedence to (log 64). -/
def State.cowHold (s : State) (a n : Nat) : State :=
  if n = 0 then s else
  slotNums.foldl (fun s j =>
    if !(spGet ({} : SporeSlot) s.spore j).copying then s else
    (List.range' (a / granBytes) ((a + n - 1) / granBytes + 1 - a / granBytes)).foldl (fun s g =>
      let x : SporeSlot := spGet {} s.spore j
      if !x.uncopied g then s
      else
        (({ s with spore := spPut {} s.spore j { x with holds := (g, s.now, ⟨BitVec.ofNat 39 a, []⟩) :: x.holds, holdStart := if x.holds.isEmpty then s.cad else x.holdStart } } : State).addF
          F.LCH_COW_HOLD_CNT_COUNT 1 (stackOf a)).addF F.SPO_COW_HOLD_CNT_COUNT 1 0 j) s) s

/-- STAT.READY of a stack: requests that arrive before it wait (R215). -/
def State.lichReady (s : State) (st : Nat) : Bool := s.getF F.LCH_STAT_READY st = 1

/-- Whether every stack of a range is up. -/
def State.stacksReady (s : State) (a n : Nat) : Bool := (tilesOf a n).all (fun t => s.lichReady (stackOf (4096 * t)))

/-- Whether the stack of an address is fenced (R212). -/
def State.fencedAt (s : State) (a : Nat) : Bool := s.getF F.LCH_STAT_FENCED (stackOf a) = 1

/-- Whether any tile of a range lies in a fenced stack. -/
def State.fencedIn (s : State) (a n : Nat) : Bool := (tilesOf a n).any (fun t => s.fencedAt (4096 * t))

/-- A plain write to HBM (R109), by lines. -/
def State.hbmWrite (s : State) (a : Nat) (bs : List Byte) : State :=
  let n := bs.length
  let s1 := (linesIn a n).foldl (fun s l => s.lineWritten (decide (a ≤ 64 * l) && decide (64 * l + 64 ≤ a + n)) l)
    ((s.cowHold a n).ownLines a n none)
  { s1 with hbm := writeBytes s1.hbm a bs }

/-- A plain write of 8 bytes or less within one word, through the narrow path: by one sector access (R222), or as an atomic. -/
def State.hbmLane (s : State) (k : LaneKind) (a : Nat) (bs : List Byte) : State :=
  let n := bs.length
  let s1 := ((s.cowHold a n).ownLines a n none).laneAt k a
  { s1 with hbm := writeBytes s1.hbm a bs }

def tileSum (m : Memory) (t : Nat) : Word := crc64 (readBytes m (4096 * t) 4096)

/-- Reseals a tile from the whole tile as it stands. -/
def State.hbmSealTile (s : State) (t : Nat) : State := { s with hbmSum := spPut 0 s.hbmSum t (tileSum s.hbm t) }

def State.hbmSeal (s : State) (a n : Nat) : State := (tilesOf a n).foldl State.hbmSealTile s

/-- A sealing write to HBM (R109). -/
def State.hbmSealWrite (s : State) (a : Nat) (bs : List Byte) : State := (s.hbmWrite a bs).hbmSeal a bs.length

/-- Whether the checksums of all tiles that a range reads match (R111). -/
def State.hbmVerify (s : State) (a n : Nat) : Bool :=
  (tilesOf a n).all (fun t => spGet 0 s.hbmSum t = tileSum s.hbm t)

/-- An uncorrectable line or a fenced access: the fault of the jobs that hold the unit (R208, R212). -/
def State.faultUnit (s : State) (u : Nat) (f : JobFault) : State := s.faultJobs f (fun j => s.jobUnit j u)

/-- DRAM row of a stack offset: row and pseudo-channel (Table 08-1). -/
def rowKey (off : Nat) : Nat := bitsOf off 37 15 * 32 + bitsOf off 11 7

/-- Records a row for repair (R460). -/
def State.recordRow (s : State) (st row : Nat) : State :=
  if s.repairs.contains (st, row) then s else { s with repairs := (st, row) :: s.repairs }

/-- Records an uncorrectable HBM line at a stack offset (R208); the faults of its jobs are the caller's. -/
def State.hbmUeAt (s : State) (st off : Nat) : State :=
  let s1 := (s.setErr F.LCH_ERR_ECC_UE st).setErr F.HBM_ERR_UE st
  (s1.setF F.HBM_UE_ADDR_OFFSET off st).recordRow st (rowKey off)

/-- An uncorrectable HBM line (R208). -/
def State.hbmUe (s : State) (a : Nat) : State :=
  (s.hbmUeAt (stackOf a) (stackOffset a)).faultUnit (unitOf a) .eccUe

/-- Wipes a range of HBM: zero data, zero checksums (R114), and no line of it in any cache (R195, R215). -/
def State.hbmWipe (s : State) (a n : Nat) : State :=
  { s with hbm := spClear s.hbm a n, hbmSum := spClear s.hbmSum (a / 4096) (n / 4096)
           lich := s.lich.map (fun e => (e.1, { e.2 with cache := spClear e.2.cache (a / 64) (n / 64) }))
           resv := s.resv.filter (fun r => !(decide (a ≤ r.line * 64) && decide (r.line * 64 < a + n)))
           dir := s.dir.filter (fun d => !(decide (a ≤ d.line * 64) && decide (d.line * 64 < a + n))) }

/-! ### Scratchpads and clusters -/

/-- Scratchpad bytes of a cluster (R43). -/
abbrev spadSize : Nat := 0x400000
def spadKey (c a : Nat) : Nat := spadSize * c + a

def State.spadRead (s : State) (c a n : Nat) : List Byte := readBytes s.spad (spadKey c a) n

/-- A write to a line marks the WAITM threads that watch it (R59). -/
def Thread.markWritten (a n : Nat) (x : Thread) : Thread :=
  match x.wait with
  | .word w v _ => if a / 64 ≤ w / 64 && w / 64 ≤ (a + n - 1) / 64 then { x with wait := .word w v true } else x
  | _ => x

/-- A plain write to a scratchpad. -/
def State.spadWrite (s : State) (c a : Nat) (bs : List Byte) : State :=
  let s1 := { s with spad := writeBytes s.spad (spadKey c a) bs }
  thrNums.foldl (fun s t => s.setThr c t ((s.thr c t).markWritten a bs.length)) s1

def spadSumKey (c t : Nat) : Nat := 1024 * c + t

def State.spadSealTile (s : State) (c t : Nat) : State :=
  { s with spadSum := spPut 0 s.spadSum (spadSumKey c t) (tileSum s.spad (spadSumKey c t)) }

def State.spadSeal (s : State) (c a n : Nat) : State := (tilesOf a n).foldl (fun s t => s.spadSealTile c t) s

/-- A sealing write to a scratchpad (R109). -/
def State.spadSealWrite (s : State) (c a : Nat) (bs : List Byte) : State := (s.spadWrite c a bs).spadSeal c a bs.length

def State.spadVerify (s : State) (c a n : Nat) : Bool :=
  (tilesOf a n).all (fun t => spGet 0 s.spadSum (spadSumKey c t) = tileSum s.spad (spadSumKey c t))

/-- Scratchpad bytes reserved to a bound solver channel: those from this address up (R62). -/
def State.spadLimit (s : State) (c : Nat) : Nat := spadSize - s.getF F.CLU_BIND_SPAD_RES c * (256 * kib)

/-- A program write that would touch the channel's reserved range (R62). -/
def State.spadReserved (s : State) (c a n : Nat) : Bool :=
  s.getF F.CLU_BIND_BOUND c = 1 && decide (s.spadLimit c < a + n)

/-- A fault of Table 02-7: every thread of the cluster halts with cause 0x0F, the engines and movers stop, the job ends (R63). -/
def State.clusterFault (s : State) (c : Nat) (f : JobFault) : State :=
  let bit : Fld := if f = .tileCheck then ⟨.clu, 0x20, 17, 17⟩ else ⟨.clu, 0x20, 16, 16⟩
  let s1 := thrNums.foldl (fun s t =>
    let x := s.thr c t
    if x.st = .off || x.st = .halted then s
    else s.setThr c t { x with st := .halted, cause := 0x0F, wait := .none, remote := .none, stopPend := false }) s
  let k := s1.clu c
  let s2 := s1.setClu c { k with faulted := true, mtxOwner := none, tqOwner := none, waiters := [], mops := [], pushPend := [], epi := .idle }
  ((s2.setF F.CLU_STAT_FAULTED 1 c).setErr bit c).faultOpt (s2.slotOfCluster c) f

end Sys2Proof.Machine
end

