-- ==== Sys2Proof/Machine/QueueCore.lean ====
section
/-! DEFINITION. Queue contexts, rings, doorbells and completion records (R230 to R239), as every engine uses them. -/

namespace Sys2Proof.Machine

/-! ### Contexts (Table 09-3) -/

/-- A field of a context: word, bits. -/
abbrev CtxF := Nat × Nat × Nat

abbrev cSqBase : CtxF := (0, 63, 0)
abbrev cCqBase : CtxF := (1, 63, 0)
abbrev cSqTail : CtxF := (2, 16, 0)
abbrev cSqHead : CtxF := (2, 48, 32)
abbrev cCqTail : CtxF := (3, 16, 0)
abbrev cCqHead : CtxF := (3, 48, 32)
abbrev cSqLog2 : CtxF := (4, 7, 0)
abbrev cCqLog2 : CtxF := (4, 15, 8)
abbrev cClass : CtxF := (4, 23, 16)
abbrev cDlShare : CtxF := (4, 31, 24)
abbrev cCqQueue : CtxF := (4, 51, 32)
abbrev cIrqVector : CtxF := (5, 15, 0)
abbrev cEn : CtxF := (5, 16, 16)
abbrev cIrqEn : CtxF := (5, 17, 17)
abbrev cPin : CtxF := (5, 18, 18)

def ctxGet (x : List Word) (f : CtxF) : Nat := bitsOf ((x[f.1]?).getD 0).toNat f.2.1 f.2.2
def ctxSet (x : List Word) (f : CtxF) (v : Nat) : List Word :=
  x.set f.1 (BitVec.ofNat 64 (setBits ((x[f.1]?).getD 0).toNat f.2.1 f.2.2 v))

/-- Place of a queue's context in its partition's HBM (R231). -/
def State.ctxAddr (s : State) (p q : Nat) : Nat :=
  s.getF F.QMG_CTX_BASE_BASE 0 p * 64 + 64 * (q - s.getF F.PRT_QUEUES_FIRST p)

/-- A queue's context: the cached copy, or else the context area (R232). -/
def State.ctx (s : State) (q : Nat) : List Word :=
  match spGet none (s.qctx.map (fun e => (e.1, some e.2))) q with
  | some x => x
  | none =>
    match s.partOfQueue q with
    | some p => readWords s.hbm (s.ctxAddr p q) 8
    | none => [0, 0, 0, 0, 0, 0, 0, 0]

def State.ctxCached (s : State) (q : Nat) : Bool := s.qctx.any (fun e => e.1 = q)

/-- Writes a cached context back to the context area (R232). -/
def State.ctxWriteBack (s : State) (q : Nat) : State :=
  match s.partOfQueue q with
  | some p => if s.ctxCached q then s.hbmWrite (s.ctxAddr p q) ((s.ctx q).flatMap (fun w => natLe 8 w.toNat)) else s
  | none => s

/-- Writes the cached contexts of a partition back, as a Spore quiesce of its job has them (R232, R241). -/
def State.ctxFlush (s : State) (p : Nat) : State := (s.qctx.map (fun e => e.1)).foldl (fun s q => if s.prtQueue p q then s.ctxWriteBack q else s) s

/-- Evicts the least recently used context without PIN when 16,384 are cached (R232). -/
def State.ctxMakeRoom (s : State) : State :=
  if s.qctx.length < 16384 then s else
  match s.qlru.reverse.find? (fun q => ctxGet (s.ctx q) cPin = 0) with
  | some q =>
    let s1 := s.ctxWriteBack q
    { s1 with qctx := spDel s1.qctx q, qlru := s1.qlru.filter (· ≠ q) }
  | none => s

/-- Fetches a context into the cache, counting a miss (R232). -/
def State.ctxFetch (s : State) (q : Nat) : State :=
  if s.ctxCached q then { s with qlru := q :: s.qlru.filter (· ≠ q) }
  else
    match s.partOfQueue q with
    | none => s
    | some p =>
      let x := s.ctx q
      let s1 := ((s.ctxMakeRoom).memRead .line (s.ctxAddr p q) 64).addF F.QMG_CTX_MISS_CNT_COUNT 1 0 p
      { s1 with qctx := spIns s1.qctx q x, qlru := q :: s1.qlru }

/-- Changes a context, through the cache. -/
def State.setCtx (s : State) (q : Nat) (x : List Word) : State :=
  let s1 := s.ctxFetch q
  { s1 with qctx := spIns s1.qctx q x }

def State.ctxEn (s : State) (q : Nat) : Bool := ctxGet (s.ctx q) cEn = 1

/-! ### Rings -/

/-- The host link of a partition that a host owns (R220). -/
def State.partLink (s : State) (p : Nat) : Option Nat :=
  if s.getF F.PRT_OWNER_KIND p = 1 then some (s.getF F.PRT_OWNER_LINK p) else none

def hostKey (l a : Nat) : Nat := 2 ^ 64 * l + a

/-- Whether a partition reaches `n` bytes of HBM (R220). -/
def State.inUnits (s : State) (p a n : Nat) : Bool :=
  decide (a + n ≤ hbmEnd) && (n = 0 || (List.range' (unitOf a) (unitOf (a + n - 1) + 1 - unitOf a)).all (fun u => s.prtUnit p u))

/-- Whether a partition reaches `n` bytes at a ring address: the check of every ring access (R231). -/
def State.ringReach (s : State) (p base off n : Nat) : Bool :=
  if testBit base 63 then (s.partLink p).isSome else s.inUnits p (base + off) n

/-- Bytes at a ring address: bit 63 names host memory (Table 09-3). -/
def State.ringRead (s : State) (p base off n : Nat) : List Byte :=
  if testBit base 63 then readBytes s.hostMem (hostKey ((s.partLink p).getD 0) (bitsOf base 62 0 + off)) n
  else readBytes s.hbm (base + off) n

/-- A plain write at a ring address that the partition reaches. -/
def State.ringWrite (s : State) (p base off : Nat) (bs : List Byte) : State :=
  if !s.ringReach p base off bs.length then s
  else if testBit base 63 then { s with hostMem := writeBytes s.hostMem (hostKey ((s.partLink p).getD 0) (bitsOf base 62 0 + off)) bs }
  else s.hbmWrite (base + off) bs

/-- Whether a ring of a queue lies where its partition reaches, aligned to 4 KiB (R230, R231). -/
def State.ringOk (s : State) (p base size : Nat) : Bool :=
  bitsOf base 62 0 % 4096 = 0 &&
  s.ringReach p base 0 size

/-- Takes the submission entries from SQ_HEAD to SQ_TAIL as commands (R235): at most `n`, as far as the partition reaches the ring (R231). -/
def State.fetchEntries (s : State) (p q : Nat) : Nat → State
  | 0 => s
  | n + 1 =>
    let x := s.ctx q
    let h := ctxGet x cSqHead
    if h = ctxGet x cSqTail then s else
    let off := 64 * (h % 2 ^ ctxGet x cSqLog2)
    if !s.ringReach p (ctxGet x cSqBase) off 64 then s else
    let bs := s.ringRead p (ctxGet x cSqBase) off 64
    let s := if testBit (ctxGet x cSqBase) 63 then s else s.memRead .line (ctxGet x cSqBase + off) 64
    let ws := (List.range 8).map (fun i => BitVec.ofNat 64 (leNat ((bs.drop (8 * i)).take 8)))
    let s1 := s.setCtx q (ctxSet x cSqHead ((h + 1) % 131072))
    let behind := s1.cmds.any (fun c => c.queue = q && wordIsSolver c.words && (c.phase = .waiting || ctxGet x cClass = 0))
    let s2 := { s1 with
      cmds := s1.cmds ++ [({ id := s1.nextCmd, queue := q, part := p, words := ws, fetched := s1.cad, behind := behind } : Cmd)]
      nextCmd := s1.nextCmd + 1 }
    s2.fetchEntries p q n

/-- The judged value of a doorbell (R233): the pointer applied, and whether it was clamped. -/
def doorbellValue (ptr f v : Nat) : Nat × Bool :=
  let a := (131072 + v - ptr) % 131072
  if a ≤ f then (v, false) else if a ≤ 65536 then ((ptr + f) % 131072, true) else (ptr, true)

/-- A doorbell write to queue `q` (R233). -/
def State.doorbell (s : State) (q : Nat) (cqHead : Bool) (v : Nat) : State :=
  match s.partOfQueue q with
  | none => s
  | some p =>
    let s := s.ctxFetch q
    let x := s.ctx q
    if ctxGet x cEn = 0 then s.addF F.QMG_DB_CLAMP_CNT_COUNT 1 0 p
    else if cqHead then
      let f := (131072 + ctxGet x cCqTail - ctxGet x cCqHead) % 131072
      let r := doorbellValue (ctxGet x cCqHead) f v
      let s1 := s.setCtx q (ctxSet x cCqHead r.1)
      if r.2 then s1.addF F.QMG_DB_CLAMP_CNT_COUNT 1 0 p else s1
    else
      let f := 2 ^ ctxGet x cSqLog2 - (131072 + ctxGet x cSqTail - ctxGet x cSqHead) % 131072
      let r := doorbellValue (ctxGet x cSqTail) f v
      let s1 := s.setCtx q (ctxSet x cSqTail r.1)
      let s2 := if r.2 then s1.addF F.QMG_DB_CLAMP_CNT_COUNT 1 0 p else s1
      s2.fetchEntries p q ((131072 + r.1 - ctxGet x cSqHead) % 131072)

/-! ### Completion slots and records -/

def State.qext (s : State) (q : Nat) : QueueExtra := spGet {} s.qx q
def State.setQext (s : State) (q : Nat) (x : QueueExtra) : State := { s with qx := spPut {} s.qx q x }

/-- The queue whose completion ring receives a queue's records (R235). -/
def State.cqOf (s : State) (q : Nat) : Nat := ctxGet (s.ctx q) cCqQueue

/-- Whether the completion ring of a queue has an unreserved slot and is enabled (R235). -/
def State.slotFreeCq (s : State) (q : Nat) : Bool :=
  let cq := s.cqOf q
  let x := s.ctx cq
  ctxGet x cEn = 1 &&
  decide ((131072 + ctxGet x cCqTail - ctxGet x cCqHead) % 131072 + (s.qext cq).reserved < 2 ^ ctxGet x cCqLog2)

def State.reserveSlot (s : State) (q : Nat) : State :=
  let cq := s.cqOf q
  let e := s.qext cq
  s.setQext cq { e with reserved := e.reserved + 1 }

/-- The function that owns a queue: the VF whose subrange holds it, or else the PF (R425). -/
def State.fnOfQueue (s : State) (p q : Nat) : Nat :=
  let d := q - s.getF F.PRT_QUEUES_FIRST p
  let k := s.getF F.PRT_VF_VF_STRIDE p
  if k = 0 then 0 else if 1 ≤ d / k && d / k ≤ 63 then d / k else 0

/-- Raises a queue's interrupt vector (R237, R425, R426). -/
def State.irqQueue (s : State) (p q vec : Nat) : State :=
  if s.getF F.PRT_OWNER_KIND p = 1 then
    let l := s.getF F.PRT_OWNER_LINK p
    if (spGet {} s.hostLinks l).up then s.emit (.msix l (s.fnOfQueue p q) vec) else s
  else if s.getF F.PRT_OWNER_KIND p = 2 then s.emit (.osIrq p vec) else s

/-- A completion record (Table 09-5). -/
def recordBytes (status phase flags tag word1 : Nat) (tick digest aux : Nat) : List Byte :=
  natLe 1 status ++ natLe 1 (phase * 128 + flags) ++ natLe 2 tag ++ natLe 4 word1 ++ natLe 8 tick ++ natLe 8 digest ++ natLe 4 aux ++
  natLe 4 0

/-- Writes a record to the completion ring that serves queue `q`, into a slot reserved before; `tick` is that of the commit point (R237). -/
def State.writeRecord (s : State) (p q : Nat) (status flags tag digest aux tick : Nat) : State :=
  let cq := s.cqOf q
  let s := s.ctxFetch cq
  let x := s.ctx cq
  let e := s.qext cq
  let size := 2 ^ ctxGet x cCqLog2
  let phase := if (e.written / size) % 2 = 0 then 1 else 0
  let t := ctxGet x cCqTail
  let s1 := s.ringWrite p (ctxGet x cCqBase) (32 * (t % size)) (recordBytes status phase flags tag q tick digest aux)
  let s2 := (s1.setCtx cq (ctxSet x cCqTail ((t + 1) % 131072))).setQext cq { reserved := e.reserved - 1, written := e.written + 1 }
  if ctxGet x cIrqEn = 1 then s2.irqQueue p cq (ctxGet x cIrqVector) else s2

/-! ### Commands -/

/-- The fatal class of a status (Table 17-5). -/
def statusClass (st : Nat) : Option Nat :=
  if st = 0x10 then some 8 else if st = 0x11 then some 9 else if st = 0x20 then some 10 else if st = 0x21 then some 11
  else if st = 0x22 then some 12 else if st = 0x23 then some 13 else if st = 0x24 then some 14 else if st = 0x25 then some 15
  else none

/-- The commit point of a command that holds a completion slot: its record is written (R237, R239). It carries the tick of the commit point,
which for a command that an abort took is the abort's. -/
def State.commitWith (s : State) (c : Cmd) (status aux flags digest : Nat) : State :=
  let tick := c.at_.getD s.cad
  let s0 := (s.writeRecord c.part c.queue status flags c.tag digest aux tick).dropCmd c.id
  let s1 := { s0 with records := (c.queue, c.tag, status, tick) :: s0.records.filter (fun r => !(r.1 = c.queue && r.2.1 = c.tag)) }
  let s2 := s1.addF F.QMG_CMD_CNT_COUNT 1 0 c.part
  match statusClass status with
  | some b => s2.errorClass (some c.part) b
  | none => s2

/-- Commits a command that its engine ended. A command whose commit point an abort took reports ABORTED, with the flags that it had gathered
(R104, R153, R239). -/
def State.commitCmd (s : State) (c : Cmd) (status aux flags digest : Nat) : State :=
  if c.phase = .aborted then s.commitWith c 0x01 0 c.flags 0 else s.commitWith c status aux flags digest

/-- Whether a Spore quiesce holds the job of a queue (R161, R178, R241). -/
def State.heldQueue (s : State) (q : Nat) : Bool :=
  match s.slotOfQueue q with
  | some j => s.quiesced.contains j
  | none => false

/-- The job of a command: its partition's slot that has not faulted and accepts. -/
def State.cmdSlot (s : State) (c : Cmd) : Option Nat := s.acceptingSlot c.part

/-- Runs a step of a started command; nothing where the command is not there, or is not started. -/
def State.withStarted (s : State) (id : Nat) (f : Cmd → State) : State :=
  match s.cmd? id with
  | some c => if c.phase = .started then f c else s
  | none => s

end Sys2Proof.Machine
end

