-- ==== Sys2Proof/Machine/FabCore.lean ====
section
/-! DEFINITION. The sending side of the fabric (R250 to R264, R266 to R270): windows and checks, flows and routes, fences, and
accesses at the package's own rank. -/

namespace Sys2Proof.Machine

/-! ### Windows and sender-side checks (R253, R254) -/

/-- A job window (Table 10-7). -/
structure Window where
  valid : Bool
  kind : Nat
  perm : Nat
  offBase : Nat
  size : Nat
  base : Nat
  deriving DecidableEq, Repr

def winBank (slot i : Nat) : Nat := slot * 256 + i

def State.window (s : State) (slot i : Nat) : Window :=
  let b := winBank slot i
  { valid := s.getF F.HUB_WIN_DATA0_VALID 0 b = 1, kind := s.getF F.HUB_WIN_DATA0_KIND 0 b, perm := s.getF F.HUB_WIN_DATA0_PERM 0 b
    offBase := s.getF F.HUB_WIN_DATA0_OFF_BASE 0 b, size := s.getF F.HUB_WIN_DATA1_SIZE 0 b
    base := s.getF F.HUB_WIN_DATA2_LOCAL_BASE 0 b }

/-- The valid window that holds every byte of an access (Table 10-8, check 4). -/
def State.findWindow (s : State) (slot off len : Nat) : Option (Nat × Window) :=
  ((List.range 256).map (fun i => (i, s.window slot i))).find?
    (fun w => w.2.valid && decide (w.2.offBase ≤ off) && decide (off + len ≤ w.2.offBase + w.2.size))

/-- What an access does at its target (Tables 10-4 and 10-11). -/
inductive Access1 where
  | load
  | store (bs : List Byte)
  /-- Atomic OP of Table 10-11, fetching or not; CAS brings compare and new. -/
  | atomic (op : Nat) (fetch : Bool) (d d1 : Word)
  /-- FP64 add, own rank only (R255). -/
  | fadd (d : Word)
  deriving DecidableEq, Repr

/-- The PERM bit an operation needs (Table 10-8, check 5). -/
def Access1.perm : Access1 → Nat
  | .load => 3
  | .store _ => 2
  | .atomic _ _ _ _ => 1
  | .fadd _ => 1

/-- The rank table entry of a rank of a slot (R252). -/
def State.rankEp (s : State) (slot rank : Nat) : Option Nat :=
  let i := s.getF F.HUB_JOB_RANKS_BASE 0 slot + rank
  if rank < s.getF F.HUB_JOB_RANKS_COUNT 0 slot && s.getF F.HUB_RT_DATA_VALID 0 i = 1 then some (s.getF F.HUB_RT_DATA_EP 0 i) else none

abbrev epNone : Nat := 0xFFFFF
def State.myEp (s : State) : Nat := s.getF F.HUB_ENDPOINT_EP

def addrRank (a : Nat) : Nat := bitsOf a 56 40
def addrOff (a : Nat) : Nat := bitsOf a 39 0

/-- The sender-side checks of Table 10-8 on an access of a partition: the slot, and the window that holds it. -/
def State.checkSend (s : State) (part : Option Nat) (a len : Nat) (x : Access1) : Option (Nat × Nat × Window) :=
  if bitsOf a 63 57 ≠ 0 then none else
  match part.bind s.acceptingSlot with
  | none => none
  | some slot =>
    let own := addrRank a = s.myRank slot
    if !own && s.myEp = epNone then none else
    if (s.rankEp slot (addrRank a)).isNone then none else
    match s.findWindow slot (addrOff a) len with
    | none => none
    | some (i, w) =>
      let isStore8 := match x with
        | .store bs => bs.length = 8 && addrOff a % 8 = 0
        | _ => false
      let isAtomic := match x with
        | .atomic _ _ _ _ => true
        | .fadd _ => true
        | _ => false
      let isFadd := match x with
        | .fadd _ => true
        | _ => false
      if !testBit w.perm x.perm then none
      else if w.kind = 2 && !isStore8 then none
      else if isAtomic && w.kind ≠ 0 then none
      else if isFadd && !own then none
      else if 2 < w.kind then none
      else some (slot, i, w)

/-- The cluster and scratchpad offset of a KIND 1 window byte (R253). -/
def winSpad (w : Window) (off : Nat) : Nat × Nat :=
  let o := bitsOf w.base 21 0 + (off - w.offBase)
  (bitsOf w.base 29 22 + o / spadSize, o % spadSize)

/-- A store through a KIND 1 window into a scratchpad range that a solver channel has reserved (R62). -/
def State.storesReserved (s : State) (w : Window) (off : Nat) (x : Access1) : Bool :=
  match x with
  | .store bs => w.kind = 1 && s.spadReserved (winSpad w off).1 (winSpad w off).2 bs.length
  | _ => false

/-! ### The engine's operations on one word (Table 08-5) -/

/-- The new memory value of an operation on a word of `w` bits (Table 08-5), by OP and FN; none for a code the table lacks. -/
def lichenOp (op fn w : Nat) (m d d1 : Nat) : Option Nat :=
  let sm := toSigned w m
  let sd := toSigned w d
  match op, fn with
  | 0x0, 0 => some m
  | 0x1, 0 => some d
  | 0x2, 0 => some ((m + d) % 2 ^ w)
  | 0x3, 0 => some (if sm ≤ sd then m else d)
  | 0x3, 1 => some (if sm ≤ sd then d else m)
  | 0x4, 0 => some (if m ≤ d then m else d)
  | 0x4, 1 => some (if m ≤ d then d else m)
  | 0x5, 0 => some (m &&& d)
  | 0x5, 1 => some (m ||| d)
  | 0x5, 2 => some (m ^^^ d)
  | 0x6, 0 => some d
  | 0x7, 0 => some (if m = d then d1 else m)
  | 0x8, 0 => some (fpMin fp64 m d).1
  | 0x8, 1 => some (fpMax fp64 m d).1
  | 0x9, 0 => some (fpAdd fp64 .rne m d).1
  | _, _ => none

/-- The fabric's OP codes (Table 10-11) as OP and FN of Table 08-5. -/
def fabricOp : Nat → Option (Nat × Nat)
  | 0x0 => some (0x2, 0)
  | 0x1 => some (0x3, 0)
  | 0x2 => some (0x3, 1)
  | 0x3 => some (0x7, 0)
  | 0x4 => some (0x8, 0)
  | 0x5 => some (0x8, 1)
  | _ => none

/-- An atomic on a 64-bit word of HBM: the old value, and the state after it. -/
def State.hbmAtomic (s : State) (a op fn : Nat) (d d1 : Word) : Word × State :=
  let m := readWord s.hbm a
  match lichenOp op fn 64 m.toNat d.toNat d1.toNat with
  | some v => (m, (s.addF F.LCH_ATOMIC_CNT_COUNT 1 (stackOf a)).hbmLane .atomic a (natLe 8 v))
  | none => (m, s)

/-- Applies an access at its target through a window (R255, R256): scalar accesses take the narrow path (R196). The bytes returned, poison, and the state after it. A store that reaches a
solver channel's reserved range from another package writes nothing: only the channel writes it (R62; log 95). -/
def State.applyAt (s : State) (w : Window) (off len : Nat) (x : Access1) : Option (List Byte) × State :=
  if w.kind = 0 then
    let a := w.base + (off - w.offBase)
    if s.fencedAt a then (none, s) else
    match x with
    | .load => (some (readBytes s.hbm a len), if len ≤ 8 then s.narrowRead a len else s.memRead .line a len)
    | .store bs => (some [], if bs.length = 8 && a % 8 = 0 then s.hbmLane .write a bs else s.hbmWrite a bs)
    | .atomic op _ d d1 =>
      match fabricOp op with
      | some (o, fn) => let r := s.hbmAtomic a o fn d d1; (some (natLe 8 r.1.toNat), r.2)
      | none => (some [], s)
    | .fadd d => let r := s.hbmAtomic a 0x9 0 d 0; (some (natLe 8 r.1.toNat), r.2)
  else if w.kind = 1 then
    let p := winSpad w off
    match x with
    | .load => (some (s.spadRead p.1 p.2 len), s)
    | .store bs => (some [], if s.spadReserved p.1 p.2 bs.length then s else s.spadWrite p.1 p.2 bs)
    | _ => (some [], s)
  else
    match x with
    | .store bs => let v := leNat bs; (some [], s.doorbell (w.base + (off - w.offBase) / 8) (testBit v 63) (bitsOf v 16 0))
    | _ => (some [], s)

/-! ### Fences (R262 to R264) -/

/-- Counts one access issued in the open epoch. -/
def Epochs.issue (e : Epochs) : Epochs := { e with issued := e.issued + 1 }

/-- Counts one access of epoch `id` completed; a closed epoch whose counts agree leaves. -/
def Epochs.complete (e : Epochs) (id : Nat) : Epochs :=
  if e.curId = id then { e with completed := e.completed + 1 }
  else { e with closed := (e.closed.map (fun x => if x.1 = id then (x.1, x.2.1, x.2.2 + 1) else x)).filter (fun x => x.2.1 ≠ x.2.2) }

/-- Closes the open epoch and opens a new one; an epoch already complete leaves at once. -/
def Epochs.close (e : Epochs) : Epochs :=
  { e with curId := e.curId + 1, issued := 0, completed := 0
           closed := if e.issued = e.completed then e.closed else e.closed ++ [(e.curId, e.issued, e.completed)] }

/-- Whether epoch `id` and every earlier one are complete. -/
def Epochs.doneTo (e : Epochs) (id : Nat) : Bool := e.closed.all (fun x => id < x.1)

/-- Whether every access issued has completed. -/
def Epochs.idle (e : Epochs) : Bool := e.closed.isEmpty && e.issued = e.completed

def State.jobEpochs (s : State) (j : Nat) : Epochs := spGet {} s.jobEp j
def State.setJobEpochs (s : State) (j : Nat) (e : Epochs) : State := { s with jobEp := spPut {} s.jobEp j e }

/-! ### Endpoints and routes (R266 to R270) -/

/-- The route key of a destination (R267). -/
def routeKey (me dst : Nat) : Nat :=
  if bitsOf me 19 6 = bitsOf dst 19 6 then bitsOf dst 5 0
  else if bitsOf me 19 12 = bitsOf dst 19 12 then 64 + bitsOf dst 11 6
  else 128 + bitsOf dst 19 12

def routeBank (key slot : Nat) : Nat := key * 8 + slot

/-- A usable route slot: valid, not failed, of a defined route code. -/
def State.routeUsable (s : State) (key slot : Nat) : Bool :=
  let b := routeBank key slot
  s.getF F.HUB_ROUTE_DATA_VALID 0 b = 1 && s.getF F.HUB_ROUTE_DATA_FAILED 0 b = 0 &&
  decide (bitsOf (s.getF F.HUB_ROUTE_DATA_ROUTE 0 b) 6 4 < 6)

/-- The slot R269 selects: the lowest-numbered usable slot of the lowest PRI present. -/
def State.selectRoute (s : State) (key : Nat) : Option Nat :=
  let us := slotNums.filter (fun i => s.routeUsable key i)
  (List.range 4).findSome? (fun pri => us.find? (fun i => s.getF F.HUB_ROUTE_DATA_PRI 0 (routeBank key i) = pri))

/-- The slot that a cell of no fixed slot takes (R269): any usable one of the lowest PRI. The credits that choose are a free value (log 51). -/
def State.anyRoute (s : State) (key : Nat) : Option Nat :=
  match s.selectRoute key with
  | none => none
  | some j =>
    let us := slotNums.filter (fun i => s.routeUsable key i && s.getF F.HUB_ROUTE_DATA_PRI 0 (routeBank key i) = s.getF F.HUB_ROUTE_DATA_PRI 0 (routeBank key j))
    if us.length ≤ 1 then some j else us[(Config.freeWord s.fresh).toNat % us.length]?

/-- A cell's header bytes 0 to 23 (Table 10-3). -/
def cellHeader (x : Cell) : List Byte :=
  natLe 8 (2 ^ 60 * x.type.toNat + 2 ^ 57 * x.tc.toNat + (if x.comb then 2 ^ 56 else 0) + 2 ^ 40 * x.jobTag.toNat +
    2 ^ 20 * x.dstEp.toNat + x.srcEp.toNat) ++
  natLe 8 (2 ^ 47 * x.srcRank.toNat + 2 ^ 40 * x.route.toNat + x.offset.toNat) ++
  natLe 8 (2 ^ 32 * x.seq.toNat + 2 ^ 24 * x.win.toNat + 2 ^ 14 * x.floorGap.toNat + 2 ^ 10 * x.op.toNat + x.len.toNat * 8 + x.resp.toNat)

/-- E2E_CRC of a cell: CRC-32C over bytes 0 to 87 (R250). -/
def cellE2e (x : Cell) : BitVec 32 := BitVec.ofNat 32 (crc32c (cellHeader x ++ x.payload))

def cellSeal (x : Cell) : Cell := { x with crc := cellE2e x }

/-- Pads a payload to 64 bytes with zeros (R249). -/
def pad64 (bs : List Byte) : List Byte := (bs ++ List.replicate 64 0).take 64

def emptyCell : Cell :=
  { type := 0, tc := 0, comb := false, jobTag := 0, dstEp := 0, srcEp := 0, srcRank := 0, route := 0, offset := 0, seq := 0
    win := 0, floorGap := 0, op := 0, len := 0, resp := 0, payload := List.replicate 64 0, crc := 0 }

def State.link (s : State) (p : Nat) : Link := spGet {} s.links p
def State.setLink (s : State) (p : Nat) (x : Link) : State := { s with links := spPut {} s.links p x }

/-- Sends a cell on a port: the link's fields of the trailer are written, and the link keeps the cell for replay (R246, R250). -/
def State.sendCell (s : State) (port : Nat) (x : Cell) : State :=
  let l := s.link port
  let y := { x with linkSeq := BitVec.ofNat 12 l.txSeq, credit := Config.linkCredit port l.txSeq, port := BitVec.ofNat 5 port }
  ((s.setLink port { l with txSeq := l.txSeq + 1, sent := (y :: l.sent).take 4096 }).addF F.FAB_TX_CELLS_COUNT 1 port).emit (.cell port y)

/-- A cell arrives on its port (R246). -/
def State.arrive (s : State) (x : Cell) : State :=
  let p := x.port.toNat
  if 20 ≤ p then s
  else (s.setLink p { s.link p with rxSeq := (x.linkSeq.toNat + 1) % 4096 }).addF F.FAB_RX_CELLS_COUNT 1 p

/-! ### Flows (R257, R258) -/

def State.txFlow (s : State) (k : FlowKey) : TxFlow := ((s.tx.find? (fun e => e.1 = k)).map (·.2)).getD {}
def State.setTx (s : State) (k : FlowKey) (f : TxFlow) : State := { s with tx := (k, f) :: s.tx.filter (fun e => e.1 ≠ k) }

/-- Uses a flow state of a die: its Sordar die caches the 16,384 used last, and counts a use of one that it does not cache (R257). -/
def State.flowTouch (s : State) (die : Nat) (source : Bool) (k : FlowKey) : State :=
  let mine := s.flowLru.filter (fun e => e.1 = die)
  let s1 := match mine.findIdx? (· = (die, source, k)) with
    | some i => if 16384 ≤ i then s.addF F.HUB_FLOW_MISS_CNT_COUNT 1 die else s
    | none => s
  { s1 with flowLru := (die, source, k) :: s.flowLru.filter (fun e => e ≠ (die, source, k)) }

/-- The floor: the lowest SEQ not yet acknowledged (R258). -/
def TxFlow.floor (f : TxFlow) : Nat :=
  match f.cells with
  | [] => f.next - f.queue.length
  | c :: _ => c.seq

/-- First timeout, and its bound (R261). -/
abbrev firstTimeout : Nat := 20 * usec
abbrev maxTimeout : Nat := 2 * msec

/-- The job fault of a destination with no usable slot (R270, R276), recorded in HUB.ERR of `die`. -/
def State.routeFault (s : State) (slot die : Nat) (anyAtomic : Bool) : State :=
  if anyAtomic then (s.setErr F.HUB_ERR_ATOMIC_UNKNOWN die (s.slotPart slot)).jobFault slot .atomicUnknown
  else (s.setErr F.HUB_ERR_ROUTE_LOST die (s.slotPart slot)).jobFault slot .routeLost

def cellAtomic (x : Cell) : Bool := x.type = 3 || x.type = 4 || x.type = 5

/-- The Sordar die nearer to a Kamgina die (R244); engines of the Ovusk die use die 0 (R270). -/
def nearSordar (kamgina : Nat) : Nat := if kamgina < 2 then 0 else 1

/-- The Sordar die that chooses the route of a cell: the one nearer to its owner, that of its communicator's engine for a collective (R270, R290). -/
def ownerDie (c : TxCell) : Nat :=
  match c.owner with
  | .thread k _ _ => nearSordar (k / 64)
  | .tile k _ _ _ => nearSordar (k / 64)
  | .hub d _ => d
  | .chain => bitsOf c.cell.offset.toNat 39 28 % 2
  | _ => 0

/-- Whether the send window has room for a cell (R257): its distance from the floor fits FLOOR_GAP and the receive window (R258, R259). -/
def TxFlow.room (f : TxFlow) (c : TxCell) : Bool := decide (c.seq < f.floor + 1024)

/-- Sends or resends a cell of a flow on the route R269 selects: its cell as it left, and the state. A cell that is sent again keeps its slot
while it is usable; the count of tries is that of its slot, and a cell that another's failure moves begins anew (R261). -/
def State.launchCell (s : State) (k : FlowKey) (f : TxFlow) (c : TxCell) : Option (TxCell × TxFlow × State) :=
  let key := routeKey s.myEp c.cell.dstEp.toNat
  let keep := c.sent && c.key = key && s.routeUsable key c.slot
  let pick := if k.tc = 2 then
      match f.slot with
      | some sl => if s.routeUsable key sl then some sl else s.selectRoute key
      | none => s.selectRoute key
    else if keep then some c.slot
    else s.anyRoute key
  match pick with
  | none => none
  | some sl =>
    let s := ({ s with fresh := if k.tc = 2 || keep then s.fresh else s.fresh + 1 } : State).flowTouch (ownerDie c) true k
    let b := routeBank key sl
    let gap := c.seq - f.floor
    let x := cellSeal { c.cell with route := BitVec.ofNat 7 (s.getF F.HUB_ROUTE_DATA_ROUTE 0 b), floorGap := BitVec.ofNat 10 gap }
    let moved := c.sent && !(c.key = key && c.slot = sl)
    let c1 := { c with cell := x, key := key, slot := sl, sentAt := s.now, sent := true, tries := if moved then 1 else c.tries
                       timeout := if moved then firstTimeout else c.timeout }
    some (c1, { f with slot := some sl, carried := f.floor }, s.sendCell (s.getF F.HUB_ROUTE_DATA_PORT 0 b) x)

/-- Puts a new cell on its flow (R257): numbered, and sent when the send window has room. A destination with no usable slot faults
the job (R270). A package whose ENDPOINT is unassigned sends none (R266). -/
def State.enqueueCell (s : State) (slot die : Nat) (k : FlowKey) (c0 : TxCell) : State :=
  if s.myEp = epNone then s else
  let f := s.txFlow k
  let c := { c0 with seq := f.next, cell := { c0.cell with seq := BitVec.ofNat 32 f.next } }
  let f1 := { f with next := f.next + 1 }
  if f.queue.isEmpty && f.room c then
    match s.launchCell k { f1 with cells := f.cells ++ [c] } c with
    | some (c1, f2, s1) => s1.setTx k { f2 with cells := f.cells ++ [c1] }
    | none => (s.setTx k { f1 with cells := f.cells ++ [c] }).routeFault slot die (cellAtomic c.cell || f.cells.any (fun d => cellAtomic d.cell))
  else s.setTx k { f1 with queue := f.queue ++ [c] }

/-- A fabric access to another rank as one cell (R254, R257, R277); the window gives COMB. -/
def State.sendAccess (s : State) (slot die tc win : Nat) (w : Window) (a len : Nat) (x : Access1) (owner : Owner)
    (eps : Option Nat × Option Nat × Option Nat) : State :=
  let rank := addrRank a
  let ty := match x with
    | .load => 1
    | .store _ => 2
    | .atomic _ fetch _ _ => if fetch then 4 else 3
    | .fadd _ => 4
  let op := match x with
    | .atomic op _ _ _ => op
    | _ => 0
  let pay := match x with
    | .load => []
    | .store bs => bs
    | .atomic op _ d d1 => natLe 8 d.toNat ++ (if op = 3 then natLe 8 d1.toNat else [])
    | .fadd d => natLe 8 d.toNat
  let comb := testBit w.perm 0 && (ty = 1 || (ty = 3 && op < 3) || (ty = 4 && op = 0))
  let key : FlowKey := { tc := BitVec.ofNat 3 tc, tag := BitVec.ofNat 16 (s.slotTag slot), rank := BitVec.ofNat 17 rank, hub := none }
  let cell := { emptyCell with
    type := BitVec.ofNat 4 ty, tc := BitVec.ofNat 3 tc, comb := comb, jobTag := BitVec.ofNat 16 (s.slotTag slot)
    dstEp := BitVec.ofNat 20 ((s.rankEp slot rank).getD epNone), srcEp := BitVec.ofNat 20 s.myEp
    srcRank := BitVec.ofNat 17 (s.myRank slot), offset := BitVec.ofNat 40 (addrOff a), win := BitVec.ofNat 8 win
    op := BitVec.ofNat 4 op, len := BitVec.ofNat 7 (if ty = 1 then len else pay.length), payload := pad64 pay }
  s.enqueueCell slot die key
    { seq := 0, cell := cell, owner := owner, epThread := eps.1, epCluster := eps.2.1, epJob := eps.2.2, key := 0, slot := 0
      tries := 1, timeout := firstTimeout, sentAt := s.now }

end Sys2Proof.Machine
end

