-- ==== Sys2Proof/Machine/Flags.lean ====
section
/-! DEFINITION. The sticky floating-point flags of a thread (R34): INVALID [0], DIVZERO [1], OVERFLOW [2], UNDERFLOW [3],
INEXACT [4], SATURATED [5]. -/

namespace Sys2Proof.Machine

/-- Raises flags; they are sticky. -/
def Thread.raise (x : Thread) (fl : Nat) : Thread := { x with flags := x.flags ||| fl }

/-- Clears the flags whose bit is 1 (FLAGS, Table 02-5). -/
def Thread.clearFlags (x : Thread) (m : Nat) : Thread := { x with flags := x.flags &&& (63 ^^^ (m % 64)) }

/-- The thread's FP64 rounding mode (FRM, Table 02-5). -/
def Thread.mode (x : Thread) : Rm :=
  match x.rm with
  | 0 => .rne
  | 1 => .rtz
  | 2 => .rup
  | _ => .rdn

/-- INF_OVERFLOW and SATURATED of a completion record (R104, Table 09-5), from gathered flags: [3] and [2]. -/
def recordFlags (fl : Nat) : Nat := (if testBitN fl 2 then 8 else 0) + (if testBitN fl 5 then 4 else 0)
  where testBitN (v i : Nat) : Bool := (v >>> i) % 2 = 1

end Sys2Proof.Machine
end

