-- ==== Sys2Proof/Machine/ClusterCore.lean ====
section
/-! DEFINITION. What the instructions of a thread share (R33 to R41, R54, R63): issue, operands, halting, claims, waits and
remote accesses. -/

namespace Sys2Proof.Machine

/-! ### Claims and waits (R37, R54, R57, R59, R264) -/

def State.tileMover (s : State) (c m : Nat) : TileMover := spGet {} s.tms (c * 4 + m)
def State.setTileMover (s : State) (c m : Nat) (x : TileMover) : State := { s with tms := spPut {} s.tms (c * 4 + m) x }

def Thread.waitFor (x : Thread) (st : ThrState) (w : Waiting) (adv : Nat) : Thread := { x with st := st, wait := w, adv := adv }

/-- Puts a thread into a wait. -/
def State.beginWait (s : State) (c t : Nat) (x : Thread) (st : ThrState) (w : Waiting) (adv : Nat) : State :=
  let k := s.clu c
  (s.setThr c t (x.waitFor st w adv)).setClu c { k with waiters := k.waiters.filter (· ≠ t) ++ [t] }

/-- The header of a tile queue entry (Table 02-7a). -/
def TqEntry.header (e : TqEntry) : Word :=
  BitVec.ofNat 64 (2 ^ 40 * e.seq + 2 ^ 24 * e.tag + 2 ^ 20 * e.fmt + 2 ^ 17 * e.acc + 2 ^ 8 * e.rows + e.cols)

/-- Completion counter of a tile mover (R59). -/
def tmDone (m : Nat) : Fld :=
  match m with
  | 0 => F.CLU_TM_DONE_A_TM0
  | 1 => F.CLU_TM_DONE_A_TM1
  | 2 => F.CLU_TM_DONE_B_TM2
  | _ => F.CLU_TM_DONE_B_TM3

/-- WAITC's comparison, which survives wrapping (R59). -/
def counterReached (count a : Nat) : Bool := decide ((2 ^ 32 + count - a % 2 ^ 32) % 2 ^ 32 < 2 ^ 31)

/-- Whether thread `t` has matrix operations or pushes unfinished (R54). -/
def Cluster.busyFor (k : Cluster) (t : Nat) : Bool :=
  k.mops.any (fun o => o.1 = t) || k.pushPend.any (fun o => o.1 = t)

/-- The epochs of a fence scope (R263); a cluster that runs no job has no job scope wider than itself (log 84). -/
def State.scopeEpochs (s : State) (c t scope : Nat) : Epochs :=
  if scope = 0 then (s.thr c t).ep else
  match scope, s.slotOfCluster c with
  | 1, _ | _, none => (s.clu c).ep
  | _, some j => s.jobEpochs j

def State.setScopeEpochs (s : State) (c t scope : Nat) (e : Epochs) : State :=
  if scope = 0 then s.setThr c t { s.thr c t with ep := e } else
  match scope, s.slotOfCluster c with
  | 1, _ | _, none => s.setClu c { s.clu c with ep := e }
  | _, some j => s.setJobEpochs j e

/-- Closes the scope's epoch, and waits for it unless it is complete (R264). -/
def State.closeEpoch (s : State) (c t scope adv : Nat) : State :=
  let e := s.scopeEpochs c t scope
  let s1 := s.setScopeEpochs c t scope e.close
  if e.close.doneTo e.curId then s1.setThr c t ({ s1.thr c t with adv := adv } : Thread).resume
  else s1.beginWait c t (s1.thr c t) .waitRes (.fence scope e.curId) adv

/-- Pushes a descriptor onto a mover's queue of eight (R57). -/
def State.pushMover (s : State) (c m : Nat) (d : List Word) : State :=
  let x := s.tileMover c m
  s.setTileMover c m { x with q := x.q ++ [d] }

/-- Examines one waiting thread again. -/
def State.tryWake (c : Nat) (s : State) (t : Nat) : State :=
  let x := s.thr c t
  let k := s.clu c
  match x.wait with
  | .none => s
  | .word _ _ _ => s
  | .counter i v => if counterReached (s.getF (tmDone i) c) v then s.setThr c t x.resume else s
  | .tq sd =>
    match k.tq with
    | e :: _ => s.setThr c t (x.wr sd e.header).resume
    | [] => s
  | .mclaim => if k.mtxOwner = none then (s.setClu c { k with mtxOwner := some t }).setThr c t x.resume else s
  | .tqclaim => if k.tqOwner = none then (s.setClu c { k with tqOwner := some t }).setThr c t x.resume else s
  | .mover m d => if (s.tileMover c m).q.length < 8 then (s.pushMover c m d).setThr c t x.resume else s
  | .stores => if x.stores < 64 then s.setThr c t x.resume else s
  | .fence scope id => if (s.scopeEpochs c t scope).doneTo id then s.setThr c t x.resume else s
  | .fenceFull scope oldest =>
    let e := (s.scopeEpochs c t scope).closed
    if e.any (fun y => y.1 = oldest) then s
    else if e.length < 4 then s.closeEpoch c t scope x.adv
    else s.setThr c t { x with wait := .fenceFull scope (((e.map (fun y => y.1))[0]?).getD 0) }
  | .mrel => if k.busyFor t then s else (s.releaseMtx c t).setThr c t x.resume
  | .mfence => if k.busyFor t then s else s.setThr c t x.resume
  | .launch m q =>
    let m' := m && k.mtxOwner.isSome
    let q' := q && k.tqOwner.isSome
    let s1 := s.setClu c { k with mtxOwner := if m && k.mtxOwner.isNone then some t else k.mtxOwner, tqOwner := if q && k.tqOwner.isNone then some t else k.tqOwner }
    s1.setThr c t (if m' || q' then { x with wait := .launch m' q' } else x.resume)
  | .epi d =>
    if k.epi = .idle then (s.setClu c { k with epi := .waiting t d }).setThr c t x.resume else s

/-- Releases the claims of threads that halted, the matrix claim once their matrix operations have finished, whether or not the thread
has started again since (R131). -/
def State.releaseHalted (s : State) (c : Nat) : State :=
  let s1 := match (s.clu c).mtxOwner with
    | some t => if (s.clu c).mtxRelease && !(s.clu c).busyFor t then s.releaseMtx c t else s
    | none => s
  match (s1.clu c).tqOwner with
  | some t => if (s1.thr c t).st = ThrState.halted then s1.releaseTq c t else s1
  | none => s1

/-- Examines every waiting thread of a cluster again, in the order they began to wait. -/
def State.settle (s : State) (c : Nat) : State :=
  let s1 := (s.releaseHalted c)
  let s2 := (s1.clu c).waiters.foldl (State.tryWake c) s1
  let k := s2.clu c
  s2.setClu c { k with waiters := k.waiters.filter (fun t => decide ((s2.thr c t).wait ≠ .none)) }

/-- Settles every cluster that has waiting threads. -/
def State.settleAll (s : State) : State :=
  (s.clus.filter (fun e => !e.2.waiters.isEmpty)).foldl (fun s e => s.settle e.1) s

/-! ### Halting (R41, R63) -/

abbrev causeHalt : Nat := 0x01
abbrev causeStop : Nat := 0x02
abbrev causeIllegal : Nat := 0x03
abbrev causeAlign : Nat := 0x04
abbrev causeAddr : Nat := 0x05
abbrev causeSpadProt : Nat := 0x06
abbrev causeEngOwner : Nat := 0x07
abbrev causeProtRefused : Nat := 0x08
abbrev causeFault : Nat := 0x0F

/-- Halts a thread with a cause; the claims it holds are released when its matrix operations have finished (R131). -/
def State.haltThread (s : State) (c t cause : Nat) : State :=
  let x := s.thr c t
  let k := s.clu c
  let s1 := (s.setThr c t { x with st := .halted, cause := cause, wait := .none, adv := 0, remote := none, stopPend := false }).setClu c
    { k with mtxRelease := k.mtxRelease || k.mtxOwner = some t }
  s1.settle c

/-- An error of Table 02-7: the thread halts, the ERR bit is set, and the class may be fatal (R433). The error of cause k is ERR
bit k − 3. -/
def State.haltError (s : State) (c t cause : Nat) : State :=
  let s1 := (s.haltThread c t cause).setErr ⟨.clu, 0x20, cause - 3, cause - 3⟩ c
  s1.errorClass (s1.partOfCluster c) (cause - 3)

/-! ### Issue (R33, R36, R50) -/

/-- Whether a quiesce holds the cluster's issue (R65, R381). -/
def State.issueHeld (s : State) (c : Nat) : Bool :=
  match s.slotOfCluster c with
  | some j => s.quiesced.contains j
  | none => false

/-- Whether thread `t` is t7 of a bound cluster (R60). -/
def State.boundThread (s : State) (c t : Nat) : Bool := t = 7 && s.getF F.CLU_BIND_BOUND c = 1

def State.threadReady (s : State) (c t : Nat) : Bool := (s.thr c t).st = .ready

/-- The thread that R36 and R61 select among those of the ready threads that `ok` admits: a bound thread first; else the one that issued
last, unless its last instruction was a remote access or YIELD, or its quantum is spent while another is ready; else the first in cyclic
order, in which a thread that yielded is passed over once. -/
def State.nextThread (s : State) (c : Nat) (ok : Nat → Bool) : Option Nat :=
  let k := s.clu c
  let p := k.lastIssue
  let ready := fun t => s.threadReady c t && ok t
  if s.boundThread c 7 && ready 7 then some 7
  else if ready p && !k.lastRemote && !k.yielded && (decide (k.runLen < s.getF F.CLU_SCHED_QUANTUM c) || !thrNums.any (fun t => t ≠ p && ready t)) then some p
  else (cyclicFrom p).find? ready

/-- Whether the sequencer may select thread `t` now (R36). A thread whose source operand is still being computed is not ready (R37), and when
that is so depends on latencies that this model leaves out: the threads it holds back are a free value, drawn for each cycle (log 94). -/
def State.selectable (s : State) (c t : Nat) : Bool :=
  s.nextThread c (fun _ => true) = some t ||
  (let busy := (Config.operandBusy c (s.getF F.CLU_ISSUE_CNT_COUNT c) s.now).toNat
   s.nextThread c (fun u => !testBit busy u) = some t)

/-- Whether the cluster runs: its clock, no wipe, no fault, and no quiesce (R63, R64, R65). -/
def State.cluRuns (s : State) (c : Nat) : Bool :=
  !s.clkOff .clu c && !(s.clu c).wiping && !(s.clu c).faulted && !s.issueHeld c

/-- Cluster clock of an operating point, in MHz (Table 16-2). -/
def clusterMhz (op : Nat) : Nat := ([1050, 970, 890, 810, 730, 650, 550, 450][op]?).getD 450

/-- Number of the cycle of a cluster's clock that runs at a time, at the operating point in force on its die. -/
def State.cycleAt (s : State) (c now : Nat) : Nat :=
  let k := c / 64
  now * clusterMhz (bitsOf (s.getF F.PWR_STAT_OP) (3 * k + 2) (3 * k)) / 1000

/-- Issue level of a cluster's group (R407, Table 16-5). -/
def State.issueLevel (s : State) (c : Nat) : Nat :=
  let g := c / 8
  bitsOf (s.getF (if g < 16 then F.PWR_ISSUE0_LEVEL else F.PWR_ISSUE1_LEVEL)) (4 * (g % 16) + 3) (4 * (g % 16))

/-- Whether the issue level lets a cluster issue in a cycle: in n of every 8 (R407), the first n of each eight (log 117). -/
def State.cycleOpen (s : State) (c k : Nat) : Bool := decide (k % 8 < s.issueLevel c)

/-- Whether thread `t` of cluster `c` can issue an instruction now (R36, R37, R63, R64, R65, R407); what a bound thread issues is its channel's
sequence, no program's (R60). -/
def State.canIssue (s : State) (c t : Nat) : Bool :=
  s.cluRuns c && s.threadReady c t && !s.boundThread c t && s.selectable c t && s.cycleOpen c (s.cycleAt c s.now)

/-- Counts an issue (Table 02-8: ISSUE_CNT and SWITCH_CNT). A thread that yielded and that no other ready thread could follow is passed
over for one cycle, which is idle (R36, R52). -/
def State.countIssue (s : State) (c t : Nat) : State :=
  let k := s.clu c
  let s1 := s.addF F.CLU_ISSUE_CNT_COUNT 1 c
  let others := thrNums.any (fun u => u ≠ t && s.threadReady c u)
  if k.lastIssue = t then
    (if k.yielded && !others then s1.addF F.CLU_IDLE_CNT_COUNT 1 c else s1).setClu c
      { k with runLen := if k.yielded then 0 else if others then k.runLen + 1 else 0, lastRemote := false, yielded := false }
  else (s1.addF F.CLU_SWITCH_CNT_COUNT 1 c).setClu c { k with lastIssue := t, runLen := if others then 1 else 0, lastRemote := false, yielded := false }

/-- The thread that issues has made a remote access, which R36 switches out for a cycle. -/
def State.madeRemote (s : State) (c : Nat) : State := s.setClu c { s.clu c with lastRemote := true }

/-- Words that an ECC outcome reports as corrected. -/
def eccWords : Ecc → List Nat
  | .clean => []
  | .words ws => ws.map BitVec.toNat
  | _ => [0]

/-- Counts the corrected words of an instruction's fetch (R45). -/
def State.fetchCe (s : State) (c : Nat) (e : Ecc) : State :=
  if (eccWords e).isEmpty then s else s.addSat F.CLU_ECC_STAT_ISTORE_CE (eccWords e).length c

/-- Issues an instruction: nothing where the thread cannot issue; an uncorrectable word of it, or of a vector register it reads, is the
cluster's fault (R45, R87); a reserved field that is not zero is illegal (R50). -/
def State.issue (s : State) (c t : Nat) (fetch regs : Ecc) (clean : Bool) (f : Thread → State → State) : State :=
  if s.canIssue c t then
    if fetch = .uncorrectable || regs = .uncorrectable then s.clusterFault c .eccUe
    else
      let s1 := (s.fetchCe c fetch).countIssue c t
      if clean then f (s1.thr c t) s1 else s1.haltError c t causeIllegal
  else s

/-- Issues a format S instruction. -/
def issueS (c : BitVec 8) (t : BitVec 3) (i : SFmt) (s : State) (f : Thread → State → State) : Host.Outcome State Fault Refusal :=
  done (s.issue c.toNat t.toNat i.fetch .clean (i.rsv = 0) f)

/-- Issues a format V instruction. -/
def issueV (c : BitVec 8) (t : BitVec 3) (i : VFmt) (s : State) (f : Thread → State → State) : Host.Outcome State Fault Refusal :=
  done (s.issue c.toNat t.toNat i.fetch i.regs (i.rsv = 0) f)

/-- A register-only scalar instruction: SD takes a value, flags are raised, the PC advances. -/
def scalarOp (c : BitVec 8) (t : BitVec 3) (i : SFmt) (s : State) (f : Thread → Word × Nat) : Host.Outcome State Fault Refusal :=
  issueS c t i s (fun x s => s.setThr c.toNat t.toNat (((x.wr i.sd.toNat (f x).1).raise (f x).2).advance (sWords i)))

/-! ### Remote accesses of a thread (R35, R53, R254, R255, R262) -/

/-- Counts an access issued in the thread's, the cluster's and the job's open epochs; answers their numbers. -/
def State.countIssued (s : State) (c t slot : Nat) : (Option Nat × Option Nat × Option Nat) × State :=
  let x := s.thr c t
  let k := s.clu c
  let e := s.jobEpochs slot
  ((some x.ep.curId, some k.ep.curId, some e.curId),
   ((s.setThr c t { x with ep := x.ep.issue }).setClu c { k with ep := k.ep.issue }).setJobEpochs slot e.issue)

/-- Counts an access completed in the epochs it was issued in (R262). -/
def State.countDone (s : State) (c t slot : Nat) (eps : Option Nat × Option Nat × Option Nat) : State :=
  let s1 := match eps.1 with
    | some i => let x := s.thr c t; s.setThr c t { x with ep := x.ep.complete i }
    | none => s
  let s2 := match eps.2.1 with
    | some i => let k := s1.clu c; s1.setClu c { k with ep := k.ep.complete i }
    | none => s1
  match eps.2.2 with
  | some i => s2.setJobEpochs slot ((s2.jobEpochs slot).complete i)
  | none => s2

/-- One remote access that a thread makes, after its checks: the bytes it reads where they are known at once. At the own rank it
is applied directly (R255); a poison answer is the cluster's fault (R208). To another rank it is a cell. -/
def State.threadAccess (s : State) (c t slot win : Nat) (w : Window) (a len : Nat) (x : Access1) (part : Option Nat) :
    Option (Option (List Byte)) × State :=
  let (eps, s1) := s.countIssued c t slot
  if addrRank a = s.myRank slot then
    match s1.applyAt w (addrOff a) len x with
    | (some bs, s2) => (some (some bs), s2.countDone c t slot eps)
    | (none, s2) => (none, s2.clusterFault c .eccUe)
  else (some none, s1.sendAccess slot (nearSordar (c / 64)) 2 win w a len x (.thread c t part) eps)

/-- A scalar remote access: address a multiple of 8, the checks of R254, then the access. `sd` is the register that receives the
result of a load or fetching atomic. -/
def State.scalarRemote (s : State) (c t : Nat) (a : Nat) (x : Access1) (sd : Option Nat) (adv : Nat) : State :=
  if a % 8 ≠ 0 then s.haltError c t causeAlign else
  match s.checkSend (s.partOfCluster c) a 8 x with
  | none => s.haltError c t causeProtRefused
  | some (slot, win, w) =>
    if addrRank a = s.myRank slot && s.storesReserved w (addrOff a) x then s.haltError c t causeSpadProt else
    let s1 := (s.madeRemote c).setThr c t ((s.thr c t).advance adv)
    match s1.threadAccess c t slot win w a 8 x (sd.map (fun _ => 0)) with
    | (none, s2) => s2
    | (some r, s2) =>
      let y := s2.thr c t
      match sd with
      | some d => s2.setThr c t { y with st := .waitRemote, remote := some { vec := false, reg := d, parts := [⟨0, 8, r⟩] } }
      | none =>
        match r with
        | some _ => s2
        | none =>
          let y1 := { y with stores := y.stores + 1 }
          if y1.stores < 64 then s2.setThr c t y1 else s2.beginWait c t y1 .waitRes .stores 0

/-! ### Starting a thread (R40) -/

def Thread.start (x : Thread) (pc : Nat) : Thread :=
  { x with st := .ready, pc := pc % pcMod, cause := 0, vl := 0, flags := 0, wait := .none, adv := 0, remote := none, stopPend := false }

def Thread.startable (x : Thread) : Bool := x.st = .off || x.st = .halted

/-- Start word of a thread (THR_PC). -/
def thrPcFld (t : Nat) : Fld := ⟨.clu, 0x58 + 8 * t, 14, 0⟩

def State.startThread (s : State) (c t pc : Nat) : State := s.setThr c t ((s.thr c t).start pc)

/-- Halts a thread as a STOP write does (R41): in WAIT_REMOTE, once the result is written. -/
def State.stopThread (s : State) (c t : Nat) : State :=
  let x := s.thr c t
  if x.st = .off || x.st = .halted || x.st = .reserved then s
  else if x.st = .waitRemote then s.setThr c t { x with stopPend := true }
  else s.haltThread c t causeStop

end Sys2Proof.Machine
end

