-- ==== Sys2Proof/Machine/ReadClu.lean ====
section
/-! DEFINITION. What a read of a page's registers returns (R4, R9, R11, R66): common header registers, and the fields of the CLU
page that the cluster's own state gives. -/

namespace Sys2Proof.Machine

/-- The ID register (Table 00-9): block, instance, stepping, compatibility level 1, layout version 1. -/
def idWord (b : Block) (inst : Nat) : Word :=
  BitVec.ofNat 64 (0x0101 + (2 ^ 48 * blockCode b + 2 ^ 32 * inst + 2 ^ 24 * Config.stepMajor + 2 ^ 16 * Config.stepMinor))

/-- Common bits of STAT (Table 00-10). -/
def State.statCommon (s : State) (b : Block) (inst : Nat) : Nat :=
  let page := blockBase b / 4096 + inst
  (if (spGet [] s.holds page).isEmpty then 0 else 2 ^ 63) + (if s.clkOff b inst then 2 ^ 62 else 0)

/-- Code of a thread state (Table 02-1). -/
def thrCode : ThrState → Nat
  | .off => 0
  | .ready => 1
  | .waitLocal => 2
  | .waitRemote => 3
  | .waitCount => 4
  | .waitTq => 5
  | .waitRes => 6
  | .halted => 7
  | .reserved => 8

def sumThr (f : Nat → Nat) : Nat := thrNums.foldl (fun a t => a + f t) 0

/-- Whether a solver channel's launch runs on a bound cluster (STAT.BOUND_ACTIVE). -/
def State.boundActive (s : State) (c : Nat) : Bool :=
  let st := (spGet ({} : SlvChan) s.slv (s.getF F.CLU_BIND_CHANNEL c)).stage
  s.getF F.CLU_BIND_BOUND c = 1 && decide (1 ≤ st) && decide (st ≤ 5)

/-- A register of the CLU page (Table 02-8). -/
def State.cluReg (s : State) (c off : Nat) : Word :=
  let k := s.clu c
  if off = 0x00 then idWord .clu c
  else if off = 0x18 then
    BitVec.ofNat 64 (s.statCommon .clu c + (if k.faulted then 2 ^ 17 else 0) + (if k.wiping then 2 ^ 16 else 0) +
      (if s.boundActive c then 2 ^ 14 else 0) + 2 ^ 9 * k.tq.length +
      (if k.mops.isEmpty && k.pushPend.isEmpty then 0 else 2 ^ 8) +
      sumThr (fun t => if (s.thr c t).st = .off || (s.thr c t).st = .halted || (s.thr c t).st = .reserved then 0 else 2 ^ t))
  else if off = 0x40 then 0
  else if off = 0x48 then BitVec.ofNat 64 (sumThr (fun t => thrCode (s.thr c t).st * 16 ^ t))
  else if off = 0x50 then BitVec.ofNat 64 (sumThr (fun t => (s.thr c t).cause * 256 ^ t))
  else if 0x58 ≤ off && off ≤ 0x90 then
    let t := (off - 0x58) / 8
    let x := s.thr c t
    if x.startable || x.st = .reserved then s.regW .clu off c else BitVec.ofNat 64 x.pc
  else if off = 0x98 then
    BitVec.ofNat 64 ((match k.mtxOwner with | some t => 128 + t * 16 | none => 0) + (match k.tqOwner with | some t => 8 + t | none => 0))
  else if off = 0xC0 then BitVec.ofNat 64 (2 ^ 40 * k.pushSeq + k.tq.length)
  else s.regW .clu off c

end Sys2Proof.Machine
end

