-- ==== Sys2Proof/Machine/Scalar.lean ====
section
/-! DEFINITION. The scalar, control, memory, system, mover and tile queue instructions (Tables 02-5 and 02-6). -/

namespace Sys2Proof.Machine

/-! ### Scalar integer, OPC 0x00 (R52) -/

/-- An integer instruction: no flags. -/
def intOp (c : BitVec 8) (t : BitVec 3) (i : SFmt) (s : State) (f : Word → Word → Word) : Host.Outcome State Fault Refusal :=
  scalarOp c t i s (fun x => (f (sOpA x i) (sOpB x i), 0))

def execAdd (c : BitVec 8) (t : BitVec 3) (i : SFmt) (s : State) := intOp c t i s (fun a b => a + b)
def execSub (c : BitVec 8) (t : BitVec 3) (i : SFmt) (s : State) := intOp c t i s (fun a b => a - b)
def execMul (c : BitVec 8) (t : BitVec 3) (i : SFmt) (s : State) := intOp c t i s (fun a b => a * b)
def execMulhu (c : BitVec 8) (t : BitVec 3) (i : SFmt) (s : State) :=
  intOp c t i s (fun a b => BitVec.ofNat 64 (a.toNat * b.toNat / 2 ^ 64))
def execMulhs (c : BitVec 8) (t : BitVec 3) (i : SFmt) (s : State) :=
  intOp c t i s (fun a b => BitVec.ofInt 64 (a.toInt * b.toInt / 2 ^ 64))
def execAndI (c : BitVec 8) (t : BitVec 3) (i : SFmt) (s : State) := intOp c t i s (fun a b => a &&& b)
def execOrI (c : BitVec 8) (t : BitVec 3) (i : SFmt) (s : State) := intOp c t i s (fun a b => a ||| b)
def execXor (c : BitVec 8) (t : BitVec 3) (i : SFmt) (s : State) := intOp c t i s (fun a b => a ^^^ b)
def execSll (c : BitVec 8) (t : BitVec 3) (i : SFmt) (s : State) := intOp c t i s (fun a b => a <<< (b.toNat % 64))
def execSrl (c : BitVec 8) (t : BitVec 3) (i : SFmt) (s : State) := intOp c t i s (fun a b => a >>> (b.toNat % 64))
def execSra (c : BitVec 8) (t : BitVec 3) (i : SFmt) (s : State) := intOp c t i s (fun a b => a.sshiftRight (b.toNat % 64))
def execMin (c : BitVec 8) (t : BitVec 3) (i : SFmt) (s : State) := intOp c t i s (fun a b => if a.toInt ≤ b.toInt then a else b)
def execMax (c : BitVec 8) (t : BitVec 3) (i : SFmt) (s : State) := intOp c t i s (fun a b => if a.toInt ≤ b.toInt then b else a)
def execMinu (c : BitVec 8) (t : BitVec 3) (i : SFmt) (s : State) := intOp c t i s (fun a b => if a.toNat ≤ b.toNat then a else b)
def execMaxu (c : BitVec 8) (t : BitVec 3) (i : SFmt) (s : State) := intOp c t i s (fun a b => if a.toNat ≤ b.toNat then b else a)
def execSeq (c : BitVec 8) (t : BitVec 3) (i : SFmt) (s : State) := intOp c t i s (fun a b => if a = b then 1 else 0)
def execSlt (c : BitVec 8) (t : BitVec 3) (i : SFmt) (s : State) := intOp c t i s (fun a b => if a.toInt < b.toInt then 1 else 0)
def execSltu (c : BitVec 8) (t : BitVec 3) (i : SFmt) (s : State) := intOp c t i s (fun a b => if a.toNat < b.toNat then 1 else 0)
def execDivu (c : BitVec 8) (t : BitVec 3) (i : SFmt) (s : State) :=
  intOp c t i s (fun a b => if b = 0 then BitVec.allOnes 64 else a / b)
def execRemu (c : BitVec 8) (t : BitVec 3) (i : SFmt) (s : State) := intOp c t i s (fun a b => if b = 0 then a else a % b)

/-! ### Scalar FP64, OPC 0x08 (R52) -/

def fpWord (r : Nat × Nat) : Word × Nat := (BitVec.ofNat 64 r.1, r.2)
def fpBool (r : Bool × Nat) : Word × Nat := (if r.1 then 1 else 0, r.2)

/-- An FP64 instruction on operands A and B in the thread's rounding mode. -/
def fpOp (c : BitVec 8) (t : BitVec 3) (i : SFmt) (s : State) (f : Rm → Nat → Nat → Nat × Nat) : Host.Outcome State Fault Refusal :=
  scalarOp c t i s (fun x => fpWord (f x.mode (sOpA x i).toNat (sOpB x i).toNat))

def execFadd (c : BitVec 8) (t : BitVec 3) (i : SFmt) (s : State) := fpOp c t i s (fun m a b => fpAdd fp64 m a b)
def execFsub (c : BitVec 8) (t : BitVec 3) (i : SFmt) (s : State) := fpOp c t i s (fun m a b => fpSub fp64 m a b)
def execFmul (c : BitVec 8) (t : BitVec 3) (i : SFmt) (s : State) := fpOp c t i s (fun m a b => fpMul fp64 m a b)
def execFma (c : BitVec 8) (t : BitVec 3) (i : SFmt) (s : State) :=
  scalarOp c t i s (fun x => fpWord (fpFma fp64 x.mode (sOpA x i).toNat (sOpB x i).toNat (x.rd i.sd.toNat).toNat))
def execFdiv (c : BitVec 8) (t : BitVec 3) (i : SFmt) (s : State) := fpOp c t i s (fun m a b => fpDiv fp64 m a b)
def execFsqrt (c : BitVec 8) (t : BitVec 3) (i : SFmt) (s : State) := fpOp c t i s (fun m a _ => fpSqrt fp64 m a)
def execFmin (c : BitVec 8) (t : BitVec 3) (i : SFmt) (s : State) := fpOp c t i s (fun _ a b => fpMin fp64 a b)
def execFmax (c : BitVec 8) (t : BitVec 3) (i : SFmt) (s : State) := fpOp c t i s (fun _ a b => fpMax fp64 a b)
def execFeq (c : BitVec 8) (t : BitVec 3) (i : SFmt) (s : State) :=
  scalarOp c t i s (fun x => fpBool (fpEq fp64 (sOpA x i).toNat (sOpB x i).toNat))
def execFlt (c : BitVec 8) (t : BitVec 3) (i : SFmt) (s : State) :=
  scalarOp c t i s (fun x => fpBool (fpLt fp64 (sOpA x i).toNat (sOpB x i).toNat))
def execFle (c : BitVec 8) (t : BitVec 3) (i : SFmt) (s : State) :=
  scalarOp c t i s (fun x => fpBool (fpLe fp64 (sOpA x i).toNat (sOpB x i).toNat))
/-- FCVT.I in the thread's mode; saturates, and a NaN gives zero (R103). -/
def execFcvtI (c : BitVec 8) (t : BitVec 3) (i : SFmt) (s : State) :=
  scalarOp c t i s (fun x => fpWord (convInt 64 (.mode x.mode) (fpVal fp64 (sOpA x i).toNat)))
def execFcvtF (c : BitVec 8) (t : BitVec 3) (i : SFmt) (s : State) :=
  scalarOp c t i s (fun x => fpWord (convIeee fp64 (.mode x.mode) (intVal 64 (sOpA x i).toNat)))
def execFabs (c : BitVec 8) (t : BitVec 3) (i : SFmt) (s : State) :=
  scalarOp c t i s (fun x => (sOpA x i &&& 0x7FFFFFFFFFFFFFFF#64, 0))
def execFneg (c : BitVec 8) (t : BitVec 3) (i : SFmt) (s : State) :=
  scalarOp c t i s (fun x => (sOpA x i ^^^ 0x8000000000000000#64, 0))
/-- FRM: rounding mode from IMM32[1:0]. -/
def execFrm (c : BitVec 8) (t : BitVec 3) (i : SFmt) (s : State) : Host.Outcome State Fault Refusal :=
  issueS c t i s (fun x s => s.setThr c.toNat t.toNat ({ x with rm := (sImm i).toNat % 4 }.advance (sWords i)))

/-! ### Control, OPC 0x10 (R51, R52) -/

/-- PC after this instruction, plus the immediate when the branch is taken. -/
def branchPc (x : Thread) (i : SFmt) (taken : Bool) : Nat :=
  if taken then (BitVec.ofNat 64 (x.pc + sWords i) + sImm i).toNat % pcMod else (x.pc + sWords i) % pcMod

def branchOp (c : BitVec 8) (t : BitVec 3) (i : SFmt) (s : State) (f : Word → Word → Bool) : Host.Outcome State Fault Refusal :=
  issueS c t i s (fun x s => s.setThr c.toNat t.toNat { x with pc := branchPc x i (f (sOpA x i) (x.rd i.sb.toNat)) })

def execBr (c : BitVec 8) (t : BitVec 3) (i : SFmt) (s : State) := branchOp c t i s (fun _ _ => true)
def execBz (c : BitVec 8) (t : BitVec 3) (i : SFmt) (s : State) := branchOp c t i s (fun a _ => a = 0)
def execBnz (c : BitVec 8) (t : BitVec 3) (i : SFmt) (s : State) := branchOp c t i s (fun a _ => a ≠ 0)
def execBlt (c : BitVec 8) (t : BitVec 3) (i : SFmt) (s : State) := branchOp c t i s (fun a b => a.toInt < b.toInt)
def execBge (c : BitVec 8) (t : BitVec 3) (i : SFmt) (s : State) := branchOp c t i s (fun a b => b.toInt ≤ a.toInt)
/-- CALL: SD takes the PC after this instruction. -/
def execCall (c : BitVec 8) (t : BitVec 3) (i : SFmt) (s : State) : Host.Outcome State Fault Refusal :=
  issueS c t i s (fun x s =>
    s.setThr c.toNat t.toNat { x.wr i.sd.toNat (BitVec.ofNat 64 ((x.pc + sWords i) % pcMod)) with pc := branchPc x i true })
def execJr (c : BitVec 8) (t : BitVec 3) (i : SFmt) (s : State) : Host.Outcome State Fault Refusal :=
  issueS c t i s (fun x s => s.setThr c.toNat t.toNat { x with pc := (sOpA x i).toNat % pcMod })

/-! ### Scratchpad loads and stores, OPC 0x18 (R53) -/

/-- Address a + IMM32 of a scratchpad access. -/
def spadAddr (x : Thread) (i : SFmt) : Nat := (sOpA x i + sImm i).toNat

/-- Counts a corrected scratchpad word, and records the word's address (R45, R66). -/
def State.spadCe (s : State) (c a : Nat) : State := (s.addSat F.CLU_ECC_STAT_SPAD_CE 1 c).setF F.CLU_ECC_ADDR_LAST_CE (a / 8 * 8) c

/-- Counts the words that a read from `a` on found corrected. -/
def State.spadEcc (s : State) (c a : Nat) (e : Ecc) : State := (eccWords e).foldl (fun s w => s.spadCe c ((a + 8 * w) % spadSize)) s

/-- A scratchpad load of `n` bytes, sign-extended where `sgn`. -/
def ldsOp (c : BitVec 8) (t : BitVec 3) (i : SFmt) (e : Ecc) (n : Nat) (sgn : Bool) (s : State) : Host.Outcome State Fault Refusal :=
  issueS c t i s (fun x s =>
    let a := spadAddr x i
    if a % n ≠ 0 then s.haltError c.toNat t.toNat causeAlign
    else if spadSize ≤ a then s.haltError c.toNat t.toNat causeAddr
    else if e = .uncorrectable then s.clusterFault c.toNat .eccUe
    else
      let v := leNat (s.spadRead c.toNat a n)
      let v1 := if sgn then ofSigned 64 (toSigned (8 * n) v) else v
      let s1 := s.spadEcc c.toNat a e
      s1.setThr c.toNat t.toNat ((x.wr i.sd.toNat (BitVec.ofNat 64 v1)).advance (sWords i)))

def execLdsB (c : BitVec 8) (t : BitVec 3) (i : SFmt) (e : Ecc) (s : State) := ldsOp c t i e 1 false s
def execLdsH (c : BitVec 8) (t : BitVec 3) (i : SFmt) (e : Ecc) (s : State) := ldsOp c t i e 2 false s
def execLdsW (c : BitVec 8) (t : BitVec 3) (i : SFmt) (e : Ecc) (s : State) := ldsOp c t i e 4 false s
def execLdsD (c : BitVec 8) (t : BitVec 3) (i : SFmt) (e : Ecc) (s : State) := ldsOp c t i e 8 false s
def execLdsBs (c : BitVec 8) (t : BitVec 3) (i : SFmt) (e : Ecc) (s : State) := ldsOp c t i e 1 true s
def execLdsHs (c : BitVec 8) (t : BitVec 3) (i : SFmt) (e : Ecc) (s : State) := ldsOp c t i e 2 true s
def execLdsWs (c : BitVec 8) (t : BitVec 3) (i : SFmt) (e : Ecc) (s : State) := ldsOp c t i e 4 true s

/-- A scratchpad store of the low `n` bytes of SD: a plain write (Table 04-9). -/
def stsOp (c : BitVec 8) (t : BitVec 3) (i : SFmt) (n : Nat) (s : State) : Host.Outcome State Fault Refusal :=
  issueS c t i s (fun x s =>
    let a := spadAddr x i
    if a % n ≠ 0 then s.haltError c.toNat t.toNat causeAlign
    else if spadSize ≤ a then s.haltError c.toNat t.toNat causeAddr
    else if s.spadReserved c.toNat a n then s.haltError c.toNat t.toNat causeSpadProt
    else (s.setThr c.toNat t.toNat (x.advance (sWords i))).spadWrite c.toNat a (natLe n (x.rd i.sd.toNat).toNat))

def execStsB (c : BitVec 8) (t : BitVec 3) (i : SFmt) (s : State) := stsOp c t i 1 s
def execStsH (c : BitVec 8) (t : BitVec 3) (i : SFmt) (s : State) := stsOp c t i 2 s
def execStsW (c : BitVec 8) (t : BitVec 3) (i : SFmt) (s : State) := stsOp c t i 4 s
def execStsD (c : BitVec 8) (t : BitVec 3) (i : SFmt) (s : State) := stsOp c t i 8 s

/-! ### Remote loads, stores and atomics, OPC 0x18 (R53, R254, R273) -/

/-- A remote instruction: its access, and whether SD takes its result. -/
def remoteOp (c : BitVec 8) (t : BitVec 3) (i : SFmt) (s : State) (f : Thread → Access1) (fetch : Bool) : Host.Outcome State Fault Refusal :=
  issueS c t i s (fun x s =>
    s.scalarRemote c.toNat t.toNat (sOpA x i + sImm i).toNat (f x) (if fetch then some i.sd.toNat else none) (sWords i))

def execLdg (c : BitVec 8) (t : BitVec 3) (i : SFmt) (s : State) := remoteOp c t i s (fun _ => .load) true
def execStg (c : BitVec 8) (t : BitVec 3) (i : SFmt) (s : State) :=
  remoteOp c t i s (fun x => .store (natLe 8 (x.rd i.sd.toNat).toNat)) false

/-- An atomic whose operand is SB (log 22). -/
def atomicOp (c : BitVec 8) (t : BitVec 3) (i : SFmt) (s : State) (op : Nat) (fetch : Bool) : Host.Outcome State Fault Refusal :=
  remoteOp c t i s (fun x => .atomic op fetch (x.rd i.sb.toNat) 0) fetch

def execAadd (c : BitVec 8) (t : BitVec 3) (i : SFmt) (s : State) := atomicOp c t i s 0 true
def execAaddn (c : BitVec 8) (t : BitVec 3) (i : SFmt) (s : State) := atomicOp c t i s 0 false
def execAmin (c : BitVec 8) (t : BitVec 3) (i : SFmt) (s : State) := atomicOp c t i s 1 true
def execAminn (c : BitVec 8) (t : BitVec 3) (i : SFmt) (s : State) := atomicOp c t i s 1 false
def execAmax (c : BitVec 8) (t : BitVec 3) (i : SFmt) (s : State) := atomicOp c t i s 2 true
def execAmaxn (c : BitVec 8) (t : BitVec 3) (i : SFmt) (s : State) := atomicOp c t i s 2 false
/-- ACAS: compare with SD, new value SB, SD takes the old value. -/
def execAcas (c : BitVec 8) (t : BitVec 3) (i : SFmt) (s : State) :=
  remoteOp c t i s (fun x => .atomic 3 true (x.rd i.sd.toNat) (x.rd i.sb.toNat)) true
def execAfmin (c : BitVec 8) (t : BitVec 3) (i : SFmt) (s : State) := atomicOp c t i s 4 true
def execAfmax (c : BitVec 8) (t : BitVec 3) (i : SFmt) (s : State) := atomicOp c t i s 5 true
/-- AFADD: only at the package's own rank, else PROT_REFUSED (Table 02-7, Table 10-8 check 6). -/
def execAfadd (c : BitVec 8) (t : BitVec 3) (i : SFmt) (s : State) := remoteOp c t i s (fun x => .fadd (x.rd i.sb.toNat)) true

/-! ### System, OPC 0x38 -/

/-- FENCE (R264): closes the scope's epoch and waits for it; a fifth FENCE waits for the oldest closed epoch first. A scope code
that Table 02-5 does not define is illegal (log 23). -/
def execFence (c : BitVec 8) (t : BitVec 3) (i : SFmt) (s : State) : Host.Outcome State Fault Refusal :=
  issueS c t i s (fun x s =>
    let scope := (sImm i).toNat % 4
    if scope = 3 then s.haltError c.toNat t.toNat causeIllegal
    else if (s.scopeEpochs c.toNat t.toNat scope).closed.length < 4 then s.closeEpoch c.toNat t.toNat scope (sWords i)
    else s.beginWait c.toNat t.toNat x .waitRes (.fenceFull scope
      ((((s.scopeEpochs c.toNat t.toNat scope).closed.map (fun y => y.1))[0]?).getD 0)) (sWords i))

/-- Brings the words that movers have written into the instruction store of a cluster to every later fetch (R47, R48). -/
def State.mergeIstore (s : State) (c : Nat) : State :=
  let k := s.clu c
  { s.setClu c { k with stale := [] } with istore := k.stale.foldl (fun m w => spPut 0 m (32768 * c + w.1) w.2) s.istore }

/-- IFENCE (R48): every completed mover write into the instruction store is visible to fetch. -/
def execIfence (c : BitVec 8) (t : BitVec 3) (i : SFmt) (s : State) : Host.Outcome State Fault Refusal :=
  issueS c t i s (fun x s => (s.mergeIstore c.toNat).setThr c.toNat t.toNat (x.advance (sWords i)))

/-- YIELD (R52): ends the thread's run of issue; the next switch passes it over once. -/
def execYield (c : BitVec 8) (t : BitVec 3) (i : SFmt) (s : State) : Host.Outcome State Fault Refusal :=
  issueS c t i s (fun x s =>
    (s.setClu c.toNat { s.clu c.toNat with yielded := true }).setThr c.toNat t.toNat (x.advance (sWords i)))

/-- WAITC (R59). -/
def execWaitc (c : BitVec 8) (t : BitVec 3) (i : SFmt) (s : State) : Host.Outcome State Fault Refusal :=
  issueS c t i s (fun x s =>
    let k := (sImm i).toNat % 256
    let a := (sOpA x i).toNat % 2 ^ 32
    if 3 < k then s.haltError c.toNat t.toNat causeIllegal
    else if counterReached (s.getF (tmDone k) c.toNat) a then s.setThr c.toNat t.toNat (x.advance (sWords i))
    else s.beginWait c.toNat t.toNat x .waitCount (.counter k a) (sWords i))

/-- WAITM (R59). -/
def execWaitm (c : BitVec 8) (t : BitVec 3) (i : SFmt) (s : State) : Host.Outcome State Fault Refusal :=
  issueS c t i s (fun x s =>
    let a := (sOpA x i).toNat
    let b := (x.rd i.sb.toNat).toNat
    if a % 8 ≠ 0 then s.haltError c.toNat t.toNat causeAlign
    else if spadSize ≤ a then s.haltError c.toNat t.toNat causeAddr
    else if b ≤ leNat (s.spadRead c.toNat a 8) then s.setThr c.toNat t.toNat (x.advance (sWords i))
    else s.beginWait c.toNat t.toNat x .waitCount (.word a b false) (sWords i))

/-- TSTART (R40, R60): SD is 1 when it started the thread. -/
def execTstart (c : BitVec 8) (t : BitVec 3) (i : SFmt) (s : State) : Host.Outcome State Fault Refusal :=
  issueS c t i s (fun x s =>
    let u := (sImm i).toNat % 8
    let ok := (s.thr c.toNat u).startable && !s.boundThread c.toNat u
    let s1 := s.setThr c.toNat t.toNat ((x.wr i.sd.toNat (if ok then 1 else 0)).advance (sWords i))
    if ok then s1.startThread c.toNat u (sOpA x i).toNat else s1)

def execHalt (c : BitVec 8) (t : BitVec 3) (i : SFmt) (s : State) : Host.Outcome State Fault Refusal :=
  issueS c t i s (fun _ s => s.haltThread c.toNat t.toNat causeHalt)

/-- CSRR: a register of the cluster's own page; an offset that is not a multiple of 8 reads zero and sets ACC_BAD (R5). -/
def execCsrr (c : BitVec 8) (t : BitVec 3) (i : SFmt) (s : State) : Host.Outcome State Fault Refusal :=
  issueS c t i s (fun x s =>
    let off := (sImm i).toNat % 4096
    if off % 8 ≠ 0 then (s.setErr (errAccBad .clu) c.toNat).setThr c.toNat t.toNat ((x.wr i.sd.toNat 0).advance (sWords i))
    else s.setThr c.toNat t.toNat ((x.wr i.sd.toNat (s.cluReg c.toNat off)).advance (sWords i)))

def execTick (c : BitVec 8) (t : BitVec 3) (i : SFmt) (s : State) : Host.Outcome State Fault Refusal :=
  issueS c t i s (fun x s => s.setThr c.toNat t.toNat ((x.wr i.sd.toNat (BitVec.ofNat 64 s.cad)).advance (sWords i)))

/-- FLAGS: SD takes the flags; those whose bit is 1 in b[5:0] are then cleared. -/
def execFlags (c : BitVec 8) (t : BitVec 3) (i : SFmt) (s : State) : Host.Outcome State Fault Refusal :=
  issueS c t i s (fun x s =>
    s.setThr c.toNat t.toNat (((x.wr i.sd.toNat (BitVec.ofNat 64 x.flags)).clearFlags (sOpB x i).toNat).advance (sWords i)))

/-- MCLAIM (R54). -/
def execMclaim (c : BitVec 8) (t : BitVec 3) (i : SFmt) (s : State) : Host.Outcome State Fault Refusal :=
  issueS c t i s (fun x s =>
    let k := s.clu c.toNat
    match k.mtxOwner with
    | none => (s.setClu c.toNat { k with mtxOwner := some t.toNat }).setThr c.toNat t.toNat (x.advance (sWords i))
    | some u => if u = t.toNat then s.setThr c.toNat t.toNat (x.advance (sWords i))
                else s.beginWait c.toNat t.toNat x .waitRes .mclaim (sWords i))

/-- MREL (R54): completes once the thread's matrix operations have finished and its pushes have entered the queue. -/
def execMrel (c : BitVec 8) (t : BitVec 3) (i : SFmt) (s : State) : Host.Outcome State Fault Refusal :=
  issueS c t i s (fun x s =>
    let k := s.clu c.toNat
    if k.mtxOwner ≠ some t.toNat then s.haltError c.toNat t.toNat causeEngOwner
    else if k.busyFor t.toNat then s.beginWait c.toNat t.toNat x .waitRes .mrel (sWords i)
    else (s.setThr c.toNat t.toNat (x.advance (sWords i))).releaseMtx c.toNat t.toNat)

def execTqclaim (c : BitVec 8) (t : BitVec 3) (i : SFmt) (s : State) : Host.Outcome State Fault Refusal :=
  issueS c t i s (fun x s =>
    let k := s.clu c.toNat
    match k.tqOwner with
    | none => (s.setClu c.toNat { k with tqOwner := some t.toNat }).setThr c.toNat t.toNat (x.advance (sWords i))
    | some u => if u = t.toNat then s.setThr c.toNat t.toNat (x.advance (sWords i))
                else s.beginWait c.toNat t.toNat x .waitRes .tqclaim (sWords i))

/-- TQREL (R54): the entries stay in the queue. -/
def execTqrel (c : BitVec 8) (t : BitVec 3) (i : SFmt) (s : State) : Host.Outcome State Fault Refusal :=
  issueS c t i s (fun x s =>
    if (s.clu c.toNat).tqOwner ≠ some t.toNat then s.haltError c.toNat t.toNat causeEngOwner
    else (s.setThr c.toNat t.toNat (x.advance (sWords i))).releaseTq c.toNat t.toNat)

/-! ### Movers and tile queue, OPC 0x30 (R56, R57) -/

/-- MVGO: copies the descriptor at issue. -/
def execMvgo (c : BitVec 8) (t : BitVec 3) (i : SFmt) (s : State) : Host.Outcome State Fault Refusal :=
  issueS c t i s (fun x s =>
    let a := (sOpA x i).toNat
    let m := (sImm i).toNat % 4
    if a % 64 ≠ 0 then s.haltError c.toNat t.toNat causeAlign
    else if spadSize ≤ a then s.haltError c.toNat t.toNat causeAddr
    else
      let d := readWords s.spad (spadKey c.toNat a) 8
      if (s.tileMover c.toNat m).q.length < 8 then
        (s.pushMover c.toNat m d).setThr c.toNat t.toNat (x.advance (sWords i))
      else s.beginWait c.toNat t.toNat x .waitRes (.mover m d) (sWords i))

/-- Guards a tile queue instruction: only the claimant may use the queue (R54). -/
def State.withTq (s : State) (c t : Nat) (f : Cluster → State) : State :=
  if (s.clu c).tqOwner = some t then f (s.clu c) else s.haltError c t causeEngOwner

def execTqwait (c : BitVec 8) (t : BitVec 3) (i : SFmt) (s : State) : Host.Outcome State Fault Refusal :=
  issueS c t i s (fun x s => s.withTq c.toNat t.toNat (fun k =>
    match k.tq with
    | e :: _ => s.setThr c.toNat t.toNat ((x.wr i.sd.toNat e.header).advance (sWords i))
    | [] => s.beginWait c.toNat t.toNat x .waitTq (.tq i.sd.toNat) (sWords i)))

def execTqpop (c : BitVec 8) (t : BitVec 3) (i : SFmt) (s : State) : Host.Outcome State Fault Refusal :=
  issueS c t i s (fun x s => s.withTq c.toNat t.toNat (fun k =>
    match k.tq with
    | _ :: es => (s.setClu c.toNat { k with tq := es }).setThr c.toNat t.toNat (x.advance (sWords i))
    | [] => s.haltError c.toNat t.toNat causeIllegal))

/-- Word `w` of a 256-byte load of a tile queue entry; bytes that the tile does not fill are free values (log 24). -/
def tqWord (s : State) (data : List Byte) (off w : Nat) : Nat :=
  if off + 8 * w + 8 ≤ data.length then leNat ((data.drop (off + 8 * w)).take 8) else (Config.freeWord (s.fresh + w)).toNat

/-- TQLD: 256 bytes of the head entry into VD. On an empty queue the spec names no error and no value: the bytes are free (log 24). -/
def execTqld (c : BitVec 8) (t : BitVec 3) (i : VFmt) (e : Ecc) (s : State) : Host.Outcome State Fault Refusal :=
  issueV c t i s (fun x s => s.withTq c.toNat t.toNat (fun k =>
    let off := (vImm i).toNat
    if off % 8 ≠ 0 then s.haltError c.toNat t.toNat causeAlign
    else if 3840 < off then s.haltError c.toNat t.toNat causeAddr
    else if e = .uncorrectable then s.clusterFault c.toNat .eccUe
    else
      let data := match k.tq with
        | h :: _ => h.data
        | [] => []
      let v := (List.range 32).foldl (fun a w => a + tqWord s data off w * 2 ^ (64 * w)) 0
      let s1 := (eccWords e).foldl (fun s _ => s.addSat F.CLU_ECC_STAT_TQ_CE 1 c.toNat) s
      { s1.setThr c.toNat t.toNat ({ x with vr := spPut 0 x.vr i.vd.toNat v }.advance (vWords i)) with fresh := s1.fresh + 32 }))

end Sys2Proof.Machine
end

