-- ==== Sys2Proof/Machine/Digest.lean ====
section
/-! DEFINITION. Configuration digests of pages and jobs, and the launch key (R13, R14, R368, R369). -/

namespace Sys2Proof.Machine

/-- What a read of a register sees of writes: the last one held, or else the register (R14, R16). -/
def State.regSeen (s : State) (b : Block) (off inst : Nat) : Word :=
  let a := regAddr b inst off
  match ((spGet [] s.holds (a / 4096)).filter (fun h => h.addr = a)).getLast? with
  | some h => h.value
  | none => s.regW b off inst

/-- The D-class fields of a block, and the offsets of their registers in ascending order. -/
def dFields (b : Block) : List FieldRow := (blockFields b).filter (fun r => r.dclass)
def dOffsets (b : Block) : List Nat := ((dFields b).map (fun r => r.off)).eraseDups

/-- A register's value with its I-class fields as zero. -/
def dMask (b : Block) (off v : Nat) : Nat :=
  (dFields b).foldl (fun a r => if r.off = off then setBits a r.hi r.lo (bitsOf v r.hi r.lo) else a) 0

/-- CFG_DIGEST of a page (R13). -/
def State.cfgDigest (s : State) (b : Block) (inst : Nat) : Word :=
  if (dOffsets b).isEmpty then 0
  else crc64 ((dOffsets b).flatMap (fun o => natLe 2 o ++ natLe 8 (dMask b o (s.regSeen b o inst).toNat)))

/-- Block type code (Table 00-11). -/
def blockType : Block → Nat
  | .glb => 0x01 | .prt => 0x02 | .aud => 0x03 | .cad => 0x04 | .pwr => 0x05 | .thm => 0x06 | .mgt => 0x07 | .sec => 0x08 | .lcs => 0x09
  | .clu => 0x10 | .slv => 0x11 | .lch => 0x12 | .hbm => 0x13 | .mov => 0x14 | .qmg => 0x15 | .fab => 0x20 | .hub => 0x21 | .chn => 0x22
  | .fio => 0x30 | .spo => 0x31

/-- The pages that an owner of a partition may read, in ascending base address (R20, Table 17-4). -/
def State.partPages (s : State) (p : Nat) : List (Block × Nat) :=
  let stackNums := (List.range 16).filter (fun t => (List.range 92).any (fun i => s.prtUnit p (92 * (t / 4) + i)))
  let view := s.getF F.PRT_GRANTS_FABRIC_VIEW p = 1
  [(.glb, 0), (.prt, p), (.cad, 0), (.pwr, 0), (.thm, 0)] ++
  ((List.range 256).filter (fun c => s.prtGroup p (c / 8))).map (fun c => (Block.clu, c)) ++
  ((List.range 64).filter (fun c => testBit (s.getF F.PRT_SLV_SET_CHANNELS p) c)).map (fun c => (Block.slv, c)) ++
  stackNums.map (fun t => (Block.lch, t)) ++ stackNums.map (fun t => (Block.hbm, t)) ++
  ((List.range 48).filter (fun c => testBit (s.getF F.PRT_MOV_SET_CHANNELS p) c)).map (fun c => (Block.mov, c)) ++ [(.qmg, 0)] ++
  (if view then (List.range 20).map (fun i => (Block.fab, i)) ++ [(.hub, 0), (.hub, 1)] else []) ++ [(.chn, 0), (.chn, 1)] ++
  (if s.getF F.PRT_GRANTS_FIO p = 1 then [(Block.fio, 0)] else []) ++ [(.spo, 0)]

/-- One window's bytes in the job's digest (R368). -/
def State.winBytes (s : State) (j i : Nat) : List Byte :=
  let w := s.window j i
  natLe 1 i ++ natLe 1 ((if w.valid then 128 else 0) + w.kind) ++ natLe 1 w.perm ++ natLe 5 0 ++ natLe 8 w.offBase ++ natLe 8 w.size

/-- GLB.CFG_DIGEST of a slot, 48 bytes (R368). -/
def State.jobDigest (s : State) (j : Nat) : List Byte :=
  let pages := match s.slotPart j with
    | some p => (s.partPages p).flatMap (fun g => natLe 2 (blockType g.1) ++ natLe 8 (s.cfgDigest g.1 g.2).toNat)
    | none => []
  sha384 (pages ++ (List.range 256).flatMap (s.winBytes j))

/-- Compatibility level (R2, R329). -/
abbrev compatLevel : Nat := 1

def State.progDigest (s : State) (j : Nat) : List Byte := (List.range 6).flatMap (fun i => natLe 8 (s.regW .cad (0xD8 + 8 * i) 0 j).toNat)
def State.wtsDigest (s : State) (j : Nat) : List Byte := (List.range 6).flatMap (fun i => natLe 8 (s.regW .cad (0x108 + 8 * i) 0 j).toNat)

/-- LAUNCH_KEY of a slot (R369). -/
def State.launchKey (s : State) (j : Nat) : Nat :=
  leNat ((sha384 (s.jobDigest j ++ natLe 1 compatLevel ++ natLe 8 (s.getF F.CAD_SEED_SEED 0 j) ++ s.progDigest j ++ s.wtsDigest j)).take 8)

end Sys2Proof.Machine
end

