-- ==== Sys2Proof/Machine/SporeCore.lean ====
section
/-! DEFINITION. Spore's messages and triggers (R378 to R380), as every unit whose warning is a trigger uses them. -/

namespace Sys2Proof.Machine

def State.sp (s : State) (j : Nat) : SporeSlot := spGet {} s.spore j
def State.setSp (s : State) (j : Nat) (x : SporeSlot) : State := { s with spore := spPut {} s.spore j x }
def State.jobX (s : State) (j : Nat) : JobX := spGet {} s.jobs j
def State.setJobX (s : State) (j : Nat) (x : JobX) : State := { s with jobs := spPut {} s.jobs j x }

/-! ### The tree (R364) -/

def State.isRoot (s : State) (j : Nat) : Bool := s.getF F.GLB_FROND_TREE_PARENT_VALID 0 j = 0
def State.parent (s : State) (j : Nat) : Nat := s.getF F.GLB_FROND_TREE_PARENT 0 j

/-- Ranks of the children, in order. -/
def State.kids (s : State) (j : Nat) : List Nat :=
  (List.range (Nat.min 16 (s.getF F.GLB_FROND_TREE_KIDS 0 j))).map (fun i =>
    let w := (s.regW .glb (0xB0 + 8 * (i / 3)) 0 j).toNat
    if i % 3 = 0 then bitsOf w 16 0 else if i % 3 = 1 then bitsOf w 37 21 else bitsOf w 58 42)

/-! ### Messages (Tables 15-2, 15-3) -/

abbrev mRequest : Nat := 0x01
abbrev mAnnounce : Nat := 0x02
abbrev mDrained : Nat := 0x03
abbrev mCapture : Nat := 0x04
abbrev mCaptured : Nat := 0x05
abbrev mResume : Nat := 0x06
abbrev mPartDone : Nat := 0x07
abbrev mCommitted : Nat := 0x08
abbrev mAbandoned : Nat := 0x09
abbrev mRecorded : Nat := 0x0A
abbrev mGenReady : Nat := 0x0B
abbrev mFilled : Nat := 0x0C
abbrev mRestoreResume : Nat := 0x0D
abbrev mReplayResult : Nat := 0x0E
abbrev mVerdict : Nat := 0x0F

def SporeMsg.fail (m : SporeMsg) : Bool := testBit m.flags 0

def SporeMsg.bytes (m : SporeMsg) : List Byte :=
  natLe 1 m.kind ++ natLe 1 m.flags ++ natLe 1 m.cause ++ natLe 1 0 ++ natLe 4 m.count ++ natLe 8 m.gen ++ natLe 8 m.tick ++
  natLe 8 m.key ++ natLe 8 m.value ++ natLe 8 m.cost ++ natLe 8 m.copy ++ natLe 8 0

def SporeMsg.ofBytes (b : List Byte) : SporeMsg :=
  let f := fun i n => leNat ((b.drop i).take n)
  { kind := f 0 1, flags := f 1 1, cause := f 2 1, count := f 4 4, gen := f 8 8, tick := f 16 8, key := f 24 8, value := f 32 8
    cost := f 40 8, copy := f 48 8 }

/-- The generation in progress. -/
def State.curGen (s : State) (j : Nat) : Nat :=
  if (s.sp j).restoring then s.getF F.SPO_RESTORE_GEN_GEN 0 j else s.getF F.SPO_GEN_LAST_GEN 0 j

/-- A message of the member's own, with nothing but its kind and generation. -/
def State.sporeMsg (s : State) (j kind : Nat) : SporeMsg :=
  { kind := kind, flags := 0, cause := 0, count := if kind = mDrained || kind = mCaptured || kind = mPartDone || kind = mRecorded || kind = mFilled || kind = mReplayResult || kind = mRequest then 1 else 0
    gen := s.curGen j, tick := 0, key := s.launchKey j, value := 0, cost := 0, copy := 0 }

/-- Address of the mailbox (R378). -/
def State.mailbox (s : State) (j : Nat) : Nat := 4096 * s.getF F.SPO_MAILBOX_ADDR 0 j

/-- One STORE cell on TC5 through window 254 to a rank's mailbox (R378). -/
def State.sporeCell (s : State) (j rank off : Nat) (bs : List Byte) : State :=
  let w := s.window j 254
  let a := 2 ^ 40 * rank + (w.offBase + off) % 2 ^ 40
  match s.checkSend (s.slotPart j) a 64 (.store bs) with
  | some (slot, _, _) => s.sendAccess slot 0 5 254 w a 64 (.store bs) (.spore j rank) (none, none, none)
  | none => s

/-- Sends the first message that waits for a receiver whose previous message is acknowledged; none where there is none. -/
def State.sporeNext (s : State) (j : Nat) : Option State :=
  let x := s.sp j
  match x.outbox.find? (fun m => !x.busy.contains m.1) with
  | none => none
  | some (rank, off, bs) => some ((s.setSp j { x with outbox := x.outbox.erase (rank, off, bs), busy := rank :: x.busy }).sporeCell j rank off bs)

/-- Sends what waits for receivers whose previous message is acknowledged (R378): at most `n`. -/
def State.sporeFlush (s : State) (j : Nat) : Nat → State
  | 0 => s
  | n + 1 =>
    match s.sporeNext j with
    | none => s
    | some s1 => s1.sporeFlush j n

def State.sporeSend (s : State) (j rank off : Nat) (m : SporeMsg) : State :=
  let x := s.sp j
  (s.setSp j { x with outbox := x.outbox ++ [(rank, off, m.bytes)] }).sporeFlush j 17

/-- A message to the parent, at the place of its kind. -/
def State.sendUp (s : State) (j : Nat) (m : SporeMsg) : State :=
  let i := s.getF F.SPO_TREE_INDEX 0 j
  s.sporeSend j (s.parent j) ((if m.kind = mRequest then 0x800 else 0) + 64 * i) m

/-- A message to every child. -/
def State.sendDown (s : State) (j : Nat) (m : SporeMsg) : State :=
  (s.kids j).foldl (fun s r => s.sporeSend j r 0x400 m) s

/-! ### Requests (R379, R380) -/

/-- Whether the root accepts a request now. -/
def State.canAnnounce (s : State) (j : Nat) : Bool :=
  let x := s.sp j
  x.stage = 0 && !x.genWait && x.down.isNone && s.slotState j = slotAccepting && !s.faulted j

/-- The root takes a held request: GEN and Q, and its ANNOUNCE. -/
def State.rootAccept (s : State) (j : Nat) : State :=
  let x := s.sp j
  if x.held && s.canAnnounce j then
    let g := s.getF F.SPO_GEN_LAST_GEN 0 j + 1
    let m := { s.sporeMsg j mAnnounce with gen := g, tick := s.cad + 1000 * s.getF F.SPO_LEAD_US 0 j }
    s.setSp j { x with held := false, down := some m }
  else s

/-- A member raises a REQUEST. -/
def State.raiseRequest (s : State) (j : Nat) : State :=
  let x := s.sp j
  if s.isRoot j then (s.setSp j { x with held := true }).rootAccept j
  else if x.forwarded then s
  else (s.setSp j { x with forwarded := true }).sendUp j (s.sporeMsg j mRequest)

/-- Triggers by their bit of TRIG_EN: 0 policy, 1 corrected errors, 2 link retries, 3 regulators, 4 temperature. -/
def State.triggerSlot (s : State) (j bit : Nat) : State :=
  let x := s.sp j
  let gapOk := bit = 0 || s.getF F.SPO_COMMIT_TICK_TICK 0 j = 0 || decide (x.lastResume + msec * s.getF F.SPO_MIN_GAP_MS 0 j ≤ s.cad)
  if s.getF F.SPO_SLOT_CTRL_EN 0 j = 1 && testBit (s.getF F.SPO_SLOT_CTRL_TRIG_EN 0 j) bit && gapOk && s.slotState j = slotAccepting then
    s.raiseRequest j
  else s

/-- The temperature warning is judged against each slot's own threshold; its count is the slot's (warning 4 + 8 (slot + 1)). -/
def State.tempWarn (s : State) (old new : Int) : State :=
  slotNums.foldl (fun s j =>
    let w : Int := s.getF F.SPO_TREND_WARN_MC_PER_S 0 j
    if w < new then
      let s1 := if old ≤ w then { s with warnings := (4 + 8 * (j + 1), s.now) :: s.warnings } else s
      s1.triggerSlot j 4
    else s) s

/-- A warning's condition became true: it is counted for the hazard (R393), and it is a trigger of every slot. -/
def State.sporeWarn (s : State) (bit : Nat) : State :=
  slotNums.foldl (fun s j => s.triggerSlot j bit)
    { s with warnings := (bit, s.now) :: s.warnings.filter (fun w => decide (s.now < 86400000000000 + w.2)) }

end Sys2Proof.Machine
end

