-- ==== Sys2Proof/Machine/Ecc.lean ====
section
/-! DEFINITION. ECC of the stacks (R108, R207 to R209) and what the reads of an engine report: corrections, their rate and its warning, and
uncorrectable words of data and of checksums. -/

namespace Sys2Proof.Machine

/-- Corrections of a stack in the last 3,600 s (R209, HBM.CE_RATE). -/
def State.ceRate (s : State) (st : Nat) : Nat :=
  (s.ceTimes.filter (fun e => e.1 = st && decide (s.now < 3600000000000 + e.2))).length

/-- A correction enters the rate; a rate above CE_WARN sets CE_RISING and, as it sets it, raises the warning that Spore uses (R209). -/
def State.countCe (s : State) (st : Nat) : State :=
  let s1 := { s with ceTimes := (st, s.now) :: s.ceTimes.filter (fun e => decide (s.now < 3600000000000 + e.2)) }
  let s2 := s1.setF F.HBM_CE_RATE_PER_HOUR (s1.ceRate st) st
  if s2.ceRate st ≤ s2.getF F.HBM_CTRL_CE_WARN st then s2
  else
    let was := s2.getF F.HBM_ERR_CE_RISING st = 1
    let s3 := s2.setErr F.HBM_ERR_CE_RISING st
    if was then s3 else s3.sporeWarn 1

/-- Records a corrected HBM line (R207); a row that takes 8 controller corrections within 24 hours is recorded for repair (R460). -/
def State.hbmCeAt (s : State) (st off : Nat) (symbol : Bool) : State :=
  let s1 := ((s.addSat (if symbol then F.HBM_CE_CNT_CTRL else F.HBM_CE_CNT_ONDIE) 1 st).setF F.HBM_CE_ADDR_OFFSET off st).countCe st
  if symbol then
    let k := rowKey off
    let log := (st, k, s.now) :: s1.ceLog.filter (fun e => decide (s.now < 86400000000000 + e.2.2))
    let s2 := { s1 with ceLog := log }
    if 8 ≤ (log.filter (fun e => e.1 = st && e.2.1 = k)).length then s2.recordRow st k else s2
  else s1

def State.hbmCe (s : State) (a : Nat) (symbol : Bool) : State := s.hbmCeAt (stackOf a) (stackOffset a) symbol

/-- Stack offset of the checksum word of a tile. The spec puts the checksum array into the system region (R188) and gives no place there: where it
begins is a free value (log 106). -/
def sumOffset (t : Nat) : Nat := Config.sumBase.toNat + 8 * (stackOffset (4096 * t) / 4096)

/-- The HBM unit whose tiles' data, or whose checksum words, lie at a stack offset; none elsewhere in the system region (R186, R188). -/
def unitOfOffset (st off : Nat) : Option Nat :=
  if off < 23 * gib then some (92 * (st / 4) + off / 2 ^ 28)
  else if Config.sumBase.toNat ≤ off && (off - Config.sumBase.toNat) / 8 * 4096 < 23 * gib then
    some (92 * (st / 4) + (off - Config.sumBase.toNat) / 8 * 4096 / 2 ^ 28)
  else none

/-- A line or checksum word of a stack that neither code corrects (R108, R208): the fault of every job that holds the unit. -/
def State.hbmUeOff (s : State) (st off : Nat) : State :=
  match unitOfOffset st off with
  | some u => (s.hbmUeAt st off).faultUnit u .eccUe
  | none => s.hbmUeAt st off

/-- One outcome at a stack offset. -/
def State.eccOff (s : State) (st off : Nat) (e : Ecc) : State :=
  match e with
  | .corrected => s.hbmCeAt st off false
  | .symbol => s.hbmCeAt st off true
  | .uncorrectable => s.hbmUeOff st off
  | _ => s

/-- One outcome of an engine's read. -/
def State.eccHit (s : State) (h : EccHit) : State :=
  match h.place with
  | .hbm a => s.eccOff (stackOf a.toNat) (stackOffset a.toNat) h.ecc
  | .sum a => s.eccOff (stackOf a.toNat) (sumOffset (a.toNat / 4096)) h.ecc
  | .spad c a => if h.ecc = .uncorrectable then s.clusterFault c.toNat .eccUe else if h.ecc = .clean then s else s.spadCe c.toNat a.toNat
  | .unit => s

/-- Whether an outcome lies on a range of HBM that a read covers: its lines, and the checksum words of its tiles where it verifies. -/
def hitOn (h : EccHit) (verify : Bool) (r : Nat × Nat) : Bool :=
  r.2 ≠ 0 && (match h.place with
  | .hbm a => decide (r.1 / 64 ≤ a.toNat / 64) && decide (a.toNat / 64 ≤ (r.1 + r.2 - 1) / 64)
  | .sum a => verify && decide (r.1 / 4096 ≤ a.toNat / 4096) && decide (a.toNat / 4096 ≤ (r.1 + r.2 - 1) / 4096)
  | .spad _ _ => false
  | .unit => false)

/-- The outcomes that lie on ranges read; a verifying read covers whole tiles (R111). -/
def eccOn (es : List EccHit) (verify : Bool) (rs : List (Nat × Nat)) : List EccHit :=
  let cover := fun (r : Nat × Nat) => if verify && r.2 ≠ 0 then (r.1 / 4096 * 4096, (r.1 + r.2 - 1) / 4096 * 4096 + 4096 - r.1 / 4096 * 4096) else r
  es.filter (fun h => rs.any (fun r => hitOn h verify (cover r)))

/-- Whether a word of the unit that runs the command was uncorrectable. -/
def unitBad (es : List EccHit) : Bool := es.any (fun h => h.place = .unit && h.ecc = .uncorrectable)

/-- Records outcomes, in order. -/
def State.eccHits (s : State) (es : List EccHit) : State := es.foldl State.eccHit s

/-- Whether a read ends without its data. -/
def eccBad (es : List EccHit) : Bool := es.any (fun h => h.ecc = .uncorrectable)

end Sys2Proof.Machine
end

