-- ==== Sys2Proof/Machine/Conv.lean ====
section
/-! DEFINITION. Conversions between the format codes of Table 03-3, and MX rows in memory (R96, R101 to R106). -/

namespace Sys2Proof.Machine

def isMx (code : Nat) : Bool := decide (4 ≤ code) && decide (code ≤ 9)

/-- The IEEE format of codes 0x0 to 0x3. -/
def ieeeFmt : Nat → Fmt
  | 0 => fp64
  | 1 => fp32
  | 2 => bf16
  | _ => fp16

/-- Width in bits of an element of a code. -/
def codeWidth (code : Nat) : Nat :=
  if code < 4 then (ieeeFmt code).width else if isMx code then mxWidth code else 8 * 2 ^ (code - 10)

/-- The value of an element of an IEEE or integer code. -/
def codeVal (code b : Nat) : Fv := if code < 4 then fpVal (ieeeFmt code) b else intVal (codeWidth code) b

/-- Converts a value to an IEEE or integer code (Table 04-7). -/
def convTo (code : Nat) (rnd : Rnd) (x : Fv) : Nat × Nat :=
  if code < 4 then convIeee (ieeeFmt code) rnd x else convInt (codeWidth code) rnd x

/-- Whether Table 04-6 has the pair; sources are codes 0x0 to 0x3 and 0xA to 0xD. -/
def convPair (src dst : Nat) : Bool :=
  (decide (src < 4) || (decide (10 ≤ src) && decide (src ≤ 13))) && decide (dst ≤ 13) && (!isMx dst || decide (src < 2))

/-- The bits of a list of elements of `w` bits, packed little-endian. -/
def packBits (w : Nat) (es : List Nat) : Nat := (es.foldr (fun e a => a * 2 ^ w + e % 2 ^ w) 0)

/-- Groups of at most `n` elements. -/
def chunks {α : Type} (n : Nat) : Nat → List α → List (List α)
  | 0, _ => []
  | _, [] => []
  | fuel + 1, xs => xs.take n :: chunks n fuel (xs.drop n)

/-- One MX row (R96): writes as (byte offset in the row, bytes), and flags. The last block is padded with +0 (R83, R224); `rnd i`
rounds element `i` of the row, padding counted. -/
def mxRow (code : Nat) (rnd : Nat → Rnd) (vs : List Fv) : List (Nat × List Byte) × Nat :=
  let e := mxWidth code
  let blocks := chunks 32 (vs.length + 1) vs
  let conv := (List.range blocks.length).map (fun b =>
    let vb := (blocks[b]?).getD []
    let r := mxBlock code (fun i => rnd (32 * b + i)) (vb ++ List.replicate (32 - vb.length) (.fin false 0 0))
    (r.1, r.2.1.take vb.length, r.2.2))
  let groups := chunks 8 (conv.length + 1) conv
  let ws := (List.range groups.length).map (fun g =>
    let cs := (groups[g]?).getD []
    let es := cs.flatMap (fun c => c.2.1)
    [(g * mxGroup code, natLe ((es.length * e + 7) / 8) (packBits e es)),
     (g * mxGroup code + 32 * e, cs.map (fun c => BitVec.ofNat 8 c.1))])
  (ws.flatten, conv.foldl (fun a c => a ||| c.2.2) 0)

/-- Bytes of an IEEE or integer row, packed at the code's width, and flags. -/
def ieeeRow (code : Nat) (rnd : Nat → Rnd) (vs : List Fv) : List Byte × Nat :=
  let rs := (List.range vs.length).map (fun i => convTo code (rnd i) ((vs[i]?).getD (.fin false 0 0)))
  (rs.flatMap (fun r => natLe (codeWidth code / 8) r.1), rs.foldl (fun a r => a ||| r.2) 0)

end Sys2Proof.Machine
end

