-- ==== Sys2Proof/Machine/Dot.lean ====
section
/-! DEFINITION. The defined dot product (R122 to R128): the steps, and operand rows in memory. -/

namespace Sys2Proof.Machine

/-- An exact sum of finite values. -/
def dySum (vs : List Fv) : Dy := vs.foldl (fun a v => dyAdd a (fvDy v)) (0, 0)

def Fv.isInf : Fv → Bool
  | .inf _ => true
  | _ => false

def Fv.isZero : Fv → Bool
  | .fin _ m _ => m = 0
  | _ => false

/-- The first four rows of Table 05-4, and its zero row: a special result and its flag, or the finite terms' exact sum. `extra`
joins the exact sum only (the lo part of a pair). -/
def dotSpecial (cs : List Fv) (ts : List (Fv × Fv)) (extra : List Fv) : Fv × Nat × Bool :=
  let ops := ts.flatMap (fun p => [p.1, p.2])
  let prods := ts.map (fun p => (fvMul p.1 p.2).1)
  let all := cs ++ prods
  if cs.any Fv.isNan || ops.any Fv.isNan then (.nan false, if ops.any Fv.isSig then flInvalid else 0, true)
  else if ts.any (fun p => (p.1.isInf && p.2.isZero) || (p.1.isZero && p.2.isInf)) then (.nan false, flInvalid, true)
  else if all.any (fun v => v.isInf && v.isNeg) && all.any (fun v => v.isInf && !v.isNeg) then (.nan false, flInvalid, true)
  else if all.any Fv.isInf then (.inf (all.any (fun v => v.isInf && v.isNeg)), 0, true)
  else
    let s := dySum (all ++ extra)
    if s.1 = 0 then (.fin (all.all (fun v => v.isZero && v.isNeg)) 0 0, 0, true)
    else (dyToFv false s, 0, false)

/-- One step of R123: accumulator bits and flags. -/
def dotStep (f : Fmt) (c : Nat) (ts : List (Fv × Fv)) : Nat × Nat :=
  let r := dotSpecial [fpVal f c] ts []
  let q := convIeee f (.mode .rne) r.1
  (q.1, if r.2.2 then r.2.1 else q.2)

/-- R124, R125: steps in ascending k over groups of terms. -/
def dotGroups (f : Fmt) (c : Nat) (gs : List (List (Fv × Fv))) : Nat × Nat :=
  gs.foldl (fun a g => let r := dotStep f a.1 g; (r.1, a.2 ||| r.2)) (c, 0)

def dotIeee (f : Fmt) (n c : Nat) (ts : List (Fv × Fv)) : Nat × Nat := dotGroups f c (chunks n (ts.length + 1) ts)

/-- One FP64X2 step (R127): the pair's encodings, and flags. -/
def dotPairStep (hl : Nat × Nat) (ts : List (Fv × Fv)) : (Nat × Nat) × Nat :=
  let r := dotSpecial [fpVal fp64 hl.1] ts [fpVal fp64 hl.2]
  let t := convIeee fp64 (.mode .rne) r.1
  if r.2.2 then ((t.1, 0), r.2.1)
  else if !(fpVal fp64 t.1).isFin then ((t.1, 0), flOverflow)
  else
    let tv := fvDy (fpVal fp64 t.1)
    let u := convIeee fp64 (.mode .rne) (dyToFv r.1.isNeg (dyAdd (fvDy r.1) (-tv.1, tv.2)))
    let p := pairNorm t.1 u.1
    (p.1, (u.2 &&& (flInexact + flUnderflow)) ||| p.2)

def dotPair (hl : Nat × Nat) (ts : List (Fv × Fv)) : (Nat × Nat) × Nat :=
  (chunks 4 (ts.length + 1) ts).foldl (fun a g => let r := dotPairStep a.1 g; (r.1, a.2 ||| r.2)) (hl, 0)

/-- An MX operand row: element values, and scale codes by block. -/
abbrev MxOperand := List Fv × List Nat

/-- The block value p of R126. -/
def mxBlockValue (ts : List (Fv × Fv)) (xa xb : Nat) : Nat × Nat :=
  if xa = 0xFF || xb = 0xFF then (fp32.qnan, 0) else
  let r := dotSpecial [] ts []
  if r.2.2 then ((convIeee fp32 (.mode .rne) r.1).1, r.2.1)
  else
    match r.1 with
    | .fin n m e => convIeee fp32 (.mode .rne) (.fin n m (e + (xa : Int) - 127 + (xb : Int) - 127))
    | v => convIeee fp32 (.mode .rne) v

/-- R126: blocks of 32 in ascending order. -/
def dotMx (c : Nat) (a b : MxOperand) : Nat × Nat :=
  let bs := chunks 32 (a.1.length + 1) (a.1.zip b.1)
  (List.range bs.length).foldl (fun (r : Nat × Nat) k =>
    let p := mxBlockValue ((bs[k]?).getD []) ((a.2[k]?).getD 0) ((b.2[k]?).getD 0)
    let q := fpAdd fp32 .rne r.1 p.1
    (q.1, r.2 ||| p.2 ||| q.2)) (c, 0)

/-- Bytes that a row of `k` elements occupies (R96, R120). A short last MX group counts whole: whether an operation reads, and so verifies, the
meaningless bytes of such a group is open (R111; log 101). -/
def rowBytes (code k : Nat) : Nat := if isMx code then (k + 255) / 256 * mxGroup code else k * (codeWidth code / 8)

/-- Reads a row of `k` elements, given its bytes as a number. -/
def ieeeOperand (code k row : Nat) : List Fv :=
  (List.range k).map (fun i => fpVal (ieeeFmt code) ((row >>> (codeWidth code * i)) % 2 ^ codeWidth code))

def mxOperand (code k row : Nat) : MxOperand :=
  ((List.range k).map (fun i => mxElemVal code ((row >>> mxElemBit code i) % 2 ^ mxWidth code)),
   (List.range ((k + 31) / 32)).map (fun b => (row >>> (8 * mxScaleByte code (32 * b))) % 256))

end Sys2Proof.Machine
end

