-- ==== Sys2Proof/Machine/Vector.lean ====
section
/-! DEFINITION. The vector instructions (chapter 03) but for the epilogue. -/

namespace Sys2Proof.Machine

/-! ### Elements, length and predicates (R67 to R71) -/

def ewWidth (ew : Nat) : Nat := if ew < 4 then 8 * 2 ^ ew else if ew = 4 then 64 else if ew = 5 then 32 else 16
def vlMax (ew : Nat) : Nat := 2048 / ewWidth ew
/-- The format code (Table 03-3) of an EW. -/
def ewCode (ew : Nat) : Nat := if ew < 4 then 10 + ew else ew - 4

def vElem (w v i : Nat) : Nat := (v >>> (w * i)) % 2 ^ w

def Thread.rdV (x : Thread) (r : Nat) : Nat := spGet 0 x.vr r
def Thread.wrV (x : Thread) (r v : Nat) : Thread := { x with vr := spPut 0 x.vr r v }
/-- p0 reads as all ones, and writes to it are ignored (R69). -/
def Thread.rdP (x : Thread) (r : Nat) : Nat := if r % 8 = 0 then 2 ^ 256 - 1 else spGet 0 x.pr (r % 8)
def Thread.wrP (x : Thread) (r v : Nat) : Thread := if r % 8 = 0 then x else { x with pr := spPut 0 x.pr (r % 8) v }

/-- Effective length (R68). -/
def effLen (x : Thread) (ew : Nat) : Nat := Nat.min x.vl (vlMax ew)
/-- Bit of the governing predicate (R69). -/
def predBit (x : Thread) (i : VFmt) (k : Nat) : Bool := testBit (x.rdP i.pg.toNat) k != i.pn
def active (x : Thread) (i : VFmt) (k : Nat) : Bool := decide (k < effLen x i.ew.toNat) && predBit x i k

/-- The broadcast immediate of operand B (R71). The rule gives none for BF16 and FP16, which take a free value (log 25). -/
def vImmB (s : State) (i : VFmt) : Nat :=
  let ew := i.ew.toNat
  let w := ewWidth ew
  if ew < 4 then (vImm i).toNat % 2 ^ w
  else if ew = 4 then
    match i.ext with
    | some e => e.toNat
    | none => widen32 fp64 (i.imm.toNat * 256)
  else if ew = 5 then
    match i.ext with
    | some e => e.toNat % 2 ^ 32
    | none => i.imm.toNat * 256
  else (Config.freeWord s.fresh).toNat % 2 ^ w

/-- Element `k` of operand B. -/
def vOpB (s : State) (x : Thread) (i : VFmt) (k : Nat) : Nat :=
  if i.ims then vImmB s i else vElem (ewWidth i.ew.toNat) (x.rdV i.vb.toNat) k

/-- Writes the elements for which `act` holds; the others keep their values (R70). The flags are those of the elements written. -/
def vMap (w n : Nat) (act : Nat → Bool) (old : Nat) (f : Nat → Nat × Nat) : Nat × Nat :=
  (List.range n).foldl (fun a k =>
    let r := if act k then f k else (vElem w old k, 0)
    (a.1 + (r.1 % 2 ^ w) * 2 ^ (w * k), a.2 ||| r.2)) (0, 0)

/-- Accepted formats (Table 03-1). -/
def ewInt (ew : Nat) : Bool := decide (ew < 4)
def ewFp (ew : Nat) : Bool := ew = 4 || ew = 5
def ewArith (ew : Nat) : Bool := decide (ew < 6)

/-- Issues a vector instruction whose EW must be accepted. -/
def vecOp (c : BitVec 8) (t : BitVec 3) (i : VFmt) (s : State) (ok : Nat → Bool) (f : Thread → State → State) : Host.Outcome State Fault Refusal :=
  issueV c t i s (fun x s => if ok i.ew.toNat then f x s else s.haltError c.toNat t.toNat causeIllegal)

/-- An instruction that writes the active elements of VD, each from its index, operand A, operand B and its old value. -/
def elemOp (c : BitVec 8) (t : BitVec 3) (i : VFmt) (s : State) (ok : Nat → Bool) (f : Thread → Nat → Nat → Nat → Nat → Nat × Nat) :
    Host.Outcome State Fault Refusal :=
  vecOp c t i s ok (fun x s =>
    let w := ewWidth i.ew.toNat
    let old := x.rdV i.vd.toNat
    let va := x.rdV i.va.toNat
    let r := vMap w (vlMax i.ew.toNat) (active x i) old (fun k => f x k (vElem w va k) (vOpB s x i k) (vElem w old k))
    { s.setThr c.toNat t.toNat (((x.wrV i.vd.toNat r.1).raise r.2).advance (vWords i)) with
      fresh := if i.ims && !ewArith i.ew.toNat then s.fresh + 1 else s.fresh })

/-! ### Integer, OPC 0x20 -/

def vIntOp (c : BitVec 8) (t : BitVec 3) (i : VFmt) (s : State) (f : Nat → Nat → Nat → Nat) : Host.Outcome State Fault Refusal :=
  elemOp c t i s ewInt (fun _ _ a b _ => (f (ewWidth i.ew.toNat) a b, 0))

def execVadd (c : BitVec 8) (t : BitVec 3) (i : VFmt) (s : State) := vIntOp c t i s (fun _ a b => a + b)
def execVsub (c : BitVec 8) (t : BitVec 3) (i : VFmt) (s : State) := vIntOp c t i s (fun w a b => a + 2 ^ w - b)
def execVmul (c : BitVec 8) (t : BitVec 3) (i : VFmt) (s : State) := vIntOp c t i s (fun _ a b => a * b)
def execVmin (c : BitVec 8) (t : BitVec 3) (i : VFmt) (s : State) :=
  vIntOp c t i s (fun w a b => if toSigned w a ≤ toSigned w b then a else b)
def execVmax (c : BitVec 8) (t : BitVec 3) (i : VFmt) (s : State) :=
  vIntOp c t i s (fun w a b => if toSigned w a ≤ toSigned w b then b else a)
def execVminu (c : BitVec 8) (t : BitVec 3) (i : VFmt) (s : State) := vIntOp c t i s (fun _ a b => if a ≤ b then a else b)
def execVmaxu (c : BitVec 8) (t : BitVec 3) (i : VFmt) (s : State) := vIntOp c t i s (fun _ a b => if a ≤ b then b else a)
def execVand (c : BitVec 8) (t : BitVec 3) (i : VFmt) (s : State) := vIntOp c t i s (fun _ a b => a &&& b)
def execVor (c : BitVec 8) (t : BitVec 3) (i : VFmt) (s : State) := vIntOp c t i s (fun _ a b => a ||| b)
def execVxor (c : BitVec 8) (t : BitVec 3) (i : VFmt) (s : State) := vIntOp c t i s (fun _ a b => a ^^^ b)
def execVsll (c : BitVec 8) (t : BitVec 3) (i : VFmt) (s : State) := vIntOp c t i s (fun w a b => a * 2 ^ (b % w))
def execVsrl (c : BitVec 8) (t : BitVec 3) (i : VFmt) (s : State) := vIntOp c t i s (fun w a b => a >>> (b % w))
def execVsra (c : BitVec 8) (t : BitVec 3) (i : VFmt) (s : State) :=
  vIntOp c t i s (fun w a b => ofSigned w (toSigned w a / 2 ^ (b % w)))
/-- VIDX: vd[i] = s(VA) + i. -/
def execVidx (c : BitVec 8) (t : BitVec 3) (i : VFmt) (s : State) :=
  elemOp c t i s ewInt (fun x k _ _ _ => ((x.rd i.va.toNat).toNat + k, 0))

/-! ### Floating point, OPC 0x21 (R72) -/

/-- The FP format of EW 0b100 and 0b101. -/
def ewFmt (ew : Nat) : Fmt := if ew = 4 then fp64 else fp32

def vFpOp (c : BitVec 8) (t : BitVec 3) (i : VFmt) (s : State) (f : Fmt → Rm → Nat → Nat → Nat → Nat × Nat) : Host.Outcome State Fault Refusal :=
  elemOp c t i s ewFp (fun x _ a b d => f (ewFmt i.ew.toNat) x.mode a b d)

def execVfadd (c : BitVec 8) (t : BitVec 3) (i : VFmt) (s : State) := vFpOp c t i s (fun f m a b _ => fpAdd f m a b)
def execVfsub (c : BitVec 8) (t : BitVec 3) (i : VFmt) (s : State) := vFpOp c t i s (fun f m a b _ => fpSub f m a b)
def execVfmul (c : BitVec 8) (t : BitVec 3) (i : VFmt) (s : State) := vFpOp c t i s (fun f m a b _ => fpMul f m a b)
def execVfma (c : BitVec 8) (t : BitVec 3) (i : VFmt) (s : State) := vFpOp c t i s (fun f m a b d => fpFma f m a b d)
def execVfdiv (c : BitVec 8) (t : BitVec 3) (i : VFmt) (s : State) := vFpOp c t i s (fun f m a b _ => fpDiv f m a b)
def execVfsqrt (c : BitVec 8) (t : BitVec 3) (i : VFmt) (s : State) := vFpOp c t i s (fun f m a _ _ => fpSqrt f m a)
def execVfmin (c : BitVec 8) (t : BitVec 3) (i : VFmt) (s : State) := vFpOp c t i s (fun f _ a b _ => fpMin f a b)
def execVfmax (c : BitVec 8) (t : BitVec 3) (i : VFmt) (s : State) := vFpOp c t i s (fun f _ a b _ => fpMax f a b)
def execVfabs (c : BitVec 8) (t : BitVec 3) (i : VFmt) (s : State) := vFpOp c t i s (fun f _ a _ _ => (a % f.signBit, 0))
def execVfneg (c : BitVec 8) (t : BitVec 3) (i : VFmt) (s : State) := vFpOp c t i s (fun f _ a _ _ => (a ^^^ f.signBit, 0))

/-! ### Compares and predicates, OPC 0x22 -/

/-- A compare: bit i for each active element, 0 elsewhere (R70); VD[4:3] must be 0. -/
def cmpOp (c : BitVec 8) (t : BitVec 3) (i : VFmt) (s : State) (ok : Nat → Bool) (fi : Nat → Nat → Nat → Bool) (ff : Fmt → Nat → Nat → Bool × Nat) :
    Host.Outcome State Fault Refusal :=
  vecOp c t i s (fun ew => ok ew && decide (i.vd.toNat < 8)) (fun x s =>
    let ew := i.ew.toNat
    let w := ewWidth ew
    let va := x.rdV i.va.toNat
    let r := vMap 1 256 (active x i) 0 (fun k =>
      let a := vElem w va k
      let b := vOpB s x i k
      if ewInt ew then (if fi w a b then 1 else 0, 0)
      else let q := ff (ewFmt ew) a b; (if q.1 then 1 else 0, q.2))
    s.setThr c.toNat t.toNat (((x.wrP i.vd.toNat r.1).raise r.2).advance (vWords i)))

def noFp : Fmt → Nat → Nat → Bool × Nat := fun _ _ _ => (false, 0)

def execVcmpeq (c : BitVec 8) (t : BitVec 3) (i : VFmt) (s : State) := cmpOp c t i s ewArith (fun _ a b => a = b) fpEq
def execVcmpne (c : BitVec 8) (t : BitVec 3) (i : VFmt) (s : State) :=
  cmpOp c t i s ewArith (fun _ a b => a ≠ b) (fun f a b => (!(fpEq f a b).1, (fpEq f a b).2))
def execVcmplt (c : BitVec 8) (t : BitVec 3) (i : VFmt) (s : State) := cmpOp c t i s ewArith (fun w a b => toSigned w a < toSigned w b) fpLt
def execVcmple (c : BitVec 8) (t : BitVec 3) (i : VFmt) (s : State) := cmpOp c t i s ewArith (fun w a b => toSigned w a ≤ toSigned w b) fpLe
def execVcmpltu (c : BitVec 8) (t : BitVec 3) (i : VFmt) (s : State) := cmpOp c t i s ewInt (fun _ a b => a < b) noFp
def execVcmpleu (c : BitVec 8) (t : BitVec 3) (i : VFmt) (s : State) := cmpOp c t i s ewInt (fun _ a b => a ≤ b) noFp
def execVcmpun (c : BitVec 8) (t : BitVec 3) (i : VFmt) (s : State) := cmpOp c t i s ewFp (fun _ _ _ => false) fpUn

/-- Predicate logic on all 256 bits; VL and PG do not apply, and the class does not accept BF16 and FP16 (Table 03-1). -/
def predOp (c : BitVec 8) (t : BitVec 3) (i : VFmt) (s : State) (f : Nat → Nat → Nat) : Host.Outcome State Fault Refusal :=
  vecOp c t i s ewArith (fun x s =>
    s.setThr c.toNat t.toNat ((x.wrP i.vd.toNat (f (x.rdP i.va.toNat) (x.rdP i.vb.toNat))).advance (vWords i)))

def execPand (c : BitVec 8) (t : BitVec 3) (i : VFmt) (s : State) := predOp c t i s (fun a b => a &&& b)
def execPor (c : BitVec 8) (t : BitVec 3) (i : VFmt) (s : State) := predOp c t i s (fun a b => a ||| b)
def execPxor (c : BitVec 8) (t : BitVec 3) (i : VFmt) (s : State) := predOp c t i s (fun a b => a ^^^ b)
def execPnot (c : BitVec 8) (t : BitVec 3) (i : VFmt) (s : State) := predOp c t i s (fun a _ => a ^^^ (2 ^ 256 - 1))

/-! ### Permutes, OPC 0x23 -/

def anyEw : Nat → Bool := fun _ => true

def activeList (x : Thread) (i : VFmt) : List Nat := (List.range (vlMax i.ew.toNat)).filter (active x i)

/-- VCOMPRESS (R76): active elements of va to elements 0 .. k − 1. -/
def execVcompress (c : BitVec 8) (t : BitVec 3) (i : VFmt) (s : State) : Host.Outcome State Fault Refusal :=
  vecOp c t i s anyEw (fun x s =>
    let w := ewWidth i.ew.toNat
    let as := activeList x i
    let r := vMap w (vlMax i.ew.toNat) (fun k => k < as.length) (x.rdV i.vd.toNat)
      (fun k => (vElem w (x.rdV i.va.toNat) ((as[k]?).getD 0), 0))
    s.setThr c.toNat t.toNat ((x.wrV i.vd.toNat r.1).advance (vWords i)))

/-- VEXPAND (R76): va[j] to the j-th active element. -/
def execVexpand (c : BitVec 8) (t : BitVec 3) (i : VFmt) (s : State) : Host.Outcome State Fault Refusal :=
  vecOp c t i s anyEw (fun x s =>
    let w := ewWidth i.ew.toNat
    let as := activeList x i
    let r := vMap w (vlMax i.ew.toNat) (active x i) (x.rdV i.vd.toNat)
      (fun k => (vElem w (x.rdV i.va.toNat) ((as.filter (· < k)).length), 0))
    s.setThr c.toNat t.toNat ((x.wrV i.vd.toNat r.1).advance (vWords i)))

/-- VSEL: for i below the effective length, va where the predicate bit is 1, else b. -/
def execVsel (c : BitVec 8) (t : BitVec 3) (i : VFmt) (s : State) : Host.Outcome State Fault Refusal :=
  vecOp c t i s anyEw (fun x s =>
    let w := ewWidth i.ew.toNat
    let r := vMap w (vlMax i.ew.toNat) (fun k => k < effLen x i.ew.toNat) (x.rdV i.vd.toNat)
      (fun k => (if predBit x i k then vElem w (x.rdV i.va.toNat) k else vOpB s x i k, 0))
    { s.setThr c.toNat t.toNat ((x.wrV i.vd.toNat r.1).advance (vWords i)) with
      fresh := if i.ims && !ewArith i.ew.toNat then s.fresh + 1 else s.fresh })

/-- A slide: vd[i] = va[i + d]; a source index outside the register gives 0. -/
def slideOp (c : BitVec 8) (t : BitVec 3) (i : VFmt) (s : State) (d : Int) : Host.Outcome State Fault Refusal :=
  vecOp c t i s anyEw (fun x s =>
    let w := ewWidth i.ew.toNat
    let n := vlMax i.ew.toNat
    let r := vMap w n (active x i) (x.rdV i.vd.toNat) (fun k =>
      let j := (k : Int) + d
      (if 0 ≤ j && j < n then vElem w (x.rdV i.va.toNat) j.toNat else 0, 0))
    s.setThr c.toNat t.toNat ((x.wrV i.vd.toNat r.1).advance (vWords i)))

def execVslidedn (c : BitVec 8) (t : BitVec 3) (i : VFmt) (s : State) := slideOp c t i s (vImm i).toInt
def execVslideup (c : BitVec 8) (t : BitVec 3) (i : VFmt) (s : State) := slideOp c t i s (-(vImm i).toInt)
def execVsplat (c : BitVec 8) (t : BitVec 3) (i : VFmt) (s : State) := elemOp c t i s anyEw (fun _ _ _ b _ => (b, 0))

/-- A vector register of free values, from number `n` on (log 3). -/
def freeVec (n : Nat) : Nat := (List.range 32).foldl (fun a k => a + (Config.freeWord (n + k)).toNat * 2 ^ (64 * k)) 0

/-- VINS: written whatever VL and the predicate are; an index beyond the register leaves VD a free value (log 26). -/
def execVins (c : BitVec 8) (t : BitVec 3) (i : VFmt) (s : State) : Host.Outcome State Fault Refusal :=
  vecOp c t i s anyEw (fun x s =>
    let w := ewWidth i.ew.toNat
    if (vImm i).toNat < vlMax i.ew.toNat then
      let r := vMap w (vlMax i.ew.toNat) (fun k => k = (vImm i).toNat) (x.rdV i.vd.toNat) (fun _ => ((x.rd i.va.toNat).toNat, 0))
      s.setThr c.toNat t.toNat ((x.wrV i.vd.toNat r.1).advance (vWords i))
    else
      { s.setThr c.toNat t.toNat ((x.wrV i.vd.toNat (freeVec s.fresh)).advance (vWords i)) with fresh := s.fresh + 32 })

/-- VEXT: va[IMM24], zero-extended; an index beyond the register gives a free value (log 26). -/
def execVext (c : BitVec 8) (t : BitVec 3) (i : VFmt) (s : State) : Host.Outcome State Fault Refusal :=
  vecOp c t i s anyEw (fun x s =>
    let w := ewWidth i.ew.toNat
    let k := (vImm i).toNat
    if k < vlMax i.ew.toNat then
      s.setThr c.toNat t.toNat ((x.wr i.vd.toNat (BitVec.ofNat 64 (vElem w (x.rdV i.va.toNat) k))).advance (vWords i))
    else (s.free.2).setThr c.toNat t.toNat ((x.wr i.vd.toNat s.free.1).advance (vWords i)))

def execVpcnt (c : BitVec 8) (t : BitVec 3) (i : VFmt) (s : State) : Host.Outcome State Fault Refusal :=
  vecOp c t i s anyEw (fun x s =>
    s.setThr c.toNat t.toNat ((x.wr i.vd.toNat (BitVec.ofNat 64 (activeList x i).length)).advance (vWords i)))

/-! ### Conversion, OPC 0x24 (R77 to R79) -/

/-- A cluster's position among its partition's clusters (R330). -/
def State.ordinal (s : State) (c : Nat) : Nat :=
  match s.partOfCluster c with
  | some p => ((List.range c).filter (fun d => s.prtGroup p (d / 8))).length
  | none => 0

/-- The draw of a unit of a cluster at an index (R330); a free value in a cluster that runs no job (log 84). -/
def State.drawFor (s : State) (c stream unit idx : Nat) : Nat :=
  match s.slotOfCluster c with
  | some j =>
    drawOf (s.getF F.CAD_SEED_SEED 0 j) (s.getF F.CAD_STEP_STEP 0 j) stream (s.myRank j) (s.ordinal c) unit (idx % 2 ^ 32)
  | none => (Config.idleDraw c stream unit (idx % 2 ^ 32)).toNat

/-- The step register of the job a cluster runs (R331); a free value in a cluster that runs no job (log 84). -/
def State.stepOf (s : State) (c : Nat) : Nat :=
  match s.slotOfCluster c with
  | some j => s.getF F.CAD_STEP_STEP 0 j
  | none => (Config.idleStep c).toNat

/-- Draw index before the first of `n` draws: 0 when the step differs from the remembered one (R331). -/
def drawBase (step rem idx : Nat) : Nat := if step = rem then idx else 0

/-- VCVT (R77 to R79). An MX target writes the whole of vd also at effective length 0, as R78 says "whatever the predicate", where R68 says
that no element changes: the spec does not say which holds (log 100). -/
def execVcvt (c : BitVec 8) (t : BitVec 3) (i : VFmt) (s : State) : Host.Outcome State Fault Refusal :=
  issueV c t i s (fun x s =>
    let imm := (vImm i).toNat
    let ew := i.ew.toNat
    let src := ewCode ew
    let dst := imm % 16
    if bitsOf imm 7 5 ≠ 0 || !convPair src dst then s.haltError c.toNat t.toNat causeIllegal else
    let w := ewWidth ew
    let va := x.rdV i.va.toNat
    let dw := codeWidth dst
    let el := Nat.min (effLen x ew) (if isMx dst then 64 else 2048 / dw)
    let st := testBit imm 4
    let step := s.stepOf c.toNat
    let base := drawBase step x.drawStep x.drawIdx
    let rnd : Nat → Rnd := fun k =>
      if st then .draw (s.drawFor c.toNat (bitsOf imm 23 8) t.toNat (base + k)) else .mode .rne
    let act : Nat → Bool := fun k => decide (k < el) && predBit x i k
    let x1 := if st && 0 < el then { x with drawIdx := (base + el) % 2 ^ 32, drawStep := step } else x
    let r :=
      if isMx dst then
        let nb := if ew = 4 then 1 else 2
        (List.range nb).foldl (fun (a : Nat × Nat) b =>
          let vs := (List.range 32).map (fun k =>
            if act (32 * b + k) then codeVal src (vElem w va (32 * b + k)) else .fin false 0 0)
          let q := mxBlock dst (fun k => rnd (32 * b + k)) vs
          (a.1 + packBits dw q.2.1 * 2 ^ (32 * b * dw) + q.1 * 2 ^ (8 * (248 + b)), a.2 ||| q.2.2)) (0, 0)
      else vMap dw (2048 / dw) act (x.rdV i.vd.toNat) (fun k => convTo dst (rnd k) (codeVal src (vElem w va k)))
    s.setThr c.toNat t.toNat (((x1.wrV i.vd.toNat r.1).raise r.2).advance (vWords i)))

/-! ### Memory, OPC 0x25 (R74, R75) -/

def vAddr (x : Thread) (i : VFmt) : Nat := (x.rd i.va.toNat + vImm i).toNat

/-- Address of element `k` of an access. -/
def elemAddr (a w k : Nat) : Nat := (a + k * (w / 8)) % 2 ^ 64

def execVld (c : BitVec 8) (t : BitVec 3) (i : VFmt) (e : Ecc) (s : State) : Host.Outcome State Fault Refusal :=
  vecOp c t i s anyEw (fun x s =>
    let w := ewWidth i.ew.toNat
    let a := vAddr x i
    let as := activeList x i
    if as.any (fun k => spadSize < elemAddr a w k + w / 8) then s.haltError c.toNat t.toNat causeAddr
    else if as.isEmpty then s.setThr c.toNat t.toNat (x.advance (vWords i))
    else if e = .uncorrectable then s.clusterFault c.toNat .eccUe
    else
      let r := vMap w (vlMax i.ew.toNat) (active x i) (x.rdV i.vd.toNat) (fun k => (leNat (s.spadRead c.toNat (elemAddr a w k) (w / 8)), 0))
      let s1 := s.spadEcc c.toNat (a % spadSize) e
      s1.setThr c.toNat t.toNat ((x.wrV i.vd.toNat r.1).advance (vWords i)))

def execVst (c : BitVec 8) (t : BitVec 3) (i : VFmt) (s : State) : Host.Outcome State Fault Refusal :=
  vecOp c t i s anyEw (fun x s =>
    let w := ewWidth i.ew.toNat
    let a := vAddr x i
    let as := activeList x i
    if as.any (fun k => spadSize < elemAddr a w k + w / 8) then s.haltError c.toNat t.toNat causeAddr
    else if as.any (fun k => s.spadReserved c.toNat (elemAddr a w k) (w / 8)) then s.haltError c.toNat t.toNat causeSpadProt
    else
      as.foldl (fun s k => s.spadWrite c.toNat (elemAddr a w k) (natLe (w / 8) (vElem w (x.rdV i.vd.toNat) k)))
        (s.setThr c.toNat t.toNat (x.advance (vWords i))))

/-- VLDG: whole lines that hold active bytes are read; every one passes the sender checks first. -/
def execVldg (c : BitVec 8) (t : BitVec 3) (i : VFmt) (s : State) : Host.Outcome State Fault Refusal :=
  vecOp c t i s (fun _ => !i.ims) (fun x s =>
    let w := ewWidth i.ew.toNat
    let a := vAddr x i
    let as := activeList x i
    let x1 := x.advance (vWords i)
    if as.isEmpty then s.setThr c.toNat t.toNat x1 else
    let lines := ((as.flatMap (fun k => [elemAddr a w k / 64, (elemAddr a w k + w / 8 - 1) / 64])).eraseDups).map (· * 64)
    let chk := lines.map (fun l => s.checkSend (s.partOfCluster c.toNat) l 64 .load)
    if chk.any Option.isNone then s.haltError c.toNat t.toNat causeProtRefused else
    let s1 := (s.madeRemote c.toNat).setThr c.toNat t.toNat x1
    let r := (List.range lines.length).foldl (fun (r : Option (List RPart) × State) n =>
      match r.1, s.checkSend (s.partOfCluster c.toNat) ((lines[n]?).getD 0) 64 .load with
      | some ps, some (slot, win, wd) =>
        let l := (lines[n]?).getD 0
        match r.2.threadAccess c.toNat t.toNat slot win wd l 64 .load (some n) with
        | (some d, s2) => (some (ps ++ [⟨l - a / 64 * 64, 64, d⟩]), s2)
        | (none, s2) => (none, s2)
      | _, _ => r) (some [], s1)
    match r.1 with
    | none => r.2
    | some ps =>
      let y := r.2.thr c.toNat t.toNat
      r.2.setThr c.toNat t.toNat
        { y with st := .waitRemote, remote := some { vec := true, reg := i.vd.toNat, parts := ps, w := w, act := as, start := a % 64 } })

/-- Sends the line pieces of a VSTG in order: how many stay outstanding, whether a fault ended it, and the state. -/
def State.vstgSend (s : State) (c t g : Nat) (runs : List (Nat × List Byte)) : Nat × Bool × State :=
  runs.foldl (fun (r : Nat × Bool × State) run =>
    if r.2.1 then r else
    match r.2.2.checkSend (r.2.2.partOfCluster c) run.1 run.2.length (.store run.2) with
    | some (slot, win, wd) =>
      match r.2.2.threadAccess c t slot win wd run.1 run.2.length (.store run.2) (some g) with
      | (some (some _), s2) => (r.1, false, s2)
      | (some none, s2) => (r.1 + 1, false, s2)
      | (none, s2) => (r.1, true, s2)
    | none => r) (0, false, s)

/-- Whether a store at the own rank would write a channel's reserved range through a KIND 1 window (R62). -/
def State.sendsReserved (s : State) (c a : Nat) (x : Access1) : Bool :=
  match s.checkSend (s.partOfCluster c) a 8 x with
  | some (slot, _, w) => addrRank a = s.myRank slot && s.storesReserved w (addrOff a) x
  | none => false

/-- Bytes to store as runs that are contiguous and lie in one 64-byte line. -/
def lineRuns : List (Nat × Byte) → List (Nat × List Byte)
  | [] => []
  | (a, b) :: rest =>
    match lineRuns rest with
    | (a1, bs) :: rs => if a + 1 = a1 && a / 64 = a1 / 64 then (a, b :: bs) :: rs else (a, [b]) :: (a1, bs) :: rs
    | [] => [(a, [b])]

def execVstg (c : BitVec 8) (t : BitVec 3) (i : VFmt) (s : State) : Host.Outcome State Fault Refusal :=
  vecOp c t i s (fun _ => !i.ims) (fun x s =>
    let w := ewWidth i.ew.toNat
    let a := vAddr x i
    let as := activeList x i
    let x1 := x.advance (vWords i)
    let runs := lineRuns (as.flatMap (fun k =>
      ((List.range (w / 8)).map (fun b => (elemAddr a w k + b, BitVec.ofNat 8 (vElem w (x.rdV i.vd.toNat) k >>> (8 * b)))))))
    if runs.any (fun r => (s.checkSend (s.partOfCluster c.toNat) r.1 r.2.length (.store r.2)).isNone) then
      s.haltError c.toNat t.toNat causeProtRefused
    else if runs.any (fun r => s.sendsReserved c.toNat r.1 (.store r.2)) then s.haltError c.toNat t.toNat causeSpadProt
    else if as.isEmpty then s.setThr c.toNat t.toNat x1
    else
      let g := x1.nextGroup
      let s1 := (s.madeRemote c.toNat).setThr c.toNat t.toNat { x1 with nextGroup := g + 1 }
      let r := s1.vstgSend c.toNat t.toNat g runs
      if r.2.1 || r.1 = 0 then r.2.2
      else
        let y := r.2.2.thr c.toNat t.toNat
        let y1 : Thread := { y with stores := y.stores + 1, groups := y.groups ++ [(g, r.1)] }
        if y1.stores < 64 then r.2.2.setThr c.toNat t.toNat y1 else r.2.2.beginWait c.toNat t.toNat y1 .waitRes .stores 0)

/-! ### Reductions, OPC 0x26 (R80, R81) -/

/-- One level of the tree: adjacent results combined. -/
def pairUp (f : Nat → Nat → Nat × Nat) : List Nat → List Nat × Nat
  | a :: b :: rest =>
    let r := f a b
    let q := pairUp f rest
    (r.1 :: q.1, r.2 ||| q.2)
  | [a] => ([a], 0)
  | [] => ([], 0)

/-- The fixed binary tree, to one value, and the flags of its nodes. -/
def treeReduce (f : Nat → Nat → Nat × Nat) : Nat → List Nat → Nat × Nat
  | 0, xs => (xs.headD 0, 0)
  | n + 1, xs =>
    let r := pairUp f xs
    let q := treeReduce f n r.1
    (q.1, r.2 ||| q.2)

/-- A reduction: each inactive element enters as its identity; the result is extended to 64 bits by `ext`. -/
def redOp (c : BitVec 8) (t : BitVec 3) (i : VFmt) (s : State) (ok : Nat → Bool)
    (ident : Nat → Nat) (elem : Nat → Nat → Nat) (f : Nat → Nat → Nat → Nat × Nat) (fin : Thread → Nat → Nat → Nat × Nat) :
    Host.Outcome State Fault Refusal :=
  vecOp c t i s ok (fun x s =>
    let ew := i.ew.toNat
    let w := ewWidth ew
    let xs := (List.range (vlMax ew)).map (fun k => if active x i k then elem ew (vElem w (x.rdV i.va.toNat) k) else ident ew)
    let r := treeReduce (f ew) 8 xs
    let q := fin x ew r.1
    s.setThr c.toNat t.toNat (((x.wr i.vd.toNat (BitVec.ofNat 64 q.1)).raise (r.2 ||| q.2)).advance (vWords i)))

/-- Sign-extends an integer element to 64 bits; FP elements stay as they are. -/
def redElem (ew v : Nat) : Nat := if ewInt ew then ofSigned 64 (toSigned (ewWidth ew) v) else v

def sumNode (ew a b : Nat) : Nat × Nat := if ewInt ew then ((a + b) % 2 ^ 64, 0) else fpAdd (ewFmt ew) .rne a b
def sumIdent (ew : Nat) : Nat := if ewInt ew then 0 else (ewFmt ew).signBit

def execVrsum (c : BitVec 8) (t : BitVec 3) (i : VFmt) (s : State) :=
  redOp c t i s ewArith sumIdent redElem sumNode (fun _ _ v => (v, 0))
/-- VRSUMA: the tree sum added to s(VD), one more rounding. -/
def execVrsuma (c : BitVec 8) (t : BitVec 3) (i : VFmt) (s : State) :=
  redOp c t i s ewArith sumIdent redElem sumNode (fun x ew v =>
    sumNode ew ((x.rd i.vd.toNat).toNat % (if ewInt ew then 2 ^ 64 else 2 ^ ewWidth ew)) v)

def minNode (ew a b : Nat) : Nat × Nat := if ewInt ew then (if toSigned 64 a ≤ toSigned 64 b then a else b, 0) else fpMin (ewFmt ew) a b
def maxNode (ew a b : Nat) : Nat × Nat := if ewInt ew then (if toSigned 64 a ≤ toSigned 64 b then b else a, 0) else fpMax (ewFmt ew) a b

def execVrmin (c : BitVec 8) (t : BitVec 3) (i : VFmt) (s : State) :=
  redOp c t i s ewArith (fun ew => if ewInt ew then 2 ^ (ewWidth ew - 1) - 1 else (ewFmt ew).infBits) redElem minNode (fun _ _ v => (v, 0))
def execVrmax (c : BitVec 8) (t : BitVec 3) (i : VFmt) (s : State) :=
  redOp c t i s ewArith
    (fun ew => if ewInt ew then ofSigned 64 (-(2 ^ (ewWidth ew - 1) : Int)) else (ewFmt ew).infBits + (ewFmt ew).signBit)
    redElem maxNode (fun _ _ v => (v, 0))
def execVrminu (c : BitVec 8) (t : BitVec 3) (i : VFmt) (s : State) :=
  redOp c t i s ewInt (fun ew => 2 ^ ewWidth ew - 1) (fun _ v => v) (fun _ a b => (if a ≤ b then a else b, 0)) (fun _ _ v => (v, 0))
def execVrmaxu (c : BitVec 8) (t : BitVec 3) (i : VFmt) (s : State) :=
  redOp c t i s ewInt (fun _ => 0) (fun _ v => v) (fun _ a b => (if a ≤ b then b else a, 0)) (fun _ _ v => (v, 0))

/-! ### SETVL and VSEAL, OPC 0x27 -/

/-- SETVL (R68). A negative IMM24 counts as the unsigned value of its 64-bit sign-extension, so VL becomes VLMAX: R68 does not say how it is
read (log 99). -/
def execSetvl (c : BitVec 8) (t : BitVec 3) (i : VFmt) (s : State) : Host.Outcome State Fault Refusal :=
  issueV c t i s (fun x s =>
    let q := if i.ims then (vImm i).toNat else (x.rd i.va.toNat).toNat
    let v := Nat.min q (vlMax i.ew.toNat)
    s.setThr c.toNat t.toNat (({ x with vl := v }.wr i.vd.toNat (BitVec.ofNat 64 v)).advance (vWords i)))

/-- VSEAL (R75). Its EW selects nothing and is not checked (log 104). -/
def execVseal (c : BitVec 8) (t : BitVec 3) (i : VFmt) (s : State) : Host.Outcome State Fault Refusal :=
  issueV c t i s (fun x s =>
    let a := (x.rd i.va.toNat).toNat
    if a % 4096 ≠ 0 then s.haltError c.toNat t.toNat causeAlign
    else if spadSize ≤ a then s.haltError c.toNat t.toNat causeAddr
    else (s.spadSealTile c.toNat (a / 4096)).setThr c.toNat t.toNat (x.advance (vWords i)))

end Sys2Proof.Machine
end

