-- ==== Sys2Proof/Machine/Solve.lean ====
section
/-! DEFINITION. The arithmetic of a solve (R144 to R152), as functions of FP64 encodings: dot products, preconditioners and the
three methods. -/

namespace Sys2Proof.Machine

abbrev Vec := List Nat
/-- A row: column and value of each stored entry, in ascending position. -/
abbrev SRow := List (Nat × Nat)

/-- Why a method stops. -/
inductive SolEnd where
  | conv | cap | breakdown | pivotZero | overflow
  /-- No further reduction point is to be made (deadline, abort, or a peer's end). -/
  | stopped
  deriving DecidableEq, Repr

/-- What a solve is given. -/
structure SolCfg where
  n : Nat
  nHalo : Nat
  rows : List SRow
  slots : List (Nat × Nat)
  /-- Members, and the place of this one (R136). -/
  ranks : Nat
  me : Nat
  b : Vec
  rtol : Nat
  atol : Nat
  tau : Nat
  maxit : Nat
  method : Nat
  pc : Nat
  m : Nat
  degree : Nat
  lmin : Nat
  lmax : Nat
  /-- First row and size of each block. -/
  blocks : List (Nat × Nat)
  deriving DecidableEq, Repr

def SolCfg.multi (c : SolCfg) : Bool := c.ranks ≠ 1

/-- What a solve carries. -/
structure SolSt where
  x : Vec
  /-- The last iterate whose every element was finite. -/
  xFin : Option Vec
  it : Nat
  restarts : Nat
  piv : Nat
  resNorm : Nat
  bNorm : Nat
  /-- Reduction points still to be made, where they are bounded. -/
  left : Option Nat
  /-- Values of the members at each reduction point, and the halo entries of each product, in order. -/
  points : List (List (List Nat))
  halos : List (List Nat)
  /-- What this member has brought to the reduction points, and the vectors of its products, whose elements its neighbours receive. -/
  mine : List (List Nat) := []
  sent : List Vec := []
  deriving DecidableEq, Repr

abbrev SolM (α : Type) := ExceptT SolEnd (StateM SolSt) α

def f64Fin (v : Nat) : Bool := (fpVal fp64 v).isFin
def f64Add (a b : Nat) : Nat := (fpAdd fp64 .rne a b).1
def f64Sub (a b : Nat) : Nat := (fpSub fp64 .rne a b).1
def f64Mul (a b : Nat) : Nat := (fpMul fp64 .rne a b).1
def f64Div (a b : Nat) : Nat := (fpDiv fp64 .rne a b).1
def f64Fma (a b c : Nat) : Nat := (fpFma fp64 .rne a b c).1
def f64Sqrt (a : Nat) : Nat := (fpSqrt fp64 .rne a).1
def f64Neg (a : Nat) : Nat := a ^^^ fp64.signBit
def f64Abs (a : Nat) : Nat := a % fp64.signBit
def f64Lt (a b : Nat) : Bool := fvLt (fpVal fp64 a) (fpVal fp64 b)
def f64Le (a b : Nat) : Bool := fvLt (fpVal fp64 a) (fpVal fp64 b) || fvEq (fpVal fp64 a) (fpVal fp64 b)
def f64Zero (a : Nat) : Bool := (fpVal fp64 a).isZero
def f64One : Nat := 0x3FF0000000000000

/-- The FP64 step of R124 over a list of products, from a starting value. -/
def f64Steps (c : Nat) (ts : List (Nat × Nat)) : Nat :=
  (dotIeee fp64 4 c (ts.map (fun p => (fpVal fp64 p.1, fpVal fp64 p.2)))).1

def vAt (v : Vec) (i : Nat) : Nat := (v[i]?).getD 0

/-- a x + y, one fused multiply–add per element. -/
def vFma (a : Nat) (x y : Vec) : Vec := (x.zip y).map (fun p => f64Fma a p.1 p.2)

def chk (v : Nat) : SolM Nat := if f64Fin v then pure v else throw .overflow
def chkV (v : Vec) : SolM Vec := if v.all f64Fin then pure v else throw .overflow

/-- The next iterate: kept as the last finite one, or the end of R152. -/
def setX (v : Vec) : SolM Unit := do
  let v ← chkV v
  modify (fun s => { s with x := v, xFin := some v })

/-- The sum of the members' values in the fixed pairwise tree, padded with −0 (R144, R302). -/
def acrossMembers (vs : List Nat) : Nat :=
  let k := ((List.range 18).find? (fun k => decide (vs.length ≤ 2 ^ k))).getD 17
  (treeReduce (fun a b => fpAdd fp64 .rne a b) k (vs ++ List.replicate (2 ^ k - vs.length) fp64.signBit)).1

/-- A reduction point (R144, R155): the member's own values, or across members their sums. -/
def reducePoint (c : SolCfg) (own : List Nat) : SolM (List Nat) := do
  let s ← get
  if s.left = some 0 then throw .stopped
  set { s with left := s.left.map (· - 1), points := s.points.tail, mine := s.mine ++ [own] }
  let r ← (if c.multi then
      match s.points with
      | [] => throw SolEnd.stopped
      | p :: _ => pure ((List.range own.length).map (fun i =>
          acrossMembers ((List.range c.ranks).map (fun m => if m = c.me then vAt own i else vAt ((p[m]?).getD []) i))))
    else pure own : SolM (List Nat))
  chkV r

/-- Next power of two of at least `n` (n up to 256). -/
def pow2Up (n : Nat) : Nat := ([1, 2, 4, 8, 16, 32, 64, 128, 256].find? (fun k => decide (n ≤ k))).getD 256

/-- The member's dot product: slot partials in the fixed pairwise tree (R144). -/
def memberDot (c : SolCfg) (v w : Vec) : Nat :=
  let ps := c.slots.map (fun p => f64Steps 0 ((v.zip w).drop p.1 |>.take p.2))
  (treeReduce (fun a b => fpAdd fp64 .rne a b) 8 (ps ++ List.replicate (pow2Up ps.length - ps.length) fp64.signBit)).1

/-- y = A v: the halo exchange, then the streams. -/
def product (c : SolCfg) (v : Vec) : SolM Vec := do
  let s ← get
  set { s with halos := s.halos.tail, sent := if c.multi then s.sent ++ [v] else s.sent }
  let full := v ++ (List.range c.nHalo).map (fun i => vAt (s.halos.headD []) i)
  chkV (c.rows.map (fun r => f64Steps 0 (r.map (fun e => (e.2, vAt full e.1)))))

def residual (c : SolCfg) (x : Vec) : SolM Vec := do
  let y ← product c x
  chkV ((c.b.zip y).map (fun p => f64Sub p.1 p.2))

/-! ### Preconditioners (R149 to R151) -/

/-- The largest magnitude in a row of A as launched. -/
def rowMax (r : SRow) : Nat := r.foldl (fun a e => if f64Lt a (f64Abs e.2) then f64Abs e.2 else a) 0

/-- The pivot rule (R150): the pivot, whether replaced; none is an end of PIVOT_ZERO. -/
def pivotRule (tau m d : Nat) : Option (Nat × Bool) :=
  if f64Zero d && (f64Zero tau || f64Zero m) then none
  else
    let t := f64Mul tau m
    if f64Lt (f64Abs d) t then some (if f64Lt d 0 then f64Neg t else t, true) else some (d, false)

def pivot (tau m d : Nat) : SolM Nat := do
  let _ ← chk d
  match pivotRule tau m d with
  | none => throw .pivotZero
  | some (v, r) =>
    if r then modify (fun s => { s with piv := s.piv + 1 })
    chk v

def lookRow (r : SRow) (c : Nat) : Option Nat := (r.find? (fun e => e.1 = c)).map Prod.snd

/-- One elimination of row `i` by a finished row `k` (R151). -/
def eliminate (rk : SRow) (k : Nat) (r : SRow) : SolM SRow := do
  match lookRow r k, lookRow rk k with
  | some a, some u =>
    let l ← chk (f64Div a u)
    r.mapM (fun e =>
      if e.1 = k then pure (k, l)
      else if e.1 < k then pure e
      else match lookRow rk e.1 with
        | some ukj => do
          let v ← chk (f64Fma (f64Neg l) ukj e.2)
          pure (e.1, v)
        | none => pure e)
  | _, _ => pure r

/-- LU without row exchange on a pattern, row by row; `ms` gives m_i. -/
def luFactor (tau : Nat) (ms : List Nat) (rows : List SRow) : SolM (List SRow) :=
  (List.range rows.length).foldlM (fun (fs : List SRow) i => do
    let r0 := (rows[i]?).getD []
    let ks := (r0.map Prod.fst).filter (· < i)
    let r1 ← ks.foldlM (fun r k => eliminate ((fs[k]?).getD []) k r) r0
    let d ← pivot tau (vAt ms i) ((lookRow r1 i).getD 0)
    pure (fs ++ [r1.map (fun e => if e.1 = i then (i, d) else e)])) []

/-- IC(0) as L D Lᵀ on the lower pattern, in the order of R151: an update takes the entry of row j before its division (log 31). -/
def ldlFactor (tau : Nat) (ms : List Nat) (rows : List SRow) : SolM (List SRow × List Nat) := do
  let r ← (List.range rows.length).foldlM (fun (f : List SRow × List SRow × List Nat) i => do
    let r0 := ((rows[i]?).getD []).filter (fun e => e.1 ≤ i)
    let ks := (r0.map Prod.fst).filter (· < i)
    let w ← ks.foldlM (fun (w : SRow × SRow) k => do
      let a := (lookRow w.1 k).getD 0
      let l ← chk (f64Div a (vAt f.2.2 k))
      let r1 ← w.1.mapM (fun e => (
        if e.1 ≤ k then pure e
        else
          match (if e.1 = i then some a else lookRow ((f.2.1[e.1]?).getD []) k) with
          | some u => do
            let v ← chk (f64Fma (f64Neg l) u e.2)
            pure (e.1, v)
          | none => pure e : SolM (Nat × Nat)))
      pure (r1, w.2 ++ [(k, l)])) ((r0, []) : SRow × SRow)
    let d ← pivot tau (vAt ms i) ((lookRow w.1 i).getD 0)
    pure (f.1 ++ [w.2], f.2.1 ++ [w.1], f.2.2 ++ [d])) (([], [], []) : List SRow × List SRow × List Nat)
  pure (r.1, r.2.2)

/-- The pattern of the blocks, dense: entries a block does not store are +0. -/
def blockRows (c : SolCfg) (own : List SRow) : List SRow :=
  (List.range own.length).map (fun i =>
    let r := (own[i]?).getD []
    match c.blocks.find? (fun b => decide (b.1 ≤ i) && decide (i < b.1 + b.2)) with
    | some b => (List.range b.2).map (fun j => (b.1 + j, (lookRow r (b.1 + j)).getD 0))
    | none => r.filter (fun e => e.1 = i))

/-- The set-up of a preconditioner (Table 06-6). -/
def setUp (c : SolCfg) : SolM PcData := do
  let own := c.rows.map (fun r => r.filter (fun e => e.1 < c.n))
  let ms := c.rows.map rowMax
  let diag := do
    let ds ← (List.range c.n).mapM (fun i => pivot c.tau (vAt ms i) ((lookRow ((own[i]?).getD []) i).getD 0))
    pure (PcData.diag ds)
  match c.pc with
  | 0 => pure .none
  | 1 => diag
  | 2 => do
    let f ← luFactor c.tau ms (blockRows c own)
    pure (.lu f)
  | 3 => do
    let f ← luFactor c.tau ms own
    pure (.lu f)
  | 4 => do
    let f ← ldlFactor c.tau ms own
    pure (.ldl f.1 f.2)
  | _ => diag

/-- Forward sweep with a unit lower triangle (R144). -/
def forward (rows : List SRow) (r : Vec) : SolM Vec :=
  (List.range rows.length).foldlM (fun (w : Vec) i => do
    let ts := (((rows[i]?).getD []).filter (fun e => e.1 < i)).map (fun e => (f64Neg e.2, vAt w e.1))
    let v ← chk (f64Steps (vAt r i) ts)
    pure (w ++ [v])) []

/-- Backward sweep: row `i` has off-diagonal terms `up i`, and is divided by `d i` where one is given. -/
def backward (n : Nat) (up : Nat → List (Nat × Nat)) (d : Nat → Option Nat) (r : Vec) : SolM Vec :=
  (List.range n).foldlM (fun (z : Vec) k => do
    let i := n - 1 - k
    let ts := (up i).map (fun e => (f64Neg e.2, vAt z (e.1 - (i + 1))))
    let v ← chk (f64Steps (vAt r i) ts)
    let q ← (match d i with
      | some u => chk (f64Div v u)
      | none => pure v : SolM Nat)
    pure (q :: z)) []

def w64 (n : Nat) : BitVec 64 := BitVec.ofNat 64 n

/-- The steps of the Chebyshev iteration from z = 0 (Table 06-6): each forms A z, with its halo exchange. -/
def chebyshevSteps (c : SolCfg) (d r : Vec) : Nat → Nat → Vec → Vec → SolM Vec
  | 0, _, z, _ => pure z
  | n + 1, k, z, z1 => do
    let az ← product c z
    let z2 ← chkV ((List.range c.n).map (fun i =>
      (Config.chebyshev c.lmin c.lmax k [w64 (vAt d i), w64 (vAt r i), w64 (vAt az i), w64 (vAt z i), w64 (vAt z1 i)]).toNat))
    chebyshevSteps c d r n (k + 1) z2 z

/-- z = M(r) (Table 06-6). -/
def applyPc (c : SolCfg) (p : PcData) (r : Vec) : SolM Vec := do
  match p with
  | .none => pure r
  | .diag d =>
    if c.pc = 5 then chebyshevSteps c d r c.degree 0 (List.replicate c.n 0) (List.replicate c.n 0)
    else chkV ((r.zip d).map (fun q => f64Div q.1 q.2))
  | .lu rows =>
    let w ← forward rows r
    backward rows.length (fun i => ((rows[i]?).getD []).filter (fun e => i < e.1)) (fun i => lookRow ((rows[i]?).getD []) i) w
  | .ldl rows d =>
    let w ← forward rows r
    let v ← chkV ((w.zip d).map (fun q => f64Div q.1 q.2))
    backward rows.length
      (fun i => ((List.range rows.length).filter (fun j => i < j)).filterMap (fun j => (lookRow ((rows[j]?).getD []) i).map (fun l => (j, l))))
      (fun _ => none) v

/-! ### Methods (R146 to R148) -/

/-- Records a tested norm; the test itself. -/
def testNorm (thr v : Nat) : SolM Bool := do
  modify (fun s => { s with resNorm := v })
  pure (f64Le v thr)

def threshold (c : SolCfg) (bb : Nat) : SolM Nat := do
  let bn := f64Sqrt bb
  modify (fun s => { s with bNorm := bn })
  let t ← chk (f64Mul c.rtol bn)
  pure (if f64Lt t c.atol then c.atol else t)

def countIt : SolM Unit := modify (fun s => { s with it := s.it + 1 })

/-- Iterations of CG (R146). -/
def cgLoop (c : SolCfg) (pc : PcData) (thr : Nat) : Nat → Vec → Vec → Nat → SolM Unit
  | 0, _, _, _ => throw .cap
  | n + 1, r, p, rho => do
    countIt
    let q ← product c p
    let pq ← reducePoint c [memberDot c p q]
    if f64Le (vAt pq 0) 0 then throw .breakdown
    let alpha ← chk (f64Div rho (vAt pq 0))
    setX (vFma alpha p (← get).x)
    let r1 ← chkV (vFma (f64Neg alpha) q r)
    let z ← applyPc c pc r1
    let ds ← reducePoint c [memberDot c r1 r1, memberDot c r1 z]
    if ← testNorm thr (f64Sqrt (vAt ds 0)) then throw .conv
    let rho2 := vAt ds 1
    if f64Zero rho2 then throw .breakdown
    let beta ← chk (f64Div rho2 rho)
    let p1 ← chkV (vFma beta p z)
    cgLoop c pc thr n r1 p1 rho2

def cg (c : SolCfg) (pc : PcData) : SolM Unit := do
  let r ← residual c (← get).x
  let z ← applyPc c pc r
  let ds ← reducePoint c [memberDot c c.b c.b, memberDot c r r, memberDot c r z]
  let thr ← threshold c (vAt ds 0)
  if ← testNorm thr (f64Sqrt (vAt ds 1)) then throw .conv
  cgLoop c pc thr c.maxit r z (vAt ds 2)

/-- What BiCGStab carries from one iteration to the next. -/
structure BicgSt where
  r : Vec
  p : Vec
  v : Vec
  rho : Nat
  alpha : Nat
  omega : Nat

/-- Iterations of BiCGStab (R147). -/
def bicgLoop (c : SolCfg) (pc : PcData) (thr : Nat) (rhat : Vec) : Nat → BicgSt → SolM Unit
  | 0, _ => throw .cap
  | n + 1, s => do
    countIt
    let d1 ← reducePoint c [memberDot c rhat s.r]
    let rho2 := vAt d1 0
    if f64Zero rho2 then throw .breakdown
    let q1 ← chk (f64Div rho2 s.rho)
    let q2 ← chk (f64Div s.alpha s.omega)
    let beta ← chk (f64Mul q1 q2)
    let p0 ← chkV (vFma (f64Neg s.omega) s.v s.p)
    let p ← chkV (vFma beta p0 s.r)
    let y ← applyPc c pc p
    let v ← product c y
    let d2 ← reducePoint c [memberDot c rhat v]
    if f64Zero (vAt d2 0) then throw .breakdown
    let alpha ← chk (f64Div rho2 (vAt d2 0))
    let sv ← chkV (vFma (f64Neg alpha) v s.r)
    let d3 ← reducePoint c [memberDot c sv sv]
    if ← testNorm thr (f64Sqrt (vAt d3 0)) then
      setX (vFma alpha y (← get).x)
      throw .conv
    let z ← applyPc c pc sv
    let t ← product c z
    let d4 ← reducePoint c [memberDot c t sv, memberDot c t t]
    if f64Zero (vAt d4 1) then throw .breakdown
    let omega ← chk (f64Div (vAt d4 0) (vAt d4 1))
    if f64Zero omega then throw .breakdown
    let x1 ← chkV (vFma alpha y (← get).x)
    setX (vFma omega z x1)
    let r ← chkV (vFma (f64Neg omega) t sv)
    let d5 ← reducePoint c [memberDot c r r]
    if ← testNorm thr (f64Sqrt (vAt d5 0)) then throw .conv
    bicgLoop c pc thr rhat n { r := r, p := p, v := v, rho := rho2, alpha := alpha, omega := omega }

def bicgstab (c : SolCfg) (pc : PcData) : SolM Unit := do
  let r ← residual c (← get).x
  let ds ← reducePoint c [memberDot c c.b c.b, memberDot c r r]
  let thr ← threshold c (vAt ds 0)
  if ← testNorm thr (f64Sqrt (vAt ds 1)) then throw .conv
  let zero := List.replicate c.n 0
  bicgLoop c pc thr r c.maxit { r := r, p := zero, v := zero, rho := f64One, alpha := f64One, omega := f64One }

/-- Classical Gram–Schmidt, once: the coefficients and what is left of w. -/
def orthogonalise (c : SolCfg) (vs : List Vec) (w : Vec) : SolM (List Nat × Vec) := do
  let hs ← reducePoint c (vs.map (fun v => memberDot c v w))
  let w1 ← chkV ((hs.zip vs).foldl (fun w p => vFma (f64Neg p.1) p.2 w) w)
  pure (hs, w1)

/-- Applies the rotations made so far to a column. -/
def rotateCol (rots : List (BitVec 64 × BitVec 64)) (col : List Nat) : List Nat :=
  (List.range rots.length).foldl (fun (h : List Nat) i =>
    let r := Config.rotate ((rots[i]?).getD (0, 0)) (w64 (vAt h i)) (w64 (vAt h (i + 1)))
    (h.set i r.1.toNat).set (i + 1) r.2.toNat) col

/-- Back substitution on the rotated columns, in descending index order. -/
def backSub (cols : List (List Nat)) (g : List Nat) : SolM Vec :=
  backward cols.length (fun i => ((List.range cols.length).filter (fun j => i < j)).map (fun j => (j, vAt ((cols[j]?).getD []) i)))
    (fun i => some (vAt ((cols[i]?).getD []) i)) g

/-- x = x + M(V y). -/
def gmresUpdate (c : SolCfg) (pc : PcData) (vs : List Vec) (cols : List (List Nat)) (g : List Nat) : SolM Unit := do
  let y ← backSub cols g
  let t ← chkV ((y.zip vs).foldl (fun t p => vFma p.1 p.2 t) (List.replicate c.n 0))
  let z ← applyPc c pc t
  setX (((← get).x.zip z).map (fun p => f64Add p.1 p.2))

/-- How an inner cycle of GMRES ends: converged, or to be begun again, with the iterations left. -/
inductive Cycle where
  | conv
  | again (left : Nat)

/-- Inner iterations of a cycle (R147). The cap ends the cycle with its update (log 32). -/
def gmresInner (c : SolCfg) (pc : PcData) (thr : Nat) :
    Nat → Nat → List Vec → List (List Nat) → List (BitVec 64 × BitVec 64) → List Nat → SolM Cycle
  | 0, left, vs, cols, _, g => do
    gmresUpdate c pc vs cols g
    if left = 0 then throw .cap
    pure (.again left)
  | _ + 1, 0, vs, cols, _, g => do
    gmresUpdate c pc vs cols g
    throw .cap
  | k + 1, left + 1, vs, cols, rots, g => do
    countIt
    let v := vs.getLastD []
    let z ← applyPc c pc v
    let w0 ← product c z
    let o1 ← orthogonalise c vs w0
    let o2 ← orthogonalise c vs o1.2
    let hs ← chkV ((o1.1.zip o2.1).map (fun p => f64Add p.1 p.2))
    let nn ← reducePoint c [memberDot c o2.2 o2.2]
    let h := f64Sqrt (vAt nn 0)
    let col ← chkV (rotateCol rots (hs ++ [h]))
    let j := hs.length - 1
    let cs := Config.givens (w64 (vAt col j)) (w64 (vAt col (j + 1)))
    let top := Config.rotate cs (w64 (vAt col j)) (w64 (vAt col (j + 1)))
    let gg := Config.rotate cs (w64 (vAt g j)) 0
    let g1 ← chkV ((g.set j gg.1.toNat) ++ [gg.2.toNat])
    let done ← chkV ((col.set j top.1.toNat).set (j + 1) 0)
    let cols1 := cols ++ [done]
    let est ← chk (if f64Zero h then 0 else f64Abs gg.2.toNat)
    let pass ← testNorm thr est
    if pass then
      gmresUpdate c pc vs cols1 g1
      pure .conv
    else if f64Zero h then
      gmresUpdate c pc vs cols1 g1
      pure (.again left)
    else do
      let v1 ← chkV (o2.2.map (fun e => f64Div e h))
      gmresInner c pc thr k left (vs ++ [v1]) cols1 (rots ++ [cs]) g1

/-- Cycles of GMRES; each begins with the test of its residual's norm (log 32). -/
def gmresCycles (c : SolCfg) (pc : PcData) (thr : Option Nat) : Nat → Nat → SolM Unit
  | 0, _ => throw .cap
  | fuel + 1, left => do
    let r ← residual c (← get).x
    let ds ← reducePoint c [memberDot c c.b c.b, memberDot c r r]
    let th ← (match thr with
      | some t => pure t
      | none => threshold c (vAt ds 0) : SolM Nat)
    let beta := f64Sqrt (vAt ds 1)
    if ← testNorm th beta then throw .conv
    let v0 ← chkV (r.map (fun e => f64Div e beta))
    match ← gmresInner c pc th c.m left [v0] [] [] [beta] with
    | .conv => throw .conv
    | .again n => do
      modify (fun s => { s with restarts := s.restarts + 1 })
      gmresCycles c pc (some th) fuel n

/-- A whole solve from the initial vector: the preconditioner is set up unless one is reused. -/
def solveRun (c : SolCfg) (reused : Option PcData) : SolM PcData := do
  match reused with
  | some p => pure p
  | none => setUp c

def solveIterate (c : SolCfg) (p : PcData) : SolM Unit :=
  match c.method with
  | 0 => cg c p
  | 1 => bicgstab c p
  | _ => gmresCycles c p none (c.maxit + 1) c.maxit

end Sys2Proof.Machine
end

