-- ==== Sys2Proof/Machine/SolverCore.lean ====
section
/-! DEFINITION. What schedule and batch channels share (R135 to R143, R164, R336): channels, bindings, matrices in memory, digests
and the ends of commands. -/

namespace Sys2Proof.Machine

/-! ### Bindings (R60, R164, R166) -/

/-- Binds a cluster: t7 is RESERVED. -/
def State.bindCluster (s : State) (ch c : Nat) : State :=
  let s1 := ((s.setF F.CLU_BIND_BOUND 1 c).setF F.CLU_BIND_CHANNEL ch c).setF F.CLU_BIND_SPAD_RES (s.getF F.SLV_SPAD_RES ch) c
  s1.setThr c 7 { s1.thr c 7 with st := .reserved }

/-- Unbinds a cluster: t7 is OFF, with PC 0, in THR_PC7 too, and cleared registers. -/
def State.unbindCluster (s : State) (c : Nat) : State :=
  ((((s.setF F.CLU_BIND_BOUND 0 c).setF F.CLU_BIND_CHANNEL 0 c).setF F.CLU_BIND_SPAD_RES 0 c).setF (thrPcFld 7) 0 c).setThr c 7 {}

def State.allOff (s : State) (c : Nat) (ts : List Nat) : Bool := ts.all (fun t => (s.thr c t).st = ThrState.off)

/-- Whether a bind bit may take a value. -/
def State.bindBitOk (s : State) (ch c : Nat) (b : Bool) : Bool :=
  let cur := testBit (s.bindWord ch (c / 64)) (c % 64)
  if b = cur then true
  else if b then s.partOfCluster c = s.partOfSlv ch && (s.partOfSlv ch).isSome && s.getF F.CLU_BIND_BOUND c = 0 && s.allOff c thrNums
  else s.allOff c [0, 1, 2, 3, 4, 5, 6]

/-- Real-time privilege of a channel's partition (R166). -/
def State.rtPriv (s : State) (ch : Nat) : Bool :=
  match s.partOfSlv ch with
  | some p => s.getF F.PRT_CLASS_RT_PRIV p = 1
  | none => false

/-- A write to BIND word `q`: bits that cannot be applied keep their values (R164). -/
def State.bindWrite (s : State) (ch q v : Nat) : State :=
  let cur := s.bindWord ch q
  let p := s.partOfSlv ch
  if isBatchCh ch && !s.rtPriv ch then s.setErr F.SLV_ERR_PRIV_REFUSED ch p
  else if (s.chan ch).stage ≠ slvIdle then
    if v = cur then s else s.setErr F.SLV_ERR_BIND_REFUSED ch p
  else
    let r := (List.range 64).foldl (fun (a : State × Bool) i =>
      let c := 64 * q + i
      let b := testBit v i
      if b = testBit cur i then a
      else if s.bindBitOk ch c b then
        let s1 := a.1.setW .slv (0x40 + 8 * q) (BitVec.ofNat 64 (setBits (a.1.bindWord ch q) i i (if b then 1 else 0))) ch
        (if b then s1.bindCluster ch c else s1.unbindCluster c, a.2)
      else (a.1, true)) (s, false)
    if r.2 then r.1.setErr F.SLV_ERR_BIND_REFUSED ch p else r.1

/-- A write to SPAD.RES, 1 to 8; copied to the bound clusters. -/
def State.slvSpadWrite (s : State) (ch v : Nat) : State :=
  if (s.chan ch).stage ≠ slvIdle then
    if v % 16 = s.getF F.SLV_SPAD_RES ch then s else s.setErr F.SLV_ERR_BIND_REFUSED ch (s.partOfSlv ch)
  else
    let x := clampTo 1 8 (v % 16)
    (s.boundClusters ch).foldl (fun s c => s.setF F.CLU_BIND_SPAD_RES x c) (s.setF F.SLV_SPAD_RES x ch)

/-- A reset of a channel (R163): bindings cleared, registers at their reset values. -/
def State.slvReset (s : State) (ch : Nat) : State :=
  let s1 := (s.boundClusters ch).foldl State.unbindCluster s
  ({ s1.setChan ch {} with regs := spClear s1.regs (regAddr .slv ch 0) 4096, holds := spDel s1.holds (regAddr .slv ch 0 / 4096) } : State).errForget .slv ch

/-! ### Memory areas -/

/-- An area of a partition's memory at an alignment (check 1 of R142 and R170). -/
def State.areaOk (s : State) (p align a n : Nat) : Bool := a % align = 0 && s.inUnits p a n

def State.u32 (s : State) (a : Nat) : Nat := readLe s.hbm a 4
def State.u64 (s : State) (a : Nat) : Nat := readLe s.hbm a 8

/-- FP64 values in memory. -/
def State.vec (s : State) (a n : Nat) : Vec := (List.range n).map (fun i => s.u64 (a + 8 * i))

def vecBytes (v : Vec) : List Byte := v.flatMap (natLe 8)

/-- A finite FP64 that is not negative (+0 or above; −0 counts as zero). -/
def f64NonNeg (v : Nat) : Bool := f64Fin v && !f64Lt v 0

/-- A matrix descriptor (Table 06-1). -/
structure MatDesc where
  rowPtr : Nat
  colIdx : Nat
  val : Nat
  n : Nat
  halo : Nat
  nnz : Nat
  clean : Bool
  deriving DecidableEq, Repr

def State.matDesc (s : State) (a : Nat) : MatDesc :=
  { rowPtr := s.u64 a, colIdx := s.u64 (a + 8), val := s.u64 (a + 16), n := s.u32 (a + 24), halo := s.u32 (a + 28), nnz := s.u32 (a + 32)
    clean := readLe s.hbm (a + 36) 12 = 0 }

/-- Pattern digest bytes at an address. -/
def State.digest16 (s : State) (a : Nat) : List Byte := readBytes s.hbm a 16

/-- The pattern digest (R138). -/
def State.patternDigest (s : State) (m : MatDesc) : List Byte :=
  (sha384 (natLe 8 m.n ++ natLe 8 m.halo ++ natLe 8 m.nnz ++ readBytes s.hbm m.rowPtr (4 * (m.n + 1)) ++ readBytes s.hbm m.colIdx (4 * m.nnz))).take 16

/-- Areas of a matrix descriptor, with or without its values. -/
def State.matOk (s : State) (p a : Nat) (vals : Bool) : Bool :=
  s.areaOk p 64 a 64 &&
  (let m := s.matDesc a
   s.areaOk p 4096 m.rowPtr (4 * (m.n + 1)) && s.areaOk p 4096 m.colIdx (4 * m.nnz) && (!vals || s.areaOk p 4096 m.val (8 * m.nnz)))

/-- τ as a launch takes it (R150, R164). -/
def State.tauOf (s : State) (ch tau : Nat) (page : Bool) : Nat := if page then s.getF F.SLV_TAU_TAU ch else tau

/-- The rows of a matrix in CSR form. -/
def State.csrRows (s : State) (m : MatDesc) (val : Nat) : List SRow :=
  (List.range m.n).map (fun i =>
    let e0 := s.u32 (m.rowPtr + 4 * i)
    let e1 := s.u32 (m.rowPtr + 4 * (i + 1))
    (List.range' e0 (e1 - e0)).map (fun e => (s.u32 (m.colIdx + 4 * e), s.u64 (val + 8 * e))))

/-- Bytes of ranges as they stand, and whether they still stand so (R159, R176). -/
def State.copyAreas (s : State) (rs : List (Nat × Nat)) : List (Nat × List Byte) := rs.map (fun r => (r.1, readBytes s.hbm r.1 r.2))
def State.areasSame (s : State) (as : List (Nat × List Byte)) : Bool := as.all (fun a => decide (readBytes s.hbm a.1 a.2.length = a.2))

/-- Free FP64 values (log 3). -/
def freeVals (k n : Nat) : Vec := (List.range n).map (fun i => (Config.freeWord (k + i)).toNat)

/-! ### Result digests (R336) -/

/-- The result digest record of a command of partition `p`, at a non-zero address. -/
def State.writeDigestRecord (s : State) (p addr : Nat) (inDigest : List Byte) (output : List Byte) : State :=
  if addr = 0 then s else
  let j := (s.acceptingSlot p).getD 0
  s.hbmSealWrite addr (sha384 (s.progDigest j ++ s.wtsDigest j ++ inDigest ++ sha384 output))

/-! ### Taking and leaving a channel (R143, R169) -/

/-- CHAN_MASK of the parameter block that a batch command copied as it started (Table 07-1). -/
def Cmd.mask (c : Cmd) : Nat := bitsOf ((c.block[11]?).getD 0).toNat 55 48

/-- Channels a command needs: a batch command its lead and those that CHAN_MASK names, another that of its CHANNEL field. -/
def Cmd.channels (c : Cmd) : List Nat :=
  if c.isBatch then (List.range 64).filter (fun ch => ch = c.engine || (isBatchCh ch && testBit c.mask (ch - 56))) else [c.engine]

/-- The parameter block that a solver command copies as it starts, where its address is its partition's (R141, R167). -/
def State.copyBlock (s : State) (c : Cmd) : List Word :=
  if c.isSolver && c.opc ≠ 0x51 && s.areaOk c.part 64 c.param 128 then readWords s.hbm c.param 16 else []

/-- Order among commands that wait for one channel (R143). -/
def cmdBefore (a b : Cmd) : Bool := a.launchTick < b.launchTick || (a.launchTick = b.launchTick && a.queue < b.queue)

/-- The command that R143 lets take a channel next. -/
def State.nextForChannel (s : State) (ch : Nat) : Option Cmd :=
  (s.cmds.filter (fun c => c.isSolver && c.phase = .started && s.partOfSlv ch = some c.part && c.channels.contains ch)).foldl
    (fun (a : Option Cmd) c => match a with
      | none => some c
      | some b => if cmdBefore c b then some c else some b) none

/-- A channel's sequence writes the range of a bound cluster's scratchpad that is reserved to it: what stands there is free (R62, R178, log 114). -/
def State.scratch (s : State) (c : Nat) : State :=
  { s.spadWrite c (s.spadLimit c) ((Config.scratch s.fresh).take (spadSize - s.spadLimit c)) with fresh := s.fresh + 1 }

/-- A launch takes t7 of a bound cluster: it claims what the launch needs of the matrix engine and the tile queue, and waits for what a
program thread holds (R60, R61, log 96). From then on the channel writes its range. -/
def State.launchThread7 (opc : Nat) (b : State) (c : Nat) : State :=
  let s := b.scratch c
  let k := s.clu c
  let need := Config.launchNeeds opc
  let m := k.mtxOwner.isSome && testBit need.toNat 0
  let q := k.tqOwner.isSome && testBit need.toNat 1
  let s1 := s.setClu c { k with
    mtxOwner := if k.mtxOwner.isNone && testBit need.toNat 0 then some 7 else k.mtxOwner
    tqOwner := if k.tqOwner.isNone && testBit need.toNat 1 then some 7 else k.tqOwner
    waiters := if m || q then k.waiters.filter (· ≠ 7) ++ [7] else k.waiters }
  let x := s1.thr c 7
  s1.setThr c 7 (if m || q then { x with st := .waitRes, wait := .launch m q } else { x with st := .ready, wait := .none })

/-- Gives an idle channel, or one held for the command, to a command, whose checks begin: t7 of its clusters is launched (R60, R61), and the
lead's page shows the command (R167). -/
def State.takeChannel (s : State) (ch : Nat) (c : Cmd) : State :=
  let x := s.chan ch
  let s1 := s.setChan ch { holder := some c.id, stage := slvChecks, start := s.cad, busyAt := if x.stage = slvIdle then s.cad else x.busyAt }
  let s2 := (s.boundClusters ch).foldl (State.launchThread7 c.opc) (s1.addF F.SLV_LAUNCH_CNT_COUNT 1 ch)
  if ch = c.engine then (s2.setF F.SLV_CUR_TAG c.tag ch).setF F.SLV_CUR_ITER 0 ch else s2

/-- Lets an idle channel take the command that is next for it; a batch command only holds it (R169). -/
def State.offerChannel (s : State) (ch : Nat) : State :=
  if (s.chan ch).holder.isSome then s else
  match s.nextForChannel ch with
  | some c =>
    if c.isBatch then
      let s1 := s.setChan ch { holder := some c.id, stage := slvHeld, busyAt := s.cad }
      if isBatchCh ch then s1.setF F.SLV_SET_MASK c.mask ch else s1
    else s.takeChannel ch c
  | none => s

/-- Records the end of a command on its channel's page (Table 06-13). -/
def State.slvEnd (s : State) (ch : Nat) (c : Cmd) (status cause : Nat) : State :=
  let s1 := s.slvLast ch c.tag status cause
  if status = 0 then s1
  else if status = 0x10 || status = 0x25 then s1.setErr F.SLV_ERR_LAUNCH_REFUSED ch (some c.part)
  else s1.setErr F.SLV_ERR_CMD_ERROR ch (some c.part)

/-- A job fault that a channel meets (R162): its bit, and the channel stops as the command ends with the fault's status. -/
def State.slvFault (s : State) (ch : Nat) (c : Cmd) (f : JobFault) : State :=
  let bit := if f = .tileCheck then F.SLV_ERR_TILE_CHECK else if f = .collPoisoned then F.SLV_ERR_COLL_POISONED else F.SLV_ERR_ECC_UE
  let s1 := s.setErr bit ch (some c.part)
  (s1.faultOpt (s1.acceptingSlot c.part) f).endFaulted (some c.id) f

/-- Collectives that the solves of several members have in flight, at most two each (R155); how many at a moment is a free value (log 108). -/
def State.solveColls (s : State) : Nat :=
  (List.range 56).foldl (fun n ch =>
    if (s.chan ch).stage = slvIterating && (s.chan ch).multi then n + (Config.freeWord (s.fresh + ch)).toNat % 3 else n) 0

end Sys2Proof.Machine
end

