-- ==== Sys2Proof/Machine/Solver.lean ====
section
/-! DEFINITION. Schedule channels (chapter 06): SOLVE and DIGEST, their checks, starts, deadlines and ends. -/

namespace Sys2Proof.Machine

/-- A schedule's header (Table 06-2). -/
structure SchedHdr where
  magic : Nat
  format : Nat
  flags : Nat
  n : Nat
  nnz : Nat
  ranks : Nat
  rank : Nat
  slots : Nat
  levelsL : Nat
  levelsU : Nat
  spadNeed : Nat
  vecBytes : Nat
  pcBytes : Nat
  offPart : Nat
  offLevel : Nat
  offStream : Nat
  offComm : Nat
  offBlock : Nat
  total : Nat
  /-- Reserved bytes are zero. -/
  clean : Bool
  deriving DecidableEq, Repr

def State.schedHdr (s : State) (a : Nat) : SchedHdr :=
  { magic := s.u32 a, format := readLe s.hbm (a + 4) 2, flags := readLe s.hbm (a + 6) 2, n := s.u32 (a + 40), nnz := s.u32 (a + 44)
    ranks := s.u32 (a + 48), rank := s.u32 (a + 52), slots := readLe s.hbm (a + 56) 2, levelsL := readLe s.hbm (a + 58) 2
    levelsU := readLe s.hbm (a + 60) 2, spadNeed := readLe s.hbm (a + 62) 1, vecBytes := s.u64 (a + 64), pcBytes := s.u64 (a + 72)
    offPart := s.u64 (a + 80), offLevel := s.u64 (a + 88), offStream := s.u64 (a + 96), offComm := s.u64 (a + 104), offBlock := s.u64 (a + 112)
    total := s.u64 (a + 120), clean := (readBytes s.hbm (a + 136) 120).all (· = 0) }

/-- The sections of a schedule (Table 06-3): each that is present is aligned to 4 KiB and lies in the schedule. -/
def SchedHdr.sectionsOk (h : SchedHdr) : Bool :=
  let at_ := fun (off n : Nat) => off % 4096 = 0 && decide (off + n ≤ h.total)
  at_ h.offPart (16 * h.slots) && (h.offLevel = 0 || at_ h.offLevel (16 * (h.levelsL + h.levelsU))) && at_ h.offStream 0 &&
  (h.ranks = 1 || at_ h.offComm 0) && (h.offBlock = 0 || at_ h.offBlock 0)

/-- A SOLVE's parameter block (Table 06-5). -/
structure SolveParams where
  sched : Nat
  mat : Nat
  b : Nat
  x : Nat
  warm : Nat
  pcAddr : Nat
  work : Nat
  report : Nat
  rtol : Nat
  atol : Nat
  tau : Nat
  maxit : Nat
  comm : Nat
  method : Nat
  pc : Nat
  m : Nat
  degree : Nat
  flags : Nat
  lmin : Nat
  lmax : Nat
  clean : Bool
  deriving DecidableEq, Repr

def solveParams (ws : List Word) : SolveParams :=
  let w := fun i => ((ws[i]?).getD 0).toNat
  { sched := w 0, mat := w 1, b := w 2, x := w 3, warm := w 4, pcAddr := w 5, work := w 6, report := w 7, rtol := w 8, atol := w 9
    tau := w 10, maxit := bitsOf (w 11) 31 0, comm := bitsOf (w 11) 47 32, method := bitsOf (w 11) 55 48, pc := bitsOf (w 11) 63 56
    m := bitsOf (w 12) 7 0, degree := bitsOf (w 12) 15 8, flags := bitsOf (w 12) 31 16, lmin := w 13, lmax := w 14
    clean := bitsOf (w 12) 63 32 = 0 && w 15 = 0 }

/-- Work vectors beyond the ten (Table 06-5). -/
def SolveParams.v (p : SolveParams) : Nat := if p.method = 2 then p.m + 1 else 0

/-! ### Checks (R142) -/

/-- Whether a channel may run a partition's solver command: EN is 1 and the channel is the partition's. -/
def State.chanOk (s : State) (ch p : Nat) : Bool := s.partOfSlv ch = some p && s.getF F.SLV_CTRL_EN ch = 1

/-- The warm-start case of R157: WARM, the initial vector's address, and whether the preconditioner is reused. -/
def State.warmCase (s : State) (q : SolveParams) (tau : Nat) : Nat × Option Nat × Bool :=
  if q.warm = 0 then (0, none, false)
  else
    let same := s.digest16 q.warm = s.digest16 (q.mat + 48)
    let x0 := s.u64 (q.warm + 24)
    if same then
      (1, some x0, !testBit q.flags 2 && readLe s.hbm (q.warm + 40) 1 = q.pc && readLe s.hbm (q.warm + 41) 1 = q.degree &&
        s.u64 (q.warm + 48) = tau && s.u64 (q.warm + 32) = q.pcAddr)
    else if s.u64 (q.warm + 16) = (s.matDesc q.mat).n && testBit q.flags 0 then (2, some x0, false)
    else (3, none, false)

/-- Check 1: channel and areas; the initial vector that a warm-start record names is one of them (R163). -/
def State.solveCheck1 (s : State) (c : Cmd) : Bool :=
  let q := solveParams c.block
  let p := c.part
  !isBatchCh c.engine && s.chanOk c.engine p && s.areaOk p 64 c.param 128 && s.areaOk p 4096 q.sched 256 &&
  (let h := s.schedHdr q.sched
   s.areaOk p 4096 q.sched h.total && h.sectionsOk && s.matOk p q.mat true && s.areaOk p 4096 q.b (8 * h.n) && s.areaOk p 4096 q.x (8 * h.n) &&
   (q.warm = 0 || (s.areaOk p 64 q.warm 64 &&
     (match (s.warmCase q 0).2.1 with
      | some a => s.areaOk p 4096 a (8 * h.n)
      | none => true))) &&
   s.areaOk p 4096 q.pcAddr h.pcBytes && s.areaOk p 4096 q.work ((10 + q.v) * h.vecBytes) &&
   s.areaOk p 64 q.report 64) &&
  (c.digestAddr = 0 || s.areaOk p 1 c.digestAddr 48)

/-- Check 2: fields. COMM is ignored when RANKS is 1. -/
def State.solveCheck2 (s : State) (c : Cmd) : Bool :=
  let q := solveParams c.block
  let h := s.schedHdr q.sched
  let m := s.matDesc q.mat
  q.clean && h.clean && c.num 40 24 = 0 && bitsOf (c.word 0) 55 54 = 0 && bitsOf (c.word 0) 47 16 = 0 &&
  f64NonNeg q.rtol && f64NonNeg q.atol && f64NonNeg q.tau && decide (1 ≤ q.maxit) && (h.ranks = 1 || decide (q.comm ≤ 4095)) &&
  decide (q.method ≤ 2) && decide (q.pc ≤ 5) && decide (1 ≤ q.m) && decide (q.m ≤ 64) && decide (1 ≤ q.degree) && decide (q.degree ≤ 16) &&
  decide (q.flags < 8) && !(q.method = 0 && q.pc = 3) && (q.pc ≠ 4 || testBit h.flags 0) &&
  (q.pc ≠ 5 || (f64Fin q.lmin && f64Fin q.lmax && f64Lt 0 q.lmin && f64Lt q.lmin q.lmax)) &&
  m.clean && decide (1 ≤ m.n) && decide (1 ≤ m.nnz)

/-- A communicator's members as ranks. -/
def State.commRanks (s : State) (p num : Nat) : Option (List Nat) :=
  match s.acceptingSlot p with
  | some j => (s.comms.find? (fun k => k.slot = j && k.num = num)).map (fun k => k.ranks)
  | none => none

/-- Check 3: the schedule. -/
def State.solveCheck3 (s : State) (c : Cmd) : Bool :=
  let q := solveParams c.block
  let h := s.schedHdr q.sched
  h.magic = 0x48435342 && h.format = 1 && h.slots = (s.boundClusters c.engine).length && decide (h.spadNeed ≤ s.getF F.SLV_SPAD_RES c.engine) &&
  (if h.ranks = 1 then h.rank = 0
   else
     match s.commRanks c.part q.comm, s.acceptingSlot c.part with
     | some rs, some j => rs.length = h.ranks && rs[h.rank]? = some (s.myRank j)
     | _, _ => false) &&
  (q.pc ≠ 2 || h.offBlock ≠ 0) && ((q.pc ≠ 3 && q.pc ≠ 4) || (h.offLevel ≠ 0 && h.levelsL ≠ 0 && h.levelsU ≠ 0))

/-- Check 4: the pattern digests. -/
def State.solveCheck4 (s : State) (c : Cmd) : Bool :=
  let q := solveParams c.block
  s.digest16 (q.sched + 8) = s.digest16 (q.mat + 48)

/-! ### Reports and warm starts (R154, R156 to R158) -/

/-- A solve report (Table 06-8). -/
def solveReport (status valid warm cause it restarts piv resNorm bNorm start end_ : Nat) (dig : List Byte) : List Byte :=
  natLe 1 status ++ natLe 1 valid ++ natLe 1 warm ++ natLe 1 cause ++ natLe 4 it ++ natLe 4 restarts ++ natLe 4 piv ++
  natLe 8 resNorm ++ natLe 8 bNorm ++ natLe 8 start ++ natLe 8 end_ ++ dig

/-- A refused command of parameter block `ws`: its report, where it has a place for one, and its end. Fields with no value at a refusal are free
(log 34). One whose commit point an abort took reports the abort (R153). -/
def State.solveRefuse (s : State) (c : Cmd) (ws : List Word) (status cause : Nat) : State :=
  let q := solveParams ws
  let own := (s.chan c.engine).holder = some c.id
  let start := if own then (s.chan c.engine).start else s.cad
  let aborted := c.phase = .aborted
  let e := if aborted then (0x01, 9) else (status, cause)
  let s0 := if own then s.leaveChannel c.engine else s
  let s1 := if c.opc = 0x50 && !ws.isEmpty && s.areaOk c.part 64 q.report 64 then
      { s0.hbmSealWrite q.report (solveReport e.1 0 0 e.2 0 0 0 (Config.freeWord s.fresh).toNat (Config.freeWord (s.fresh + 1)).toNat start s.cad
          (freeBytes (s.fresh + 2) 16)) with fresh := s0.fresh + 4 }
    else s0
  let s2 := if s.partOfSlv c.engine = some c.part && (own || (s.chan c.engine).holder.isNone) then s1.slvEnd c.engine c e.1 e.2 else s1
  s2.setCmd (if aborted then { c with stopped := true } else { c with phase := .ended, status := status, aux := 0 })

/-- Ranges that a SOLVE reads by lines: the schedule, the matrix and b, which it verifies, and the warm-start record (R111, R139, R162, R204). -/
def State.solveReads (s : State) (q : SolveParams) : List (Nat × Nat) :=
  let m := s.matDesc q.mat
  [(q.sched, (s.schedHdr q.sched).total), (q.mat, 64), (m.rowPtr, 4 * (m.n + 1)), (m.colIdx, 4 * m.nnz), (m.val, 8 * m.nnz), (q.b, 8 * m.n)]

/-- What a channel meets as it reads ranges that it verifies: a fenced stack, uncorrectable ECC, or a checksum that does not match (R162). -/
def State.readFault (s : State) (es : List EccHit) (rs : List (Nat × Nat)) : Option JobFault :=
  if rs.any (fun r => s.fencedIn r.1 r.2) then some .fenced
  else if eccBad (eccOn es true rs) then some .eccUe
  else if rs.all (fun r => s.hbmVerify r.1 r.2) then none
  else some .tileCheck

/-- Ranges read by a channel, and what the ECC found there (R207, R208). -/
def State.chanReads (s : State) (es : List EccHit) (rs : List (Nat × Nat)) : State := (s.memReads .line rs).eccHits (eccOn es true rs)

/-- Takes the channel for a command where it is idle and the command is next. -/
def State.takeIfNext (s : State) (ch : Nat) (c : Cmd) : State :=
  if (s.chan ch).holder.isNone && (s.nextForChannel ch).map (fun d => d.id) = some c.id then s.takeChannel ch c else s

/-- Bytes of the input digest of a SOLVE (Table 12-6). -/
def State.solveInput (s : State) (ws : List Word) (q : SolveParams) (x0 : Option Nat) : List Byte :=
  let m := s.matDesc q.mat
  List.replicate 64 0 ++ (ws.drop 8).flatMap (fun w => natLe 8 w.toNat) ++ readBytes s.hbm m.val (8 * m.nnz) ++ readBytes s.hbm q.b (8 * m.n) ++
  (match x0 with | some a => readBytes s.hbm a (8 * m.n) | none => [])

/-- The areas that R159 closes to writes while the solve runs. -/
def State.solveRanges (s : State) (q : SolveParams) (x0 : Option Nat) : List (Nat × Nat) :=
  let h := s.schedHdr q.sched
  let m := s.matDesc q.mat
  [(q.sched, h.total), (q.mat, 64), (m.rowPtr, 4 * (m.n + 1)), (m.colIdx, 4 * m.nnz), (m.val, 8 * m.nnz), (q.b, 8 * m.n), (q.x, 8 * h.n),
    (q.pcAddr, h.pcBytes), (q.work, (10 + q.v) * h.vecBytes)] ++ (if q.warm = 0 then [] else [(q.warm, 64)]) ++
  (match x0 with
   | some a => [(a, 8 * m.n)]
   | none => [])

/-- Ranges that a job fault leaves unspecified: X_ADDR (Table 06-7), and the areas the channel works in. -/
def State.solveOuts (s : State) (q : SolveParams) : List (Nat × Nat) :=
  let h := s.schedHdr q.sched
  [(q.x, 8 * h.n), (q.pcAddr, h.pcBytes), (q.work, (10 + q.v) * h.vecBytes)]

/-- Whether a command's deadline tick has come (R179). -/
def Cmd.pastDeadline (c : Cmd) (tick : Nat) : Bool := c.late || (c.deadline ≠ 0 && decide (c.deadline ≤ tick))

/-- Runs a step of a solver command that has started; one that an abort meets in its checks completes them (R153, R160). -/
def State.withChecks (s : State) (id : Nat) (f : Cmd → State) : State :=
  match s.cmd? id with
  | some c =>
    if c.phase = .started ||
        (c.phase = .aborted && !c.stopped && (s.chan c.engine).holder = some id && (s.chan c.engine).stage = slvChecks) then f c
    else s
  | none => s

/-- SOLVE: the checks of R142, and the solve begins. -/
def execSolve (x : CmdReads) (s : State) : Host.Outcome State Fault Refusal :=
  let id := x.id
  let es := x.ecc
  done (s.withChecks id (fun c =>
    if c.opc ≠ 0x50 || s.heldQueue c.queue then s
    else if s.partOfSlv c.engine ≠ some c.part then s.solveRefuse c c.block 0x10 5
    else
      let s := s.takeIfNext c.engine c
      if (s.chan c.engine).holder ≠ some id || (s.chan c.engine).stage ≠ slvChecks then s
      else if !s.solveCheck1 c || !s.solveCheck2 c || !s.solveCheck3 c then s.solveRefuse c c.block 0x10 5
      else if !s.solveCheck4 c then s.solveRefuse c c.block 0x25 5
      else
        let q := solveParams c.block
        let c := { c with outs := s.solveOuts q }
        let s1 := s.chanReads es (s.solveReads q)
        match s.readFault es (s.solveReads q) with
        | some f => (s1.setCmd c).slvFault c.engine c f
        | none =>
          let tau := s.tauOf c.engine q.tau (testBit q.flags 1)
          let w := s.warmCase q tau
          (s1.setCmd { c with phase := if c.phase = .aborted then .aborted else .running, unit := c.engine }).setChan c.engine
            { s1.chan c.engine with stage := slvIterating, params := c.block, warm := w.1, reuse := w.2.2, tau := tau
                                    lateEarly := c.pastDeadline s.cad || c.phase = .aborted, multi := (s.schedHdr q.sched).ranks ≠ 1
                                    areas := s.copyAreas (s.solveRanges q w.2.1)
                                    inDigest := if c.digestAddr = 0 then [] else sha384 (s.solveInput c.block q w.2.1) }))

/-- DIGEST (R138, R142): the pattern digest is written into the matrix descriptor. -/
def execDigest (x : CmdReads) (s : State) : Host.Outcome State Fault Refusal :=
  let id := x.id
  let es := x.ecc
  done (s.withStarted id (fun c =>
    if c.opc ≠ 0x51 then s
    else if s.partOfSlv c.engine ≠ some c.part then s.solveRefuse c [] 0x10 5
    else if isBatchCh c.engine && !s.rtPriv c.engine then (s.setErr F.SLV_ERR_PRIV_REFUSED c.engine (some c.part)).solveRefuse c [] 0x10 5
    else
      let s := s.takeIfNext c.engine c
      if (s.chan c.engine).holder ≠ some id then s
      else if !(s.chanOk c.engine c.part && s.matOk c.part c.param true) then s.solveRefuse c [] 0x10 5
      else
        let m := s.matDesc c.param
        let rs := [(c.param, 64), (m.rowPtr, 4 * (m.n + 1)), (m.colIdx, 4 * m.nnz)]
        let s1 := s.chanReads es rs
        match s.readFault es rs with
        | some f => s1.slvFault c.engine c f
        | none =>
          let s2 := s1.hbmSealWrite (c.param + 48) (s.patternDigest m)
          ((s2.leaveChannel c.engine).slvEnd c.engine c 0 0).setCmd { c with phase := .ended, status := 0 }))

/-- SOLVE_START: a waiting solver command takes its channel once it is idle (R143). -/
def execSolveStart (ch : BitVec 6) (s : State) : Host.Outcome State Fault Refusal := done (s.offerChannel ch.toNat)

/-- SOLVE_DEADLINE (R181): the command, solve or batch, is past its deadline tick. -/
def execSolveDeadline (id : Nat) (s : State) : Host.Outcome State Fault Refusal :=
  done (match s.cmd? id with
    | some c =>
      if c.isSolver && (c.phase = .started || c.phase = .running) && c.deadline ≠ 0 && decide (c.deadline ≤ s.cad) then
        s.setCmd { c with late := true }
      else s
    | none => s)

/-! ### The end of a solve (R148, R152 to R155, R180, R181) -/

/-- Entries of the block section until they reach `n` rows. -/
def State.blockList (s : State) (a n : Nat) : Nat → Nat → List (Nat × Nat)
  | 0, _ => []
  | fuel + 1, i =>
    let b := (s.u32 (a + 8 * i), s.u32 (a + 8 * i + 4))
    if n ≤ b.1 + b.2 then [b] else b :: s.blockList a n fuel (i + 1)

/-- The state with the areas of a launch as they stood then (R159). -/
def State.asLaunched (s : State) (as : List (Nat × List Byte)) : State := { s with hbm := as.foldl (fun m a => writeBytes m a.1 a.2) s.hbm }

/-- What the solve of a channel is given. -/
def State.solveCfg (s : State) (q : SolveParams) (tau : Nat) : SolCfg :=
  let h := s.schedHdr q.sched
  let m := s.matDesc q.mat
  { n := m.n, nHalo := m.halo, rows := s.csrRows m m.val, ranks := h.ranks, me := h.rank, b := s.vec q.b m.n, rtol := q.rtol, atol := q.atol
    slots := (List.range h.slots).map (fun i => (s.u32 (q.sched + h.offPart + 16 * i), s.u32 (q.sched + h.offPart + 16 * i + 4)))
    tau := tau, maxit := q.maxit, method := q.method, pc := q.pc, m := q.m, degree := q.degree
    lmin := q.lmin, lmax := q.lmax, blocks := if q.pc = 2 then s.blockList (q.sched + h.offBlock) m.n m.n 0 else [] }

/-- The communication plan (Table 06-3): rank, first halo index there and local rows sent, for each neighbour. The header does not count the
neighbours: they end at an entry of zeros or with the schedule (log 107). -/
def State.commPlan (s : State) (sched end_ : Nat) : Nat → Nat → List (Nat × Nat × List Nat)
  | 0, _ => []
  | fuel + 1, a =>
    if end_ < a + 32 || (readBytes s.hbm a 32).all (· = 0) then []
    else (s.u32 a, s.u32 (a + 16), (List.range (s.u32 (a + 4))).map (fun i => s.u32 (sched + s.u64 (a + 8) + 4 * i))) ::
      s.commPlan sched end_ fuel (a + 32)

/-- Sends the halo values of the products of a solve to its neighbours (R136). They count in the job's scope, issued and completed: the slots fence
before they go on (R262, R263; one access to a value, log 107). -/
def State.sendHalos (s : State) (slot : Option Nat) (plan : List (Nat × Nat × List Nat)) (vs : List Vec) : State :=
  let s1 := vs.foldl (fun s v => plan.foldl (fun s n => s.emit (.halo n.1 n.2.1 (n.2.2.map (vAt v)))) s) s
  match slot with
  | some j =>
    let n := vs.length * (plan.foldl (fun a p => a + p.2.2.length) 0)
    let e := s1.jobEpochs j
    s1.setJobEpochs j { e with issued := e.issued + n, completed := e.completed + n }
  | none => s1

/-- The parameter digest (R155): over the fields of the parameter block that are not addresses, τ as used, and the PATTERN_DIGEST of rank 0, in
that order (log 109). -/
def paramDigest (ws : List Word) (tau : Nat) (pattern0 : List Byte) : Nat :=
  leNat ((sha384 ((ws.drop 8).flatMap (fun w => natLe 8 w.toNat) ++ natLe 8 tau ++ pattern0)).take 8)

/-- A solve whose areas were written while it ran works on free values: its result is undefined (R159). -/
def SolCfg.loosen (c : SolCfg) (k : Nat) : SolCfg :=
  { c with
    b := freeVals k c.n
    rows := (List.range c.rows.length).map (fun i =>
      ((c.rows[i]?).getD []).map (fun e => (e.1, (Config.freeWord (k + c.n + i * (c.n + c.nHalo) + e.1)).toNat))) }

/-- What a preconditioner area holds that no set-up of this model wrote, or that was written since: free values (log 33). -/
def SolCfg.freePc (c : SolCfg) (k : Nat) : PcData :=
  let own := c.rows.map (fun r => r.filter (fun e => e.1 < c.n))
  let loose := fun (rs : List SRow) => (List.range rs.length).map (fun i =>
    ((rs[i]?).getD []).map (fun e => (e.1, (Config.freeWord (k + c.n + i * c.n + e.1)).toNat)))
  match c.pc with
  | 0 => .none
  | 2 => .lu (loose (blockRows c own))
  | 3 => .lu (loose own)
  | 4 => .ldl (loose ((List.range own.length).map (fun i => ((own[i]?).getD []).filter (fun e => e.1 < i)))) (freeVals k c.n)
  | _ => .diag (freeVals k c.n)

/-- The preconditioner that a launch reuses (R157). -/
def State.reusedPc (s : State) (c : SolCfg) (addr k : Nat) : PcData :=
  match s.pcAreas.find? (fun p => p.addr = addr) with
  | some p => if readBytes s.hbm addr p.len = freeBytes p.first p.len then p.data else c.freePc k
  | none => c.freePc k

/-- Rank of an end in Table 06-7, counted from the bottom row of a test passed. -/
def endRank (status : Nat) : Nat :=
  match status with
  | 0x00 => 0
  | 0x21 => 1
  | 0x22 => 2
  | 0x23 => 3
  | 0x20 => 4
  | 0x01 => 5
  | _ => 6

/-- Status and cause of an own end. -/
def ownEnd : SolEnd → Nat × Nat
  | .conv => (0, 0)
  | .cap => (0x21, 1)
  | .breakdown => (0x21, 2)
  | .pivotZero => (0x22, 6)
  | .overflow => (0x23, 7)
  | .stopped => (0x20, 8)

/-- Status and cause that a peer's end code gives this member. -/
def peerEnd (st : Nat) : Nat × Nat :=
  match st with
  | 0x01 => (0x21, 4)
  | 0x10 => (0x10, 3)
  | 0x20 => (0x20, 8)
  | 0x22 => (0x22, 6)
  | 0x23 => (0x23, 7)
  | 0x21 => (0x21, 2)
  | _ => (0, 0)

/-- The end that all members take; none: the solve has not come to an end. `early` says that the deciding test passed before the deadline tick
(R180); members whose parameter digests differ are refused (R155). -/
def solveEnding (e : SolEnd) (multi late early aborted differ : Bool) (p : SolvePeers) : Option (Nat × Nat) :=
  if aborted then some (0x01, 9)
  else if differ then some (0x10, 3)
  else
    let own := if e = .stopped then (if late then some (0x20, 8) else none)
      else if multi && late && !early && endRank (ownEnd e).1 < 4 then some (0x20, 8) else some (ownEnd e)
    match own, (if multi then p.peerEnd else none) with
    | o, none => o
    | none, some q => some (peerEnd q.toNat)
    | some o, some q => if endRank o.1 < endRank q.toNat then some (peerEnd q.toNat) else some o

/-- The vector that X_ADDR receives (Table 06-7). -/
def endVector (status : Nat) (x0 : Vec) (t : SolSt) : Option Vec :=
  if status = 0x10 then none
  else if status = 0x22 then (if x0.all f64Fin then some x0 else none)
  else t.xFin

/-- Writes what an end writes (R153), by the schedule and matrix as launched: areas that lie in the partition (R115, R163). A refusal writes its
report alone. -/
def State.solveOutputs (s : State) (k : SlvChan) (c : Cmd) (q : SolveParams) (h : SchedHdr) (dig : List Byte) (status cause : Nat) (x0 : Vec) (t : SolSt)
    (pc : Option PcData) : State :=
  let valid := if status = 0 || (status = 0x21 && cause ≠ 4) then 1 else 0
  let rep := solveReport status valid k.warm cause t.it t.restarts t.piv t.resNorm t.bNorm k.start s.cad dig
  if status = 0x10 then s.hbmSealWrite q.report rep else
  let s1 := match pc with
    | some d => { s.hbmSealWrite q.pcAddr (freeBytes s.fresh h.pcBytes) with
        fresh := s.fresh + h.pcBytes
        pcAreas := { addr := q.pcAddr, first := s.fresh, len := h.pcBytes, data := d } :: s.pcAreas.filter (fun a => a.addr ≠ q.pcAddr) }
    | none => s
  let n := (10 + q.v) * h.vecBytes
  let s2 := { s1.hbmSealWrite q.work (freeBytes s1.fresh n) with fresh := s1.fresh + n }
  let s3 := match endVector status x0 t with
    | some v => s2.hbmSealWrite q.x (vecBytes v)
    | none => s2
  let s4 := if q.warm ≠ 0 && valid = 1 then
      s3.hbmSealWrite q.warm (dig ++ natLe 8 h.n ++ natLe 8 q.x ++ natLe 8 q.pcAddr ++ natLe 1 q.pc ++ natLe 1 q.degree ++ natLe 6 0 ++
        natLe 8 k.tau ++ natLe 8 0)
    else s3
  let s5 := s4.hbmSealWrite q.report rep
  s5.writeDigestRecord c.part c.digestAddr k.inDigest (readBytes s5.hbm q.x (8 * h.n) ++ rep.take 32)

/-- One solve from its start: its initial vector, its state at the start and at the end, how it ended, the preconditioner that it made, the
parameter digest, whether another member's differs, and the number of free values it may draw. -/
structure SolveRun where
  x0 : Vec
  first : SolSt
  last : SolSt
  code : SolEnd
  made : Option PcData
  digest : Nat
  multi : Bool
  differ : Bool
  drawn : Nat

/-- Runs the solve of a channel on its areas as launched, with free values from number `n` on. A bounded number of reduction points, where a
deadline or abort stops a solve with one member, is a free value (log 35). A launch that waits for a claim makes none (R61). -/
def State.runSolve (s : State) (k : SlvChan) (p : SolvePeers) (n : Nat) (idle cut : Bool) : SolveRun :=
  let q := solveParams k.params
  let l := s.asLaunched k.areas
  let h := l.schedHdr q.sched
  let cfg0 := l.solveCfg q k.tau
  let cfg := if s.areasSame k.areas then cfg0 else cfg0.loosen (n + 4)
  let drawn := cfg.n + cfg.n * (cfg.n + cfg.nHalo)
  let x0 := match (l.warmCase q k.tau).2.1 with
    | some a => l.vec a cfg.n
    | none => List.replicate cfg.n 0
  let bound := if idle then some 0 else if cfg.multi || !cut then none else some (Config.freeWord n).toNat
  let t0 : SolSt := { x := x0, xFin := if x0.all f64Fin then some x0 else none, it := 0, restarts := 0, piv := 0
                      resNorm := (Config.freeWord (n + 1)).toNat, bNorm := (Config.freeWord (n + 2)).toNat, left := bound
                      points := p.points.map (fun r => r.map (fun m => m.map BitVec.toNat)), halos := p.halo.map (fun r => r.map BitVec.toNat) }
  let old := if k.reuse then some (s.reusedPc cfg q.pcAddr (n + 4 + drawn)) else none
  let setup := if idle then (.error .stopped, t0) else StateT.run (ExceptT.run (solveRun cfg old)) t0
  let run : Except SolEnd Unit × SolSt := match setup with
    | (.ok d, t) => StateT.run (ExceptT.run (solveIterate cfg d)) t
    | (.error e, t) => (.error e, t)
  let own := paramDigest k.params k.tau (if h.rank = 0 then l.digest16 (q.sched + 8) else p.pattern0)
  { x0 := x0, first := t0, last := run.2, digest := own, multi := cfg.multi, drawn := drawn
    code := match run.1 with
      | .error e => e
      | .ok _ => .conv
    made := match setup.1 with
      | .ok d => if old.isSome then none else some d
      | .error _ => none
    differ := cfg.multi && (List.range p.digests.length).any (fun i => i ≠ h.rank && (p.digests[i]?).map BitVec.toNat ≠ some own) }

/-- The reduction points of a solve: the collectives of their communicator that they were, counted, and its records of the last 16 of them with
free rank, lateness and reason, from free value `n` on (R155, R312; log 115). -/
def State.countPoints (s : State) (slot : Option Nat) (comm used n : Nat) : State :=
  let entry := fun (d : Comm) (i : Nat) =>
    let v := fun j => (Config.freeWord (n + 3 * i + j)).toNat
    ((d.next + i) % 2 ^ 32, (d.ranks[v 0 % Nat.max 1 d.ranks.length]?).getD 0, v 1, v 2 % 3 + 1)
  { s.addF F.CHN_COLL_CNT_COUNT used (comm % 2) with
    comms := s.comms.map (fun (d : Comm) =>
      if slot = some d.slot && d.num = comm then
        { d with next := (d.next + used) % 2 ^ 32, slow := (((List.range used).map (entry d)).reverse ++ d.slow).take 16 }
      else d)
    fresh := s.fresh + 3 * used }

/-- What a solve that ends with a status leaves: what it sent, its outputs, the channel's page, and its commit point. -/
def State.finishSolve (s : State) (ch : Nat) (k : SlvChan) (c : Cmd) (o : SolveRun) (st cause : Nat) : State :=
  let q := solveParams k.params
  let l := s.asLaunched k.areas
  let h := l.schedHdr q.sched
  let t := if st = 0x10 then o.first else o.last
  let used := o.last.mine.length
  let f0 : State := { s with fresh := s.fresh + 4 + 2 * o.drawn }
  let s0 := if o.multi then f0.countPoints (s.cmdSlot c) q.comm used f0.fresh else f0
  let s1 := if o.multi then
      (s0.sendHalos (s.cmdSlot c) (l.commPlan q.sched (q.sched + h.total) (h.total / 32) (q.sched + h.offComm)) o.last.sent).emit (.solvePoints o.digest o.last.mine st)
    else s0
  let s2 := s1.solveOutputs k c q h (l.digest16 (q.mat + 48)) st cause o.x0 t o.made
  let s3 := ((s2.addF F.SLV_ITER_CNT_COUNT t.it ch).addF F.SLV_PIVREPL_CNT_COUNT t.piv ch).setF F.SLV_CUR_ITER t.it ch
  let s4 := (((s.boundClusters ch).foldl State.scratch s3).leaveChannel ch).slvEnd ch c st cause
  let fl := if st = 0x10 then 0 else (if t.piv = 0 then 0 else 2) + (if k.warm = 3 then 1 else 0)
  if c.phase = .aborted then s4.setCmd { c with stopped := true, flags := fl }
  else s4.commitCmd c st 0 fl c.digestAddr

/-- The end of a solve whose channel may go on: what it reads, what faults it, and its outcome. Whether the test of one with several members
passed before the tick is a free value (log 35). -/
def State.endSolve (s : State) (ch : Nat) (k : SlvChan) (c : Cmd) (p : SolvePeers) : State :=
  let q := solveParams k.params
  let l := s.asLaunched k.areas
  let rs := l.solveReads q
  let late := c.pastDeadline s.cad
  let aborted := c.phase = .aborted
  if k.multi && p.fault.isSome then s.slvFault ch c .collPoisoned
  else if eccBad (eccOn p.ecc true rs) then (s.chanReads p.ecc rs).slvFault ch c .eccUe
  else
    let warm := match (l.warmCase q k.tau).2.1 with
      | some a => [(a, 8 * (l.matDesc q.mat).n)]
      | none => []
    let r := (s.memReads .line (rs ++ warm)).eccHits (eccOn p.ecc true rs)
    if !s.areasSame k.areas && testBit (Config.freeWord (r.fresh + 3)).toNat 0 then s.slvFault ch c .tileCheck
    else
      let o := s.runSolve k p r.fresh (k.lateEarly || s.launchWaits ch) (late || aborted)
      let early := o.multi && late && testBit (Config.freeWord r.fresh).toNat 0
      match solveEnding o.code o.multi late early aborted o.differ p with
      | none => s
      | some e => r.finishSolve ch k c o e.1 e.2

/-- SOLVE_END. `p` is what the other members brought. A launch that waits for a claim makes no way (R61). -/
def execSolveEnd (ch : BitVec 6) (p : SolvePeers) (s : State) : Host.Outcome State Fault Refusal :=
  let k := s.chan ch.toNat
  done (match k.holder.bind s.cmd? with
    | none => s
    | some c =>
      if k.stage ≠ slvIterating || s.heldQueue c.queue then s
      else if c.phase ≠ .running && c.phase ≠ .aborted then s.leaveChannel ch.toNat
      else if s.launchWaits ch.toNat && !c.pastDeadline s.cad && c.phase ≠ .aborted then s
      else s.endSolve ch.toNat k c p)

end Sys2Proof.Machine
end

