-- ==== Sys2Proof/Machine/Batch.lean ====
section
/-! DEFINITION. Batch channels (chapter 07): dense and sparse batches, their systems and their ends. -/

namespace Sys2Proof.Machine

/-- A batch parameter block (Table 07-1). -/
structure BatchParams where
  sched : Nat
  mat : Nat
  val : Nat
  b : Nat
  x : Nat
  status : Nat
  report : Nat
  aStride : Nat
  bStride : Nat
  xStride : Nat
  tau : Nat
  count : Nat
  n : Nat
  mask : Nat
  flags : Nat
  clean : Bool
  deriving DecidableEq, Repr

def batchParams (ws : List Word) : BatchParams :=
  let w := fun i => ((ws[i]?).getD 0).toNat
  { sched := w 0, mat := w 1, val := w 2, b := w 3, x := w 4, status := w 5, report := w 6, aStride := w 7, bStride := w 8, xStride := w 9
    tau := w 10, count := bitsOf (w 11) 31 0, n := bitsOf (w 11) 47 32, mask := bitsOf (w 11) 55 48, flags := bitsOf (w 11) 63 56
    clean := w 12 = 0 && w 13 = 0 && w 14 = 0 && w 15 = 0 }

def isSparse (c : Cmd) : Bool := c.opc = 0x53

/-- A batch schedule's header (Table 07-2). -/
structure BatchHdr where
  magic : Nat
  format : Nat
  n : Nat
  nnz : Nat
  nnzF : Nat
  spadNeed : Nat
  offRow : Nat
  offCol : Nat
  offMap : Nat
  total : Nat
  /-- Reserved bytes are zero. -/
  clean : Bool
  deriving DecidableEq, Repr

def State.batchHdr (s : State) (a : Nat) : BatchHdr :=
  { magic := s.u32 a, format := readLe s.hbm (a + 4) 2, n := s.u32 (a + 40), nnz := s.u32 (a + 44), nnzF := s.u32 (a + 48)
    spadNeed := readLe s.hbm (a + 62) 1, offRow := s.u64 (a + 72), offCol := s.u64 (a + 80), offMap := s.u64 (a + 88), total := s.u64 (a + 120)
    clean := [(6, 2), (24, 16), (52, 10), (63, 1), (96, 24), (136, 120)].all (fun r => (readBytes s.hbm (a + r.1) r.2).all (· = 0)) }

/-- The sections of a batch schedule (Table 07-2): each is aligned to 4 KiB and lies in the schedule. -/
def BatchHdr.sectionsOk (h : BatchHdr) : Bool :=
  [(h.offRow, 4 * (h.n + 1)), (h.offCol, 4 * h.nnzF), (h.offMap, 4 * h.nnz)].all (fun r => r.1 % 4096 = 0 && decide (r.1 + r.2 ≤ h.total))

/-! ### Checks (R165, R166, R170) -/

/-- Bytes of one system's matrix or values. -/
def State.sysBytes (s : State) (c : Cmd) (q : BatchParams) : Nat := if isSparse c then 8 * (s.batchHdr q.sched).nnz else 8 * q.n * q.n

/-- An array of COUNT items at a stride lies in the partition's memory. -/
def State.stridedOk (s : State) (p a stride n count : Nat) : Bool :=
  a % 64 = 0 && stride % 64 = 0 && (List.range count).all (fun i => s.inUnits p (a + i * stride) n)

def State.batchCheck1 (s : State) (c : Cmd) : Bool :=
  let q := batchParams c.block
  let p := c.part
  c.channels.all (fun ch => s.getF F.SLV_CTRL_EN ch = 1) && s.rtPriv c.engine && s.areaOk p 64 c.param 128 &&
  (if isSparse c then
     s.areaOk p 4096 q.sched 256 && s.areaOk p 4096 q.sched (s.batchHdr q.sched).total && (s.batchHdr q.sched).sectionsOk && s.matOk p q.mat false &&
     s.stridedOk p q.val q.aStride (s.sysBytes c q) q.count
   else s.stridedOk p q.mat q.aStride (s.sysBytes c q) q.count) &&
  s.stridedOk p q.b q.bStride (8 * q.n) q.count && s.stridedOk p q.x q.xStride (8 * q.n) q.count &&
  s.areaOk p 64 q.status (2 * q.count) && s.areaOk p 64 q.report 64 && (c.digestAddr = 0 || s.areaOk p 1 c.digestAddr 48)

def State.batchCheck2 (s : State) (c : Cmd) : Bool :=
  let q := batchParams c.block
  q.clean && c.num 40 24 = 0 && bitsOf (c.word 0) 55 54 = 0 && bitsOf (c.word 0) 47 16 = 0 && decide (1 ≤ q.count) && decide (q.count ≤ 65536) &&
  decide (q.flags < 2) && testBit q.mask (c.engine - 56) && decide (8 * q.n ≤ q.bStride) && decide (8 * q.n ≤ q.xStride) && decide (1 ≤ q.n) &&
  (if isSparse c then
     let m := s.matDesc q.mat
     decide (q.n ≤ 4096) && decide (s.sysBytes c q ≤ q.aStride) && f64NonNeg q.tau && m.clean && decide (1 ≤ m.n) && decide (1 ≤ m.nnz) && (s.batchHdr q.sched).clean
   else decide (q.n ≤ 128) && decide (8 * q.n * q.n ≤ q.aStride) && q.sched = 0 && q.val = 0) &&
  c.channels.all (fun ch => s.partOfSlv ch = some c.part && !(s.boundClusters ch).isEmpty)

def State.batchCheck3 (s : State) (c : Cmd) : Bool :=
  let q := batchParams c.block
  let h := s.batchHdr q.sched
  !isSparse c || (h.magic = 0x48435342 && h.format = 2 && h.n = q.n && c.channels.all (fun ch => decide (h.spadNeed ≤ s.getF F.SLV_SPAD_RES ch)))

def State.batchCheck4 (s : State) (c : Cmd) : Bool :=
  let q := batchParams c.block
  !isSparse c || s.digest16 (q.sched + 8) = s.digest16 (q.mat + 48)

/-! ### Reports (Table 07-4) and refusals -/

def batchReport (status cause count done_ zeroN ovf unfin first piv start end_ : Nat) (dig : List Byte) : List Byte :=
  natLe 1 status ++ natLe 2 0 ++ natLe 1 cause ++ natLe 4 count ++ natLe 4 done_ ++ natLe 4 zeroN ++ natLe 4 ovf ++ natLe 4 unfin ++
  natLe 4 first ++ natLe 4 piv ++ natLe 8 start ++ natLe 8 end_ ++ dig

/-- Every channel that a command holds gives it up. -/
def State.leaveAll (s : State) (id : Nat) : State :=
  (List.range 64).foldl (fun s ch => if (s.chan ch).holder = some id then s.leaveChannel ch else s) s

/-- A refused batch command (R170): a report with every count zero. One whose commit point an abort took reports the abort (R177). -/
def State.batchRefuse (s : State) (c : Cmd) (status : Nat) : State :=
  let q := batchParams c.block
  let own := (s.chan c.engine).holder = some c.id
  let start := if own then (s.chan c.engine).start else s.cad
  let aborted := c.phase = .aborted
  let e := if aborted then (0x01, 9) else (status, 5)
  let s0 := s.leaveAll c.id
  let s1 := if !c.block.isEmpty && s.areaOk c.part 64 q.report 64 then
      s0.hbmSealWrite q.report (batchReport e.1 e.2 0 0 0 0 0 0xFFFFFFFF 0 start s.cad (natLe 16 0))
    else s0
  let s2 := if s.partOfSlv c.engine ≠ some c.part then s1
    else if isBatchCh c.engine && !s.rtPriv c.engine then (s1.setErr F.SLV_ERR_PRIV_REFUSED c.engine (some c.part)).slvEnd c.engine c e.1 e.2
    else s1.slvEnd c.engine c e.1 e.2
  s2.setCmd (if aborted then { c with stopped := true } else { c with phase := .ended, status := status, aux := 0 })

/-- Whether the command may wait for its channels: its lead is a batch channel of its partition, which holds the privilege (R165, R166). -/
def State.batchMayWait (s : State) (c : Cmd) : Bool :=
  isBatchCh c.engine && s.partOfSlv c.engine = some c.part && s.rtPriv c.engine

/-- The channels of its partition that a command waits for: it never waits for another partition's (R143, R169). -/
def State.waitChannels (s : State) (c : Cmd) : List Nat := c.channels.filter (fun ch => s.partOfSlv ch = some c.part)

/-- BATCH_START (R169): each named idle channel is held for the command whose turn it is; once all are, its checks begin. -/
def execBatchStart (id : Nat) (s : State) : Host.Outcome State Fault Refusal :=
  done (s.withStarted id (fun c =>
    if !c.isBatch || !s.batchMayWait c then s
    else
      let s1 := (s.waitChannels c).foldl State.offerChannel s
      if (s.waitChannels c).all (fun ch => (s1.chan ch).holder = some id && (s1.chan ch).stage = slvHeld) then
        (s.waitChannels c).foldl (fun s ch => s.takeChannel ch c) s1
      else s1))

/-- Slots of the command: channel and cluster, in ascending channel number (R169). -/
def State.batchSlots (s : State) (c : Cmd) : List (Nat × Nat) :=
  c.channels.flatMap (fun ch => (s.boundClusters ch).map (fun k => (ch, k)))

/-- Free slots take the lowest-numbered systems not started (R171). -/
def BatchRun.assign (r : BatchRun) (count : Nat) : BatchRun :=
  let n := Nat.min r.free.length (count - r.next)
  { r with next := r.next + n, free := r.free.drop n
           slots := r.slots ++ (List.range n).map (fun i => let f := (r.free[i]?).getD (0, 0); (f.1, f.2, r.next + i)) }

def State.setBatch (s : State) (r : BatchRun) : State := { s with batch := r :: s.batch.filter (fun q => q.id ≠ r.id) }
def State.batchOf (s : State) (id : Nat) : Option BatchRun := s.batch.find? (fun r => r.id = id)

/-- Input of a batch's digest (Table 12-6). -/
def State.batchInput (s : State) (c : Cmd) (ws : List Word) (q : BatchParams) : List Byte :=
  List.replicate 80 0 ++ (ws.drop 10).flatMap (fun w => natLe 8 w.toNat) ++
  (List.range q.count).flatMap (fun i =>
    readBytes s.hbm ((if isSparse c then q.val else q.mat) + i * q.aStride) (s.sysBytes c q) ++ readBytes s.hbm (q.b + i * q.bStride) (8 * q.n))

/-- The areas that R176 closes to writes while a batch runs: those of the command, and those of one system. -/
def State.batchRanges (s : State) (c : Cmd) (q : BatchParams) : List (Nat × Nat) :=
  let m := s.matDesc q.mat
  (q.report, 64) :: (if isSparse c then
    [(q.sched, (s.batchHdr q.sched).total), (q.mat, 64), (m.rowPtr, 4 * (m.n + 1)), (m.colIdx, 4 * m.nnz)] else [])
def State.systemRanges (s : State) (c : Cmd) (q : BatchParams) (n : Nat) : List (Nat × Nat) :=
  [((if isSparse c then q.val else q.mat) + n * q.aStride, s.sysBytes c q), (q.b + n * q.bStride, 8 * q.n), (q.x + n * q.xStride, 8 * q.n),
    (q.status + 2 * n, 2)]

/-- Ranges that a job fault leaves unspecified: the status array and the solutions (R178). -/
def batchOuts (q : BatchParams) : List (Nat × Nat) :=
  (q.status, 2 * q.count) :: (List.range q.count).map (fun n => (q.x + n * q.xStride, 8 * q.n))

/-- The checks of a batch command; past them, its slots take systems. One that may not wait for its channels is refused once its lead is idle. -/
def State.batchBegin (s : State) (id opc : Nat) (es : List EccHit) : State :=
  s.withChecks id (fun c =>
    if c.opc ≠ opc || s.heldQueue c.queue then s
    else if !s.batchMayWait c then
      (if s.partOfSlv c.engine = some c.part && (s.chan c.engine).holder.isSome && (s.chan c.engine).holder ≠ some id then s else s.batchRefuse c 0x10)
    else if (s.chan c.engine).holder ≠ some id || (s.chan c.engine).stage ≠ slvChecks then s
    else if !s.batchCheck1 c || !s.batchCheck2 c || !s.batchCheck3 c then s.batchRefuse c 0x10
    else if !s.batchCheck4 c then s.batchRefuse c 0x25
    else
      let q := batchParams c.block
      let c := { c with outs := batchOuts q }
      let rs := if isSparse c then [(q.sched, (s.batchHdr q.sched).total), (q.mat, 64)] else []
      let s1 := s.chanReads es rs
      match s.readFault es rs with
      | some f => (s1.setCmd c).slvFault c.engine c f
      | none =>
        let r0 : BatchRun :=
          { id := id, lead := c.engine, mask := q.mask, start := (s.chan c.engine).start, params := c.block, next := 0, slots := []
            free := s.batchSlots c, ends := [], inDigest := if c.digestAddr = 0 then [] else sha384 (s.batchInput c c.block q)
            areas := s.copyAreas (s.batchRanges c q), sys := (List.range q.count).map (fun n => s.copyAreas (s.systemRanges c q n))
            tau := s.tauOf c.engine q.tau (testBit q.flags 0) }
        let r := if c.pastDeadline s.cad || c.phase = .aborted then r0 else r0.assign q.count
        let s2 := c.channels.foldl (fun s ch => s.setChan ch { s.chan ch with stage := slvIterating }) s1
        (s2.setCmd { c with phase := if c.phase = .aborted then .aborted else .running, unit := c.engine, late := c.pastDeadline s.cad }).setBatch r)

def execBatchDense (x : CmdReads) (s : State) : Host.Outcome State Fault Refusal := done (s.batchBegin x.id 0x52 x.ecc)
def execBatchSparse (x : CmdReads) (s : State) : Host.Outcome State Fault Refusal := done (s.batchBegin x.id 0x53 x.ecc)

/-! ### One system (R172 to R174) -/

/-- Lowest index from `k` up with the largest magnitude in column `k`. -/
def pivotRow (a : List Vec) (k : Nat) : Nat :=
  (List.range' k (a.length - k)).foldl (fun p i => if f64Lt (f64Abs (vAt ((a[p]?).getD []) k)) (f64Abs (vAt ((a[i]?).getD []) k)) then i else p) k

def swapAt {α : Type} [Inhabited α] (l : List α) (i j : Nat) : List α := (l.set i (l.getD j default)).set j (l.getD i default)

/-- One column of the dense factorisation. -/
def denseColumn (st : List Vec × Vec) (k : Nat) : SolM (List Vec × Vec) := do
  let p := pivotRow st.1 k
  let d := vAt ((st.1[p]?).getD []) k
  if f64Zero d then throw .pivotZero
  let a := swapAt st.1 k p
  let b := swapAt st.2 k p
  let rk := (a[k]?).getD []
  let a1 ← (List.range a.length).mapM (fun i => do
    let r := (a[i]?).getD []
    if i ≤ k then pure r
    else do
      let l ← chk (f64Div (vAt r k) d)
      chkV ((List.range r.length).map (fun j => if j < k then vAt r j else if j = k then l else f64Fma (f64Neg l) (vAt rk j) (vAt r j))))
  pure (a1, b)

/-- A dense system (R172). -/
def denseSolve (a : List Vec) (b : Vec) : SolM Vec := do
  let _ ← a.mapM chkV
  let _ ← chkV b
  let f ← (List.range a.length).foldlM denseColumn (a, b)
  let rows : List SRow := f.1.map (fun r => (List.range r.length).map (fun j => (j, vAt r j)))
  let y ← forward rows f.2
  backward rows.length (fun i => ((rows[i]?).getD []).filter (fun e => i < e.1)) (fun i => lookRow ((rows[i]?).getD []) i) y

/-- A sparse system on its filled pattern (R173): `ms` gives m_i. -/
def sparseSolve (tau : Nat) (ms : List Nat) (rows : List SRow) (vals b : Vec) : SolM Vec := do
  let _ ← chkV vals
  let _ ← chkV b
  let f ← luFactor tau ms rows
  let y ← forward f b
  backward f.length (fun i => ((f[i]?).getD []).filter (fun e => i < e.1)) (fun i => lookRow ((f[i]?).getD []) i) y

/-- The filled rows of a system: +0, then the stored entries at their mapped positions. -/
def State.filledRows (s : State) (q : BatchParams) (vals : Vec) : List SRow :=
  let h := s.batchHdr q.sched
  let map := (List.range h.nnz).map (fun e => (s.u32 (q.sched + h.offMap + 4 * e), vAt vals e))
  (List.range h.n).map (fun i =>
    let e0 := s.u32 (q.sched + h.offRow + 4 * i)
    let e1 := s.u32 (q.sched + h.offRow + 4 * (i + 1))
    (List.range' e0 (e1 - e0)).map (fun e => (s.u32 (q.sched + h.offCol + 4 * e), (lookRow map e).getD 0)))

/-- Whether the areas of the command and of system `n` stand as they did at the launch (R176). -/
def State.systemSame (s : State) (r : BatchRun) (n : Nat) : Bool := s.areasSame r.areas && s.areasSame ((r.sys[n]?).getD [])

/-- Values of system `n` and of its right-hand side, or free values from a number on where its areas were written (R176). -/
def State.systemVals (s : State) (a n : Nat) : Option Nat → Vec
  | none => s.vec a n
  | some k => freeVals k n

/-- The solution of system `n`: its status, pivots replaced and solution. -/
def State.solveSystem (s : State) (c : Cmd) (q : BatchParams) (tau n : Nat) (loose : Option Nat) : Nat × Nat × Option Vec :=
  let t0 : SolSt := { x := [], xFin := none, it := 0, restarts := 0, piv := 0, resNorm := 0, bNorm := 0, left := none, points := [], halos := [] }
  let b := s.systemVals (q.b + n * q.bStride) q.n loose
  let r :=
    if isSparse c then
      let m := s.matDesc q.mat
      let v := q.val + n * q.aStride
      let vals := s.systemVals v (s.batchHdr q.sched).nnz (loose.map (· + q.n))
      let ms := (List.range m.n).map (fun i =>
        let e0 := s.u32 (m.rowPtr + 4 * i)
        rowMax ((List.range' e0 (s.u32 (m.rowPtr + 4 * (i + 1)) - e0)).map (fun e => (0, vAt vals e))))
      StateT.run (ExceptT.run (sparseSolve tau ms (s.filledRows q vals) vals b)) t0
    else StateT.run (ExceptT.run (denseSolve ((List.range q.n).map (fun i =>
      s.systemVals (q.mat + n * q.aStride + 8 * q.n * i) q.n (loose.map (· + q.n * (i + 1))))) b)) t0
  match r with
  | (.ok x, t) => (0, t.piv, some x)
  | (.error .pivotZero, t) => (if isSparse c then 0x22 else 0x24, t.piv, none)
  | (.error _, t) => (0x23, t.piv, none)

/-- Adds a system's end to its channel's counters (Table 07-7). -/
def State.countSystem (s : State) (ch st : Nat) : State :=
  if st = 0 then s.addF F.SLV_SYS_CNT_COUNT 1 ch
  else if st = 0x24 || st = 0x22 then s.addF F.SLV_ZERO_CNT_COUNT 1 ch
  else if st = 0x23 then s.addF F.SLV_OVF_CNT_COUNT 1 ch
  else s.addF F.SLV_UNFIN_CNT_COUNT 1 ch

/-- Writes a system's status entry (R175). -/
def State.writeEntry (s : State) (q : BatchParams) (n st flags : Nat) : State := s.hbmSealWrite (q.status + 2 * n) (natLe 1 st ++ natLe 1 flags)

/-- BATCH_SYSTEM_END: a slot ends system `n` and takes the next; from the deadline tick on (R180), or after an abort, the system is unfinished.
A slot whose launch waits for a claim works on none (R61). -/
def execBatchSystemEnd (id : Nat) (y : SystemEnd) (s : State) : Host.Outcome State Fault Refusal :=
  let n := y.n
  let es := y.ecc
  done (match s.batchOf id, s.cmd? id with
    | some r, some c =>
      match r.slots.find? (fun x => x.2.2 = n) with
      | none => s
      | some x =>
        let late := c.pastDeadline s.cad
        let stop := late || c.phase = .aborted
        if (c.phase ≠ .running && c.phase ≠ .aborted) || s.heldQueue c.queue || (!stop && s.launchWaits x.1) then s
        else
          let q := batchParams r.params
          let broken := !s.systemSame r n
          let rs := s.systemRanges c q n
          let s0 := (if stop then s else s.chanReads es (rs.take 2)).setCmd { c with late := late }
          if eccBad (eccOn es true (rs.take 2)) && !stop then s0.slvFault r.lead c .eccUe
          else if broken && testBit (Config.freeWord s0.fresh).toNat 0 then s0.slvFault r.lead c .tileCheck else
          let e := if stop then (if c.phase = .aborted then 0x01 else 0x20, 0, none) else s.solveSystem c q r.tau n (if broken then some (s0.fresh + 1) else none)
          let fl := (if e.1 = 0 then 1 else 0) + (if e.2.1 = 0 then 0 else 2)
          let s1 := match e.2.2 with
            | some v => s0.hbmSealWrite (q.x + n * q.xStride) (vecBytes v)
            | none => s0
          let s2 := ((s1.writeEntry q n e.1 fl).countSystem x.1 e.1).addF F.SLV_PIVREPL_CNT_COUNT e.2.1 x.1 |>.scratch x.2.1
          let r1 := { r with slots := r.slots.filter (fun y => y.2.2 ≠ n), free := r.free ++ [(x.1, x.2.1)], ends := r.ends ++ [(n, e.1, fl, e.2.1)] }
          ({ s2 with fresh := s2.fresh + (if broken then 1 + q.n + s.sysBytes c q else 0) }).setBatch (if stop then r1 else r1.assign q.count)
    | _, _ => s)

/-- Status and cause of the command (R177). -/
def batchStatus (aborted : Bool) (ends : List (Nat × Nat × Nat × Nat)) : Nat × Nat :=
  if aborted then (0x01, 9)
  else if ends.any (fun e => e.2.1 = 0x20) then (0x20, 8)
  else
    let bad := ends.filter (fun e => e.2.1 ≠ 0)
    match bad.foldl (fun (a : Option (Nat × Nat)) e => match a with
        | none => some (e.1, e.2.1)
        | some b => if e.1 < b.1 then some (e.1, e.2.1) else some b) none with
    | some b => (b.2, 0)
    | none => (0, 0)

/-- BATCH_COMMIT: no slot is at work; systems not started are unfinished. -/
def execBatchCommit (id : Nat) (s : State) : Host.Outcome State Fault Refusal :=
  done (match s.batchOf id, s.cmd? id with
    | some r, some c =>
      let q := batchParams r.params
      let aborted := c.phase = .aborted
      if c.phase ≠ .running && c.phase ≠ .aborted then { s.leaveAll id with batch := s.batch.filter (fun x => x.id ≠ id) }
      else if s.heldQueue c.queue || !r.slots.isEmpty || (r.next < q.count && !c.pastDeadline s.cad && !aborted) then s
      else
        let st0 := if aborted then 0x01 else 0x20
        let rest := List.range' r.next (q.count - r.next)
        let s1 := rest.foldl (fun s n => (s.writeEntry q n st0 0).countSystem r.lead st0) s
        let ends := r.ends ++ rest.map (fun n => (n, st0, 0, 0))
        let st := batchStatus aborted ends
        let cnt := fun (f : Nat → Bool) => (ends.filter (fun e => f e.2.1)).length
        let bads := (ends.filter (fun e => e.2.1 ≠ 0)).map (fun e => e.1)
        let piv := ends.foldl (fun a e => a + e.2.2.2) 0
        let s2 := s1.hbmSealWrite q.report (batchReport st.1 st.2 q.count (cnt (· = 0)) (cnt (fun x => x = 0x24 || x = 0x22)) (cnt (· = 0x23))
          (cnt (fun x => x = 0x20 || x = 0x01)) (bads.foldl Nat.min 0xFFFFFFFF) piv r.start s.cad
          (if isSparse c then s.digest16 (q.mat + 48) else natLe 16 0))
        let s3 := s2.writeDigestRecord c.part c.digestAddr r.inDigest
          ((List.range q.count).flatMap (fun n => readBytes s2.hbm (q.x + n * q.xStride) (8 * q.n)) ++ readBytes s2.hbm q.status (2 * q.count))
        let s4 := ({ s3.leaveAll id with batch := s.batch.filter (fun x => x.id ≠ id) }).slvEnd r.lead c st.1 st.2
        let fl := if ends.any (fun e => testBit e.2.2.1 1) then 2 else 0
        if aborted then s4.setCmd { c with stopped := true, flags := fl }
        else s4.commitCmd c st.1 0 fl c.digestAddr
    | _, _ => s)

end Sys2Proof.Machine
end

