-- ==== Sys2Proof/Machine/ChainCore.lean ====
section
/-! DEFINITION. What Chain engines send (R290, R298 to R300): cells, chunks and passes. -/

namespace Sys2Proof.Machine

abbrev phUp : Nat := 0
abbrev phDown : Nat := 1
abbrev phRs : Nat := 2
abbrev phAg : Nat := 3
abbrev phChunk : Nat := 4
abbrev phReady : Nat := 5
abbrev phConfUp : Nat := 6
abbrev phConfDown : Nat := 7
abbrev phEnd : Nat := 8

/-- Cells of one pass (R300). -/
abbrev passCells : Nat := 268435456

def State.comm? (s : State) (slot num : Nat) : Option Comm := s.comms.find? (fun c => c.slot = slot && c.num = num)
def State.setComm (s : State) (c : Comm) : State :=
  { s with comms := s.comms.map (fun d => if d.slot = c.slot && d.num = c.num then c else d) }

def State.coll? (s : State) (slot num seq : Nat) : Option Coll :=
  s.colls.find? (fun k => k.slot = slot && k.comm = num && k.seq = seq)
def State.setColl (s : State) (k : Coll) : State :=
  { s with colls := s.colls.map (fun d => if d.slot = k.slot && d.comm = k.comm && d.seq = k.seq then k else d) }

/-- One cell of a collective to a rank (Table 11-3). -/
def State.sendPhase (s : State) (k : Coll) (rank phase cell : Nat) (sync : Bool) (bs : List Byte) : State :=
  let tc := if sync then 0 else 1
  let tag := BitVec.ofNat 16 (s.slotTag k.slot)
  let x := { emptyCell with
    type := if sync then 0xB else 0xA, tc := BitVec.ofNat 3 tc, jobTag := tag, dstEp := BitVec.ofNat 20 ((s.rankEp k.slot rank).getD epNone)
    srcEp := BitVec.ofNat 20 s.myEp, srcRank := BitVec.ofNat 17 (s.myRank k.slot)
    offset := BitVec.ofNat 40 (2 ^ 28 * k.comm + cell % passCells), win := BitVec.ofNat 8 k.seq, op := BitVec.ofNat 4 phase
    len := BitVec.ofNat 7 bs.length, payload := pad64 bs }
  s.enqueueCell k.slot (k.comm % 2) { tc := BitVec.ofNat 3 tc, tag := tag, rank := BitVec.ofNat 17 rank, hub := none }
    { seq := 0, cell := x, owner := .chain, epThread := none, epCluster := none, epJob := none, key := 0, slot := 0, tries := 1
      timeout := firstTimeout, sentAt := s.now }

/-- Payload of a CHUNK cell (Table 11-4). -/
def chunkPayload (first n : Nat) (data : List Byte) : List Byte := natLe 4 (crc32c data) ++ natLe 4 first ++ natLe 2 n

/-- Sends up to 64 cells of data, and their CHUNK. -/
def State.sendChunk (s : State) (k : Coll) (rank phase first : Nat) (bs : List Byte) : State :=
  let n := (bs.length + 63) / 64
  let s1 := (List.range n).foldl (fun s i => s.sendPhase k rank phase (first + i) false ((bs.drop (64 * i)).take 64)) s
  s1.sendPhase k rank phChunk first false (chunkPayload (first % passCells) n bs)

/-- Sends data from a first CELL: one SYNC cell where the collective moves at most 64 bytes a member, else chunks (R298, R300). -/
def State.sendData (s : State) (k : Coll) (rank phase first : Nat) (small : Bool) (bs : List Byte) : State :=
  if small then s.sendPhase k rank phase first true bs
  else (List.range ((4095 + bs.length) / 4096)).foldl (fun s i => s.sendChunk k rank phase (first + 64 * i) ((bs.drop (4096 * i)).take 4096)) s

/-- Sends a phase's data; what lies beyond one pass waits for the acknowledgement of the pass before. -/
def State.sendPasses (s : State) (k : Coll) (rank phase : Nat) (small : Bool) (bs : List Byte) : State :=
  let s1 := s.sendData k rank phase 0 small (bs.take (64 * passCells))
  let rest := bs.drop (64 * passCells)
  if rest.isEmpty then s1
  else
    match s1.coll? k.slot k.comm k.seq with
    | some k1 => s1.setColl { k1 with later := k1.later ++ [(rank, phase, rest)] }
    | none => s1

/-- Whether a collective has cells to a rank that are not acknowledged. -/
def State.collUnacked (s : State) (k : Coll) (rank : Nat) : Bool :=
  let f := s.txFlow { tc := 1, tag := BitVec.ofNat 16 (s.slotTag k.slot), rank := BitVec.ofNat 17 rank, hub := none }
  (f.cells ++ f.queue).any (fun c => bitsOf c.cell.offset.toNat 39 28 = k.comm && c.cell.win.toNat = k.seq % 256)

/-- Starts the passes whose predecessors are acknowledged. -/
def State.nextPasses (s : State) : State :=
  s.colls.foldl (fun s k =>
    k.later.foldl (fun s p =>
      if s.collUnacked k p.1 then s
      else
        match s.coll? k.slot k.comm k.seq with
        | some k1 =>
          let rest := p.2.2.drop (64 * passCells)
          let s1 := s.setColl { k1 with later := k1.later.erase p ++ (if rest.isEmpty then [] else [(p.1, p.2.1, rest)]) }
          s1.sendData k1 p.1 p.2.1 0 false (p.2.2.take (64 * passCells))
        | none => s) s) s

end Sys2Proof.Machine
end

