-- ==== Sys2Proof/Machine/Movers.lean ====
section
/-! DEFINITION. The movers (R219 to R229, R242): descriptors, patterns, transfers and their ends, for the tile movers of the clusters
and the bulk channels. A transfer reads its whole source, then writes; sources at another rank or in host memory come in by pieces. -/

namespace Sys2Proof.Machine

/-! ### Descriptors (Table 09-1) -/

structure MDesc where
  op : Nat
  srcSpace : Nat
  dstSpace : Nat
  barrier : Bool
  conv : Bool
  rec_ : Bool
  idxHbm : Bool
  srcFmt : Nat
  dstFmt : Nat
  nop : Nat
  src : Nat
  dst : Nat
  srcLines : Nat
  srcLen : Nat
  srcStride : Nat
  dstLines : Nat
  dstLen : Nat
  dstStride : Nat
  tag : Nat
  srcWrap : Nat
  dstWrap : Nat
  idx8 : Bool
  recAddr : Nat
  /-- Every bit the table does not list is zero. -/
  clean : Bool
  deriving DecidableEq, Repr

def mdesc (ws : List Word) : MDesc :=
  let w := fun i => ((ws[i]?).getD 0).toNat
  { op := bitsOf (w 0) 63 60, srcSpace := bitsOf (w 0) 59 56, dstSpace := bitsOf (w 0) 55 52, barrier := testBit (w 0) 51
    conv := testBit (w 0) 50, rec_ := testBit (w 0) 49, idxHbm := testBit (w 0) 48, srcFmt := bitsOf (w 0) 47 44
    dstFmt := bitsOf (w 0) 43 40, nop := bitsOf (w 0) 39 36, src := w 1, dst := w 2, srcLines := bitsOf (w 3) 63 32
    srcLen := bitsOf (w 3) 31 0, srcStride := w 4, dstLines := bitsOf (w 5) 63 32, dstLen := bitsOf (w 5) 31 0, dstStride := w 6
    tag := bitsOf (w 7) 63 48, srcWrap := bitsOf (w 7) 47 42, dstWrap := bitsOf (w 7) 41 36, idx8 := testBit (w 7) 35
    recAddr := bitsOf (w 7) 21 0, clean := bitsOf (w 0) 35 0 = 0 && bitsOf (w 7) 34 32 = 0 && bitsOf (w 7) 23 22 = 0 }

abbrev opCopy : Nat := 1
abbrev opGather : Nat := 2
abbrev opScatter : Nat := 3
abbrev opSeal : Nat := 4

/-- Bytes of a source element, and of a destination element that is not MX. -/
def MDesc.srcW (d : MDesc) : Nat := if d.conv then codeWidth d.srcFmt / 8 else 1
def MDesc.dstW (d : MDesc) : Nat := if d.conv then codeWidth d.dstFmt / 8 else 1
def MDesc.toMx (d : MDesc) : Bool := d.conv && isMx d.dstFmt

/-- An address under a WRAP (R221). -/
def wrapAddr (base k : Nat) (a : Int) : Nat :=
  if k = 0 then (a % (2 ^ 64 : Int)).toNat
  else
    let r := base / 2 ^ k * 2 ^ k
    r + ((a - r) % (2 ^ k : Int)).toNat

/-- The byte addresses of a pattern, in stream order (R221). -/
def patternAddrs (base stride lines len wrap : Nat) : List Nat :=
  (List.range lines).flatMap (fun (i : Nat) => (List.range len).map (fun (j : Nat) =>
    wrapAddr base wrap ((base : Int) + (i : Int) * toSigned 64 stride + (j : Int))))

/-- Index bytes of a GATHER or SCATTER, and the count of words. -/
def MDesc.idxSize (d : MDesc) : Nat := if d.idx8 then 8 else 4
def MDesc.idxBytes (d : MDesc) : Nat := if d.op = opGather then d.srcLen else d.dstLen
def MDesc.idxAddr (d : MDesc) : Nat := if d.op = opGather then d.srcStride else d.dstStride
def MDesc.words (d : MDesc) : Nat := d.idxBytes / d.idxSize

/-- Source stream addresses: none for GATHER and SEAL. -/
def MDesc.srcAddrs (d : MDesc) : List Nat :=
  if d.op = opCopy || d.op = opScatter then patternAddrs d.src d.srcStride d.srcLines (d.srcLen * d.srcW) d.srcWrap else []

/-- Destination stream addresses of COPY, GATHER and SEAL; an MX destination's rows are laid out by R96. -/
def MDesc.dstAddrs (d : MDesc) : List Nat :=
  if d.op = opScatter then []
  else if d.toMx then
    (List.range d.dstLines).flatMap (fun (i : Nat) => (mxRow d.dstFmt (fun _ => .mode .rne) (List.replicate d.dstLen (.fin false 0 0))).1.flatMap
      (fun w => (List.range w.2.length).map (fun (j : Nat) =>
        wrapAddr d.dst 0 ((d.dst : Int) + (i : Int) * toSigned 64 d.dstStride + (w.1 : Int) + (j : Int)))))
  else patternAddrs d.dst d.dstStride d.dstLines (d.dstLen * d.dstW) d.dstWrap

/-! ### Who moves -/

/-- Bytes of a destination line; an MX row's are those of its groups (R96, R224). -/
def MDesc.lineBytes (d : MDesc) : Nat := d.dstAddrs.length / Nat.max 1 d.dstLines

/-- What a check needs of a mover: its cluster, or none for a bulk channel, and its partition. -/
structure MovWho where
  own : Option Nat
  part : Option Nat
  deriving DecidableEq, Repr

def State.movWho (s : State) : Mover → MovWho
  | .tile c _ => ⟨some c.toNat, s.partOfCluster c.toNat⟩
  | .bulk ch => ⟨none, (((s.bulkCh ch.toNat).cmd).bind s.cmd?).map (fun c => c.part)⟩

def State.movRun (s : State) : Mover → Option MovRun
  | .tile c m => (s.tileMover c.toNat m.toNat).run
  | .bulk ch => (s.bulkCh ch.toNat).run

def State.setMovRun (s : State) (m : Mover) (r : Option MovRun) : State :=
  match m with
  | .tile c t => s.setTileMover c.toNat t.toNat { s.tileMover c.toNat t.toNat with run := r }
  | .bulk ch => s.setBulk ch.toNat { s.bulkCh ch.toNat with run := r }

/-- The number of a mover's next descriptor, and the count of it (R223). -/
def State.movNumber (s : State) : Mover → Nat
  | .tile c t => (s.tileMover c.toNat t.toNat).next
  | .bulk ch => (s.bulkCh ch.toNat).next
def State.movCounted (s : State) : Mover → State
  | .tile c t => let x := s.tileMover c.toNat t.toNat; s.setTileMover c.toNat t.toNat { x with next := x.next + 1 }
  | .bulk ch => let b := s.bulkCh ch.toNat; s.setBulk ch.toNat { b with next := b.next + 1 }

/-! ### Checks (R219, R220) -/

/-- Whether the mover may reach a byte (Table 09-2, R220, R62); fabric addresses are checked by accesses. -/
def State.movReach (s : State) (w : MovWho) (space : Nat) (write : Bool) (a : Nat) : Bool :=
  match space, w.own, w.part with
  | 0, some c, _ => decide (a < spadSize) && !(write && s.spadReserved c a 1)
  | 1, some _, _ => write && decide (a < 0x40000)
  | 2, _, some p => s.inUnits p a 1
  | 3, _, _ => true
  | 4, _, some p => decide (a < 2 ^ 30) && s.partOfCluster (a / spadSize) = some p && !(write && s.spadReserved (a / spadSize) (a % spadSize) 1)
  | 5, none, some p => (s.partLink p).isSome
  | _, _, _ => false

/-- Splits a run into the narrow accesses of R222. -/
def narrowSplit : Nat → Nat × List Byte → List (Nat × List Byte)
  | 0, _ => []
  | n + 1, (a, bs) =>
    if bs.isEmpty then [] else
    let k := if a % 8 = 0 && 8 ≤ bs.length then 8 else if a % 4 = 0 && 4 ≤ bs.length then 4 else if a % 2 = 0 && 2 ≤ bs.length then 2 else 1
    (a, bs.take k) :: narrowSplit n (a + k, bs.drop k)

/-- The accesses that write a list of bytes: for each destination line of `n` bytes, whole aligned 64-byte lines, and narrow accesses (R222). -/
def lineStores (n : Nat) (l : List (Nat × Byte)) : List (Nat × List Byte) :=
  (chunks n (l.length + 1) l).flatMap (fun d => (lineRuns d).flatMap (fun r => if r.2.length = 64 then [r] else narrowSplit 64 r))

/-- The 64-byte lines that hold a list of addresses, in order of first use. -/
def linesOf (l : List Nat) : List Nat := (l.map (fun a => a / 64 * 64)).eraseDups

def State.fabReadsOk (s : State) (w : MovWho) (l : List Nat) : Bool :=
  (linesOf l).all (fun a => (s.checkSend w.part a 64 .load).isSome)

/-- Whether every store passes the sender-side checks, and none at the own rank reaches a reserved range (R62). -/
def State.fabWritesOk (s : State) (w : MovWho) (n : Nat) (l : List Nat) : Bool :=
  (lineStores n (l.map (fun a => (a, 0)))).all (fun r =>
    match s.checkSend w.part r.1 r.2.length (.store r.2) with
    | some (slot, _, wd) => !(addrRank r.1 = s.myRank slot && s.storesReserved wd (addrOff r.1) (.store r.2))
    | none => false)

def wrapOk (k : Nat) : Bool := k = 0 || (decide (12 ≤ k) && decide (k ≤ 40))

/-- The checks of Table 09-1 on the fields alone. -/
def MDesc.fieldsOk (d : MDesc) (tile : Bool) : Bool :=
  let side := fun (l n : Nat) => decide (1 ≤ l) && decide (1 ≤ n)
  d.clean && wrapOk d.srcWrap && wrapOk d.dstWrap && side d.dstLines d.dstLen &&
  (if d.op = opCopy then
     side d.srcLines d.srcLen && d.srcLines * d.srcLen = d.dstLines * d.dstLen &&
     (!d.conv || ((decide (d.srcFmt ≤ 3) || decide (10 ≤ d.srcFmt)) && convPair d.srcFmt d.dstFmt && d.dstSpace ≠ 1 && d.srcWrap = 0 && d.dstWrap = 0 &&
       (!isMx d.dstFmt || (d.dstStride % 8 = 0 && d.dst % 8 = 0))))
   else if d.op = opGather then
     !d.conv && d.srcSpace = 2 && d.srcLines = 1 && decide (1 ≤ d.srcLen) && d.srcLen % d.idxSize = 0 && 8 * d.words = d.dstLines * d.dstLen &&
     (tile || d.idxHbm)
   else if d.op = opScatter then
     !d.conv && d.dstSpace = 2 && d.dstLines = 1 && side d.srcLines d.srcLen && d.dstLen % d.idxSize = 0 && 8 * d.words = d.srcLines * d.srcLen &&
     (d.nop = 1 || d.nop = 2 || d.nop = 9) && (tile || d.idxHbm)
   else if d.op = opSeal then
     !d.conv && d.dstSpace = 2 && d.src = 0 && d.srcSpace = 0 && d.srcLines = 0 && d.srcLen = 0 && d.srcStride = 0 && d.srcFmt = 0 && d.srcWrap = 0
   else false) &&
  (d.dstSpace ≠ 1 || (d.dst % 8 = 0 && d.dstLen % 8 = 0 && d.dstStride % 8 = 0)) &&
  (!tile || d.recAddr % 32 = 0)

def idxSpace (d : MDesc) : Nat := if d.idxHbm then 2 else 0

/-- Bytes of a place the movers read or write at once. -/
def State.placeByte (s : State) (w : MovWho) (space a : Nat) : Byte :=
  match space with
  | 0 => readByte s.spad (spadKey (w.own.getD 0) a)
  | 2 => readByte s.hbm a
  | 4 => readByte s.spad a
  | 5 => readByte s.hostMem (hostKey ((w.part.bind s.partLink).getD 0) a)
  | _ => 0

/-- The indices of a GATHER or SCATTER. -/
def State.indices (s : State) (w : MovWho) (d : MDesc) : List Nat :=
  (List.range d.words).map (fun j =>
    leNat ((List.range d.idxSize).map (fun b => s.placeByte w (idxSpace d) (d.idxAddr + j * d.idxSize + b))))

/-- The word addresses of a GATHER or SCATTER. -/
def State.wordAddrs (s : State) (w : MovWho) (d : MDesc) : List Nat :=
  let base := if d.op = opGather then d.src else d.dst
  let k := if d.op = opGather then d.srcWrap else d.dstWrap
  (s.indices w d).map (fun (x : Nat) => wrapAddr base k ((base : Int) + 8 * (x : Int)))

/-- Addresses of an index list. -/
def MDesc.idxAddrs (d : MDesc) : List Nat := if d.op = opGather || d.op = opScatter then (List.range d.idxBytes).map (fun i => d.idxAddr + i) else []

/-- The check of a descriptor's fields, and of the place of its index list (R219, R220). -/
def State.movFields (s : State) (w : MovWho) (d : MDesc) : Bool :=
  d.fieldsOk w.own.isSome && (match w.own with | some c => !s.spadReserved c d.recAddr 32 | none => true) &&
  d.idxAddrs.all (s.movReach w (idxSpace d) false)

/-- The check of every place that a descriptor reads or writes (R220). -/
def State.movCheck (s : State) (w : MovWho) (d : MDesc) : Bool :=
  d.srcAddrs.all (s.movReach w d.srcSpace false) && d.dstAddrs.all (s.movReach w d.dstSpace (d.op ≠ opSeal)) &&
  (d.srcSpace ≠ 3 || s.fabReadsOk w d.srcAddrs) && (d.dstSpace ≠ 3 || d.op = opSeal || s.fabWritesOk w d.lineBytes d.dstAddrs) &&
  (!(d.op = opGather || d.op = opScatter) ||
     (s.wordAddrs w d).all (fun a => a % 8 = 0 && (List.range 8).all (fun b => s.movReach w 2 false (a + b))))

/-! ### Faults (R225, R226) -/

/-- A job fault that a mover meets; a bulk channel's command ends with it, whether or not a job takes it (R112). -/
def State.movFault (s : State) (m : Mover) (f : JobFault) : State :=
  match m with
  | .tile c _ => s.clusterFault c.toNat f
  | .bulk ch =>
    let p := (s.movWho m).part
    let b := s.bulkCh ch.toNat
    let s1 := (s.setErr (if f = .tileCheck then F.MOV_ERR_TILE_CHECK else F.MOV_ERR_ECC_UE) ch.toNat p).setBulk ch.toNat { b with run := none }
    let s2 := (s1.faultOpt (p.bind s1.acceptingSlot) f).endFaulted b.cmd f
    if (s2.bulkCh ch.toNat).cmd = b.cmd then s2.bulkRelease ch.toNat else s2

/-- Whether the tiles of a list of bytes match their checksums. -/
def State.movVerify (s : State) (w : MovWho) (space : Nat) (l : List Nat) : Bool :=
  match space with
  | 0 => ((l.map (· / 4096)).eraseDups).all (fun t => s.spadVerify (w.own.getD 0) (4096 * t) 1)
  | 2 => ((l.map (· / 4096)).eraseDups).all (fun t => s.hbmVerify (4096 * t) 1)
  | 4 => ((l.map (· / 4096)).eraseDups).all (fun t => s.spadVerify (t / 1024) (4096 * (t % 1024)) 1)
  | _ => true

def State.anyFenced (s : State) (space : Nat) (l : List Nat) : Bool :=
  space = 2 && ((l.map (· / 4096)).eraseDups).any (fun t => s.fencedAt (4096 * t))

/-! ### Writing (R109, R221, R222, R224) -/

/-- Counts an access of a mover issued; answers its epochs (R263). -/
def State.movIssued (s : State) (w : MovWho) (slot : Nat) : (Option Nat × Option Nat × Option Nat) × State :=
  let e := s.jobEpochs slot
  let s1 := s.setJobEpochs slot e.issue
  match w.own with
  | some c => ((none, some (s1.clu c).ep.curId, some e.curId), s1.setClu c { s1.clu c with ep := (s1.clu c).ep.issue })
  | none => ((none, none, some e.curId), s1)

def movOwner (m : Mover) (run : Nat) (load : Option Nat) : Owner :=
  match m with
  | .tile c t => .tile c.toNat t.toNat run load
  | .bulk ch => .bulk ch.toNat run load

/-- One fabric access of a mover: the bytes where they are known at once (R255), poison as none, or pending. One whose destination has no usable
route as it leaves ends its descriptor DESC_BAD (R226, R270). -/
def State.movAccess (s : State) (m : Mover) (a len : Nat) (x : Access1) (load : Option Nat) : Option (Option (List Byte)) × State :=
  let w := s.movWho m
  match s.checkSend w.part a len x, s.movRun m with
  | some (slot, win, wd), some r =>
    let (eps, s1) := s.movIssued w slot
    if addrRank a = s.myRank slot then
      match s1.applyAt wd (addrOff a) len x with
      | (some bs, s2) => (some (some bs), s2.countDone (w.own.getD 0) 0 slot eps)
      | (none, s2) => (none, s2)
    else
      let lost := (s.selectRoute (routeKey s.myEp ((s.rankEp slot (addrRank a)).getD epNone))).isNone
      let s2 := s1.sendAccess slot (match w.own with | some c => nearSordar (c / 64) | none => 0) 3 win wd a len x (movOwner m r.seq load) eps
      (some none, if lost then
          (match s2.movRun m with
           | some r2 => s2.setMovRun m (some { r2 with bad := true })
           | none => s2)
        else s2)
  | _, _ => (some none, s)

/-- A byte of the instruction store, in the words no IFENCE has made visible. -/
def State.istoreByte (s : State) (c a : Nat) (b : Byte) : State :=
  let k := s.clu c
  let old := match k.stale.find? (fun e => e.1 = a / 8) with
    | some e => e.2.toNat
    | none => (spGet 0 s.istore (32768 * c + a / 8)).toNat
  s.setClu c { k with stale := spIns k.stale (a / 8) (BitVec.ofNat 64 (setBits old (8 * (a % 8) + 7) (8 * (a % 8)) b.toNat)) }

/-- One store of a mover to a fabric address: counted in its run until it is acknowledged; nothing once the run has failed (R226). -/
def State.movStore (m : Mover) (s : State) (r : Nat × List Byte) : State :=
  match s.movRun m with
  | none => s
  | some x =>
    if x.bad then s else
    match s.movAccess m r.1 r.2.length (.store r.2) none with
    | (none, s1) => s1.movFault m .eccUe
    | (some none, s1) =>
      (match s1.movRun m with
       | some y => if y.bad then s1 else s1.setMovRun m (some { y with stores := y.stores + 1 })
       | none => s1)
    | (_, s1) => s1

/-- Writes the bytes of destination lines of `n` bytes to a place, and seals what R109 seals. -/
def State.movWrite (s : State) (m : Mover) (space n : Nat) (l : List (Nat × Byte)) : State :=
  let w := s.movWho m
  let tiles := (l.map (fun x => x.1 / 4096)).eraseDups
  match space with
  | 0 =>
    let c := w.own.getD 0
    tiles.foldl (fun s t => s.spadSealTile c t) (l.foldl (fun s x => s.spadWrite c x.1 [x.2]) s)
  | 1 => l.foldl (fun s x => s.istoreByte (w.own.getD 0) x.1 x.2) s
  | 2 => tiles.foldl State.hbmSealTile ((lineStores n l).foldl (fun s r => if r.2.length = 64 then s.hbmWrite r.1 r.2 else s.hbmLane .write r.1 r.2) s)
  | 3 => (lineStores n l).foldl (State.movStore m) s
  | 4 => tiles.foldl (fun s t => s.spadSealTile (t / 1024) (t % 1024))
      (l.foldl (fun s x => s.spadWrite (x.1 / spadSize) (x.1 % spadSize) [x.2]) s)
  | 5 => { s with hostMem := l.foldl (fun h x => writeByte h (hostKey ((w.part.bind s.partLink).getD 0) x.1) x.2) s.hostMem }
  | _ => s

/-- The bytes written for a source stream, as far as it goes (R224, R226), and flags. -/
def MDesc.output (d : MDesc) (bs : List Byte) : List (Nat × Byte) × Nat :=
  if !d.conv then (d.dstAddrs.zip bs, 0)
  else
    let es := ((chunks d.srcW (bs.length + 1) bs).filter (fun c => c.length = d.srcW)).map (fun c => codeVal d.srcFmt (leNat c))
    if isMx d.dstFmt then
      let rows := (chunks d.dstLen (es.length + 1) es).filter (fun r => r.length = d.dstLen)
      let outs := rows.map (mxRow d.dstFmt (fun _ => .mode .rne))
      (d.dstAddrs.zip (outs.flatMap (fun o => o.1.flatMap (fun w => w.2))), outs.foldl (fun a o => a ||| o.2) 0)
    else
      let r := ieeeRow d.dstFmt (fun _ => .mode .rne) es
      (d.dstAddrs.zip r.1, r.2)

/-- Adds to a bulk channel's counters, and keeps the flags of the command (R104, Table 09-7). -/
def State.movCount (s : State) (m : Mover) (d : MDesc) (l : List (Nat × Byte)) (fl : Nat) : State :=
  match m with
  | .tile _ _ => s
  | .bulk ch =>
    let s1 := s.addF F.MOV_BYTES_CNT_COUNT l.length ch.toNat
    let s2 := match d.dstWrap, l.getLast? with
      | 0, _ => s1
      | _, none => s1
      | k, some x => s1.setF F.MOV_WRAP_POS_OFFSET ((x.1 + 1) % 2 ^ k) ch.toNat
    let b := s2.bulkCh ch.toNat
    let s3 := s2.setBulk ch.toNat { b with flags := b.flags ||| fl }
    match b.cmd.bind s3.cmd? with
    | some c => s3.setCmd { c with flags := c.flags ||| recordFlags fl }
    | none => s3

/-- Applies the narrow accesses of a SCATTER, in list order (R198, R221). -/
def State.scatterWords (s : State) (nop : Nat) (l : List (Nat × List Byte)) : State :=
  l.foldl (fun s x =>
    if nop = 1 then s.hbmLane .write x.1 x.2
    else (s.hbmAtomic x.1 nop 0 (BitVec.ofNat 64 (leNat x.2)) 0).2) s

/-- Byte `a` of the pieces that have come in; none where it has not. -/
def partByte (ps : List RPart) (a : Nat) : Option Byte :=
  match ps.find? (fun p => decide (p.off ≤ a) && decide (a < p.off + p.len)) with
  | some p => p.data.bind (fun d => d[a - p.off]?)
  | none => none

/-- The source stream, up to its first byte that is not in. -/
def streamOf (ps : List RPart) : List Nat → List Byte
  | [] => []
  | a :: rest =>
    match partByte ps a with
    | some b => b :: streamOf ps rest
    | none => []

/-- Source stream of a run. -/
def State.movSource (s : State) (w : MovWho) (d : MDesc) (r : MovRun) : List Byte :=
  if d.op = opGather then (s.wordAddrs w d).flatMap (fun a => readBytes s.hbm a 8)
  else if d.srcSpace = 3 || d.srcSpace = 5 then streamOf r.loads d.srcAddrs
  else d.srcAddrs.map (s.placeByte w d.srcSpace)

/-- Writes what a run's source gives, and ends its transfer. -/
def State.movFinish (s : State) (m : Mover) (r : MovRun) (bad : Bool) : State :=
  let d := mdesc r.desc
  let w := s.movWho m
  let bs := s.movSource w d r
  let s0 := s.setMovRun m (some { r with isOver := true, bad := bad, hostAt := none })
  if d.op = opSeal then
    (if s.anyFenced 2 d.dstAddrs then s0.movFault m .fenced else ((d.dstAddrs.map (· / 4096)).eraseDups).foldl State.hbmSealTile s0)
  else if d.op = opScatter then
    let ws := ((s.wordAddrs w d).zip (chunks 8 (bs.length + 1) bs)).filter (fun x => x.2.length = 8)
    if s.anyFenced 2 (ws.map (fun x => x.1)) then s0.movFault m .fenced
    else (s0.scatterWords d.nop ws).movCount m d (ws.flatMap (fun x => x.2.mapIdx (fun i b => (x.1 + i, b)))) 0
  else
    let o := d.output bs
    if s.anyFenced d.dstSpace (o.1.map (fun x => x.1)) then s0.movFault m .fenced
    else
      let s1 := s0.movCount m d o.1 o.2
      let s2 := match s1.movRun m with
        | some x => s1.setMovRun m (some { x with flags := x.flags ||| o.2 })
        | none => s1
      s2.movWrite m d.dstSpace d.lineBytes o.1

/-- Whether every piece of a run's source is in. -/
def MovRun.loaded (r : MovRun) : Bool := r.loads.all (fun p => p.data.isSome)

/-- Line reads that a mover keeps in flight (R228). -/
def movDepth : Mover → Nat
  | .tile _ _ => 64
  | .bulk _ => 1024

/-- Sends the reads of a source at fabric addresses that come next, a 64-byte line each, while fewer than R228 allows are in flight; none where a
read of the own rank is poison. -/
def State.movLoads (m : Mover) : Nat → MovRun → State → Option MovRun × State
  | 0, r, s => (some r, s)
  | n + 1, r, s =>
    let open_ := ((r.loads.take r.sent).filter (fun p => p.data.isNone)).length
    match r.loads[r.sent]? with
    | none => (some r, s)
    | some p =>
      if movDepth m ≤ open_ then (some r, s)
      else
        match s.movAccess m p.off 64 .load (some r.sent) with
        | (some d, s1) =>
          let bad := match s1.movRun m with
            | some x => x.bad
            | none => true
          let r1 := { r with sent := r.sent + 1, bad := bad, loads := r.loads.mapIdx (fun i (q : RPart) => if i = r.sent then { q with data := d } else q) }
          if bad then (some r1, s1) else State.movLoads m n r1 s1
        | (none, s1) => (none, s1)

/-- Goes on with a run whose source comes in by fabric reads: it sends the next ones, and finishes once all are in, or none can come. -/
def State.movFeed (s : State) (m : Mover) (r : MovRun) : State :=
  match State.movLoads m r.loads.length r (s.setMovRun m (some r)) with
  | (none, s1) => s1.movFault m .eccUe
  | (some r1, s1) => if r1.bad || r1.loaded then s1.movFinish m r1 r1.bad else s1.setMovRun m (some r1)

/-- Whether every stack that a descriptor reads or writes is ready; until then it waits (R215). -/
def State.movReady (s : State) (w : MovWho) (d : MDesc) : Bool :=
  let ok := fun (space : Nat) (l : List Nat) => space ≠ 2 || l.all (fun a => s.getF F.LCH_STAT_READY (stackOf a) = 1)
  ok d.srcSpace d.srcAddrs && ok d.dstSpace d.dstAddrs && ok (idxSpace d) d.idxAddrs &&
  (!(d.op = opGather || d.op = opScatter) || !d.idxAddrs.all (s.movReach w (idxSpace d) false) || ok 2 (s.wordAddrs w d))

/-- ECC outcomes on what a mover reads: lines of HBM and their checksum words, words gathered, and scratchpad words (R45, R108, R207). -/
def State.movHits (s : State) (w : MovWho) (d : MDesc) (es : List EccHit) : List EccHit :=
  let line := fun (l : List Nat) => (linesOf l).map (fun a => (a, 64))
  let spad := fun (f : Nat → Nat × Nat) (l : List Nat) => es.filter (fun h => match h.place with
    | .spad c a => (l.map f).any (fun p => p.1 = c.toNat && p.2 / 64 = a.toNat / 64)
    | _ => false)
  let at_ := fun (space : Nat) (l : List Nat) =>
    if space = 2 then eccOn es true (line l)
    else if space = 0 then spad (fun a => (w.own.getD 0, a)) l
    else if space = 4 then spad (fun a => (a / spadSize, a % spadSize)) l
    else []
  at_ d.srcSpace d.srcAddrs ++ at_ (idxSpace d) d.idxAddrs ++ (if d.op = opGather then eccOn es false ((s.wordAddrs w d).map (fun a => (a, 8))) else [])

/-- What a mover's reads do to the stacks: whole lines, and the narrow path for gathered words (R196, R222). -/
def State.movTouch (s : State) (w : MovWho) (d : MDesc) : State :=
  let lines := fun (space : Nat) (l : List Nat) (s : State) => if space = 2 then s.memReads .tile ((linesOf l).map (fun a => (a, 64))) else s
  let s1 := lines d.srcSpace d.srcAddrs (lines (idxSpace d) d.idxAddrs s)
  if d.op = opGather then (s.wordAddrs w d).foldl (fun s a => s.narrowRead a 8) s1 else s1

/-- Begins a descriptor (R219 to R226): a mover verifies an index list before it uses it. -/
def State.movBegin (s : State) (m : Mover) (ws : List Word) (addr : Nat) (es : List EccHit) : State :=
  let d := mdesc ws
  let w := s.movWho m
  let n := s.movNumber m
  let s := s.movCounted m
  let r0 : MovRun := { desc := ws, descAddr := addr, isOver := false, seq := n }
  if !s.movFields w d then s.setMovRun m (some { r0 with bad := true, isOver := true })
  else if s.anyFenced (idxSpace d) d.idxAddrs then s.movFault m .fenced
  else if !s.movVerify w (idxSpace d) d.idxAddrs then s.movFault m .tileCheck
  else if !s.movCheck w d then s.setMovRun m (some { r0 with bad := true, isOver := true })
  else if s.anyFenced d.srcSpace d.srcAddrs || (d.op = opGather && s.anyFenced 2 (s.wordAddrs w d)) then s.movFault m .fenced
  else
    let hits := s.movHits w d es
    let s := (s.movTouch w d).eccHits hits
    if eccBad hits then s.movFault m .eccUe
    else if !s.movVerify w d.srcSpace d.srcAddrs then s.movFault m .tileCheck
    else if d.srcSpace = 3 && !d.srcAddrs.isEmpty then s.movFeed m { r0 with loads := (linesOf d.srcAddrs).map (fun a => ⟨a, 64, none⟩) }
    else if d.srcSpace = 5 && !d.srcAddrs.isEmpty then
      let ls := linesOf d.srcAddrs
      let l := (w.part.bind s.partLink).getD 0
      let s1 := s.setMovRun m (some { r0 with loads := ls.map (fun a => ⟨a, 64, none⟩), hostAt := some s.now })
      ls.foldl (fun s a => s.emit (.hostRead l a 64)) s1
    else s.movFinish m r0 false

/-! ### The four operations (R221) -/

/-- Whether a quiesce or a fault holds the mover. -/
def State.movHeld (s : State) : Mover → Bool
  | .tile c _ => s.clkOff .clu c.toNat || (s.clu c.toNat).faulted || (s.clu c.toNat).wiping || s.issueHeld c.toNat
  | .bulk ch =>
    match (s.movWho (.bulk ch)).part with
    | some p =>
      match s.acceptingSlot p with
      | some j => s.quiesced.contains j
      | none => false
    | none => true

/-- The next descriptor of a mover that runs none, with its address. -/
def State.movNext (s : State) : Mover → Option (List Word × Nat)
  | .tile c m =>
    match (s.tileMover c.toNat m.toNat).q with
    | d :: _ => some (d, 0)
    | [] => none
  | .bulk ch =>
    let b := s.bulkCh ch.toNat
    match b.cmd.bind s.cmd? with
    | some c =>
      if c.phase = .running && !b.stopped && decide (b.idx < b.count) then
        let bs := s.ringRead c.part b.addr (64 * b.idx) 64
        some ((List.range 8).map (fun i => BitVec.ofNat 64 (leNat ((bs.drop (8 * i)).take 8))), b.addr + 64 * b.idx)
      else none
    | none => none

/-- Runs a mover's next descriptor if its OP is the one named; a descriptor of no legal OP ends DESC_BAD whichever is named. A
descriptor that a bulk channel reads from HBM is verified (R225). -/
def State.movStep (s : State) (m : Mover) (op : Nat) (es : List EccHit) : State :=
  if s.movHeld m || (s.movRun m).isSome then s else
  match s.movNext m with
  | none => s
  | some (ws, addr) =>
    let o := (mdesc ws).op
    if o ≠ op && (1 ≤ o && o ≤ 4) || !s.movReady (s.movWho m) (mdesc ws) then s
    else
      match m with
      | .tile _ _ => s.movBegin m ws addr es
      | .bulk _ =>
        if testBit addr 63 then s.movBegin m ws addr es
        else if s.fencedIn addr 64 then s.movFault m .fenced
        else
          let hits := eccOn es true [(addr, 64)]
          let s := (s.memRead .tile addr 64).eccHits hits
          if eccBad hits then s.movFault m .eccUe
          else if !s.hbmVerify addr 64 then s.movFault m .tileCheck
          else s.movBegin m ws addr es

def execMoverCopy (x : MoverOp) (s : State) : Host.Outcome State Fault Refusal := done (s.movStep x.mover opCopy x.ecc)
def execMoverGather (x : MoverOp) (s : State) : Host.Outcome State Fault Refusal := done (s.movStep x.mover opGather x.ecc)
def execMoverScatter (x : MoverOp) (s : State) : Host.Outcome State Fault Refusal := done (s.movStep x.mover opScatter x.ecc)
def execMoverSeal (x : MoverOp) (s : State) : Host.Outcome State Fault Refusal := done (s.movStep x.mover opSeal x.ecc)

/-! ### Host reads (R226) -/

/-- Ends a host read in error: what was read before it is written. -/
def State.movHostErr (s : State) (m : Mover) (r : MovRun) : State :=
  let s1 := match m with
    | .bulk ch => s.setErr F.MOV_ERR_HOST_ERR ch.toNat (s.movWho m).part
    | .tile _ _ => s
  s1.movFinish m { r with hostErr := true } true

/-- Fills the first piece that is not in. -/
def fillFirst (f : Nat → List Byte) : List RPart → List RPart
  | [] => []
  | p :: ps => if p.data.isSome then p :: fillFirst f ps else { p with data := some (f p.off) } :: ps

/-- HOST_COMPLETION: the oldest outstanding read of host memory completes, a 64-byte line (R222). -/
def execHostCompletion (m : Mover) (ok : Bool) (s : State) : Host.Outcome State Fault Refusal :=
  done (match s.movRun m with
    | some r =>
      if r.hostAt.isNone then s
      else if !ok then s.movHostErr m r
      else
        let l := ((s.movWho m).part.bind s.partLink).getD 0
        let r1 := { r with loads := fillFirst (fun a => readBytes s.hostMem (hostKey l a) 64) r.loads, hostAt := some s.now }
        if r1.loaded then s.movFinish m r1 false else s.setMovRun m (some r1)
    | none => s)

/-- HOST_TIMEOUT: no completion within 50 ms. -/
def execHostTimeout (m : Mover) (s : State) : Host.Outcome State Fault Refusal :=
  done (match s.movRun m with
    | some r =>
      match r.hostAt with
      | some t => if 50 * msec + t ≤ s.now then s.movHostErr m r else s
      | none => s
    | none => s)

/-! ### Ends (R223, R226, R227, R236, R239, R242) -/

/-- The record of a tile mover (R226, Table 09-5). -/
def State.tileRecord (s : State) (c m : Nat) (r : MovRun) : State :=
  let d := mdesc r.desc
  if (d.rec_ || r.bad) && d.recAddr % 32 = 0 && !s.spadReserved c d.recAddr 32 then
    s.spadWrite c d.recAddr (recordBytes (if r.bad then 0x10 else 0) 0 (recordFlags r.flags) d.tag (2 ^ 31 + 2 ^ 28 * m) s.cad 0 0)
  else s

/-- A descriptor boundary of a bulk channel: its command ends, stops or goes on. -/
def State.bulkBoundary (s : State) (ch : Nat) : State :=
  let b := s.bulkCh ch
  match b.cmd.bind s.cmd? with
  | none => s.bulkRelease ch
  | some c =>
    if c.phase = .aborted then (s.setCmd { c with stopped := true }).bulkRelease ch
    else if c.phase ≠ .running then s.bulkRelease ch
    else if c.late then (s.setCmd { c with phase := .ended, status := 0x20, flags := recordFlags b.flags }).bulkRelease ch
    else if b.count ≤ b.idx then
      (s.setCmd { c with phase := .ended, status := if b.bad = 0 then 0 else 0x10, aux := b.bad, flags := recordFlags b.flags }).bulkRelease ch
    else if b.stopReq then s.setBulk ch { b with stopReq := false, stopped := true }
    else s

/-- STATUS 0x10 in a descriptor that ended DESC_BAD, where it lies: bits [31:24] of its last eight bytes (R226). -/
def State.writeStatus (s : State) (p addr : Nat) : State :=
  if testBit addr 63 then s.ringWrite p addr 59 [0x10#8] else s.hbmSealWrite (addr + 59) [0x10#8]

/-- DESCRIPTOR_END. -/
def execDescriptorEnd (m : Mover) (s : State) : Host.Outcome State Fault Refusal :=
  done (match s.movRun m with
    | none => s
    | some r =>
      if !r.isOver || ((mdesc r.desc).barrier && r.stores ≠ 0) then s
      else
        match m with
        | .tile c t =>
          let x := s.tileMover c.toNat t.toNat
          let s1 := (s.tileRecord c.toNat t.toNat r).setTileMover c.toNat t.toNat { x with q := x.q.tail, run := none }
          (s1.addF (tmDone t.toNat) 1 c.toNat).settle c.toNat
        | .bulk ch =>
          let b := s.bulkCh ch.toNat
          let p := (s.movWho m).part
          let s1 := s.addF F.MOV_DESC_CNT_COUNT 1 ch.toNat
          let s2 := if r.bad then
              (((s1.addF F.MOV_BAD_CNT_COUNT 1 ch.toNat).setF F.MOV_LAST_BAD_ADDR r.descAddr ch.toNat).setErr F.MOV_ERR_DESC_BAD ch.toNat p).writeStatus
                (p.getD 0) r.descAddr
            else s1
          (s2.setBulk ch.toNat { b with run := none, idx := b.idx + 1, bad := b.bad + (if r.bad then 1 else 0) }).bulkBoundary ch.toNat)

/-! ### The MOVE command (R229, R234, R236, R242) -/

/-- Whether a MOVE's fields and channel are legal. -/
def State.moveOk (s : State) (c : Cmd) : Bool :=
  let addr := c.num 24 8
  let n := c.num 40 4
  decide (c.engine < 48) && s.partOfMov c.engine = some c.part && c.num 32 8 = 0 && c.num 44 20 = 0 && bitsOf (c.word 0) 55 54 = 0 && bitsOf (c.word 0) 47 16 = 0 &&
  decide (1 ≤ n) && decide (n ≤ 65536) && addr % 64 = 0 &&
  (if testBit addr 63 then (s.partLink c.part).isSome else s.inUnits c.part addr (64 * n))

/-- MOVE: the command that its channel has accepted begins its chain, or ends DESC_BAD. -/
def execMove (id : Nat) (s : State) : Host.Outcome State Fault Refusal :=
  done (s.withStarted id (fun c =>
    if c.opc ≠ 0x60 then s
    else if !s.moveOk c then
      let s1 := s.setCmd { c with phase := .ended, status := 0x10 }
      if (s.bulkCh c.engine).cmd = some id then s1.bulkRelease c.engine else s1
    else
      let b := s.bulkCh c.engine
      if b.cmd = some id then
        let s1 := (s.setCmd { c with phase := .running, unit := c.engine }).setBulk c.engine
          { b with addr := c.num 24 8, idx := 0, count := c.num 40 4, bad := 0, flags := 0 }
        (s1.setF F.MOV_CUR_TAG c.tag c.engine).setF F.MOV_CUR_QUEUE c.queue c.engine
      else s))

/-- MOVE_DEADLINE: a MOVE past its deadline stops at the next descriptor boundary. -/
def execMoveDeadline (id : Nat) (s : State) : Host.Outcome State Fault Refusal :=
  done (match s.cmd? id with
    | some c =>
      if c.opc = 0x60 && c.phase = .running && c.deadline ≠ 0 && decide (c.deadline ≤ s.cad) then
        let s1 := s.setCmd { c with late := true }
        if ((s.bulkCh c.unit).run).isNone then s1.bulkBoundary c.unit else s1
      else s
    | none => s)

/-- CTRL.STOP of a bulk channel (R242). -/
def State.movStop (s : State) (ch : Nat) : State :=
  let b := s.bulkCh ch
  if b.stopped then s
  else if b.cmd.isSome && b.run.isSome then s.setBulk ch { b with stopReq := true }
  else s.setBulk ch { b with stopped := true }

/-- CTRL.RESUME of a bulk channel (R242). -/
def State.movResume (s : State) (ch : Nat) : State :=
  let b := s.bulkCh ch
  s.setBulk ch { b with stopReq := false, stopped := false }

/-! ### Answers of fabric accesses -/

/-- Piece `n` of the source of a mover's descriptor `run` has come in; none is poison (R226). -/
def State.moverLoad (s : State) (m : Mover) (run n : Nat) (data : Option (List Byte)) : State :=
  match s.movRun m, data with
  | some r, some bs =>
    let r1 := { r with loads := r.loads.mapIdx (fun i (p : RPart) => if i = n then { p with data := some bs } else p) }
    if r1.isOver || r1.seq ≠ run then s else s.movFeed m r1
  | some r, none => if r.seq = run then s.movFault m .eccUe else s
  | none, _ => s

/-- A store of a mover's descriptor `run` is acknowledged. -/
def State.moverStored (s : State) (m : Mover) (run : Nat) : State :=
  match s.movRun m with
  | some r => if r.seq = run then s.setMovRun m (some { r with stores := r.stores - 1 }) else s
  | none => s

end Sys2Proof.Machine
end

