-- ==== Sys2Proof/Machine/Fabric.lean ====
section
/-! DEFINITION. The fabric's receiving side, acknowledgements, timers, combining, links and transit (R246, R249, R250, R256 to R262,
R268 to R280, R283). -/

namespace Sys2Proof.Machine

/-! ### Receiving (R250, R256, R259) -/

/-- `a − b` modulo 2³², and whether `a` lies before `b`. -/
def seqBelow (a b : Nat) : Bool := decide (2 ^ 31 ≤ (2 ^ 32 + a - b % 2 ^ 32) % 2 ^ 32)

def isHubCell (x : Cell) : Bool := x.type = 5 || x.type = 6

/-- Whether a cell is of a combining Hub's flow. The header does not say of which flow a Hub's FLOOR cell is: the model marks it by COMB (log 112). -/
def ofHub (x : Cell) : Bool := isHubCell x || (x.type = 9 && x.comb)

/-- The flow a cell belongs to (R257). -/
def flowOf (x : Cell) : FlowKey :=
  { tc := x.tc, tag := x.jobTag, rank := x.srcRank, hub := if ofHub x then some x.srcEp else none }

/-- The handling die of a cell of a slot (R259, R290). -/
def State.handlingDie (s : State) (slot : Nat) (x : Cell) : Nat :=
  if x.type = 0xA || x.type = 0xB then bitsOf x.offset.toNat 39 28 % 2
  else
    let w := s.window slot x.win.toNat
    if w.kind = 0 then nearSordar (stackOf (w.base + (x.offset.toNat - w.offBase)) / 4)
    else if w.kind = 1 then nearSordar ((winSpad w x.offset.toNat).1 / 64)
    else 0

def State.rxFlow (s : State) (die : Nat) (k : FlowKey) : RxFlow := ((s.rx.find? (fun e => e.1 = (die, k))).map (·.2)).getD {}
def State.setRx (s : State) (die : Nat) (k : FlowKey) (f : RxFlow) : State :=
  { s with rx := ((die, k), f) :: s.rx.filter (fun e => e.1 ≠ (die, k)) }

/-- Moves B over what is applied. -/
def RxFlow.slide (f : RxFlow) : Nat → RxFlow
  | 0 => f
  | n + 1 => if f.applied.contains f.base then ({ f with base := (f.base + 1) % 2 ^ 32, applied := f.applied.erase f.base } : RxFlow).slide n else f

/-- Takes a floor: B moves up to it. -/
def RxFlow.takeFloor (f : RxFlow) (floor : Nat) : RxFlow :=
  let b := if seqBelow f.base floor then floor % 2 ^ 32 else f.base
  let f1 := { f with base := b, applied := f.applied.filter (fun q => !seqBelow q b) }
  f1.slide f1.applied.length

def RxFlow.isDup (f : RxFlow) (seq : Nat) : Bool := seqBelow seq f.base || f.applied.contains seq

/-- Marks a number applied; STORE, CHAIN and SYNC cells also owe an ACK. -/
def State.markApplied (s : State) (die : Nat) (k : FlowKey) (seq : Nat) (ack : Bool) : State :=
  let f := s.rxFlow die k
  let f1 := if f.isDup seq then f else ({ f with applied := seq :: f.applied } : RxFlow).slide (f.applied.length + 1)
  s.setRx die k (if ack then { f1 with ackDue := true, ackAt := if f.ackDue then f.ackAt else s.now } else f1)

/-- Entries of a die's reply cache, and its occupancy fields. -/
def State.replyCount (s : State) (die : Nat) : Nat := (s.replyCache.filter (fun e => e.die = die)).length

def State.replyOcc (s : State) (die : Nat) : State :=
  let n := s.replyCount die
  (s.setF F.HUB_REPLY_OCC_NOW n die).setF F.HUB_REPLY_OCC_HIGH (Nat.max n (s.getF F.HUB_REPLY_OCC_HIGH die)) die

/-- A source's floor frees its entries, and its arrival renews the others (R274). -/
def State.replyFloor (s : State) (die : Nat) (k : FlowKey) (floor : Nat) : State :=
  let keep := s.replyCache.filter (fun (e : ReplyEntry) => !(e.die = die && e.key = k && seqBelow e.seq floor))
  ({ s with replyCache := keep.map (fun (e : ReplyEntry) => if e.die = die && e.key = k then { e with at_ := s.now } else e) }).replyOcc die

def State.replyAdd (s : State) (die : Nat) (k : FlowKey) (seq : Nat) : State :=
  ({ s with replyCache := ({ die := die, key := k, seq := seq, value := none, at_ := s.now } : ReplyEntry) :: s.replyCache } : State).replyOcc die

/-- Records RESP and data of an answer in its entry. -/
def State.replySet (s : State) (die : Nat) (k : FlowKey) (seq resp : Nat) (data : List Byte) : State :=
  { s with replyCache := s.replyCache.map (fun e => if e.die = die && e.key = k && e.seq = seq then { e with value := some (resp, data) } else e) }

def State.reply? (s : State) (die : Nat) (k : FlowKey) (seq : Nat) : Option ReplyEntry :=
  s.replyCache.find? (fun e => e.die = die && e.key = k && e.seq = seq)

def State.replyFree (s : State) (die : Nat) : Bool := decide (s.replyCount die < 65536)

/-- Sends a cell that is no flow cell on the route R269 selects; with no usable slot nothing leaves. A package whose ENDPOINT is unassigned sends
MGMT cells alone (R283). -/
def State.sendPlain (s : State) (x : Cell) : State :=
  if s.myEp = epNone && x.type ≠ 0xC then s else
  let key := routeKey s.myEp x.dstEp.toNat
  match s.anyRoute key with
  | some sl =>
    let s := { s with fresh := s.fresh + 1 }
    let b := routeBank key sl
    s.sendCell (s.getF F.HUB_ROUTE_DATA_PORT 0 b) (cellSeal { x with route := BitVec.ofNat 7 (s.getF F.HUB_ROUTE_DATA_ROUTE 0 b) })
  | none => s

/-- A REPLY to a cell (R260, Table 10-3), from the endpoint that the cell was for: a Hub on the way answers in its place (R280). COMB marks the
answer to a combined cell, whose SRC_RANK is the number of its Hub (log 112). -/
def State.sendReply (s : State) (x : Cell) (srcRank : Nat) (resp : Nat) (data : List Byte) : State :=
  s.sendPlain { emptyCell with
    type := 7, tc := x.tc, comb := isHubCell x, jobTag := x.jobTag, dstEp := x.srcEp, srcEp := x.dstEp, srcRank := BitVec.ofNat 17 srcRank
    offset := x.offset, seq := x.seq, win := x.win, op := x.op, len := BitVec.ofNat 7 data.length, resp := BitVec.ofNat 3 resp, payload := pad64 data }

/-- A REPLY of the package's own to a cell of a slot. -/
def State.answer (s : State) (slot : Nat) (x : Cell) (resp : Nat) (data : List Byte) : State :=
  s.sendReply x (if isHubCell x then x.srcRank.toNat else s.myRank slot) resp data

/-- Drops a cell and counts it (R249, R250). -/
def State.dropCell (s : State) (die : Nat) : State := (s.addF F.HUB_DROP_CNT_COUNT 1 die).setErr F.HUB_ERR_DROP die

def isLoadCell (x : Cell) : Bool := x.type = 1 || x.type = 6
def isFetching (x : Cell) : Bool := x.type = 4 || (x.type = 5 && x.fetch)

/-- What arrives for an accepting slot: slot, handling die, and whether the cell is a duplicate. -/
structure Arrival where
  slot : Nat
  die : Nat
  dup : Bool
  deriving DecidableEq, Repr

/-- Whether the stack that a cell of a slot reaches is up: what arrives before READY waits (R215). -/
def State.cellReady (s : State) (slot : Nat) (x : Cell) : Bool :=
  let w := s.window slot x.win.toNat
  x.type = 0xA || x.type = 0xB || w.kind ≠ 0 || s.getF F.LCH_STAT_READY (stackOf (w.base + (x.offset.toNat - w.offBase))) = 1

/-- Takes a flow cell in: its CRC, its tag, its floor and its number (R250, R256, R258, R259). None: the cell is not applied. A package whose
ENDPOINT is unassigned takes none (R283). -/
def State.receive (s : State) (x : Cell) : Option Arrival × State :=
  if x.dstEp.toNat ≠ s.myEp || s.myEp = epNone || !s.diesReady then (none, s)
  else
    match s.slotOfTag x.jobTag.toNat with
    | some slot =>
      if !s.cellReady slot x then (none, s) else
      let s := s.arrive x
      let die := s.handlingDie slot x
      if x.crc ≠ cellE2e x then (none, s.dropCell die)
      else
        let k := flowOf x
        let floor := (2 ^ 32 + x.seq.toNat - x.floorGap.toNat) % 2 ^ 32
        let s1 := s.flowTouch die false k
        let f := { (s1.rxFlow die k).takeFloor floor with srcEp := x.srcEp.toNat }
        let s2 := (s1.setRx die k f).replyFloor die k floor
        (some ⟨slot, die, f.isDup x.seq.toNat⟩, s2)
    | none =>
      let s := s.arrive x
      if x.crc ≠ cellE2e x then (none, s.dropCell 0)
      else
        match s.loadingSlotOfTag x.jobTag.toNat with
        | some slot =>
          let die := s.handlingDie slot x
          (none, (((s.answer slot x 1 []).addF F.HUB_STALE_TAG_CNT_COUNT 1 die).setErr F.HUB_ERR_REPLY_FULL die (s.slotPart slot)))
        | none => (none, ((s.addF F.HUB_STALE_TAG_CNT_COUNT 1 0).setErr F.HUB_ERR_STALE_TAG 0))

/-- Counts a duplicate (R259). -/
def State.countDup (s : State) (die : Nat) : State := s.addF F.HUB_DUP_CNT_COUNT 1 die

/-! ### Applying (R255, R256, R260, R274, R275) -/

def cellWord (x : Cell) (i : Nat) : Word := BitVec.ofNat 64 (leNat ((x.payload.drop (8 * i)).take 8))

/-- The outcomes that lie on what an access reads through a window (R45, R207, R208). -/
def windowEcc (es : List EccHit) (w : Window) (off len : Nat) : List EccHit :=
  if w.kind = 0 then eccOn es false [(w.base + (off - w.offBase), len)]
  else if w.kind = 1 then es.filter (fun h => match h.place with
    | .spad c a => c.toNat = (winSpad w off).1 && decide ((winSpad w off).2 / 8 ≤ a.toNat / 8) && decide (a.toNat / 8 ≤ ((winSpad w off).2 + len - 1) / 8)
    | _ => false)
  else []

/-- Applies an access whose reads have outcomes: an uncorrectable one is poison (R208). -/
def State.applyRead (s : State) (w : Window) (off len : Nat) (x : Access1) (es : List EccHit) : Option (List Byte) × State :=
  let hs := windowEcc es w off len
  if eccBad hs then (none, s.eccHits hs) else (s.eccHits hs).applyAt w off len x

/-- Reads for a LOAD and replies. -/
def State.applyLoad (s : State) (slot : Nat) (x : Cell) (es : List EccHit) : State :=
  match s.applyRead (s.window slot x.win.toNat) x.offset.toNat x.len.toNat .load es with
  | (some bs, s1) => s1.answer slot x 0 bs
  | (none, s1) => s1.answer slot x 2 []

/-- Applies an atomic: the old value. -/
def State.applyAtomic (s : State) (slot : Nat) (x : Cell) (op : Nat) (d d1 : Word) (es : List EccHit) : Option Word × State :=
  match s.applyRead (s.window slot x.win.toNat) x.offset.toNat 8 (.atomic op true d d1) es with
  | (some bs, s1) => (some (BitVec.ofNat 64 (leNat bs)), s1)
  | (none, s1) => (none, s1)

/-- Applies a cell that is no duplicate and combines with none. -/
def State.applyOne (s : State) (a : Arrival) (x : Cell) (es : List EccHit) : State :=
  let k := flowOf x
  if isLoadCell x then (s.markApplied a.die k x.seq.toNat false).applyLoad a.slot x es
  else
    let s0 := if isFetching x && (s.reply? a.die k x.seq.toNat).isNone then s.replyAdd a.die k x.seq.toNat else s
    let r := (s0.markApplied a.die k x.seq.toNat false).applyAtomic a.slot x x.op.toNat (cellWord x 0) (cellWord x 1) es
    let resp := if r.1.isSome then 0 else 2
    let data := match r.1 with
      | some v => if isFetching x then natLe 8 v.toNat else []
      | none => []
    (r.2.replySet a.die k x.seq.toNat resp data).answer a.slot x resp data

/-! ### Combining (R277 to R280) -/

/-- Whether two cells have one combining key. -/
def sameComb (a b : Cell) : Bool :=
  isLoadCell a = isLoadCell b && a.jobTag = b.jobTag && a.dstEp = b.dstEp && a.win = b.win && a.offset = b.offset && a.len = b.len &&
  (isLoadCell a || a.op = b.op)

/-- Whether a cell may be combined here. -/
def State.combable (s : State) (die : Nat) (x : Cell) : Bool :=
  (x.comb || isHubCell x) && s.getF F.HUB_CTRL_COMB_NS die ≠ 0 && (x.type = 1 || x.type = 3 || x.type = 4 || isHubCell x)

def State.combOpen (s : State) (die : Nat) (target : Bool) (x : Cell) : Option CombEntry :=
  s.comb.find? (fun e => e.die = die && !e.closed && e.target = target && (match e.cells with | c :: _ => sameComb c x | [] => false))

def State.setComb (s : State) (e : CombEntry) : State := { s with comb := s.comb.map (fun d => if d.die = e.die && d.n = e.n then e else d) }
def State.delComb (s : State) (e : CombEntry) : State := { s with comb := s.comb.filter (fun d => !(d.die = e.die && d.n = e.n)) }

/-- Replies to the contributors of an entry, with the old value and the operands in order of arrival (R280). `poison` is 0, or the RESP
that every contributor receives. -/
def State.combAnswer (s : State) (e : CombEntry) (rank : Nat) (resp : Nat) (data : List Byte) : State :=
  let m := leNat data
  let r := e.cells.foldl (fun (a : Nat × State) x =>
    let k := flowOf x
    let who := if isHubCell x then x.srcRank.toNat else rank
    let out := if resp ≠ 0 then [] else if isLoadCell x then data else if isFetching x then natLe 8 (if x.op = 0 then m + a.1 else m) else []
    (a.1 + (cellWord x 0).toNat, (a.2.replySet e.die k x.seq.toNat resp out).sendReply x who resp out)) (0, s)
  r.2.delComb e

/-- The operand of a combined atomic: the sum, minimum or maximum of its contributors'. -/
def combOperand (cs : List Cell) : Nat :=
  match cs with
  | [] => 0
  | c :: rest => rest.foldl (fun a x => (lichenOp (if c.op = 0 then 0x2 else 0x3) (if c.op = 2 then 1 else 0) 64 a (cellWord x 0).toNat 0).getD a)
      (cellWord c 0).toNat

/-- Closes an entry at the handling die: it is applied directly. -/
def State.closeTarget (s : State) (e : CombEntry) (es : List EccHit) : State :=
  match e.cells with
  | [] => s.delComb e
  | [x] =>
    match s.slotOfTag x.jobTag.toNat with
    | some slot => (s.delComb e).applyOne ⟨slot, e.die, false⟩ x es
    | none => s.delComb e
  | x :: _ =>
    match s.slotOfTag x.jobTag.toNat with
    | none => s.delComb e
    | some slot =>
      let s0 := s.addF F.HUB_COMB_CNT_COUNT e.cells.length e.die
      if isLoadCell x then
        match s0.applyRead (s0.window slot x.win.toNat) x.offset.toNat x.len.toNat .load es with
        | (some bs, s1) => s1.combAnswer e (s.myRank slot) 0 bs
        | (none, s1) => s1.combAnswer e (s.myRank slot) 2 []
      else
        match s0.applyAtomic slot x x.op.toNat (BitVec.ofNat 64 (combOperand e.cells)) 0 es with
        | (some v, s1) => s1.combAnswer e (s.myRank slot) 0 (natLe 8 v.toNat)
        | (none, s1) => s1.combAnswer e (s.myRank slot) 2 []

/-! ### Transit (R268, R271, Tables 10-1, 10-10) -/

def rowPort (me dst : Nat) : Nat := (dst + 7 - me) % 8
def colPort (me dst : Nat) : Nat := 10 + (dst + 7 - me) % 8

/-- The port a transit cell leaves by; none where the code leaves it open. -/
def transitPort (me : Nat) (x : Cell) : Option Nat :=
  let d := x.dstEp.toNat
  let r := bitsOf me 5 3
  let c := bitsOf me 2 0
  let r' := bitsOf d 5 3
  let c' := bitsOf d 2 0
  let lo := bitsOf x.route.toNat 3 0
  match bitsOf x.route.toNat 6 4 with
  | 0 => some (if c ≠ c' then rowPort c c' else colPort r r')
  | 1 => some (if r ≠ r' then colPort r r' else rowPort c c')
  | 2 => some (if c = c' then colPort r r' else if c = lo % 8 then rowPort c c' else rowPort c (lo % 8))
  | 3 => some (if r = r' then rowPort c c' else if r = lo % 8 then colPort r r' else colPort r (lo % 8))
  | 4 => some (if lo < 3 then 7 + lo else 17 + (lo - 3) % 3)
  | _ => none

/-- Forwards a cell along its route code. Which uplink leads to an optical circuit is open: a free value. -/
def State.forward (s : State) (die : Nat) (x : Cell) : State :=
  let (w, s1) := s.free
  let up := [7, 8, 9, 17, 18, 19]
  let (p, s2) := match transitPort s.myEp x with
    | some p => (p, s)
    | none => ((up[w.toNat % 6]?).getD 7, s1)
  let s3 := s2.addF F.HUB_FWD_CNT_COUNT 1 die
  if s3.getF F.FAB_STAT_UP p = 1 then s3.sendCell p x else s3

/-- A combining Hub's flow to an endpoint (R257). -/
def hubKey (die : Nat) (x : Cell) : FlowKey := { tc := x.tc, tag := x.jobTag, rank := BitVec.ofNat 17 die, hub := some x.dstEp }

/-- Closes an entry of a Hub that is not the handling die's: one contributor passes on unchanged, and the Hub keeps its record (R279); more make one
cell of the Hub's flow (R278). A package whose ENDPOINT is unassigned sends none (R266). -/
def State.closeTransit (s : State) (e : CombEntry) : State :=
  match e.cells with
  | [] => s.delComb e
  | [x] => (s.delComb e).forward e.die x
  | x :: _ =>
    if s.myEp = epNone then s.delComb e else
    let k := hubKey e.die x
    let cell := { emptyCell with
      type := if isLoadCell x then 6 else 5, tc := x.tc, comb := true, jobTag := x.jobTag, dstEp := x.dstEp, srcEp := BitVec.ofNat 20 s.myEp
      srcRank := BitVec.ofNat 17 e.die, offset := x.offset, win := x.win, op := x.op, len := x.len
      fetch := !isLoadCell x && e.cells.any isFetching
      payload := pad64 (if isLoadCell x then [] else natLe 8 (combOperand e.cells)) }
    let s1 := (s.setComb { e with closed := true }).addF F.HUB_COMB_CNT_COUNT e.cells.length e.die
    let f := s1.txFlow k
    let c : TxCell := { seq := f.next, cell := { cell with seq := BitVec.ofNat 32 f.next }, owner := .hub e.die e.n, epThread := none
                        epCluster := none, epJob := none, key := 0, slot := 0, tries := 1, timeout := firstTimeout, sentAt := s.now }
    let f1 := { f with next := f.next + 1 }
    if !(f.queue.isEmpty && f.room c) then s1.setTx k { f1 with queue := f.queue ++ [c] }
    else
      match s1.launchCell k { f1 with cells := f.cells ++ [c] } c with
      | some (c1, f2, s2) => s2.setTx k { f2 with cells := f.cells ++ [c1] }
      | none => s1.combAnswer { e with closed := true } 0 3 []

def State.closeComb (s : State) (e : CombEntry) (es : List EccHit) : State := if e.target then s.closeTarget e es else s.closeTransit e

/-- Tries to take a cell into the combining table: an open entry of its key, or a new one; none where it passes uncombined (R278, R279). -/
def State.tryCombine (s : State) (die : Nat) (target : Bool) (x : Cell) (es : List EccHit) : Option State :=
  let needs := !target || isFetching x
  if !s.combable die x || (needs && !s.replyFree die) then none
  else
    let k := flowOf x
    let mark := fun (s : State) =>
      let s1 := if needs then s.replyAdd die k x.seq.toNat else s
      if target then s1.markApplied die k x.seq.toNat false else s1
    match s.combOpen die target x with
    | some e =>
      let e1 := { e with cells := e.cells ++ [x] }
      let s1 := mark (s.setComb e1)
      some (if e1.cells.length = 64 then s1.closeComb e1 es else s1)
    | none =>
      if (s.comb.filter (fun e => e.die = die)).length < 4096 then
        let e : CombEntry := { die := die, n := s.nextComb, openedAt := s.now, closed := false, target := target, cells := [x] }
        some (mark { s with comb := s.comb ++ [e], nextComb := s.nextComb + 1 })
      else none

/-- A LOAD or atomic cell at its handling die. -/
def State.applyCell (s : State) (a : Arrival) (x : Cell) (es : List EccHit) : State :=
  let k := flowOf x
  if a.dup then
    let s1 := s.countDup a.die
    if isLoadCell x then
      if s.comb.any (fun e => e.die = a.die && e.target && e.cells.any (fun c => flowOf c = k && c.seq = x.seq)) then s1 else s1.applyLoad a.slot x es
    else if !isFetching x then
      if s.comb.any (fun e => e.die = a.die && e.target && e.cells.any (fun c => flowOf c = k && c.seq = x.seq)) then s1 else s1.answer a.slot x 0 []
    else
      match s.reply? a.die k x.seq.toNat with
      | some e => (match e.value with | some v => s1.answer a.slot x v.1 v.2 | none => s1)
      | none => s1
  else
    match s.tryCombine a.die true x es with
    | some s1 => s1
    | none =>
      if isFetching x && !s.replyFree a.die then
        ((s.answer a.slot x 1 []).addF F.HUB_RETRY_LATER_CNT_COUNT 1 a.die).setErr F.HUB_ERR_REPLY_FULL a.die (s.slotPart a.slot)
      else s.applyOne a x es

/-- An uncorrectable word of the Hub's tables or buffers: the fault of the cell's job (R288). -/
def State.hubUe (s : State) (die slot : Nat) : State := (s.setErr F.HUB_ERR_ECC_UE die (s.slotPart slot)).jobFault slot .eccUe

/-- Runs a cell of given types through the receiving checks. One whose Hub finds a word uncorrectable is not applied (log 116). -/
def State.takeCell (s : State) (types : List Nat) (x : Cell) (es : List EccHit) : State :=
  if !types.contains x.type.toNat then s
  else
    match s.receive x with
    | (some a, s1) => if unitBad es then s1.hubUe a.die a.slot else s1.applyCell a x es
    | (none, s1) => s1

def execLoadCell (x : CellReads) (s : State) : Host.Outcome State Fault Refusal := done (s.takeCell [1] x.cell x.ecc)
def execAtomicCell (x : CellReads) (s : State) : Host.Outcome State Fault Refusal := done (s.takeCell [3] x.cell x.ecc)
def execAtomicFCell (x : CellReads) (s : State) : Host.Outcome State Fault Refusal := done (s.takeCell [4] x.cell x.ecc)
def execCombAtomicCell (x : CellReads) (s : State) : Host.Outcome State Fault Refusal := done (s.takeCell [5] x.cell x.ecc)
def execCombLoadCell (x : CellReads) (s : State) : Host.Outcome State Fault Refusal := done (s.takeCell [6] x.cell x.ecc)

/-- STORE_CELL. A store to a fenced stack is answered with poison (R212). -/
def execStoreCell (r : CellReads) (s : State) : Host.Outcome State Fault Refusal :=
  let x := r.cell
  done (if x.type ≠ 2 then s else
    match s.receive x with
    | (none, s1) => s1
    | (some a, s1) =>
      let k := flowOf x
      if unitBad r.ecc then s1.hubUe a.die a.slot
      else if a.dup then (s1.countDup a.die).markApplied a.die k x.seq.toNat true
      else
        match s1.applyRead (s1.window a.slot x.win.toNat) x.offset.toNat x.len.toNat (.store (x.payload.take x.len.toNat)) r.ecc with
        | (some _, s2) => s2.markApplied a.die k x.seq.toNat true
        | (none, s2) => (s2.markApplied a.die k x.seq.toNat false).answer a.slot x 2 [])

/-- COMBINE_WINDOW_CLOSE: COMB_NS after the entry's first cell. -/
def execCombineWindowClose (die : BitVec 1) (x : CombClose) (s : State) : Host.Outcome State Fault Refusal :=
  done (match s.comb.find? (fun e => e.die = die.toNat && e.n = x.n) with
    | some e => if !e.closed && decide (e.openedAt + s.getF F.HUB_CTRL_COMB_NS die.toNat ≤ s.now) then s.closeComb e x.ecc else s
    | none => s)

/-- REPLY_CACHE_AGE: no floor of the source for 100 ms (R274). -/
def execReplyCacheAge (die : BitVec 1) (k : FlowKey) (s : State) : Host.Outcome State Fault Refusal :=
  let old := fun (e : ReplyEntry) => e.die = die.toNat && e.key = k && decide (100 * msec + e.at_ ≤ s.now)
  let n := (s.replyCache.filter old).length
  done (if n = 0 then s else
    (({ s with replyCache := s.replyCache.filter (fun e => !old e) }).addF F.HUB_AGE_FREE_CNT_COUNT n die.toNat).replyOcc die.toNat)

/-- Whether an entry of a die's combining table, open or awaiting its answer, holds a contributor. -/
def State.combHolds (s : State) (die : Nat) (target : Bool) (x : Cell) : Bool :=
  s.comb.any (fun e => e.die = die && e.target = target && e.cells.any (fun c => flowOf c = flowOf x && c.seq = x.seq))

/-- The floor that a cell carries (R258): a flow cell's, or a FLOOR cell's own; other cells carry none. -/
def cellFloor (x : Cell) : Option Nat :=
  if x.type = 9 then some x.seq.toNat
  else if x.type = 7 || x.type = 8 || 0xC ≤ x.type.toNat then none
  else some ((2 ^ 32 + x.seq.toNat - x.floorGap.toNat) % 2 ^ 32)

/-- An uncorrectable word of a port's buffer: the cell is lost, and where a job of this package sent or receives such cells it faults (R287;
log 116). -/
def State.bufferUe (s : State) (port : Nat) (x : Cell) : State :=
  let slot := s.slotOfTag x.jobTag.toNat
  let s1 := s.setErr F.FAB_ERR_ECC_UE port (slot.bind s.slotPart)
  match slot with
  | some j => s1.jobFault j .eccUe
  | none => s1

/-- TRANSIT_CELL: a Hub combines COMB cells and forwards the rest; a reserved TYPE is dropped wherever it goes (R249). A contributor that passed on
alone has no answer here: its duplicates pass on as well (log 112). Without an ENDPOINT the Hub takes MGMT cells alone (R283). -/
def execTransitCell (port : BitVec 5) (r : PortCell) (s : State) : Host.Outcome State Fault Refusal :=
  let x := r.cell
  let die := port.toNat / 10
  let odd := x.type = 0 || decide (0xE ≤ x.type.toNat)
  done (if 20 ≤ port.toNat || s.getF F.FAB_STAT_UP port.toNat = 0 || (x.dstEp.toNat = s.myEp && !odd) then s
    else
      let s1 := s.arrive { x with port := port }
      if r.ecc = .uncorrectable then s1.bufferUe port.toNat x
      else if odd then s1.dropCell die
      else if s.myEp = epNone && x.type ≠ 0xC then s1
      else
        let k := flowOf x
        let s2 := match cellFloor x with
          | some fl => s1.replyFloor die k fl
          | none => s1
        if !s2.combable die x then s2.forward die x
        else
          match s2.reply? die k x.seq.toNat with
          | some e =>
            (match e.value with
             | some v => (s2.countDup die).sendReply x (if isHubCell x then x.srcRank.toNat else 0) v.1 v.2
             | none => if s2.combHolds die false x then s2.countDup die else (s2.countDup die).forward die x)
          | none =>
            match s2.tryCombine die false x [] with
            | some s3 => s3
            | none => s2.forward die x)

/-! ### Acknowledgements and answers (R260 to R262, R276, R280) -/

/-- The slot whose job has a tag, in whatever state but FREE. -/
def State.slotAny (s : State) (tag : Nat) : Option Nat := slotNums.find? (fun j => s.slotState j ≠ slotFree && s.slotTag j = tag)

/-- Answers a cell to its owner: data, or poison as none. -/
def State.ownerAnswer (s : State) (slot : Nat) (c : TxCell) (data : Option (List Byte)) : State :=
  match c.owner with
  | .thread k t part =>
    match data with
    | none => s.clusterFault k .eccUe
    | some bs =>
      let x := s.thr k t
      if c.cell.type = 2 || c.cell.type = 3 then
        let y : Thread := match part with
          | none => { x with stores := x.stores - 1 }
          | some g =>
            let gs := x.groups.map (fun e => if e.1 = g then (e.1, e.2 - 1) else e)
            if gs.any (fun e => e.1 = g && e.2 = 0) then { x with groups := gs.filter (fun e => e.2 ≠ 0), stores := x.stores - 1 }
            else { x with groups := gs }
        s.setThr k t y
      else
        match x.remote, part with
        | some r, some n =>
          s.setThr k t { x with remote := some { r with parts := r.parts.mapIdx (fun i (p : RPart) => if i = n then { p with data := some bs } else p) } }
        | _, _ => s
  | .tile k m run load =>
    let mv := Mover.tile (BitVec.ofNat 8 k) (BitVec.ofNat 2 m)
    match load, data with
    | some n, d => s.moverLoad mv run n d
    | none, some _ => s.moverStored mv run
    | none, none => s.movFault mv .eccUe
  | .bulk ch run load =>
    let mv := Mover.bulk (BitVec.ofNat 6 ch)
    match load, data with
    | some n, d => s.moverLoad mv run n d
    | none, some _ => s.moverStored mv run
    | none, none => s.movFault mv .eccUe
  | .frond j seg =>
    let x := s.jobX j
    match data, seg with
    | none, _ => s.jobFault slot .eccUe
    | some bs, none => s.setJobX j { x with srcHeld := leNat bs, polling := false, lastReply := s.now }
    | some bs, some (n, l) =>
      s.setJobX j { x with lastReply := s.now, fetch := x.fetch.map (fun f => if f.seg = n then { f with lines := spIns f.lines l bs } else f) }
  | .spore j rank =>
    let x := s.sp j
    (s.setSp j { x with busy := x.busy.erase rank }).sporeFlush j 17
  | .chain => s
  | .hub die n =>
    match s.comb.find? (fun e => e.die = die && e.n = n) with
    | some e =>
      (match data with
       | some bs => s.combAnswer e 0 0 bs
       | none => s.combAnswer e 0 2 [])
    | none => s

/-- Sends cells that waited for room in the send window (R257). -/
def State.refill (s : State) (slot : Nat) (k : FlowKey) : Nat → State
  | 0 => s
  | n + 1 =>
    let f := s.txFlow k
    match f.queue with
    | [] => s
    | c :: rest =>
      if !f.room c || s.myEp = epNone then s
      else
        let f1 := { f with queue := rest, cells := f.cells ++ [c] }
        match s.launchCell k f1 c with
        | some (c1, f2, s1) => (s1.setTx k { f2 with cells := f.cells ++ [c1] }).refill slot k n
        | none => (s.setTx k f1).routeFault slot (ownerDie c) (f1.cells.any (fun d => cellAtomic d.cell))

/-- A cell is acknowledged for the first time (R262): it leaves its flow, fences count it, its owner has its answer. -/
def State.completeCell (s : State) (k : FlowKey) (c : TxCell) (data : Option (List Byte)) : State :=
  let f := s.txFlow k
  let slot := (s.slotAny k.tag.toNat).getD 0
  let fl0 := f.floor
  let f1 := { f with cells := f.cells.filter (fun d => d.seq ≠ c.seq) }
  let f2 := if f1.floor = fl0 then f1 else { f1 with advancedAt := s.now }
  let s1 := s.setTx k f2
  let own := match c.owner with
    | .thread a b _ => (a, b)
    | .tile a _ _ _ => (a, 0)
    | _ => (0, 0)
  let s2 := s1.countDone own.1 own.2 slot (c.epThread, c.epCluster, c.epJob)
  let s3 := (s2.ownerAnswer slot c data).refill slot k f1.queue.length
  let s4 := match c.owner with
    | .chain => s3.nextPasses
    | _ => s3
  s4.settleAll

/-- The unacknowledged cell of a flow with a number. -/
def State.txCell? (s : State) (k : FlowKey) (seq : Nat) : Option TxCell := (s.txFlow k).cells.find? (fun c => c.seq % 2 ^ 32 = seq)

/-- The flow cell that a REPLY answers: of a Hub's flow where it answers a combined cell; else of a flow to the rank, or, where a Hub on the way
answers, of the flow to the endpoint it answers for (R280, log 112). -/
def State.replyTarget (s : State) (x : Cell) : Option (FlowKey × TxCell) :=
  let of := fun (k : FlowKey) =>
    match s.txCell? k x.seq.toNat with
    | some c => if c.cell.offset = x.offset && c.cell.win = x.win && c.cell.dstEp = x.srcEp then some (k, c) else none
    | none => none
  if x.comb then of { tc := x.tc, tag := x.jobTag, rank := x.srcRank, hub := some x.srcEp }
  else
    ({ tc := x.tc, tag := x.jobTag, rank := x.srcRank, hub := none } :: (s.tx.map (fun e => e.1)).filter (fun k =>
      k.tc = x.tc && k.tag = x.jobTag && k.hub.isNone)).findSome? of

/-- An atomic of unknown outcome (R276). -/
def State.atomicUnknown (s : State) (slot die : Nat) : State :=
  (s.setErr F.HUB_ERR_ATOMIC_UNKNOWN die (s.slotPart slot)).jobFault slot .atomicUnknown

/-- The end of a cell whose outcome is unknown: a Hub passes UNKNOWN on, any other owner's job faults. -/
def State.cellUnknown (s : State) (slot : Nat) (k : FlowKey) (c : TxCell) : State :=
  match c.owner with
  | .hub die n =>
    let f := s.txFlow k
    let s1 := s.setTx k { f with cells := f.cells.filter (fun d => d.seq ≠ c.seq) }
    (match s1.comb.find? (fun e => e.die = die && e.n = n) with
     | some e => s1.combAnswer e 0 3 []
     | none => s1)
  | _ => s.atomicUnknown slot (ownerDie c)

/-- Drops a cell whose tag matches no accepting slot (R256). -/
def State.dropStale (s : State) : State := (s.addF F.HUB_STALE_TAG_CNT_COUNT 1 0).setErr F.HUB_ERR_STALE_TAG 0

/-- REPLY_CELL. A RETRY_LATER does not count as a try (R261). -/
def execReplyCell (x : Cell) (s : State) : Host.Outcome State Fault Refusal :=
  done (if x.type ≠ 7 || x.dstEp.toNat ≠ s.myEp || s.myEp = epNone then s
    else
      let s := s.arrive x
      if x.crc ≠ cellE2e x then s.dropCell 0 else
      match s.replyTarget x with
      | none => if (s.slotOfTag x.jobTag.toNat).isNone then s.dropStale else s
      | some (k, c) =>
        let slot := (s.slotAny x.jobTag.toNat).getD 0
        match x.resp.toNat with
        | 0 => s.completeCell k c (some (x.payload.take x.len.toNat))
        | 1 =>
          let f := s.txFlow k
          s.setTx k { f with cells := f.cells.map (fun d => if d.seq = c.seq then { d with timeout := firstTimeout, sentAt := s.now, tries := d.tries - 1 } else d) }
        | 2 => s.completeCell k c none
        | 3 => s.cellUnknown slot k c
        | _ => s.dropCell 0)

/-- ACK_CELL: it acknowledges STORE, CHAIN and SYNC cells below CUM or in its map (R260, R262). -/
def execAckCell (x : Cell) (s : State) : Host.Outcome State Fault Refusal :=
  let k : FlowKey := { tc := x.tc, tag := x.jobTag, rank := x.srcRank, hub := none }
  let cum := leNat (x.payload.take 4)
  let map := leNat ((x.payload.drop 4).take 32)
  let hit := fun (c : TxCell) =>
    (c.cell.type = 2 || c.cell.type = 0xA || c.cell.type = 0xB) &&
    (seqBelow (c.seq % 2 ^ 32) cum ||
      (let d := (2 ^ 32 + c.seq % 2 ^ 32 - (cum + 1) % 2 ^ 32) % 2 ^ 32
       decide (d < 256) && testBit map d))
  done (if x.type ≠ 8 || x.dstEp.toNat ≠ s.myEp || s.myEp = epNone then s
    else
      let s := s.arrive x
      if x.crc ≠ cellE2e x then s.dropCell 0
      else if (s.slotOfTag x.jobTag.toNat).isNone then s.dropStale
    else ((s.txFlow k).cells.filter hit).foldl (fun s c => s.completeCell k c (some [])) s)

/-- FLOOR_CELL: it moves the receive windows of both dies, and frees reply cache entries (R258, R274). -/
def execFloorCell (x : Cell) (s : State) : Host.Outcome State Fault Refusal :=
  let k := flowOf x
  let one := fun (die : Nat) (s : State) => (s.setRx die k ((s.rxFlow die k).takeFloor x.seq.toNat)).replyFloor die k x.seq.toNat
  done (if x.type ≠ 9 || x.dstEp.toNat ≠ s.myEp || s.myEp = epNone then s
    else
      let s := s.arrive x
      if x.crc ≠ cellE2e x then s.dropCell 0
      else if (s.slotOfTag x.jobTag.toNat).isNone then s.dropStale
    else one 1 (one 0 s))

/-- ACK_SEND: one ACK for the applications of the last 200 ns. -/
def execAckSend (die : BitVec 1) (k : FlowKey) (s : State) : Host.Outcome State Fault Refusal :=
  let f := s.rxFlow die.toNat k
  let map := f.applied.foldl (fun a q =>
    let d := (2 ^ 32 + q - (f.base + 1) % 2 ^ 32) % 2 ^ 32
    if d < 256 then a + 2 ^ d else a) 0
  done (if !f.ackDue then s
    else
      let slot := (s.slotAny k.tag.toNat).getD 0
      (s.setRx die.toNat k { f with ackDue := false }).sendPlain { emptyCell with
        type := 8, tc := k.tc, jobTag := k.tag, dstEp := BitVec.ofNat 20 f.srcEp, srcEp := BitVec.ofNat 20 s.myEp
        srcRank := BitVec.ofNat 17 (s.myRank slot), seq := BitVec.ofNat 32 f.base, len := 36, payload := pad64 (natLe 4 f.base ++ natLe 32 map) })

/-- A FLOOR cell of a flow. -/
def State.sendFloor (s : State) (k : FlowKey) : State :=
  let f := s.txFlow k
  let slot := (s.slotAny k.tag.toNat).getD 0
  let dst := match k.hub with
    | some e => e.toNat
    | none => (s.rankEp slot k.rank.toNat).getD epNone
  (s.setTx k { f with carried := f.floor }).sendPlain { emptyCell with
    type := 9, tc := k.tc, comb := k.hub.isSome, jobTag := k.tag, dstEp := BitVec.ofNat 20 dst, srcEp := BitVec.ofNat 20 s.myEp
    srcRank := match k.hub with | some _ => k.rank | none => BitVec.ofNat 17 (s.myRank slot)
    seq := BitVec.ofNat 32 f.floor }

/-- FLOOR_TIMER: an advanced floor has not been carried for 10 µs. -/
def execFloorTimer (k : FlowKey) (s : State) : Host.Outcome State Fault Refusal :=
  let f := s.txFlow k
  done (if f.carried < f.floor && decide (10 * usec + f.advancedAt ≤ s.now) then s.sendFloor k else s)

/-! ### Timers and lost routes (R261, R270, R276) -/

/-- Marks a route slot failed; combinable atomics that were sent on it have no known outcome (R276). -/
def State.failSlot (s : State) (key slot die : Nat) : State :=
  if s.getF F.HUB_ROUTE_DATA_FAILED 0 (routeBank key slot) = 1 then s
  else
    let s1 := (s.setF F.HUB_ROUTE_DATA_FAILED 1 0 (routeBank key slot)).addF F.HUB_PATH_FAIL_CNT_COUNT 1 die
    s1.tx.foldl (fun s e =>
      e.2.cells.foldl (fun s c =>
        if c.key = key && c.slot = slot && c.cell.comb && cellAtomic c.cell then s.cellUnknown ((s.slotAny e.1.tag.toNat).getD 0) e.1 c
        else s) s) s1

/-- Switches a job's Frond fetches to its alternate parent (R367); with none, the route is lost. -/
def State.frondSwitch (s : State) (slot : Nat) : State :=
  if s.getF F.GLB_FROND_STAT_ON_ALT 0 slot = 1 || s.getF F.GLB_FROND_TREE_ALT_VALID 0 slot = 0 then s.routeFault slot 0 false
  else
    let mine : TxCell → Bool := fun c => match c.owner with
      | .frond j _ => decide (j = slot)
      | _ => false
    let s1 := { s with tx := s.tx.map (fun (e : FlowKey × TxFlow) => (e.1, ({ e.2 with cells := e.2.cells.filter (fun c => !mine c), queue := e.2.queue.filter (fun c => !mine c) } : TxFlow))) }
    let x := s.jobX slot
    let s2 := s1.setJobX slot { x with next := s.getF F.GLB_FROND_STAT_HELD 0 slot, srcHeld := 0, fetch := [], polling := false, lastReply := s.now }
    (s2.setF F.GLB_FROND_STAT_ON_ALT 1 0 slot).setErr F.GLB_ERR_FROND_SWITCH 0 (s.slotPart slot)

/-- A flow whose destination has no usable slot (R270): the job faults; movers that wait on its cells end DESC_BAD. A Hub answers its
contributors UNKNOWN; Frond switches to its alternate (R367). -/
def State.flowLost (s : State) (k : FlowKey) : State :=
  let f := s.txFlow k
  let slot := (s.slotAny k.tag.toNat).getD 0
  match k.hub with
  | some _ => f.cells.foldl (fun s c => s.cellUnknown slot k c) s
  | none =>
    let die := match f.cells with
      | c :: _ => ownerDie c
      | [] => 0
    let s1 := if k.tc = 4 then s.frondSwitch slot else s.routeFault slot die ((f.cells ++ f.queue).any (fun d => cellAtomic d.cell))
    (f.cells ++ f.queue).foldl (fun s c =>
      let mv : Option (Mover × Nat) := match c.owner with
        | .tile k m run _ => some (.tile (BitVec.ofNat 8 k) (BitVec.ofNat 2 m), run)
        | .bulk ch run _ => some (.bulk (BitVec.ofNat 6 ch), run)
        | _ => none
      match mv with
      | some (m, run) =>
        (match s.movRun m with
         | some r => if r.seq ≠ run then s else if r.isOver then s.setMovRun m (some { r with bad := true, stores := 0 }) else s.movFinish m r true
         | none => s)
      | none => s) s1

/-- Every flow with a cell and no usable slot left is lost (R270). -/
def State.loseFlows (s : State) : State :=
  s.tx.foldl (fun s e =>
    match (s.txFlow e.1).cells ++ (s.txFlow e.1).queue with
    | [] => s
    | c :: _ => if (s.selectRoute (routeKey s.myEp c.cell.dstEp.toNat)).isNone then s.flowLost e.1 else s) s

/-- RETRANSMIT_TIMEOUT. A package whose ENDPOINT is unassigned sends no flow cell (R266). -/
def execRetransmitTimeout (k : FlowKey) (seq : BitVec 32) (s : State) : Host.Outcome State Fault Refusal :=
  done (match s.txCell? k seq.toNat with
    | none => s
    | some c =>
      if s.now < c.sentAt + c.timeout || s.myEp = epNone then s
      else
        let die := ownerDie c
        let s0 := if 8 ≤ c.tries then (s.failSlot c.key c.slot die).loseFlows else s
        match s0.txCell? k seq.toNat with
        | none => s0
        | some _ =>
          let c1 := if 8 ≤ c.tries then { c with tries := 1, timeout := firstTimeout }
                    else { c with tries := c.tries + 1, timeout := Nat.min (2 * c.timeout) maxTimeout }
          match s0.launchCell k (s0.txFlow k) c1 with
          | some (c2, f2, s1) =>
            (s1.setTx k { f2 with cells := (s0.txFlow k).cells.map (fun d => if d.seq = c.seq then c2 else d) }).addF F.HUB_RETX_CNT_COUNT 1 die
          | none => if 8 ≤ c.tries then s0 else s0.flowLost k)

/-! ### Links (R246, R270, R283) -/

/-- The sender's side of a replay: the cells that it keeps from a LINK_SEQ on leave again, in order. -/
def State.resendLink (s : State) (p : Nat) (from_ : BitVec 12) : State :=
  let kept := (s.link p).sent
  match kept.findIdx? (fun c => c.linkSeq = from_) with
  | some i => (kept.take (i + 1)).reverse.foldl (fun s c => s.emit (.cell p c)) s
  | none => s

/-- LINK_REPLAY (R246). The port's receiver drops a cell and asks for a replay from the next LINK_SEQ it expected, and the replay succeeds or
fails; or, with `ask`, the other end has asked the port's sender for one. -/
def execLinkReplay (port : BitVec 5) (r : ReplayReq) (s : State) : Host.Outcome State Fault Refusal :=
  let ok := r.ok
  let ask := r.ask
  let p := port.toNat
  let x := s.link p
  let times := s.now :: x.replays.filter (fun t => decide (s.now < 60000000000 + t))
  let rate := times.length / 60
  let was := s.getF F.FAB_ERR_RETRY_RISING p = 1
  done (if 20 ≤ p || s.getF F.FAB_STAT_UP p = 0 then s
    else if let some n := ask then s.resendLink p n
    else
      let s1 := ((s.emit (.linkAsk p x.rxSeq)).setLink p { x with fails := if ok then 0 else x.fails + 1, replays := times }).addF F.FAB_REPLAY_CNT_COUNT 1 p
      let s2 := (s1.addF F.FAB_FEC_UNCORR_COUNT 1 p).setF F.FAB_REPLAY_RATE_PER_S rate p
      if 1000 * s.getF F.FAB_CTRL_RETRY_WARN p < rate then
        let s3 := s2.setErr F.FAB_ERR_RETRY_RISING p
        if was then s3 else s3.sporeWarn 2
      else s2)

/-- A port goes down: its slots are marked failed, and destinations with no slot left fault their jobs (R270). -/
def State.portDown (s : State) (p lt : Nat) : State :=
  let s1 := (((s.setF F.FAB_STAT_UP 0 p).setF F.FAB_STAT_LANES_UP 0 p).setF F.FAB_STAT_LT lt p).setLink p {}
  let s2 := (s1.setErr F.FAB_ERR_LINK_DOWN p).addF F.FAB_DOWN_CNT_COUNT 1 p
  let s3 := (List.range 384).foldl (fun s key => slotNums.foldl (fun s sl =>
    if s.getF F.HUB_ROUTE_DATA_VALID 0 (routeBank key sl) = 1 && s.getF F.HUB_ROUTE_DATA_PORT 0 (routeBank key sl) = p then s.failSlot key sl (p / 10) else s) s) s2
  s3.loseFlows

/-- LINK_DOWN: 16 replays in a row have failed; the link retrains. -/
def execLinkDown (port : BitVec 5) (s : State) : Host.Outcome State Fault Refusal :=
  let p := port.toNat
  done (if 20 ≤ p || s.getF F.FAB_STAT_UP p = 0 || (s.link p).fails < 16 then s
    else (s.setErr F.FAB_ERR_REPLAY_FAIL p).portDown p 1)

/-- LINK_UP: an enabled port finishes training. -/
def execLinkUp (port : BitVec 5) (peerPort : BitVec 5) (peerEp : BitVec 20) (s : State) : Host.Outcome State Fault Refusal :=
  let p := port.toNat
  done (if 20 ≤ p || s.clkOff .fab p || s.getF F.FAB_CTRL_EN p = 0 || s.getF F.FAB_STAT_UP p = 1 then s
    else
      let s1 := ((s.setF F.FAB_STAT_UP 1 p).setF F.FAB_STAT_LANES_UP 8 p).setF F.FAB_STAT_LT 2 p
      ((s1.setF F.FAB_PEER_PORT peerPort.toNat p).setF F.FAB_PEER_EP peerEp.toNat p).setLink p {})

end Sys2Proof.Machine
end

