-- ==== Sys2Proof/Machine/Chain.lean ====
section
/-! DEFINITION. Chain collectives (R289 to R315): commands, the tree and the ring, integrity, commit and confirmation. -/

namespace Sys2Proof.Machine

abbrev opBarrier : Nat := 0x70
abbrev opAllreduce : Nat := 0x71
abbrev opReduce : Nat := 0x72
abbrev opBroadcast : Nat := 0x73
abbrev opReduceScatter : Nat := 0x74
abbrev opAllgather : Nat := 0x75
abbrev opConfirmWait : Nat := 0x76
abbrev opCommCreate : Nat := 0x7C
abbrev opCommFree : Nat := 0x7D

/-- An UP cell without data: the arrival of a BARRIER, BROADCAST or COMM_CREATE. -/
abbrev phArrive : Nat := 9

/-! ### Elements (R303, R304) -/

def dtypeFmt (dt : Nat) : Fmt := if dt = 1 then fp32 else fp64
def dtypeBytes (dt : Nat) : Nat := if dt = 1 then 4 else 8

/-- One combination of two elements, and whether an addition overflowed. -/
def ropNode (dt rop a b : Nat) : Nat × Bool :=
  let f := dtypeFmt dt
  let ovf := fun (r : Nat × Nat) => (r.1, decide (r.2 &&& flOverflow ≠ 0))
  if dt ≤ 1 then
    match rop with
    | 0 => ovf (fpAdd f .rne a b)
    | 1 => ((fpMin f a b).1, false)
    | _ => ((fpMax f a b).1, false)
  else
    match rop with
    | 0 => ((a + b) % 2 ^ 64, false)
    | 1 => (if dt = 2 then (if toSigned 64 a ≤ toSigned 64 b then a else b) else Nat.min a b, false)
    | _ => (if dt = 2 then (if toSigned 64 a ≤ toSigned 64 b then b else a) else Nat.max a b, false)

/-- Identity of an operation and type (Table 03-4). -/
def ropIdent (dt rop : Nat) : Nat :=
  let f := dtypeFmt dt
  if dt ≤ 1 then
    match rop with
    | 0 => f.signBit
    | 1 => f.infBits
    | _ => f.signBit + f.infBits
  else
    match rop with
    | 0 => 0
    | 1 => if dt = 2 then 2 ^ 63 - 1 else 2 ^ 64 - 1
    | _ => if dt = 2 then 2 ^ 63 else 0

/-- Elements of a vector; each with the mark that an addition producing it has overflowed. -/
abbrev Elems := List (Nat × Bool)

def toElems (dt : Nat) (bs : List Byte) : Elems :=
  let w := dtypeBytes dt
  (List.range (bs.length / w)).map (fun i => (leNat ((bs.drop (w * i)).take w), false))

def ofElems (dt : Nat) (v : Elems) : List Byte := v.flatMap (fun e => natLe (dtypeBytes dt) e.1)

def redVec (dt rop : Nat) (a b : Elems) : Elems :=
  List.zipWith (fun x y => let r := ropNode dt rop x.1 y.1; (r.1, r.2 || x.2 || y.2)) a b

/-- One level of the pairwise tree over vectors, and a number of levels. -/
def pairVec (f : Elems → Elems → Elems) : List Elems → List Elems
  | a :: b :: rest => f a b :: pairVec f rest
  | xs => xs

def treeVec (f : Elems → Elems → Elems) : Nat → List Elems → Elems
  | 0, xs => xs.headD []
  | n + 1, xs => treeVec f n (pairVec f xs)

/-! ### The radix-16 tree over member indices (R302) -/

/-- Members of the aligned block below a member: 1, 16, 256, 4,096 or 65,536. -/
def blockOf (i : Nat) : Nat :=
  if i % 16 ≠ 0 then 1 else if i % 256 ≠ 0 then 16 else if i % 4096 ≠ 0 then 256 else if i % 65536 ≠ 0 then 4096 else 65536

def treeParent (i : Nat) : Nat := i - i % (16 * blockOf i)

/-- Strides of the levels that P members have. -/
def treeLevels (p : Nat) : List Nat := [1, 16, 256, 4096, 65536].filter (fun w => decide (w < p))

def treeKidsAt (i p w : Nat) : List Nat :=
  if i % (16 * w) ≠ 0 then [] else ((List.range' 1 15).map (fun k => i + k * w)).filter (fun c => decide (c < p))

/-- Children, in ascending index. -/
def treeKids (i p : Nat) : List Nat := (treeLevels p).flatMap (treeKidsAt i p)

/-! ### What a member sends and expects -/

/-- COUNT × element width. -/
def Coll.m (k : Coll) : Nat := k.count * dtypeBytes k.dtype

def Coll.reduces (k : Coll) : Bool := k.opc = opAllreduce || k.opc = opReduce || k.opc = opReduceScatter
/-- Commands whose members report their arrival without data. -/
def Coll.arrives (k : Coll) : Bool := k.opc = opBarrier || k.opc = opBroadcast || k.opc = opCommCreate

/-- First element of part q (R301). -/
def partLo (count p q : Nat) : Nat := q * count / p
def Coll.partBytes (k : Coll) (p q : Nat) : Nat :=
  if k.opc = opAllgather then k.m else dtypeBytes k.dtype * (partLo k.count p (q + 1) - partLo k.count p q)
/-- Part q of a whole vector. -/
def Coll.part (k : Coll) (p q : Nat) (v : List Byte) : List Byte :=
  (v.drop (dtypeBytes k.dtype * partLo k.count p q)).take (dtypeBytes k.dtype * (partLo k.count p (q + 1) - partLo k.count p q))

/-- Bytes of the result that travels down. -/
def Coll.downBytes (k : Coll) (p : Nat) : Nat := if k.opc = opAllgather then p * k.m else k.m
/-- Bytes a child sends up. -/
def Coll.upBytes (k : Coll) (p c : Nat) : Nat := if k.opc = opAllgather then Nat.min (blockOf c) (p - c) * k.m else k.m

/-- Parts that a member receives in the steps of the two ring phases (R303). -/
def rsPart (p me t : Nat) : Nat := (me + 2 * p - 2 - t) % p
def agPart (p me t : Nat) : Nat := (me + p - 1 - t) % p
def Coll.rsSteps (k : Coll) (p : Nat) : Nat := if k.ring && k.opc ≠ opAllgather then p - 1 else 0
def Coll.agSteps (k : Coll) (p : Nat) : Nat := if k.ring && k.opc ≠ opReduceScatter then p - 1 else 0

/-- Bytes of the steps of a phase that a member receives from another; none where the phase is not expected from it. -/
def Coll.steps (k : Coll) (p me phase from_ : Nat) : List Nat :=
  if k.ring then
    if from_ ≠ (me + p - 1) % p then []
    else if phase = phRs then (List.range (k.rsSteps p)).map (fun t => k.partBytes p (rsPart p me t))
    else if phase = phAg then (List.range (k.agSteps p)).map (fun t => k.partBytes p (agPart p me t))
    else []
  else if phase = phUp then
    if k.opc = opBroadcast then (if me = 0 && from_ = k.root && k.root ≠ 0 then [k.m] else [])
    else if k.arrives then [] else if (treeKids me p).contains from_ then [k.upBytes p from_] else []
  else if phase = phDown then
    if me = 0 || k.opc = opBarrier || k.opc = opCommCreate then []
    else if k.opc = opReduce then (if me = k.root && from_ = 0 then [k.m] else [])
    else if from_ = treeParent me then [k.downBytes p] else []
  else []

/-- Whether a transfer of a tree goes as one SYNC cell (R300); a gather's hop that does not fit one goes in chunks (log 40). -/
def Coll.small (k : Coll) (bytes : Nat) : Bool := !k.ring && decide (k.m ≤ 64) && decide (bytes ≤ 64)

/-! ### Received data (R298, R300, R305) -/

def Coll.rxOf (k : Coll) (phase member : Nat) : CollRx :=
  (k.rx.find? (fun r => r.phase = phase && r.member = member)).getD { phase := phase, member := member }

def Coll.setRx (k : Coll) (r : CollRx) : Coll :=
  { k with rx := r :: k.rx.filter (fun e => !(e.phase = r.phase && e.member = r.member)) }

def Coll.has (k : Coll) (phase member : Nat) : Bool := k.rx.any (fun r => r.phase = phase && r.member = member)

/-- Places a cell by CELL and by the passes completed. -/
def Coll.putCell (k : Coll) (phase member cell : Nat) (bs : List Byte) : Coll :=
  let r := k.rxOf phase member
  k.setRx { r with cells := spIns r.cells (cell + passCells * (r.cells.length / passCells)) bs }

def cellsOf (n : Nat) : Nat := (n + 63) / 64

/-- First cell of step t. -/
def stepBase (steps : List Nat) (t : Nat) : Nat := (steps.take t).foldl (fun a b => a + cellsOf b) 0

/-- A run of cells, once all are in. -/
def CollRx.run (r : CollRx) (first n bytes : Nat) : Option (List Byte) :=
  let cs := (List.range' first n).map (fun i => spGet none (r.cells.map (fun e => (e.1, some e.2))) i)
  if cs.all Option.isSome then some ((cs.flatMap (fun c => c.getD [])).take bytes) else none

/-- The chunks of a step: first cell, cells, bytes. -/
def stepChunks (base bytes : Nat) : List (Nat × Nat × Nat) :=
  (List.range ((4095 + bytes) / 4096)).map (fun (c : Nat) => (base + 64 * c, Nat.min 64 (cellsOf bytes - 64 * c), Nat.min 4096 (bytes - 4096 * c)))

/-- All chunks of a phase from a member. -/
def Coll.phaseChunks (k : Coll) (p me phase member : Nat) : List (Nat × Nat × Nat) :=
  let st := k.steps p me phase member
  (List.range st.length).flatMap (fun t => stepChunks (stepBase st t) ((st[t]?).getD 0))

/-- A chunk consumed from staging: its data, and whether its CRC agrees. A CHUNK cell does not name the phase whose data it covers: a
CHUNK covers the run of cells its CRC agrees with, and a CRC fails when every run it can cover is in and agrees with none (log 41). -/
def Coll.chunk (k : Coll) (p me phase member : Nat) (c : Nat × Nat × Nat) : Option (List Byte × Bool) :=
  let said := (k.rxOf phChunk member).chunks.filter (fun d => d.1 = c.1 % passCells)
  match (k.rxOf phase member).run c.1 c.2.1 c.2.2 with
  | none => none
  | some bs =>
    if said.any (fun d => d.2.1 = c.2.1 && d.2.2 = crc32c bs) then some (bs, true)
    else
      let rivals := [phUp, phDown, phRs, phAg].flatMap (fun ph =>
        ((k.phaseChunks p me ph member).filter (fun d => d.1 % passCells = c.1 % passCells)).map (fun d => ((k.rxOf ph member).run d.1 d.2.1 d.2.2).isSome))
      if rivals.all id && decide (rivals.length ≤ said.length) then some (bs, false) else none

/-- Data of step t of a phase from a member, once all of it is in, and whether its CRCs agree. -/
def Coll.stepIn (k : Coll) (p me phase member t : Nat) : Option (List Byte × Bool) :=
  let st := k.steps p me phase member
  match st[t]? with
  | none => none
  | some b =>
    if k.small b then ((k.rxOf phase member).run 0 1 b).map (fun bs => (bs, true))
    else
      let cs := (stepChunks (stepBase st t) b).map (k.chunk p me phase member)
      if cs.all Option.isSome then
        let ds := cs.map (fun c => c.getD ([], true))
        some (ds.flatMap (fun d => d.1), ds.all (fun d => d.2))
      else none

/-- Whether some chunk that is in fails its CRC. -/
def Coll.crcBad (k : Coll) (p me : Nat) : Bool :=
  k.rx.any (fun r => (k.phaseChunks p me r.phase r.member).any (fun c => !k.small c.2.2 && (match k.chunk p me r.phase r.member c with
    | some d => !d.2
    | none => false)))

/-! ### Reductions of the tree and the ring -/

/-- The value a member's node forms from its own input and its children's data, in four levels of the pairwise tree for each level
of the radix-16 tree; none until all of it is in. -/
def Coll.nodeValue (k : Coll) (p me : Nat) : Option Elems :=
  let kid := fun (c : Nat) => (k.stepIn p me phUp c 0).map (fun d => toElems k.dtype d.1)
  if !(treeKids me p).all (fun c => (kid c).isSome) then none
  else
    some ((treeLevels p).foldl (fun acc w =>
      let ks := treeKidsAt me p w
      if ks.isEmpty then acc
      else
        let pad := acc.map (fun _ => (ropIdent k.dtype k.rop, false))
        treeVec (redVec k.dtype k.rop) 4 (acc :: ((List.range 15).map (fun i => ((ks[i]?).bind kid).getD pad)))) (toElems k.dtype k.input))

/-- What a member has in hand when all of its subtree has started: its data for its parent, or for member 0 the result. -/
def Coll.gathered (k : Coll) (p me : Nat) : Option Elems × List Byte × Bool :=
  if k.arrives then
    let all := (treeKids me p).all (fun c => k.has phArrive c)
    if k.opc = opBroadcast && me = 0 && k.root ≠ 0 && k.m ≠ 0 then
      match k.stepIn p 0 phUp k.root 0 with
      | some d => (none, d.1, all)
      | none => (none, [], false)
    else (none, if k.opc = opBroadcast && me = 0 then k.input else [], all)
  else if k.opc = opAllgather then
    let ds := (treeKids me p).map (fun c => k.stepIn p me phUp c 0)
    (none, k.input ++ ds.flatMap (fun d => (d.map (fun x => x.1)).getD []), ds.all Option.isSome)
  else
    match k.nodeValue p me with
    | some v => (some v, ofElems k.dtype v, true)
    | none => (none, [], false)

/-- The value of a part after step t − 1 of the ring's reduction: what member `me` sends in step t, or holds at the end. -/
def Coll.ringAcc (k : Coll) (p me t : Nat) : Option Elems :=
  let own := fun q => toElems k.dtype (k.part p q k.input)
  match t with
  | 0 => some (own ((me + p - 1) % p))
  | t + 1 => (k.stepIn p me phRs ((me + p - 1) % p) t).map (fun d => redVec k.dtype k.rop (toElems k.dtype d.1) (own (rsPart p me t)))

/-- The part that starts the ring's all-gather at this member. -/
def Coll.ringOwn (k : Coll) (p me : Nat) : Option (List Byte) :=
  if k.opc = opAllgather || p ≤ 1 then some k.input else (k.ringAcc p me (p - 1)).map (ofElems k.dtype)

/-- Data of a ring step to be sent: phase, first cell and bytes. -/
def Coll.ringSend (k : Coll) (p me n : Nat) : Option (Nat × Nat × List Byte) :=
  let next := (me + 1) % p
  let r := k.rsSteps p
  if n < r then (k.ringAcc p me n).map (fun v => (phRs, stepBase (k.steps p next phRs me) n, ofElems k.dtype v))
  else
    let t := n - r
    let bs := if t = 0 then k.ringOwn p me else (k.stepIn p me phAg ((me + p - 1) % p) (t - 1)).map (fun d => d.1)
    bs.map (fun b => (phAg, stepBase (k.steps p next phAg me) t, b))

/-- The result of a ring, once its last step is in. -/
def Coll.ringResult (k : Coll) (p me : Nat) : Option (List Byte) :=
  match k.ringOwn p me with
  | none => none
  | some own =>
    if k.opc = opReduceScatter then some own
    else
      let parts := (List.range p).map (fun q =>
        if q = me then some own
        else (k.stepIn p me phAg ((me + p - 1) % p) ((me + p - 1 - q) % p)).map (fun d => d.1))
      if parts.all Option.isSome then some (parts.flatMap (fun x => x.getD [])) else none

/-- Whether an addition of this member overflowed in an element it writes. -/
def Coll.ownOverflow (k : Coll) (p me : Nat) : Bool :=
  let any := fun (v : Option Elems) => (v.getD []).any (fun e => e.2)
  if !k.reduces then false
  else if k.ring then
    if k.opc = opReduceScatter then any (k.ringAcc p me (p - 1))
    else (List.range p).any (fun t => any (k.ringAcc p me t))
  else
    let v := (k.nodeValue p me).getD []
    if k.opc = opReduce then me = k.root && v.any (fun e => e.2)
    else if k.opc = opReduceScatter then
      ((v.drop (partLo k.count p me)).take (partLo k.count p (me + 1) - partLo k.count p me)).any (fun e => e.2)
    else v.any (fun e => e.2)

/-! ### Poison, confirmation and commit (R305 to R310) -/

/-- A collective's Chain engine (R290). -/
def Coll.die (k : Coll) : Nat := k.comm % 2

def State.touchColl (s : State) (k : Coll) : State := s.setColl { k with progress := s.now }

/-- Marks a collective poisoned (R305, R307). -/
def State.poison (s : State) (k : Coll) : State :=
  if k.poison then s
  else
    let s1 := (s.setColl { k with poison := true }).addF F.CHN_POISON_CNT_COUNT 1 k.die
    (s1.setErr F.CHN_ERR_COLL_POISONED k.die (s.slotPart k.slot)).jobFault k.slot .collPoisoned

/-- The payload of CONFIRM cells (Table 11-4). -/
structure Confirm where
  poison : Bool
  reason : Nat
  digest : Nat
  last : Nat
  rank : Nat
  first : Nat
  deriving DecidableEq, Repr

def Confirm.bytes (c : Confirm) : List Byte :=
  natLe 1 (if c.poison then 1 else 0) ++ natLe 1 c.reason ++ natLe 2 0 ++ natLe 4 c.digest ++ natLe 8 c.last ++ natLe 4 c.rank ++ natLe 4 0 ++
  natLe 8 c.first

def Confirm.ofBytes (b : List Byte) : Confirm :=
  let f := fun i n => leNat ((b.drop i).take n)
  { poison := f 0 1 = 1, reason := f 1 1, digest := f 4 4, last := f 8 8, rank := f 16 4, first := f 24 8 }

/-- Combines two confirmations; `second` says which rank is reported when the latest ticks are equal. -/
def Confirm.join (a b : Confirm) (second : Bool) : Confirm :=
  let l := a.last < b.last || (a.last = b.last && second)
  { poison := a.poison || b.poison || a.digest ≠ b.digest, reason := if l then b.reason else a.reason, digest := a.digest
    last := Nat.max a.last b.last, rank := if l then b.rank else a.rank, first := Nat.min a.first b.first }

/-- A confirmation's result reaches a member: it passes on, the record fills, and the collective is confirmed (R306, R307, R312). -/
def State.confirmed (s : State) (k : Coll) (p me : Nat) (bs : List Byte) : State :=
  let c := Confirm.ofBytes bs
  let s1 := (treeKids me p).foldl (fun s i =>
    s.sendPhase k ((((s.comm? k.slot k.comm).map (fun d => d.ranks)).getD [])[i]?.getD 0) phConfDown 0 true bs) s
  let s2 := match s1.comm? k.slot k.comm with
    | some d => s1.setComm { d with slow := ((k.seq, c.rank, c.last - c.first, c.reason) :: d.slow).take 16 }
    | none => s1
  let s3 := s2.setF F.CHN_CONFIRM_MAX_TICKS (Nat.max (s2.now - k.commitAt) (s2.getF F.CHN_CONFIRM_MAX_TICKS k.die)) k.die
  let s4 := if c.poison || c.digest ≠ k.opDigest then s3.poison k else s3
  { s4 with colls := s4.colls.filter (fun d => !(d.slot = k.slot && d.comm = k.comm && d.seq = k.seq)) }

/-- Joins the confirmation wave once every child's CONFIRM_UP is in. -/
def State.confirmPump (s : State) (k : Coll) (ranks : List Nat) (me : Nat) : State :=
  let p := ranks.length
  let kids := treeKids me p
  if !k.committed || k.confSent || !kids.all (fun i => k.conf.any (fun e => e.1 = i)) then s
  else
    let (w, s0) := s.free
    let own : Confirm := { poison := k.poison, reason := k.reason, digest := k.opDigest, last := k.arrive, rank := (ranks[me]?).getD 0, first := k.arrive }
    let all := kids.foldl (fun (a : Confirm × Nat) i =>
      match k.conf.find? (fun e => e.1 = i) with
      | some e => (a.1.join (Confirm.ofBytes e.2) (testBit w.toNat (a.2 % 64)), a.2 + 1)
      | none => a) (own, 0)
    let k1 := { k with confSent := true, progress := s.now }
    let s1 := s0.setColl k1
    if me = 0 then s1.confirmed k1 p me all.1.bytes
    else s1.sendPhase k1 ((ranks[treeParent me]?).getD 0) phConfUp 0 true all.1.bytes

/-- The verdict of a digest check (R369 to R371). -/
def State.digestVerdict (s : State) (slot : Nat) (r : List Byte) : State :=
  let a := leNat (r.take 8)
  let b := leNat ((r.drop 8).take 8)
  let x := s.jobX slot
  let s1 := s.setJobX slot { x with checking := false }
  if a + b = 2 ^ 64 - 1 then
    if x.passed then s1.addF F.GLB_SWEEP_CNT_COUNT 1 0 slot else s1.setJobX slot { x with checking := false, passed := true }
  else (s1.setErr F.GLB_ERR_DIGEST_MISMATCH 0 (s.slotPart slot)).jobFault slot .digestMismatch

/-- Status of a collective's record. -/
def collStatus (poison late : Bool) : Nat := if poison then 0x31 else if late then 0x20 else 0

/-- What member `me` writes, of what the down wave brought (R299). -/
def Coll.output (k : Coll) (p me : Nat) (r : List Byte) : List Byte :=
  if k.opc = opAllreduce || k.opc = opBroadcast || k.opc = opAllgather then r
  else if k.opc = opReduce then (if me = k.root then r else [])
  else if k.opc = opReduceScatter then (if k.ring then r else k.part p me r)
  else []

/-- Whether other members' additions may have overflowed: the element is infinite or not a number, and they are not seen here (log 55). -/
def Coll.overflowOpen (k : Coll) (p me : Nat) (out : List Byte) : Bool :=
  k.reduces && k.rop = 0 && decide (k.dtype ≤ 1) && decide (1 < p) && !(me = 0 && p ≤ 16) &&
  (toElems k.dtype out).any (fun e => match fpVal (dtypeFmt k.dtype) e.1 with | .fin _ _ _ => false | _ => true)

/-- Writes and seals a member's output; a fenced stack faults its jobs (R212, R336). -/
def State.collStore (s : State) (k : Coll) (out : List Byte) : State :=
  if out.isEmpty then s else if s.fencedIn k.dst out.length then s.faultUnit (unitOf k.dst) .fenced else s.hbmSealWrite k.dst out

/-- The record of the command of a collective (R310). -/
def State.collRecord (s : State) (k : Coll) (id : Nat) (out : List Byte) (ovf : Bool) : State :=
  match s.cmd? id with
  | none => s
  | some c =>
    if c.phase ≠ CmdPhase.running && c.phase ≠ CmdPhase.aborted then s
    else
      let s1 := (s.collStore k out).writeDigestRecord c.part k.digestAddr k.inDigest out
      match s1.cmd? id with
      | some c1 =>
        if c1.phase = CmdPhase.ended then s1
        else s1.commitCmd c1 (collStatus k.poison (c.deadline ≠ 0 && decide (c.deadline ≤ s.cad))) 0 (if ovf then 8 else 0) k.digestAddr
      | none => s1

/-- Counts a collective that has committed. -/
def State.collCounted (s : State) (k : Coll) : State :=
  let s1 := s.addF F.CHN_COLL_CNT_COUNT 1 k.die
  if k.ring then s1.addF F.CHN_RING_CNT_COUNT 1 k.die else s1

/-- The commit point: output written and sealed, the record, and the counters (R306, R310, R336). `r` is what the down wave brought. -/
def State.collCommit (s : State) (k : Coll) (ranks : List Nat) (me : Nat) (r : List Byte) : State :=
  let out := k.output ranks.length me r
  let open_ := k.overflowOpen ranks.length me out
  let ovf := k.ownOverflow ranks.length me || (open_ && testBit s.free.1.toNat 0)
  let s0 := if open_ then s.free.2 else s
  let s1 := (s0.setColl { k with down := some r, committed := true, commitAt := s.now, progress := s.now }).collCounted k
  let s2 := match k.cmd with
    | none => s1.digestVerdict k.slot r
    | some id => s1.collRecord k id out ovf
  match s2.coll? k.slot k.comm k.seq with
  | some k2 => s2.confirmPump k2 ranks me
  | none => s2

/-! ### Progress -/

/-- Sends the result, or END, to the members below (R302). -/
def State.sendDownWave (s : State) (k : Coll) (ranks : List Nat) (me : Nat) (r : List Byte) : State :=
  let p := ranks.length
  let rank := fun (i : Nat) => (ranks[i]?).getD 0
  let data := k.opc = opAllreduce || k.opc = opBroadcast || k.opc = opAllgather || k.opc = opReduceScatter
  let s1 := if k.opc = opReduce && me = 0 && k.root ≠ 0 then s.sendPasses k (rank k.root) phDown (k.small r.length) r else s
  (treeKids me p).foldl (fun s i =>
    if data then (s.addF F.CHN_BYTES_CNT_COUNT r.length k.die).sendPasses k (rank i) phDown (k.small r.length) r
    else if k.opc = opReduce && i = k.root then s
    else s.sendPhase k (rank i) phEnd 0 true []) s1

/-- Takes the ring as far as it goes. -/
def State.ringPump (s : State) (slot num seq : Nat) (ranks : List Nat) (me : Nat) : Nat → State
  | 0 => s
  | n + 1 =>
    match s.coll? slot num seq with
    | none => s
    | some k =>
      let p := ranks.length
      if !k.ready || k.rsSteps p + k.agSteps p ≤ k.sent then s
      else
        match k.ringSend p me k.sent with
        | none => s
        | some (ph, base, bs) =>
          let k1 := { k with sent := k.sent + 1, progress := s.now }
          let s1 := (s.setColl k1).addF F.CHN_BYTES_CNT_COUNT bs.length k.die
          (s1.sendData k1 ((ranks[(me + 1) % p]?).getD 0) ph base false bs).ringPump slot num seq ranks me n

/-- The down wave at a member that is not member 0 of the tree. -/
def Coll.downIn (k : Coll) (p me : Nat) : Option (List Byte) :=
  if k.rx.any (fun r => r.phase = phEnd) then some []
  else (k.stepIn p me phDown (if k.opc = opReduce then 0 else treeParent me) 0).map (fun d => d.1)

/-- Takes a tree as far as it goes. -/
def State.treePump (s : State) (k : Coll) (ranks : List Nat) (me : Nat) : State :=
  let p := ranks.length
  let g := k.gathered p me
  let s1 := if !g.2.2 || k.upSent then s
    else
      let k1 := { k with upSent := true, progress := s.now }
      let s0 := s.setColl k1
      if me = 0 then s0
      else (s0.addF F.CHN_BYTES_CNT_COUNT g.2.1.length k.die).sendPasses k1 ((ranks[treeParent me]?).getD 0) phUp (k.small g.2.1.length || k.arrives) g.2.1
  match s1.coll? k.slot k.comm k.seq with
  | none => s1
  | some k1 =>
    let d := if me = 0 then (if g.2.2 then some g.2.1 else none) else k1.downIn p me
    match d with
    | none => s1
    | some r =>
      let s2 := s1.sendDownWave k1 ranks me r
      match s2.coll? k.slot k.comm k.seq with
      | some k2 => s2.collCommit k2 ranks me r
      | none => s2

/-- Takes a collective as far as what has arrived allows. -/
def State.collPump (s : State) (slot num seq : Nat) : State :=
  match s.comm? slot num, s.coll? slot num seq with
  | some d, some k =>
    let p := d.ranks.length
    match d.ranks.findIdx? (fun r => r = s.myRank slot) with
    | none => s
    | some me =>
      let s1 := if !k.poison && k.crcBad p me then (s.setErr F.CHN_ERR_CHUNK_CRC k.die (s.slotPart slot)).poison k else s
      let s2 := if k.ring then s1.ringPump slot num seq d.ranks me (2 * p) else s1
      match s2.coll? slot num seq with
      | none => s2
      | some k1 =>
        if k1.committed then s2.confirmPump k1 d.ranks me
        else if k1.ring then
          match k1.ringResult p me with
          | some r => if k1.rsSteps p + k1.agSteps p ≤ k1.sent then s2.collCommit k1 d.ranks me r else s2
          | none => s2
        else s2.treePump k1 d.ranks me
  | _, _ => s

/-! ### Cells -/

/-- Takes a cell of a collective that this member has started. -/
def State.collCell (s : State) (k : Coll) (member : Nat) (ranks : List Nat) (me : Nat) (x : Cell) : State :=
  let bs := x.payload.take x.len.toNat
  let cell := bitsOf x.offset.toNat 27 0
  let k0 := { k with progress := s.now }
  let keep := fun (k1 : Coll) => (s.setColl k1).collPump k.slot k.comm k.seq
  match x.op.toNat with
  | 0 => keep (if bs.isEmpty && k.arrives then k0.setRx (k0.rxOf phArrive member) else k0.putCell phUp member cell bs)
  | 1 => keep (k0.putCell phDown member cell bs)
  | 2 => keep (k0.putCell phRs member cell bs)
  | 3 => keep (k0.putCell phAg member cell bs)
  | 4 =>
    let r := k0.rxOf phChunk member
    keep (k0.setRx { r with chunks := r.chunks ++ [(leNat ((bs.drop 4).take 4), leNat ((bs.drop 8).take 2), leNat (bs.take 4))] })
  | 5 => keep { k0 with ready := true }
  | 6 => keep { k0 with conf := (member, bs) :: k0.conf.filter (fun e => e.1 ≠ member) }
  | 7 => s.confirmed k0 ranks.length me bs
  | _ => keep (k0.setRx (k0.rxOf phEnd member))

/-- What the engine's checks find as a collective takes a cell poisons it (R305): an uncorrectable staging word, which is the job's fault as well,
and a residue that differs. -/
def State.chainChecks (s : State) (k : Coll) (w : ChainWords) : State :=
  let s1 := if w.staging = .uncorrectable then ((s.setErr F.CHN_ERR_ECC_UE k.die (s.slotPart k.slot)).jobFault k.slot .eccUe).poison k else s
  if w.residue then (s1.setErr F.CHN_ERR_RESIDUE k.die (s.slotPart k.slot)).poison k else s1

/-- An early arrival goes to its communicator's staging region, where it has one: the bytes it leaves there are free (R299, log 54). -/
def State.stageBytes (s : State) (d : Comm) : State :=
  let bs := (Config.staged s.fresh).take 0x100000
  match d.staging with
  | none => s
  | some a => if s.fencedIn a bs.length then s.faultUnit (unitOf a) .fenced else ({ s with fresh := s.fresh + 1 } : State).hbmWrite a bs

/-- Gives a CHAIN or SYNC cell to its collective, or stages it (R299). -/
def State.deliverChain (s : State) (slot : Nat) (x : Cell) (w : ChainWords) : State :=
  let num := bitsOf x.offset.toNat 39 28
  let stage := fun (s : State) => ({ s with early := s.early ++ [(slot, num, x)] } : State).addF F.CHN_EARLY_CNT_COUNT 1 (num % 2)
  match s.comm? slot num with
  | none => stage s
  | some d =>
    let own := fun (k : Coll) => k.slot = slot && k.comm = num && k.seq % 256 = x.win.toNat
    match s.colls.find? own with
    | some k =>
      let s1 := s.chainChecks k w
      (match s1.colls.find? own, d.ranks.findIdx? (fun r => r = x.srcRank.toNat), d.ranks.findIdx? (fun r => r = s.myRank slot) with
       | some k1, some m, some me => s1.collCell k1 m d.ranks me x
       | _, _, _ => s1)
    | none => if d.next % 256 = x.win.toNat then stage (s.stageBytes d) else s

/-- A CHAIN or SYNC cell of a phase arrives. -/
def State.chainCell (s : State) (phase : Nat) (x : Cell) (w : ChainWords) : State :=
  if x.type ≠ 0xA && x.type ≠ 0xB || (x.op.toNat ≠ phase && x.op.toNat ≤ phEnd) then s
  else
    match s.receive x with
    | (none, s1) => s1
    | (some a, s1) =>
      if phEnd < x.op.toNat then s1.dropCell a.die
      else
        let s2 := s1.markApplied a.die (flowOf x) x.seq.toNat true
        if a.dup then s2.countDup a.die else s2.deliverChain a.slot x w

def execChainUp (x : ChainCell) (s : State) : Host.Outcome State Fault Refusal := done (s.chainCell phUp x.cell x.words)
def execChainDown (x : ChainCell) (s : State) : Host.Outcome State Fault Refusal := done (s.chainCell phDown x.cell x.words)
def execRingRs (x : ChainCell) (s : State) : Host.Outcome State Fault Refusal := done (s.chainCell phRs x.cell x.words)
def execRingAg (x : ChainCell) (s : State) : Host.Outcome State Fault Refusal := done (s.chainCell phAg x.cell x.words)
def execChunk (x : ChainCell) (s : State) : Host.Outcome State Fault Refusal := done (s.chainCell phChunk x.cell x.words)
def execChainReady (x : ChainCell) (s : State) : Host.Outcome State Fault Refusal := done (s.chainCell phReady x.cell x.words)
def execChainEnd (x : ChainCell) (s : State) : Host.Outcome State Fault Refusal := done (s.chainCell phEnd x.cell x.words)
def execConfirmUp (x : ChainCell) (s : State) : Host.Outcome State Fault Refusal := done (s.chainCell phConfUp x.cell x.words)
def execConfirmDown (x : ChainCell) (s : State) : Host.Outcome State Fault Refusal := done (s.chainCell phConfDown x.cell x.words)

/-! ### Starts (R291 to R301, R313) -/

/-- Operation digest (R295). -/
def opDigestOf (opc dtype rop count root : Nat) : Nat :=
  crc32c (natLe 1 opc ++ natLe 1 dtype ++ natLe 1 rop ++ natLe 1 0 ++ natLe 4 count ++ natLe 4 root ++ natLe 4 0)

/-- Whether the ring is chosen (R301). -/
def State.usesRing (s : State) (opc m p : Nat) : Bool :=
  (opc = opAllreduce || opc = opReduceScatter || opc = opAllgather) && decide (s.getF F.CHN_CTRL_THRESHOLD < m) && decide (64 * p ≤ m)

/-- Collectives in flight on the package (R297). -/
def State.inflight (s : State) : Nat := (s.colls.filter (fun k => !k.committed)).length + s.solveColls

/-- Why a member is as late as it is (R313). -/
def State.lateReason (s : State) (since : Nat) (solver queued : Bool) : Nat :=
  let after := fun (t : Option Nat) => match t with | some x => decide (since ≤ x) | none => false
  let hot := (List.range 16).any (fun n => s.getF F.HBM_STAT_TSTATE n = 2)
  if hot || after s.hotAt then 1 else if s.gov.held || after s.capAt then 2 else if solver then 3 else if queued then 4 else 0

/-- Starts a collective: its sequence number, its arrival, what came early, and READY to its ring predecessor. -/
def State.startColl (s : State) (k0 : Coll) (solver queued : Bool) : State :=
  match s.comm? k0.slot k0.comm with
  | none => s
  | some d =>
    let p := d.ranks.length
    match d.ranks.findIdx? (fun r => r = s.myRank k0.slot) with
    | none => s
    | some me =>
      let k := { k0 with seq := d.next, arrive := s.cad, reason := s.lateReason d.lastArrive solver queued, progress := s.now
                         ring := s.usesRing k0.opc k0.m p, ready := p ≤ 1 }
      let s1 := ({ s with colls := s.colls ++ [k] } : State).setComm { d with next := (d.next + 1) % 2 ^ 32, lastArrive := s.now }
      let mine := s1.early.filter (fun e => e.1 = k.slot && e.2.1 = k.comm && e.2.2.win.toNat = k.seq % 256)
      let s2 := { s1 with early := s1.early.filter (fun e => !mine.contains e) }
      let s3 := if k.ring && 1 < p then s2.sendPhase k ((d.ranks[(me + p - 1) % p]?).getD 0) phReady 0 true [] else s2
      let s4 := if k.opc = opBroadcast && me = k.root && k.root ≠ 0 && k.m ≠ 0 then
          s3.sendPasses k ((d.ranks[0]?).getD 0) phUp (k.small k.m) k.input
        else s3
      let s5 := s4.collPump k.slot k.comm k.seq
      mine.foldl (fun s e => s.deliverChain k.slot e.2.2 ⟨.clean, false⟩) s5

def Cmd.src (c : Cmd) : Nat := c.num 24 8
def Cmd.dst (c : Cmd) : Nat := c.num 32 8
def Cmd.count (c : Cmd) : Nat := c.num 40 4
def Cmd.comm (c : Cmd) : Nat := c.num 44 2
def Cmd.dtype (c : Cmd) : Nat := c.byte 46
def Cmd.rop (c : Cmd) : Nat := c.byte 47
def Cmd.root (c : Cmd) : Nat := c.num 48 4
def Cmd.collDigest (c : Cmd) : Nat := c.num 56 8

/-- Bytes a command reads and writes at this member (Table 11-1). -/
def Cmd.inBytes (c : Cmd) (me : Nat) : Nat :=
  let m := c.count * dtypeBytes c.dtype
  if c.opc = opAllreduce || c.opc = opReduce || c.opc = opReduceScatter || c.opc = opAllgather then m
  else if c.opc = opBroadcast then (if me = c.root then m else 0)
  else if c.opc = opCommCreate then 4 * c.count
  else 0

def Cmd.outBytes (c : Cmd) (p me : Nat) : Nat :=
  let w := dtypeBytes c.dtype
  if c.opc = opAllreduce || c.opc = opBroadcast then c.count * w
  else if c.opc = opReduce then (if me = c.root then c.count * w else 0)
  else if c.opc = opReduceScatter then w * (partLo c.count p (me + 1) - partLo c.count p me)
  else if c.opc = opAllgather then p * c.count * w
  else if c.opc = opCommCreate then 0x100000
  else 0

/-- Commands that reduce, which alone use ROP (Table 11-2). -/
def reducesOp (opc : Nat) : Bool := opc = opAllreduce || opc = opReduce || opc = opReduceScatter

/-- Fields in range and reserved bytes zero (R292). -/
def Cmd.chainFields (c : Cmd) (p : Nat) : Bool :=
  c.engine = 0 && bitsOf (c.word 0) 55 54 = 0 && bitsOf (c.word 0) 47 16 = 0 && c.src % 8 = 0 && c.dst % 8 = 0 && decide (c.comm ≤ 4095) &&
  decide (c.dtype ≤ 3) && (!reducesOp c.opc || decide (c.rop ≤ 2)) && c.num 52 4 = 0 &&
  (c.opc ≠ opBarrier || c.count = 0) && ((c.opc ≠ opReduce && c.opc ≠ opBroadcast) || decide (c.root < p)) &&
  (c.opc ≠ opCommCreate || c.dst % 0x100000 = 0)

/-- Input, output and digest record in the partition's units, and no overlap (R293). -/
def State.chainPlaces (s : State) (c : Cmd) (p me : Nat) : Bool :=
  let i := c.inBytes me
  let o := c.outBytes p me
  s.inUnits c.part c.src i && s.inUnits c.part c.dst o && (c.collDigest = 0 || s.inUnits c.part c.collDigest 48) &&
  (i = 0 || o = 0 || decide (c.src + i ≤ c.dst) || decide (c.dst + o ≤ c.src) || (c.opc = opAllreduce && c.src = c.dst))

/-- Ends a command DESC_BAD, refused by the Chain engine. -/
def State.chainRefuse (s : State) (c : Cmd) : State :=
  (s.setErr F.CHN_ERR_COMM_REFUSED (c.comm % 2) (some c.part)).setCmd { c with phase := .ended, status := 0x10 }

/-- Runs a start of a Chain command: those of one queue start in order, none at a quiesce (R308). -/
def State.chainStart (s : State) (id opc : Nat) (f : Cmd → Nat → State) : State :=
  s.withStarted id (fun c =>
    if c.opc ≠ opc then s
    else
      match s.cmdSlot c with
      | none => s.chainRefuse c
      | some slot =>
        let ahead := s.cmds.any (fun d => d.queue = c.queue && decide (d.id < c.id) && d.phase = .started && decide (0x70 ≤ d.opc) && decide (d.opc ≤ 0x7D))
        if s.quiesced.contains slot || ahead then s else f c slot)

/-- Whether the engine has no context left: the command waits (R297). -/
def State.inflightOver (s : State) (c : Cmd) : State := s.setErr F.CHN_ERR_INFLIGHT_OVER (c.comm % 2) (some c.part)

/-- Reads a collective's input, and what was staged for it; an uncorrectable word of either poisons it and faults the job (R305). -/
def State.startInput (s : State) (c : Cmd) (slot : Nat) (k : Coll) (es : List EccHit) : State :=
  let n := k.input.length
  let s0 := s.setCmd { c with phase := .running }
  let queued := decide (1000 + c.fetched < s.cad)
  let hs := eccOn es false [(c.src, n)]
  let s1 := ((s0.memRead .line c.src n).startColl k c.behind queued).eccHits hs
  if (n ≠ 0 && s.fencedIn c.src n) || eccBad hs || unitBad es then
    let s2 := (s1.setErr F.CHN_ERR_ECC_UE (c.comm % 2) (some c.part)).jobFault slot .eccUe
    match (s2.colls.filter (fun d => d.slot = slot && d.comm = c.comm)).getLast? with
    | some k1 => s2.poison k1
    | none => s2
  else s1

/-- The start of a collective command on a communicator that exists. -/
def State.collStart (s : State) (x : CmdReads) (opc : Nat) : State :=
  s.chainStart x.id opc (fun c slot =>
    match s.comm? slot c.comm with
    | none => s.chainRefuse c
    | some d =>
      let p := d.ranks.length
      match d.ranks.findIdx? (fun r => r = s.myRank slot) with
      | none => s.chainRefuse c
      | some me =>
        if !c.chainFields p || !s.chainPlaces c p me then s.chainRefuse c
        else if 64 ≤ s.inflight then s.inflightOver c
        else
          let input := readBytes s.hbm c.src (c.inBytes me)
          s.startInput c slot { slot := slot, comm := c.comm, seq := 0, cmd := some x.id, opc := opc, dtype := c.dtype, rop := c.rop, count := c.count
                                root := c.root, dst := c.dst, digestAddr := c.collDigest, ring := false, input := input
                                inDigest := if c.collDigest = 0 then [] else sha384 input
                                opDigest := opDigestOf opc c.dtype c.rop c.count c.root, arrive := 0, reason := 0 } x.ecc)

def execBarrier (x : CmdReads) (s : State) : Host.Outcome State Fault Refusal := done (s.collStart x opBarrier)
def execAllreduce (x : CmdReads) (s : State) : Host.Outcome State Fault Refusal := done (s.collStart x opAllreduce)
def execReduce (x : CmdReads) (s : State) : Host.Outcome State Fault Refusal := done (s.collStart x opReduce)
def execBroadcast (x : CmdReads) (s : State) : Host.Outcome State Fault Refusal := done (s.collStart x opBroadcast)
def execReduceScatter (x : CmdReads) (s : State) : Host.Outcome State Fault Refusal := done (s.collStart x opReduceScatter)
def execAllgather (x : CmdReads) (s : State) : Host.Outcome State Fault Refusal := done (s.collStart x opAllgather)

/-- COMM_CREATE (R291). -/
def execCommCreate (x : CmdReads) (s : State) : Host.Outcome State Fault Refusal :=
  done (s.chainStart x.id opCommCreate (fun c slot =>
    let p := c.count
    if !c.chainFields p || !s.chainPlaces c p 0 then s.chainRefuse c
    else
      let list := readBytes s.hbm c.src (4 * p)
      let ranks := (List.range p).map (fun i => leNat ((list.drop (4 * i)).take 4))
      let bad := (s.comm? slot c.comm).isSome || c.comm = 4095 || !decide ranks.Nodup || ranks.any (fun r => decide (s.getF F.HUB_JOB_RANKS_COUNT 0 slot ≤ r)) ||
        !ranks.contains (s.myRank slot) || decide (4096 ≤ s.comms.length)
      if bad then s.chainRefuse c
      else if 64 ≤ s.inflight then s.inflightOver c
      else
        let s1 := { s with comms := s.comms ++ [({ slot := slot, num := c.comm, ranks := ranks, staging := some c.dst } : Comm)] }
        s1.startInput c slot { slot := slot, comm := c.comm, seq := 0, cmd := some x.id, opc := opCommCreate, dtype := c.dtype, rop := c.rop, count := c.count
                               root := c.root, dst := c.dst, digestAddr := c.collDigest, ring := false, input := list
                               inDigest := if c.collDigest = 0 then [] else sha384 list
                               opDigest := opDigestOf opCommCreate c.dtype c.rop (leNat ((sha384 list).take 4)) p, arrive := 0, reason := 0 } x.ecc))

/-- COMM_FREE (R291). -/
def execCommFree (id : Nat) (s : State) : Host.Outcome State Fault Refusal :=
  done (s.chainStart id opCommFree (fun c slot =>
    match s.comm? slot c.comm with
    | none => s.chainRefuse c
    | some d =>
      if !c.chainFields d.ranks.length || !s.chainPlaces c 0 0 || c.comm = 0 || c.comm = 4095 || s.colls.any (fun k => k.slot = slot && k.comm = c.comm) then
        s.chainRefuse c
      else
        let s1 : State := { s with comms := s.comms.filter (fun e => !(e.slot = slot && e.num = c.comm)) }
        (s1.writeDigestRecord c.part c.collDigest (sha384 []) []).commitCmd c (collStatus false (c.deadline ≠ 0 && decide (c.deadline ≤ s.cad))) 0 0 c.collDigest))

/-- Ends a CONFIRM_WAIT whose earlier collectives are all confirmed. -/
def State.confirmWaited (s : State) (c : Cmd) (slot : Nat) : State :=
  if s.colls.any (fun k => k.slot = slot && k.comm = c.comm && seqBelow k.seq c.unit) then s
  else
    let s1 := s.writeDigestRecord c.part c.collDigest (sha384 []) []
    s1.commitCmd c (if c.deadline ≠ 0 && decide (c.deadline ≤ s.cad) then 0x20 else 0) 0 0 c.collDigest

/-- CONFIRM_WAIT (R307). -/
def execConfirmWait (id : Nat) (s : State) : Host.Outcome State Fault Refusal :=
  done (match s.cmd? id with
    | none => s
    | some c =>
      if c.opc ≠ opConfirmWait then s
      else if c.phase = .aborted then s.commitCmd c 0 0 0 0
      else if c.phase = .running then
        (match s.cmdSlot c with
         | some slot => s.confirmWaited c slot
         | none => s)
      else s.chainStart id opConfirmWait (fun c slot =>
        match s.comm? slot c.comm with
        | none => s.chainRefuse c
        | some d =>
          if !c.chainFields d.ranks.length || !s.chainPlaces c 1 0 then s.chainRefuse c
          else
            let c1 := { c with phase := .running, unit := d.next }
            (s.setCmd c1).confirmWaited c1 slot))

/-! ### Timers (R306, R309) -/

/-- CONFIRM_TIMEOUT: 50 µs and the down-wave allowance after the commit point. -/
def execConfirmTimeout (slot : BitVec 3) (comm : BitVec 12) (seq : BitVec 32) (s : State) : Host.Outcome State Fault Refusal :=
  done (match s.coll? slot.toNat comm.toNat seq.toNat, s.comm? slot.toNat comm.toNat with
    | some k, some d =>
      let allow := if k.ring then 0 else (treeLevels d.ranks.length).length * k.m / 133
      if k.committed && decide (50 * usec + k.commitAt + allow ≤ s.now) then s.poison k else s
    | _, _ => s)

/-- COLLECTIVE_STALL: no cell of a collective in flight for STALL_MS. The member commits it poisoned. -/
def execCollectiveStall (slot : BitVec 3) (comm : BitVec 12) (seq : BitVec 32) (s : State) : Host.Outcome State Fault Refusal :=
  done (match s.coll? slot.toNat comm.toNat seq.toNat with
    | none => s
    | some k =>
      if k.committed || decide (s.now < k.progress + msec * s.getF F.CHN_CTRL_STALL_MS) then s
      else
        let s1 := s.poison k
        let s2 := match s1.coll? k.slot k.comm k.seq with
          | some k1 => s1.setColl { k1 with committed := true, commitAt := s.now }
          | none => s1
        let s2 := match k.cmd.bind s2.cmd? with
          | some c => if c.phase = CmdPhase.aborted then s2.setCmd { c with stopped := true } else s2
          | none => s2
        s2.collPump k.slot k.comm k.seq)

end Sys2Proof.Machine
end

