-- ==== Sys2Proof/Machine/Fetch.lean ====
section
/-! DEFINITION. Instruction words (R47 to R51, Tables 02-2 to 02-6, 03-2, 05-1): the instruction that a word and the word after it spell,
and what a cluster does in the cycles in which nothing commands it: a word that spells no instruction halts the thread that fetches it,
and a cycle with no ready thread is counted. -/

namespace Sys2Proof.Machine

/-! ### The two formats -/

/-- The fields of format S (Table 02-2); `x` is the word after. -/
def wordS (w x : Word) : SFmt :=
  { sd := w.extractLsb' 46 5, sa := w.extractLsb' 41 5, sb := w.extractLsb' 36 5, ims := w.getLsbD 35, rsv := w.extractLsb' 32 3
    imm := w.extractLsb' 0 32, ext := if w.getLsbD 57 then some x else none }

/-- The fields of format V (Table 02-3). -/
def wordV (w x : Word) : VFmt :=
  { vd := w.extractLsb' 46 5, va := w.extractLsb' 41 5, vb := w.extractLsb' 36 5, pg := w.extractLsb' 33 3, pn := w.getLsbD 32
    ew := w.extractLsb' 29 3, ims := w.getLsbD 28, rsv := w.extractLsb' 24 4, imm := w.extractLsb' 0 24
    ext := if w.getLsbD 57 then some x else none }

def wordOpc (w : Word) : Nat := (w.extractLsb' 58 6).toNat
def wordFn (w : Word) : Nat := (w.extractLsb' 51 6).toNat

/-! ### The classes (Table 02-4), each by its FN; none is a function that the manual does not define -/

def wordInt (c : BitVec 8) (t : BitVec 3) (i : SFmt) : Nat → Option Instr
  | 0x00 => some (.add c t i) | 0x01 => some (.sub c t i) | 0x02 => some (.mul c t i) | 0x03 => some (.mulhu c t i) | 0x04 => some (.mulhs c t i)
  | 0x05 => some (.andI c t i) | 0x06 => some (.orI c t i) | 0x07 => some (.xor c t i) | 0x08 => some (.sll c t i) | 0x09 => some (.srl c t i)
  | 0x0A => some (.sra c t i) | 0x0B => some (.min c t i) | 0x0C => some (.max c t i) | 0x0D => some (.minu c t i) | 0x0E => some (.maxu c t i)
  | 0x10 => some (.seq c t i) | 0x11 => some (.slt c t i) | 0x12 => some (.sltu c t i) | 0x14 => some (.divu c t i) | 0x15 => some (.remu c t i)
  | _ => none

def wordFp (c : BitVec 8) (t : BitVec 3) (i : SFmt) : Nat → Option Instr
  | 0x00 => some (.fadd c t i) | 0x01 => some (.fsub c t i) | 0x02 => some (.fmul c t i) | 0x03 => some (.fma c t i) | 0x04 => some (.fdiv c t i)
  | 0x05 => some (.fsqrt c t i) | 0x06 => some (.fmin c t i) | 0x07 => some (.fmax c t i) | 0x08 => some (.feq c t i) | 0x09 => some (.flt c t i)
  | 0x0A => some (.fle c t i) | 0x0B => some (.fcvtI c t i) | 0x0C => some (.fcvtF c t i) | 0x0D => some (.fabs c t i) | 0x0E => some (.fneg c t i)
  | 0x0F => some (.frm c t i)
  | _ => none

def wordControl (c : BitVec 8) (t : BitVec 3) (i : SFmt) : Nat → Option Instr
  | 0x00 => some (.br c t i) | 0x01 => some (.bz c t i) | 0x02 => some (.bnz c t i) | 0x03 => some (.blt c t i) | 0x04 => some (.bge c t i)
  | 0x05 => some (.call c t i) | 0x06 => some (.jr c t i)
  | _ => none

def wordMemory (c : BitVec 8) (t : BitVec 3) (i : SFmt) : Nat → Option Instr
  | 0x00 => some (.ldsB c t i .clean) | 0x01 => some (.ldsH c t i .clean) | 0x02 => some (.ldsW c t i .clean) | 0x03 => some (.ldsD c t i .clean)
  | 0x04 => some (.ldsBs c t i .clean) | 0x05 => some (.ldsHs c t i .clean) | 0x06 => some (.ldsWs c t i .clean)
  | 0x08 => some (.stsB c t i) | 0x09 => some (.stsH c t i) | 0x0A => some (.stsW c t i) | 0x0B => some (.stsD c t i)
  | 0x10 => some (.ldg c t i) | 0x11 => some (.stg c t i) | 0x12 => some (.aadd c t i) | 0x13 => some (.aaddn c t i) | 0x14 => some (.amin c t i)
  | 0x15 => some (.aminn c t i) | 0x16 => some (.amax c t i) | 0x17 => some (.amaxn c t i) | 0x18 => some (.acas c t i) | 0x19 => some (.afmin c t i)
  | 0x1A => some (.afmax c t i) | 0x1B => some (.afadd c t i)
  | _ => none

def wordSystem (c : BitVec 8) (t : BitVec 3) (i : SFmt) : Nat → Option Instr
  | 0x00 => some (.fence c t i) | 0x01 => some (.ifence c t i) | 0x02 => some (.yield c t i) | 0x03 => some (.waitc c t i) | 0x04 => some (.waitm c t i)
  | 0x05 => some (.tstart c t i) | 0x06 => some (.halt c t i) | 0x07 => some (.csrr c t i) | 0x08 => some (.tick c t i) | 0x09 => some (.flags c t i)
  | 0x0A => some (.mclaim c t i) | 0x0B => some (.mrel c t i) | 0x0C => some (.tqclaim c t i) | 0x0D => some (.tqrel c t i)
  | _ => none

def wordTile (c : BitVec 8) (t : BitVec 3) (i : SFmt) (v : VFmt) : Nat → Option Instr
  | 0x00 => some (.mvgo c t i) | 0x08 => some (.tqwait c t i) | 0x09 => some (.tqpop c t i) | 0x0C => some (.tqld c t v .clean)
  | _ => none

def wordVInt (c : BitVec 8) (t : BitVec 3) (i : VFmt) : Nat → Option Instr
  | 0x00 => some (.vadd c t i) | 0x01 => some (.vsub c t i) | 0x02 => some (.vmul c t i) | 0x03 => some (.vmin c t i) | 0x04 => some (.vmax c t i)
  | 0x05 => some (.vminu c t i) | 0x06 => some (.vmaxu c t i) | 0x07 => some (.vand c t i) | 0x08 => some (.vor c t i) | 0x09 => some (.vxor c t i)
  | 0x0A => some (.vsll c t i) | 0x0B => some (.vsrl c t i) | 0x0C => some (.vsra c t i) | 0x10 => some (.vidx c t i)
  | _ => none

def wordVFp (c : BitVec 8) (t : BitVec 3) (i : VFmt) : Nat → Option Instr
  | 0x00 => some (.vfadd c t i) | 0x01 => some (.vfsub c t i) | 0x02 => some (.vfmul c t i) | 0x03 => some (.vfma c t i) | 0x04 => some (.vfdiv c t i)
  | 0x05 => some (.vfsqrt c t i) | 0x06 => some (.vfmin c t i) | 0x07 => some (.vfmax c t i) | 0x08 => some (.vfabs c t i) | 0x09 => some (.vfneg c t i)
  | _ => none

def wordVCmp (c : BitVec 8) (t : BitVec 3) (i : VFmt) : Nat → Option Instr
  | 0x00 => some (.vcmpeq c t i) | 0x01 => some (.vcmpne c t i) | 0x02 => some (.vcmplt c t i) | 0x03 => some (.vcmple c t i)
  | 0x04 => some (.vcmpltu c t i) | 0x05 => some (.vcmpleu c t i) | 0x06 => some (.vcmpun c t i)
  | 0x10 => some (.pand c t i) | 0x11 => some (.por c t i) | 0x12 => some (.pxor c t i) | 0x13 => some (.pnot c t i)
  | _ => none

def wordVPermute (c : BitVec 8) (t : BitVec 3) (i : VFmt) : Nat → Option Instr
  | 0x00 => some (.vcompress c t i) | 0x01 => some (.vexpand c t i) | 0x02 => some (.vsel c t i) | 0x03 => some (.vslidedn c t i)
  | 0x04 => some (.vslideup c t i) | 0x05 => some (.vsplat c t i) | 0x06 => some (.vins c t i) | 0x07 => some (.vext c t i) | 0x08 => some (.vpcnt c t i)
  | _ => none

def wordVMemory (c : BitVec 8) (t : BitVec 3) (i : VFmt) : Nat → Option Instr
  | 0x00 => some (.vld c t i .clean) | 0x01 => some (.vst c t i) | 0x02 => some (.vldg c t i) | 0x03 => some (.vstg c t i)
  | _ => none

def wordVReduce (c : BitVec 8) (t : BitVec 3) (i : VFmt) : Nat → Option Instr
  | 0x00 => some (.vrsum c t i) | 0x01 => some (.vrsuma c t i) | 0x02 => some (.vrmin c t i) | 0x03 => some (.vrmax c t i)
  | 0x04 => some (.vrminu c t i) | 0x05 => some (.vrmaxu c t i)
  | _ => none

def wordVTail (c : BitVec 8) (t : BitVec 3) (i : VFmt) : Nat → Option Instr
  | 0x00 => some (.setvl c t i) | 0x08 => some (.epi c t ⟨i, .clean⟩) | 0x09 => some (.vseal c t i)
  | _ => none

def wordMatrix (c : BitVec 8) (t : BitVec 3) (i : VFmt) : Nat → Option Instr
  | 0x00 => some (.mzero c t i) | 0x01 => some (.mlda c t i) | 0x02 => some (.msta c t i) | 0x03 => some (.mpush c t i) | 0x04 => some (.mfence c t i)
  | _ => none

/-- The instruction that a word and the word after it spell (R49 to R51); none where OPC or FN is not defined, as in the classes 0x2A to 0x2F
(R117). A reserved field that is not zero is in the instruction, which is illegal at its issue. -/
def decodeWord (c : BitVec 8) (t : BitVec 3) (w x : Word) : Option Instr :=
  let i := wordS w x
  let v := wordV w x
  let fn := wordFn w
  match wordOpc w with
  | 0x00 => wordInt c t i fn
  | 0x08 => wordFp c t i fn
  | 0x10 => wordControl c t i fn
  | 0x18 => wordMemory c t i fn
  | 0x20 => wordVInt c t v fn
  | 0x21 => wordVFp c t v fn
  | 0x22 => wordVCmp c t v fn
  | 0x23 => wordVPermute c t v fn
  | 0x24 => if fn = 0 then some (.vcvt c t v) else none
  | 0x25 => wordVMemory c t v fn
  | 0x26 => wordVReduce c t v fn
  | 0x27 => wordVTail c t v fn
  | 0x28 => wordMatrix c t v fn
  | 0x29 => if fn = 0 then some (.mma c t v .clean) else none
  | 0x30 => wordTile c t i v fn
  | 0x38 => wordSystem c t i fn
  | _ => none

/-! ### Fetch (R47, R48) -/

/-- The words that a fetch at `pc` can deliver: the one in the store, and one that a mover has written there and no IFENCE has made visible,
wholly old or wholly new. -/
def State.fetchable (s : State) (c pc : Nat) : List Word :=
  spGet 0 s.istore (32768 * c + pc % pcMod) :: ((s.clu c).stale.filter (fun e => e.1 = pc % pcMod)).map (·.2)

/-- The word a fetch delivers: where there are two, which of them is a free value (log 103). -/
def State.fetchWord (s : State) (c pc : Nat) : Word :=
  match s.fetchable c pc with
  | [w] => w
  | ws => (ws[(Config.freeWord s.fresh).toNat % ws.length]?).getD 0

/-- Thread `t` fetches the instruction at its PC. -/
def State.fetched (s : State) (c t : Nat) : Option Instr :=
  decodeWord (BitVec.ofNat 8 c) (BitVec.ofNat 3 t) (s.fetchWord c (s.thr c t).pc) (s.fetchWord c ((s.thr c t).pc + 1))

/-! ### A cycle that nothing commands (R36, R50) -/

/-- Cycles of a cluster's clock that ended in the last nanosecond. -/
def State.cyclesIn (s : State) (c : Nat) : List Nat :=
  let k := s.cycleAt c (s.now - 1)
  List.range' k (s.cycleAt c s.now - k)

/-- One nanosecond of a cluster: with no ready thread its cycles are idle (R36), and else those that the issue level closes (R407); a thread
that the sequencer can select and whose word spells no instruction halts with ILLEGAL (R50). What an instruction does, the command that issues
it says (log 103). -/
def State.clusterCycle (s : State) (c : Nat) : State :=
  if !s.cluRuns c then s
  else if !thrNums.any (s.threadReady c) then s.addF F.CLU_IDLE_CNT_COUNT (s.cyclesIn c).length c
  else
    let s1 := s.addF F.CLU_IDLE_CNT_COUNT ((s.cyclesIn c).filter (fun k => !s.cycleOpen c k)).length c
    match thrNums.find? (fun t => s1.canIssue c t && (s1.fetched c t).isNone) with
    | some t => { (s1.countIssue c t).haltError c t causeIllegal with fresh := s1.fresh + 1 }
    | none => s1

/-- One nanosecond of every cluster. -/
def State.clusterCycles (s : State) : State := (List.range 256).foldl State.clusterCycle s

end Sys2Proof.Machine
end

