-- ==== Sys2Proof/Machine/SporeWave.lean ====
section
/-! DEFINITION. Spore's waves up the tree, host slots, manifests and replay records, and the suggested interval (R378, R388 to R393). -/

namespace Sys2Proof.Machine

/-! ### Stages (STAT.STATE, Table 15-7) -/

abbrev spIdle : Nat := 0
abbrev spAnnounced : Nat := 1
abbrev spDraining : Nat := 2
abbrev spCapturing : Nat := 3
abbrev spCopying : Nat := 4
abbrev spRecord : Nat := 5
abbrev spFilling : Nat := 6
abbrev spReplaying : Nat := 7

/-! ### Granules and sizes (R376, R377, R388) -/


/-- A slot's eligible granules, ascending. -/
def State.eligible (s : State) (j : Nat) : List Nat :=
  let all := (List.range 64).foldl (fun (m : Sparse Unit) r =>
    let b := j * 64 + r
    if s.getF F.SPO_ELIG_DATA_VALID 0 b = 0 then m
    else (List.range' (s.getF F.SPO_ELIG_DATA_FIRST 0 b) (s.getF F.SPO_ELIG_DATA_COUNT 0 b)).foldl (fun m g =>
      if s.jobUnit j (g / 512) then spIns m g () else m) m) []
  all.map (fun e => e.1)

def State.jobClusterCount (s : State) (j : Nat) : Nat := ((List.range 256).filter (fun c => s.jobGroup j (c / 8))).length

abbrev cluImageBytes : Nat := 4632576

/-- Bytes of the package section, and of the package image (R376). -/
def State.sectionBytes (s : State) (j : Nat) : Nat := 4096 * ((4095 + (16777216 + 64 * s.getF F.GLB_JOB_QUEUES_COUNT 0 j)) / 4096)
def State.imageBytes (s : State) (j : Nat) : Nat := cluImageBytes * s.jobClusterCount j + s.sectionBytes j

/-- PART_BYTES. -/
def State.partBytes (s : State) (j : Nat) : Nat := 8192 + s.imageBytes j + 2101248 * (s.eligible j).length

/-! ### The host region (R388) -/

/-- Bytes of one of the two slots, and its address. -/
def State.hostSlotSize (s : State) (j : Nat) : Nat := 4096 * (4096 * s.getF F.SPO_HOST_SIZE_BYTES 0 j / 2 / 4096)
def State.hostSlot (s : State) (j i : Nat) : Nat := 4096 * s.getF F.SPO_HOST_BASE_ADDR 0 j + i * s.hostSlotSize j

def State.hostKeyOf (s : State) (j a : Nat) : Nat := hostKey (((s.slotPart j).bind s.partLink).getD 0) a
def State.hostBytes (s : State) (j a n : Nat) : List Byte := readBytes s.hostMem (s.hostKeyOf j a) n
def State.hostPut (s : State) (j a : Nat) (bs : List Byte) : State := { s with hostMem := writeBytes s.hostMem (s.hostKeyOf j a) bs }

/-- VALID of a generation. -/
def validOf (gen : Nat) : Nat := gen ^^^ 0xA5A5A5A5A5A5A5A5

/-- Whether host slot `i` holds a part of a generation. -/
def State.slotHolds (s : State) (j i gen : Nat) : Bool :=
  let a := s.hostSlot j i
  leNat (s.hostBytes j a 4) = 0x53504F52 && leNat (s.hostBytes j (a + 4) 2) = 1 && leNat (s.hostBytes j (a + 8) 8) = gen &&
  leNat (s.hostBytes j (4088 + a) 8) = validOf gen

/-- The host slot that a new generation is written to: the one that does not hold GEN_JOB. -/
def State.newHostSlot (s : State) (j : Nat) : Nat := if s.slotHolds j 0 (s.getF F.SPO_GEN_JOB_GEN 0 j) then 1 else 0

/-- The manifest without VALID (Table 15-5). -/
def State.manifest (s : State) (j : Nat) (step : Nat) : List Byte :=
  let b := natLe 4 0x53504F52 ++ natLe 2 1 ++ natLe 2 0 ++ natLe 8 (s.getF F.SPO_GEN_LAST_GEN 0 j) ++ natLe 8 (s.launchKey j) ++
    natLe 4 (s.myRank j) ++ natLe 4 (s.getF F.HUB_JOB_RANKS_COUNT 0 j) ++ natLe 8 (s.getF F.SPO_Q_TICK_TICK 0 j) ++
    natLe 8 (s.getF F.SPO_QUIESCE_TICK_TICK 0 j) ++ natLe 8 (s.getF F.SPO_RESUME_TICK_TICK 0 j) ++ natLe 8 step ++
    natLe 4 (s.jobClusterCount j) ++ natLe 4 (s.eligible j).length ++ natLe 8 (s.imageBytes j) ++
    (List.range 6).flatMap (fun w => natLe 8 (s.regW .glb (0x58 + 8 * w) 0 j).toNat) ++
    (List.range 64).flatMap (fun r => natLe 8 (s.regW .spo 0x80 0 (j * 64 + r)).toNat)
  b ++ List.replicate (4096 - b.length) 0

/-- A replay record (R391). -/
def replayRecord (gen step digest tick : Nat) : List Byte :=
  natLe 8 gen ++ natLe 8 step ++ natLe 8 digest ++ natLe 8 tick ++ natLe 24 0 ++ natLe 8 (validOf gen)

/-! ### Hazard and interval (R393) -/

/-- The member's hazard in FIT. -/
def State.hazard (s : State) (j : Nat) : Nat :=
  let n := fun (k : Nat) => (s.warnings.filter (fun w => w.1 = k && decide (s.now < 86400000000000 + w.2))).length
  s.getF F.SPO_HAZ_BASE_FIT 0 j + 1000 * (s.getF F.SPO_HAZ_WEIGHT_W_CE 0 j * n 1 + s.getF F.SPO_HAZ_WEIGHT_W_RETRY 0 j * n 2 +
    s.getF F.SPO_HAZ_WEIGHT_W_REG 0 j * n 3 + s.getF F.SPO_HAZ_WEIGHT_W_TEMP 0 j * n (4 + 8 * (j + 1)))

/-- The root's FP64 computation: milliseconds from the sum of hazards, the pause cost and the copy time in ticks. -/
def suggestMs (value cost copy : Nat) : Nat :=
  let i := fun (n : Nat) => (convIeee fp64 (.mode .rne) (.fin false n 0)).1
  let nano := (fpDiv fp64 .rne (i 1) (i 1000000000)).1
  let mul := fun (a b : Nat) => (fpMul fp64 .rne a b).1
  let m := (fpDiv fp64 .rne (i 3600000000000) (i value)).1
  let c := mul (i cost) nano
  let t0 := (fpSqrt fp64 .rne (mul (mul (i 2) c) m)).1
  let t1 := (fpMax fp64 t0 (mul (mul (i 2) (i copy)) nano)).1
  let t2 := (fpMin fp64 (fpMax fp64 t1 (i 1)).1 (i 86400)).1
  (convInt 64 (.mode .rdn) (fpVal fp64 (mul t2 (i 1000)))).1

/-! ### Up waves (R378) -/

/-- A quiesce that cannot end consistently. -/
def State.snapFault (s : State) (j : Nat) : State :=
  (s.setErr F.SPO_ERR_SNAP_CONSISTENCY 0 (s.slotPart j)).jobFault j .snapConsistency

def SporeMsg.withFail (m : SporeMsg) (b : Bool) (cause : Nat) : SporeMsg := if b then { m with flags := 1, cause := cause } else m

/-- The root's own subtree is complete: it chooses the down message. -/
def State.rootAct (s : State) (j : Nat) (c : SporeMsg) (keyBad : Bool) : State :=
  let bad := c.fail || c.count ≠ s.getF F.HUB_JOB_RANKS_COUNT 0 j || keyBad
  let down := fun (m : SporeMsg) => s.setSp j { s.sp j with down := some m }
  if c.kind = mDrained then (if bad then s.snapFault j else down (s.sporeMsg j mCapture))
  else if c.kind = mCaptured then (if bad then s.snapFault j else down (s.sporeMsg j mResume))
  else if c.kind = mPartDone then
    if bad then down (s.sporeMsg j mAbandoned) else down { s.sporeMsg j mCommitted with value := suggestMs c.value c.cost c.copy }
  else if c.kind = mRecorded then (if bad then s else down (s.sporeMsg j mGenReady))
  else if c.kind = mFilled then (if bad then down ((s.sporeMsg j mVerdict).withFail true c.cause) else down (s.sporeMsg j mRestoreResume))
  else down ((s.sporeMsg j mVerdict).withFail bad c.cause)

/-- Sends the combined up message once the member's own contribution and every child's are in. -/
def State.upTry (s : State) (j : Nat) : State :=
  let x := s.sp j
  match x.mine with
  | none => s
  | some m =>
    let ms := (x.ups.filter (fun u => u.2.kind = m.kind))
    if !(List.range (s.kids j).length).all (fun i => ms.any (fun u => u.1 = i)) then s
    else
      let c := ms.foldl (fun (a : SporeMsg) u =>
        { a with count := a.count + u.2.count, flags := a.flags ||| u.2.flags, cause := if a.cause = 0 then u.2.cause else a.cause
                 value := a.value + u.2.value, cost := Nat.max a.cost u.2.cost, copy := Nat.max a.copy u.2.copy }) m
      let s1 := s.setSp j { x with mine := none, ups := [], upAt := some s.now }
      if s.isRoot j then s1.rootAct j c (ms.any (fun u => u.2.key ≠ s.launchKey j)) else s1.sendUp j c

/-- The member's own contribution to an up wave. -/
def State.contribute (s : State) (j : Nat) (m : SporeMsg) : State := (s.setSp j { s.sp j with mine := some m }).upTry j

/-! ### The first STEP after a resume (R391, R396) -/

/-- Once the first STEP and VALID stand, the replay record is written; after a restore, the STEP is compared with it. -/
def State.sporeStep (s : State) (j : Nat) : State :=
  let x := s.sp j
  match x.stepRec with
  | none => s
  | some (step, digest, tick) =>
    if x.recorded then s
    else if x.stage = spRecord then
      let s1 := s.hostPut j (4096 + s.hostSlot j x.part) (replayRecord (s.curGen j) step digest tick)
      (s1.setSp j { x with recorded := true }).contribute j (s.sporeMsg j mRecorded)
    else if x.stage = spReplaying then
      let ok := decide ((step, digest) = x.replay)
      (s.setSp j { x with recorded := true, fillCause := if ok then 0 else 7 }).contribute j ((s.sporeMsg j mReplayResult).withFail (!ok) 7)
    else s

end Sys2Proof.Machine
end

