-- ==== Sys2Proof/Machine/Cadence.lean ====
section
/-! DEFINITION. The Cadence counter, its sources and frames (R316 to R325), and the STEP command (R332). -/

namespace Sys2Proof.Machine

/-- Counters that count every tick while a condition holds (Tables 12-7, 16-5, 16-6). -/
def State.tickCounts (s : State) : List Fld :=
  let st := s.getF F.THM_STAT_STATE
  let any := fun (v : Nat) => (List.range 7).any (fun d => decide (v ≤ bitsOf st (3 * d + 2) (3 * d)))
  let full := 0x8888888888888888
  (if s.getF F.CAD_STAT_STATE = 3 then [F.CAD_HOLDOVER_TICKS_COUNT] else []) ++
  (if s.getF F.PWR_ISSUE0_LEVEL ≠ full || s.getF F.PWR_ISSUE1_LEVEL ≠ full then [F.PWR_THROTTLE_TICKS_COUNT] else []) ++
  (if s.getF F.PWR_STAT_CAP_UNATTAINABLE = 1 then [F.PWR_UNATTAIN_TICKS_COUNT] else []) ++
  (if any 1 then [F.THM_HOT_TICKS_COUNT] else []) ++ (if any 2 then [F.THM_LIMIT_TICKS_COUNT] else [])

/-- Codes of STAT.STATE (Table 12-2). -/
abbrev timeFree : Nat := 0
abbrev timeAcquiring : Nat := 1
abbrev timeLocked : Nat := 2
abbrev timeHoldover : Nat := 3

def State.timeStat (s : State) : Nat := s.getF F.CAD_STAT_STATE
def State.setTime (s : State) (t : TimeState) : State := { s with time := t }

/-! ### The passing of time -/

/-- One nanosecond passes, in the clusters too (R36). The counter runs from the moment the rails regulate (R475); it slews by one tick in 5,000 (200 ppm, R321)
and never decreases (R316). -/
def State.tick (s : State) : State :=
  let s1 := { s with now := s.now + 1 }
  if !s.powered then s1
  else
    let t := s.time
    let s2 : State :=
      if 0 < t.hold then { s1 with time := { t with hold := t.hold - 1 } }
      else if s1.now % 5000 = 0 && 0 < t.slew then { s1 with cad := (s.cad + 2) % 2 ^ 64, time := { t with slew := t.slew - 1 } }
      else if s1.now % 5000 = 0 && t.slew < 0 then { s1 with time := { t with slew := t.slew + 1 } }
      else { s1 with cad := (s.cad + 1) % 2 ^ 64 }
    let s3 := s2.tickCounts.foldl (fun (s : State) f => s.addF f 1) s2
    if s.diesReady then s3.clusterCycles else s3

/-! ### Frames (R318) -/

def State.frameRate (s : State) : Nat := Nat.max 1 (s.getF F.CAD_FRAME_RATE_FPS)

/-- Start tick of frame `n`, counted from FRAME_EPOCH. -/
def State.frameTick (s : State) (n : Nat) : Nat :=
  s.getF F.CAD_FRAME_EPOCH_TICK + 1000000000 * (n / s.frameRate) + 1000000000 * (n % s.frameRate) / s.frameRate

/-- The first frame that begins at or after a tick. -/
def State.firstFrame (s : State) (t : Nat) : Nat :=
  let d := t - s.getF F.CAD_FRAME_EPOCH_TICK
  d / 1000000000 * s.frameRate + (999999999 + d % 1000000000 * s.frameRate) / 1000000000

/-- The frame whose start tick lies nearest a tick (R348). -/
def State.nearestFrame (s : State) (t : Nat) : Nat :=
  let n := s.firstFrame t
  if n = 0 then 0 else if t - s.frameTick (n - 1) < s.frameTick n - t then n - 1 else n

/-- Starts frames at the first boundary on or after this moment. -/
def State.startFrames (s : State) : State := s.setTime { s.time with frameNext := some (s.firstFrame s.cad) }
def State.stopFrames (s : State) : State := (s.setF F.CAD_STAT_FRAME_RUN 0).setTime { s.time with frameNext := none }

/-! ### Phase (R320, R321, R324) -/

def State.anyAccepting (s : State) : Bool := slotNums.any (fun j => s.slotState j = slotAccepting)

/-- Whether a phase source is enabled and present: 0 PTP, 1 pod sync, 2 1PPS (usable once a time of day is known). -/
def State.srcUsable (s : State) (i : Nat) : Bool :=
  testBit (s.getF F.CAD_CTRL_SRC_EN) i && testBit (s.getF F.CAD_STAT_PRESENT) i &&
  (i ≠ 1 || (s.getF F.CAD_CTRL_MASTER = 0 && s.getF F.CAD_PARENT_VALID = 1)) && (i ≠ 2 || s.time.everLocked)

/-- STAT.SRC as R320 orders the sources. -/
def State.srcChoice (s : State) : Nat :=
  if s.srcUsable 0 then 1 else if s.srcUsable 1 then 2 else if s.srcUsable 2 then 3 else 0

def State.chooseSrc (s : State) : State := s.setF F.CAD_STAT_SRC s.srcChoice

def State.setPresent (s : State) (i : Nat) (on : Bool) : State :=
  s.setF F.CAD_STAT_PRESENT (setBits (s.getF F.CAD_STAT_PRESENT) i i (if on then 1 else 0))

/-- Sets the counter to a source in a single step. A counter ahead of its source waits for it: no copy ever decreases (log 42). -/
def State.stepTime (s : State) (d : Int) : State :=
  let s1 : State := if 0 ≤ d then { s with cad := (s.cad + d.toNat) % 2 ^ 64, time := { s.time with slew := 0, hold := 0, pend := none, everLocked := true } }
    else { s with time := { s.time with slew := 0, hold := (-d).toNat, pend := none, everLocked := true } }
  let s2 := s1.setF F.CAD_STAT_STATE timeLocked
  if s2.time.frameNext.isSome then s2.startFrames else s2

/-- Limit within which a source's phase counts as followed (Table 12-1). -/
def srcLimit (src : Nat) : Nat := if src = 2 then 20 else 100

/-- An offset to the source in use is measured. -/
def State.discipline (s : State) (src : Nat) (d : Int) : State :=
  let s1 := s.setF F.CAD_OFFSET_NS (ofSigned 64 d)
  let near := decide (d.natAbs ≤ srcLimit src)
  let follow := fun (s : State) =>
    (s.setTime { s.time with slew := d, hold := 0, pend := none, everLocked := s.time.everLocked || near }).setF F.CAD_STAT_STATE (if near then timeLocked else timeAcquiring)
  if !s.anyAccepting then (if 1000 < d.natAbs then s1.stepTime d else follow s1)
  else if d.natAbs ≤ msec then follow s1
  else ((s1.setTime { s1.time with slew := 0, pend := some d }).setErr F.CAD_ERR_STEP_NEEDED).setF F.CAD_STAT_STATE timeAcquiring

/-- No slot is in ACCEPTING any longer: an offset that waited is stepped at once (R321). -/
def State.timeSettle (s : State) : State :=
  match s.time.pend with
  | some d => if s.anyAccepting then s else s.stepTime d
  | none => s

/-- A source gives its time. -/
def State.measure (s : State) (i : Nat) (d : Int) : State :=
  if !testBit (s.getF F.CAD_CTRL_SRC_EN) i then s
  else
    let s0 := s.setPresent i true
    let s1 := (s0.setTime { s0.time with lostAt := none }).chooseSrc
    if s1.getF F.CAD_STAT_SRC = i + 1 then s1.discipline (i + 1) d else s1

/-- A source ceases to be present. -/
def State.loseSrc (s : State) (i : Nat) : State :=
  let s1 := (s.setPresent i false).chooseSrc
  if (List.range 3).any (fun k => s1.srcUsable k) || s1.time.lostAt.isSome then s1 else s1.setTime { s1.time with lostAt := some s.now }

/-- PTP_MESSAGE: PTP at the field port named by CAD.PTP. -/
def execPtpMessage (x : PtpTime) (s : State) : Host.Outcome State Fault Refusal :=
  done (if !s.powered || x.port.toNat ≠ s.getF F.CAD_PTP_PORT || !testBit (s.getF F.FIO_CTRL_PORT_EN) x.port.toNat ||
      !testBit (s.getF F.FIO_STAT_LINK) x.port.toNat then s
    else
      let s1 := s.measure 0 ((x.time.toNat : Int) - (s.cad : Int))
      if s1.getF F.CAD_STAT_SRC = 1 then s1.setF F.CAD_UTC_OFFSET_SECONDS (Nat.min 255 x.utcOffset.toNat) else s1)

/-- Whether the package exchanges time cells with its parent. -/
def State.hasParent (s : State) : Bool := s.getF F.CAD_CTRL_MASTER = 0 && s.getF F.CAD_PARENT_VALID = 1

def State.timeCell (s : State) (t1 t2 t3 : Nat) : TimeCell :=
  { state := BitVec.ofNat 8 s.timeStat, utcOffset := BitVec.ofNat 16 (s.getF F.CAD_UTC_OFFSET_SECONDS), t1 := BitVec.ofNat 64 t1
    t2 := BitVec.ofNat 64 t2, t3 := BitVec.ofNat 64 t3 }

/-- TIME_EXCHANGE: once per millisecond. -/
def execTimeExchange (s : State) : Host.Outcome State Fault Refusal :=
  let p := s.getF F.CAD_PARENT_PORT
  let soon := match s.time.exchAt with
    | some t => decide (s.now < msec + t)
    | none => false
  done (if !s.hasParent || s.getF F.FAB_STAT_UP p = 0 || soon then s
    else (s.setTime { s.time with exchAt := some s.now }).emit (.timeCell p 1 (s.timeCell s.cad 0 0)))

/-- TIME_REQUEST: the parent answers on the port the request came by. -/
def execTimeRequest (port : BitVec 5) (x : TimeCell) (s : State) : Host.Outcome State Fault Refusal :=
  done (if 20 ≤ port.toNat || s.getF F.FAB_STAT_UP port.toNat = 0 then s
    else s.emit (.timeCell port.toNat 2 (s.timeCell x.t1.toNat s.cad s.cad)))

/-- TIME_RESPONSE. A parent that is not LOCKED or HOLDOVER is no source. -/
def execTimeResponse (port : BitVec 5) (x : TimeCell) (t4 : BitVec 64) (s : State) : Host.Outcome State Fault Refusal :=
  let d : Int := (((x.t2.toNat : Int) - x.t1.toNat) - ((t4.toNat : Int) - x.t3.toNat)) / 2
  done (if !s.hasParent || port.toNat ≠ s.getF F.CAD_PARENT_PORT || s.getF F.FAB_STAT_UP port.toNat = 0 then s
    else if x.state = 2 || x.state = 3 then s.measure 1 d
    else s.loseSrc 1)

/-- TIME_SOURCE_LOST. -/
def execTimeSourceLost (src : BitVec 2) (s : State) : Host.Outcome State Fault Refusal :=
  done (if src.toNat < 3 && testBit (s.getF F.CAD_STAT_PRESENT) src.toNat then s.loseSrc src.toNat else s)

/-- HOLDOVER_ENTRY: every phase source has been absent for 2 s. Before any lock the counter runs free again. -/
def execHoldoverEntry (s : State) : Host.Outcome State Fault Refusal :=
  done (match s.time.lostAt with
    | none => s
    | some t =>
      if s.now < 2000000000 + t || s.timeStat = timeFree || s.timeStat = timeHoldover then s
      else
        let s1 := (s.setTime { s.time with slew := 0, hold := 0, pend := none }).setF F.CAD_STAT_SRC 0
        if s.time.everLocked then (s1.setF F.CAD_STAT_STATE timeHoldover).setErr F.CAD_ERR_TIME_LOST
        else s1.setF F.CAD_STAT_STATE timeFree)

/-- PPS_IN: a rising edge, less PPS_IN_DELAY. -/
def execPpsIn (s : State) : Host.Outcome State Fault Refusal :=
  let t := s.cad - s.getF F.CAD_PPS_IN_DELAY_NS
  let r := t % 1000000000
  let d : Int := if r ≤ 500000000 then - (r : Int) else 1000000000 - (r : Int)
  done (if !s.powered || !testBit (s.getF F.CAD_CTRL_SRC_EN) 2 then s
    else if s.timeStat = timeLocked && 1000 < d.natAbs then s.setErr F.CAD_ERR_PPS_BAD
    else s.measure 2 d)

/-- PPS_OUT: the output rises at each tick that is a multiple of 10⁹, shifted by PPS_OUT_ADJ. -/
def execPpsOut (s : State) : Host.Outcome State Fault Refusal :=
  let adj := toSigned 32 (s.getF F.CAD_PPS_OUT_ADJ_NS)
  let sec := (((s.cad : Int) - adj) / 1000000000).toNat
  done (if !s.powered || s.getF F.CAD_CTRL_PPS_OUT_EN = 0 || s.time.ppsSec = some sec || (s.cad : Int) < adj then s
    else (s.setTime { s.time with ppsSec := some sec }).emit (.ppsEdge (((1000000000 * sec : Nat) : Int) + adj).toNat))

/-- REF10M_LOST. -/
def execRef10mLost (s : State) : Host.Outcome State Fault Refusal :=
  done (if s.powered && testBit (s.getF F.CAD_CTRL_SRC_EN) 3 then (s.setPresent 3 false).setErr F.CAD_ERR_REF_LOST else s)

/-- REF10M_RETURN. -/
def execRef10mReturn (s : State) : Host.Outcome State Fault Refusal :=
  done (if s.powered && testBit (s.getF F.CAD_CTRL_SRC_EN) 3 then s.setPresent 3 true else s)

/-! ### The STEP command (R332, R333) -/

/-- Bank of a step log entry of a slot, 0 newest. -/
def logBank (slot e : Nat) : Nat := slot * 16 + e

/-- Appends a step log entry; the log keeps 16. -/
def State.logStep (s : State) (slot : Nat) (step digest tick : Nat) : State :=
  let s1 := (List.range 15).foldl (fun s i =>
    let a := logBank slot (14 - i)
    let b := logBank slot (15 - i)
    ((s.setF F.CAD_LOG_STEP_STEP (s.getF F.CAD_LOG_STEP_STEP 0 a) 0 b).setF F.CAD_LOG_DIGEST_DIGEST (s.getF F.CAD_LOG_DIGEST_DIGEST 0 a) 0 b).setF
      F.CAD_LOG_TICK_TICK (s.getF F.CAD_LOG_TICK_TICK 0 a) 0 b) s
  let c := logBank slot 0
  ((s1.setF F.CAD_LOG_STEP_STEP step 0 c).setF F.CAD_LOG_DIGEST_DIGEST digest 0 c).setF F.CAD_LOG_TICK_TICK tick 0 c

/-- The conditions of Table 12-5 on a STEP. -/
def State.stepOk (s : State) (c : Cmd) : Bool :=
  let j := c.byte 40
  c.engine = 0 && bitsOf (c.word 0) 55 54 = 0 && bitsOf (c.word 0) 47 16 = 0 && c.num 41 7 = 0 && c.num 48 16 = 0 && decide (j < 8) &&
  s.slotPart j = some c.part && (s.slotState j = slotAccepting || s.slotState j = slotDraining) &&
  c.num 24 8 ≠ s.getF F.CAD_STEP_STEP 0 j && (c.num 32 8 = 0 || s.inUnits c.part (c.num 32 8) 8)

/-- An uncorrectable word of a step log or slot: the fault of every job in ACCEPTING (R338). -/
def State.cadUe (s : State) : State :=
  slotNums.foldl (fun s j => if s.slotState j = slotAccepting then s.jobFault j .eccUe else s) (s.setErr F.CAD_ERR_ECC_UE)

/-- STEP: it takes its commit point at its start. Its place in the log since the last resume is what a restore compares (R391). Where
a word that it needs is uncorrectable it makes no entry (log 116). -/
def execStep (x : CmdReads) (s : State) : Host.Outcome State Fault Refusal :=
  done (s.withStarted x.id (fun c =>
    if c.opc ≠ 0x68 then s
    else if !s.stepOk c then s.setCmd { c with phase := .ended, status := 0x10 }
    else
      let j := c.byte 40
      let a := c.num 32 8
      let hs := if a = 0 then [] else eccOn x.ecc false [(a, 8)]
      if unitBad x.ecc then s.cadUe
      else if eccBad hs then s.eccHits hs
      else
      let digest := if a = 0 then 0 else readLe s.hbm a 8
      let old := s.getF F.CAD_STEP_STEP 0 j
      let s1 := ((if a = 0 then s else s.memRead .line a 8).eccHits hs).logStep j old digest s.cad
      let s2 := (s1.setF F.CAD_STEP_STEP (c.num 24 8) 0 j).addF F.CAD_STEP_CNT_COUNT 1 0 j
      let y := s2.sp j
      let s3 := if y.stepRec.isNone then s2.setSp j { y with stepRec := some (old, digest, s.cad) } else s2
      (s3.commitCmd c 0 0 0 0).sporeStep j))

end Sys2Proof.Machine
end

