-- ==== Sys2Proof/Machine/FieldIo.lean ====
section
/-! DEFINITION. Field I/O (R22 to R25, R29 to R32, R339 to R357), and the start of a frame. -/

namespace Sys2Proof.Machine

abbrev fioOff : Nat := 0
abbrev fioWait : Nat := 1
abbrev fioOpen : Nat := 2
abbrev fioFill : Nat := 3
abbrev fioClosed : Nat := 4

def State.setFio (s : State) (f : FioState) : State := { s with fio := f }
def State.fioOn (s : State) : Bool := s.getF F.FIO_CTRL_EN = 1
def State.fioSlot (s : State) : Nat := s.getF F.FIO_CTRL_SLOT
def State.fioStage (s : State) : Nat := s.getF F.FIO_STAT_STATE
/-- Replaces the banks in hand. STAT.STATE shows an open window before a close fill, and a close fill before none (log 89). -/
def State.setWins (s : State) (l : List FioWin) : State :=
  (s.setFio { s.fio with wins := l }).setF F.FIO_STAT_STATE (if l.any (fun w => !w.filling) then fioOpen else if l.isEmpty then fioClosed else fioFill)
def State.mapCount (s : State) : Nat := s.getF F.FIO_MAP_COUNT_COUNT
def State.mapBase (s : State) : Nat := 4096 * s.getF F.FIO_MAP_BASE_ADDR
/-- Bank of cut frame k (R23). -/
def State.bankAddr (s : State) (k : Nat) : Nat := 4096 * (if k % 2 = 0 then s.getF F.FIO_BANK0_ADDR else s.getF F.FIO_BANK1_ADDR)

def num (bs : List Byte) (i n : Nat) : Nat := leNat ((bs.drop i).take n)
def numBe (bs : List Byte) (i n : Nat) : Nat := beNat ((bs.drop i).take n)

/-- Whether a port receives: enabled, its link up. -/
def State.portOpen (s : State) (p : Nat) : Bool := testBit (s.getF F.FIO_CTRL_PORT_EN) p && testBit (s.getF F.FIO_STAT_LINK) p

def State.fioDrop (s : State) : State := s.addF F.FIO_DROP_CNT_COUNT 1

/-- A verified read that fails is a job fault (R112, R357). -/
def State.fioTileCheck (s : State) : State := (s.setErr F.FIO_ERR_TILE_CHECK).jobFault s.fioSlot .tileCheck

/-! ### Enable (R341, R343, R352, R354) -/

/-- The layout record: FORMAT, PHNMR, ANNMR and DGNMR of each block (R344). -/
def layoutOf (m : Memory) (a : Nat) : List (Nat × Nat × Nat × Nat) :=
  (List.range (readLe m a 2)).map (fun (i : Nat) => let b := a + 2 + 8 * i; (readLe m b 2, readLe m (b + 2) 2, readLe m (b + 4) 2, readLe m (b + 6) 2))

def State.streamBytes (s : State) (i : Nat) : List Byte := readBytes s.hbm (4096 * s.getF F.FIO_STREAM_BASE_ADDR + 64 * i) 64
def State.pubBytes (s : State) (i : Nat) : List Byte := readBytes s.hbm (4096 * s.getF F.FIO_PUB_BASE_ADDR + 128 * i) 128

def State.readStream (s : State) (i : Nat) : FioStream :=
  let b := s.streamBytes i
  { kind := num b 0 1, ports := num b 1 1, id := num b 2 2, srcIp := num b 4 4, sourceId := num b 8 4, first := num b 12 4, count := num b 16 4
    comps := num b 20 4, layout := if num b 0 1 = 1 then layoutOf s.hbm (num b 24 8) else [], rate := num b 32 4, timeBase := num b 36 4
    mac := num b 40 6 }

def State.readPub (s : State) (i : Nat) : FioPub :=
  let b := s.pubBytes i
  { offset := num b 0 8, src := num b 8 8, count := num b 16 4, ports := num b 20 1, dstUdp := num b 22 2, dstIp := num b 24 4, dstMac := num b 28 6
    srcUdp := num b 34 2, gate := (List.range 8).map (fun j => num b (64 + 8 * j) 8) }

def State.streams (s : State) : List FioStream := (List.range (s.getF F.FIO_STREAM_COUNT_COUNT)).map s.readStream
def State.pubs (s : State) : List FioPub := (List.range (s.getF F.FIO_PUB_COUNT_COUNT)).map s.readPub

def allZero (bs : List Byte) : Bool := bs.all (· = 0)

/-- A stream descriptor in range (R341). -/
def State.fioStreamOk (s : State) (p i : Nat) : Bool :=
  let b := s.streamBytes i
  let x := s.readStream i
  decide (1 ≤ x.kind) && decide (x.kind ≤ 3) && decide (x.ports ≤ 3) && decide (1 ≤ x.count) && decide (x.first + x.count ≤ s.mapCount) &&
  decide (1 ≤ x.comps) && decide (x.comps ≤ 65536) && allZero (b.drop 46) &&
  (if x.kind = 1 then s.inUnits p (num b 24 8) (2 + 8 * x.layout.length) && decide (1 ≤ x.timeBase) else num b 24 8 = 0) &&
  (x.kind ≠ 2 || (decide (1 ≤ x.rate) && decide (x.rate ≤ 16384)))

/-- No two slices overlap. -/
def slicesApart (xs : List FioStream) : Bool :=
  (List.range xs.length).all (fun i => (List.range i).all (fun j =>
    match xs[i]?, xs[j]? with
    | some a, some b => decide (a.first + a.count ≤ b.first) || decide (b.first + b.count ≤ a.first)
    | _, _ => true))

/-- A publication descriptor in range (Table 13-4). -/
def State.pubOk (s : State) (p i : Nat) : Bool :=
  let b := s.pubBytes i
  let x := s.readPub i
  decide (x.offset < 1000000000 * s.getF F.FIO_CUT_PERIOD_P / s.frameRate) && x.src % 8 = 0 && decide (x.count ≤ 65536) && s.inUnits p x.src (8 * x.count) &&
  decide (x.ports ≤ 3) && x.gate.any (fun w => testBit w 63) && num b 21 1 = 0 && allZero ((b.drop 36).take 28)

/-- The conditions of R354 for the partition that holds field I/O. -/
def State.fioConfigOk (s : State) (slot : Nat) : Bool :=
  match s.fioPart with
  | none => false
  | some p =>
    let n := 16 * s.mapCount
    s.slotState slot = slotAccepting && s.slotPart slot = some p &&
    s.inUnits p (s.bankAddr 0) n && s.inUnits p (s.bankAddr 1) n && s.inUnits p s.mapBase n &&
    s.inUnits p (4096 * s.getF F.FIO_STREAM_BASE_ADDR) (64 * s.getF F.FIO_STREAM_COUNT_COUNT) &&
    s.inUnits p (4096 * s.getF F.FIO_PUB_BASE_ADDR) (128 * s.getF F.FIO_PUB_COUNT_COUNT) &&
    s.inUnits p (4096 * s.getF F.FIO_LATE_BASE_ADDR) (32 * 2 ^ s.getF F.FIO_LATE_CFG_LOG2) &&
    (List.range (s.getF F.FIO_STREAM_COUNT_COUNT)).all (s.fioStreamOk p) && slicesApart s.streams &&
    (List.range (s.getF F.FIO_PUB_COUNT_COUNT)).all (s.pubOk p)

/-- Whether the layouts read verify. -/
def State.layoutsVerify (s : State) : Bool :=
  (List.range (s.getF F.FIO_STREAM_COUNT_COUNT)).all (fun i =>
    (s.readStream i).kind ≠ 1 || s.hbmVerify (num (s.streamBytes i) 24 8) (2 + 8 * (s.readStream i).layout.length))

/-- F0 counted from FRAME_EPOCH: the frame of CUT_FIRST's number nearest the present one. -/
def State.cutFirst (s : State) : Nat :=
  let cur := s.firstFrame s.cad
  let d := (2 ^ 32 + s.getF F.FIO_CUT_FIRST_FRAME - cur % 2 ^ 32) % 2 ^ 32
  if d < 2 ^ 31 || cur + d < 2 ^ 32 then cur + d else cur + d - 2 ^ 32

/-- EN has been set: descriptors are copied, and the block waits for the next cut frame. -/
def State.fioStart (s : State) : State :=
  (s.setFio { streams := s.streams, pubs := s.pubs, f0 := s.cutFirst }).setF F.FIO_STAT_STATE fioWait

/-- EN is cleared: ingest and publication end at once (R356). -/
def State.fioStop (s : State) : State :=
  ((s.setF F.FIO_CTRL_EN 0).setF F.FIO_STAT_STATE fioOff).setFio {}

/-- The enable of R354, with CTRL's other fields already applied. -/
def State.fioTryEnable (s : State) : State :=
  if !s.fioConfigOk s.fioSlot then (s.setF F.FIO_CTRL_EN 0).setErr F.FIO_ERR_CFG_BAD
  else if !s.layoutsVerify then (s.setF F.FIO_CTRL_EN 0).fioTileCheck
  else (s.setF F.FIO_CTRL_EN 1).fioStart

/-! ### Frames (R318, R348) -/

/-- A cut frame begins: its bank opens beside any that is still open or being filled (R23), and its publications are due. -/
def State.openCut (s : State) (k start : Nat) : State :=
  let f := s.fio
  let due := f.due ++ (List.range f.pubs.length).map (fun n => (n, k, start))
  let f1 := { f with due := due }
  if s.slotState s.fioSlot ≠ slotAccepting then s.setFio f1
  else ((s.setFio f1).setWins (f.wins ++ [{ k := k, start := start }])).setF F.FIO_CUT_COUNT_K k

/-- FRAME_START. -/
def execFrameStart (s : State) : Host.Outcome State Fault Refusal :=
  done (match s.time.frameNext with
    | none => s
    | some n =>
      let t := s.frameTick n
      if s.getF F.CAD_CTRL_FRAME_EN = 0 || s.cad < t then s
      else
        let s1 := ((s.setF F.CAD_FRAME_NUMBER (n % 2 ^ 32)).setF F.CAD_FRAME_TICK_TICK t).setF F.CAD_STAT_FRAME_RUN 1
        let s2 := s1.setTime { s1.time with frameNext := some (n + 1) }
        let p := Nat.max 1 (s.getF F.FIO_CUT_PERIOD_P)
        if s2.fioOn && decide (s.fio.f0 ≤ n) && (n - s.fio.f0) % p = 0 then s2.openCut ((n - s.fio.f0) / p) t else s2)

/-! ### Records (R342, R344 to R350) -/

/-- A component of a record: its FP64 value where it is good, TIME_BAD, and SOURCE. -/
structure FioComp where
  val : Option Nat
  timeBad : Bool
  source : Nat
  deriving DecidableEq, Repr

/-- The value that a map entry receives of a component (R342, R345): KIND 2 components are scaled; an overflow is remembered. -/
def mapValue (kind scale : Nat) (c : FioComp) : Option Nat × Bool :=
  match c.val with
  | none => (none, false)
  | some v =>
    if kind ≠ 2 then (some v, false)
    else
      let r := fpMul fp64 .rne v scale
      (if (fpVal fp64 r.1).isFin then some r.1 else none, decide (r.2 &&& flOverflow ≠ 0))

/-- A plain write of field I/O. -/
def State.fioWrite (s : State) (a : Nat) (bs : List Byte) : State :=
  if s.fencedIn a bs.length then s.faultUnit (unitOf a) .fenced else s.hbmWrite a bs

/-- Changes the bank in hand of a cut frame. -/
def State.modWin (s : State) (k : Nat) (f : FioWin → FioWin) : State :=
  s.setFio { s.fio with wins := s.fio.wins.map (fun w => if w.k = k then f w else w) }

/-- A word that field I/O reads is uncorrectable: the fault of its job (R357). -/
def State.fioUe (s : State) (hs : List EccHit) : State := ((s.eccHits hs).setErr F.FIO_ERR_ECC_UE).jobFault s.fioSlot .eccUe

/-- Writes a record's components into the open bank of a cut frame. -/
def State.fioMap (s : State) (w : FioWin) (x : FioStream) (comps : List FioComp) (first : Nat) (es : List EccHit) : State :=
  let hs := eccOn es true [(s.mapBase + 16 * x.first, 16 * x.count)]
  if eccBad hs then s.fioUe hs
  else if !s.hbmVerify (s.mapBase + 16 * x.first) (16 * x.count) then s.fioTileCheck
  else
    (List.range' x.first x.count).foldl (fun s i =>
      let e := readBytes s.hbm (s.mapBase + 16 * i) 16
      let c := num e 8 4
      if num e 12 1 % 2 = 0 || decide (c < first) then s
      else
        match comps[c - first]? with
        | none => s
        | some v =>
          let r := mapValue x.kind (num e 0 8) v
          let s1 := if r.2 then s.modWin w.k (fun w => { w with overflow := true }) else s
          match r.1 with
          | none => s1
          | some b =>
            if w.got.any (fun g => g.1 = i) then s1.addF F.FIO_DUP_CNT_COUNT 1
            else
              (s1.fioWrite (s.bankAddr w.k + 16 * i) (natLe 8 b)).modWin w.k (fun w =>
                { w with got := spIns w.got i (if v.timeBad then 4 else 0, v.source, s.cad - w.start) })) (s.eccHits hs)

/-- An entry of the late log (R350). -/
def State.fioLate (s : State) (time frame stream port carried : Nat) : State :=
  let size := 2 ^ s.getF F.FIO_LATE_CFG_LOG2
  let t := s.getF F.FIO_LATE_TAIL_INDEX
  let s1 := s.addF F.FIO_LATE_CNT_COUNT 1
  if (t + 1) % size = s.getF F.FIO_LATE_HEAD_INDEX % size then (s1.addF F.FIO_LATE_LOST_CNT_COUNT 1).setErr F.FIO_ERR_LATE_LOST
  else
    (s1.fioWrite (4096 * s.getF F.FIO_LATE_BASE_ADDR + 32 * (t % size))
      (natLe 8 s.cad ++ natLe 8 time ++ natLe 4 (frame % 2 ^ 32) ++ natLe 2 stream ++ natLe 1 port ++ natLe 1 0 ++ natLe 4 carried ++ natLe 4 0)).setF
      F.FIO_LATE_TAIL_INDEX ((t + 1) % size)

/-- Handles an accepted record by its record time and its ingress tick (R348). -/
def State.fioRecord (s : State) (i : Nat) (x : FioStream) (port time first : Nat) (comps : List FioComp) (es : List EccHit) : State :=
  let s1 := s.addF F.FIO_RX_CNT_COUNT 1
  if s.time.frameNext.isNone then s1
  else
    let n := s.nearestFrame time
    let t := s.frameTick n
    if s.getF F.FIO_ALIGN_TOL_NS < time - t + (t - time) then s1.addF F.FIO_MISALIGN_CNT_COUNT 1
    else if n < s.fio.f0 || (n - s.fio.f0) % Nat.max 1 (s.getF F.FIO_CUT_PERIOD_P) ≠ 0 then s1
    else if s.cad < t then s1.addF F.FIO_EARLY_CNT_COUNT 1
    else if t + s.getF F.FIO_WINDOW_NS ≤ s.cad then s1.fioLate time n i port comps.length
    else
      match s.fio.wins.find? (fun w => !w.filling && w.start = t) with
      | some w => if s.slotState s.fioSlot = slotAccepting then s1.fioMap w x comps first es else s1
      | none => s1

/-- Streams with their indices. -/
def State.streamsIx (s : State) : List (Nat × FioStream) := (List.range s.fio.streams.length).zip s.fio.streams

/-- Whether a port takes a unicast or broadcast frame (R339). -/
def State.macOk (s : State) (p : FieldPacket) : Bool :=
  p.dstMac.toNat = 2 ^ 48 - 1 || p.dstMac.toNat = (if p.port = 0 then s.getF F.FIO_MAC0_MAC else s.getF F.FIO_MAC1_MAC) ||
  s.fio.streams.any (fun x => x.kind = 2 && x.mac = p.dstMac.toNat && testBit x.mac 0)

/-- Bytes of one PMU block. -/
def pmuBytes (b : Nat × Nat × Nat × Nat) : Nat :=
  2 + (if testBit b.1 1 then 8 else 4) * b.2.1 + 2 * (if testBit b.1 3 then 4 else 2) + (if testBit b.1 2 then 4 else 2) * b.2.2.1 + 2 * b.2.2.2

/-- A value of a block at a byte: floating, signed or unsigned integer. -/
inductive PmuItem where
  | float
  | signed
  | unsigned
  deriving DecidableEq, Repr

/-- The items of a block, in component order. -/
def pmuItems (b : Nat × Nat × Nat × Nat) : List PmuItem :=
  let ph := if testBit b.1 1 then [PmuItem.float, .float] else if testBit b.1 0 then [.unsigned, .signed] else [.signed, .signed]
  let fr := if testBit b.1 3 then PmuItem.float else .signed
  (List.replicate b.2.1 ph).flatten ++ [fr, fr] ++ List.replicate b.2.2.1 (if testBit b.1 2 then PmuItem.float else .signed) ++
  List.replicate b.2.2.2 PmuItem.unsigned

def intFp64 (w v : Nat) : Nat := (convIeee fp64 (.mode .rne) (intVal w v)).1

/-- Components of a block's data from a byte on. -/
def pmuComps (data : List Byte) (stat : Nat) : Nat → List PmuItem → List FioComp
  | _, [] => []
  | at_, it :: rest =>
    let ok := bitsOf stat 15 14 = 0
    let w := if it = .float then 4 else 2
    let raw := numBe data at_ w
    let v : Option Nat := match it with
      | .float => if (fpVal fp32 raw).isNan then none else some (convIeee fp64 (.mode .rne) (fpVal fp32 raw)).1
      | .signed => some (intFp64 16 raw)
      | .unsigned => some (intFp64 32 raw)
    { val := if ok then v else none, timeBad := testBit stat 13, source := bitsOf stat 15 8 } :: pmuComps data stat (at_ + w) rest

/-- Components of all blocks (R344, R347). -/
def frameComps (data : List Byte) : Nat → List (Nat × Nat × Nat × Nat) → List FioComp
  | _, [] => []
  | at_, b :: rest => pmuComps data (numBe data at_ 2) (at_ + 2) (pmuItems b) ++ frameComps data (at_ + pmuBytes b) rest

/-- C37_DATA_FRAME. A frame that is not accepted is dropped and counted. -/
def execC37DataFrame (p : FieldPacket) (s : State) : Host.Outcome State Fault Refusal :=
  let d := p.data
  let n := d.length
  let hit := s.streamsIx.find? (fun e => e.2.kind = 1 && testBit e.2.ports p.port.toNat && e.2.id = numBe d 4 2 && (e.2.srcIp = 0 || e.2.srcIp = p.srcIp.toNat))
  done (if !s.portOpen p.port.toNat then s
    else if !s.fioOn || !s.macOk p then s.fioDrop
    else
      match hit with
      | none => s.fioDrop
      | some (i, x) =>
        let ver := bitsOf (numBe d 1 1) 3 0
        let size := 16 + (x.layout.foldl (fun a b => a + pmuBytes b) 0)
        if numBe d 0 1 ≠ 0xAA || bitsOf (numBe d 1 1) 7 4 ≠ 0 || (ver ≠ 1 && ver ≠ 2) || numBe d 2 2 ≠ size || n ≠ size ||
            numBe d (n - 2) 2 ≠ crcCcitt (d.take (n - 2)) then s.fioDrop
        else
          let time := 1000000000 * (numBe d 6 4 + s.getF F.CAD_UTC_OFFSET_SECONDS) + 1000000000 * bitsOf (numBe d 10 4) 23 0 / x.timeBase
          s.fioRecord i x p.port.toNat time 0 (frameComps d 14 x.layout) p.ecc)

/-- SAMPLED_VALUE_ASDU. -/
def execSampledValueAsdu (p : SampledAsdu) (s : State) : Host.Outcome State Fault Refusal :=
  let hit := s.streamsIx.find? (fun e => e.2.kind = 2 && testBit e.2.ports p.port.toNat && e.2.id = p.appid.toNat && e.2.mac = p.dstMac.toNat)
  done (if !s.portOpen p.port.toNat then s
    else if !s.fioOn then s.fioDrop
    else
      match hit with
      | none => s.fioDrop
      | some (i, x) =>
        if p.pairs.length ≠ x.comps then s.fioDrop
        else
          let off := 1000000000 * p.smpCnt.toNat / x.rate
          let time := s.cad - (1000000000 + s.cad - off % 1000000000) % 1000000000
          s.fioRecord i x p.port.toNat time 0 (p.pairs.map (fun e =>
            { val := if bitsOf e.2.toNat 1 0 = 1 then none else some (intFp64 32 e.1.toNat), timeBad := p.smpSynch = 0, source := bitsOf e.2.toNat 7 0 })) p.ecc)

/-- TELEMETRY_RECORD. -/
def execTelemetryRecord (p : FieldPacket) (s : State) : Host.Outcome State Fault Refusal :=
  let d := p.data
  let n := d.length
  let hit := s.streamsIx.find? (fun e => e.2.kind = 3 && testBit e.2.ports p.port.toNat && e.2.sourceId = num d 4 4 && (e.2.srcIp = 0 || e.2.srcIp = p.srcIp.toNat))
  done (if !s.portOpen p.port.toNat then s
    else if !s.fioOn || !s.macOk p || p.dstUdp.toNat ≠ s.getF F.FIO_UDP_PORT_PORT then s.fioDrop
    else
      match hit with
      | none => s.fioDrop
      | some (i, x) =>
        let c := num d 20 4
        if num d 0 2 ≠ 0xC5A1 || num d 2 1 ≠ 1 || c = 0 || 1024 < c || n ≠ 36 + 8 * c || num d (n - 4) 4 ≠ crc32c (d.take (n - 4)) ||
            x.comps < num d 16 4 + c then s.fioDrop
        else
          s.fioRecord i x p.port.toNat (num d 8 8) (num d 16 4) ((List.range c).map (fun k =>
            let v := num d (32 + 8 * k) 8
            { val := if (fpVal fp64 v).isNan then none else some v, timeBad := false, source := 0 })) p.ecc)

/-- FIELD_FRAME_DROP. -/
def execFieldFrameDrop (port : BitVec 1) (s : State) : Host.Outcome State Fault Refusal :=
  done (if s.portOpen port.toNat then s.fioDrop else s)

/-- FIELD_PORT_LINK_UP: an enabled port trains. -/
def execFieldPortLinkUp (port : BitVec 1) (s : State) : Host.Outcome State Fault Refusal :=
  done (if s.powered && testBit (s.getF F.FIO_CTRL_PORT_EN) port.toNat then
      s.setF F.FIO_STAT_LINK (setBits (s.getF F.FIO_STAT_LINK) port.toNat port.toNat 1)
    else s)

/-- FIELD_PORT_LINK_DOWN. -/
def execFieldPortLinkDown (port : BitVec 1) (s : State) : Host.Outcome State Fault Refusal :=
  done (if testBit (s.getF F.FIO_STAT_LINK) port.toNat then
      (s.setF F.FIO_STAT_LINK (setBits (s.getF F.FIO_STAT_LINK) port.toNat port.toNat 0)).setErr F.FIO_ERR_LINK_DOWN
    else s)

/-! ### The close fill (R351) -/

/-- INGEST_WINDOW_CLOSE: the oldest open window closes. -/
def execIngestWindowClose (s : State) : Host.Outcome State Fault Refusal :=
  done (match s.fio.wins.find? (fun w => !w.filling) with
    | some w =>
      if w.start + s.getF F.FIO_WINDOW_NS ≤ s.cad then s.setWins (s.fio.wins.map (fun x => if x.k = w.k then { x with filling := true } else x)) else s
    | none => s)

/-- Entry i of the closing bank, and whether it is STALE. SOURCE of a value that no record of this window gave is 0 in a telemetry slice
(Table 13-3) and open elsewhere: a free value. A value is held for cut frame k − 1 only where that frame's bank was filled; DESIGN CHOICE
(log 90): where it was not (its bank was skipped), a valid entry is filled as on the first cut frame, which no case of R351 states. -/
def State.fillEntry (s : State) (w : FioWin) (i : Nat) : List Byte × Bool :=
  let f := s.fio
  let cur := readBytes s.hbm (s.bankAddr w.k + 16 * i) 16
  let old := readBytes s.hbm (s.bankAddr (w.k + 1) + 16 * i) 16
  let telemetry := f.streams.any (fun x => x.kind = 3 && decide (x.first ≤ i) && decide (i < x.first + x.count))
  let src := if telemetry then 0 else bitsOf (Config.freeWord (s.fresh + i)).toNat 7 0
  match w.got.find? (fun g => g.1 = i) with
  | some (_, fl, so, arr) => (cur.take 8 ++ natLe 2 0 ++ natLe 1 fl ++ natLe 1 so ++ natLe 4 arr, false)
  | none =>
    if num (readBytes s.hbm (s.mapBase + 16 * i) 16) 12 1 % 2 = 1 && decide (1 ≤ w.k) && f.closed = some (w.k - 1) then
      (old.take 8 ++ natLe 2 (Nat.min 65535 (num old 8 2 + 1)) ++ natLe 1 (1 + (if testBit (num old 10 1) 1 then 2 else 0)) ++ natLe 1 src ++ natLe 4 0xFFFFFFFF, true)
    else (natLe 8 0 ++ natLe 2 65535 ++ natLe 1 3 ++ natLe 1 src ++ natLe 4 0xFFFFFFFF, true)

/-- CLOSE_FILL_COMPLETE: the oldest bank being filled is filled and sealed, and INGEST_CLOSED is written (R24). It waits for a slot in the
ring. While the slot is not ACCEPTING no bank is written (R355). DESIGN CHOICE (log 91): the record goes to the completion ring of the queue
in INGEST_Q, and to none where field I/O's partition does not hold that queue; DESIGN CHOICE (log 92): a bank in a fenced stack is neither
written nor sealed, its unit faults, and the record is written all the same. -/
def execCloseFillComplete (s : State) : Host.Outcome State Fault Refusal :=
  let n := s.mapCount
  let q := s.getF F.FIO_INGEST_Q_QUEUE
  done (match s.fio.wins.find? (fun w => w.filling) with
    | none => s
    | some w =>
      let rest := s.fio.wins.filter (fun x => x.k ≠ w.k)
      if s.slotState s.fioSlot ≠ slotAccepting then (s.setWins []).setF F.FIO_STAT_STATE fioWait
      else if !(s.stacksReady s.mapBase (16 * n) && s.stacksReady (s.bankAddr w.k) (16 * n)) then s
      else if !s.hbmVerify s.mapBase (16 * n) then s.fioTileCheck.setWins rest
      else if (s.partOfQueue q).isSome && s.partOfQueue q = s.fioPart && !s.slotFreeCq q then s
      else
        let s := s.memRead .line s.mapBase (16 * n)
        let es := (List.range n).map (s.fillEntry w)
        let bs := es.flatMap (fun e => e.1)
        let a := s.bankAddr w.k
        let s0 := { s with fresh := s.fresh + n }
        let s1 := if s.fencedIn a bs.length then s0.faultUnit (unitOf a) .fenced else s0.hbmSealWrite a bs
        let s2 := ((s1.setFio { s1.fio with closed := some w.k }).setWins rest).setF F.FIO_STALE_LAST_COUNT (es.filter (fun e => e.2)).length
        match s.partOfQueue q with
        | some p => if s.fioPart = some p then (s2.reserveSlot q).writeRecord p q 0 (if w.overflow then 8 else 0) 0 0 (w.k % 2 ^ 32) s.cad else s2
        | none => s2)

/-! ### Publication (R29 to R32, R352, R353) -/

/-- The first failing word of a gate, with its status or 0xFF where no record counts. -/
def State.gateFail (s : State) (gate : List Nat) (start tick : Nat) : Option (Nat × Nat) :=
  ((List.range gate.length).zip gate).findSome? (fun e =>
    if !testBit e.2 63 then none
    else
      match s.records.find? (fun r => r.1 = bitsOf e.2 51 32 && r.2.1 = bitsOf e.2 15 0 && decide (start ≤ r.2.2.2)) with
      | none => some (e.1, 0xFF)
      | some r => if r.2.2.1 = 0 && decide (r.2.2.2 < tick) then none else some (e.1, r.2.2.1))

/-- A dispatch datagram (Table 13-5). -/
def State.pubHeader (s : State) (kind flags pub seg segs k tick first count gf gs : Nat) : List Byte :=
  natLe 2 0xC5D1 ++ natLe 1 1 ++ natLe 1 kind ++ natLe 1 flags ++ natLe 1 pub ++ natLe 2 seg ++ natLe 2 segs ++ natLe 2 0 ++ natLe 4 s.myEp ++
  natLe 8 k ++ natLe 8 tick ++ natLe 4 first ++ natLe 4 count ++ natLe 1 gf ++ natLe 1 gs ++ natLe 6 0

def State.sendDatagram (s : State) (x : FioPub) (bs : List Byte) : State :=
  let d := bs ++ natLe 4 (crc32c bs)
  [0, 1].foldl (fun s p => if testBit x.ports p && s.portOpen p then s.emit (.datagram p x.dstMac x.dstIp x.srcUdp x.dstUdp d) else s) s

/-- Sends an error record. -/
def State.pubError (s : State) (x : FioPub) (n k tick : Nat) (fault : Bool) (g : Option (Nat × Nat)) : State :=
  let late : Bool := match g with | some e => e.2 = 0x20 | none => false
  let fl := (if fault then 1 else 0) + (if late then 2 else 0)
  let gg := g.getD (0xFF, 0xFF)
  let s1 := s.sendDatagram x (s.pubHeader 2 fl n 0 1 k tick 0 0 gg.1 gg.2)
  ((s1.addF F.FIO_PUB_ERR_CNT_COUNT 1).setErr F.FIO_ERR_PUB_ERR).setF F.FIO_PUB_LAST_TICK s.cad

/-- Sends the setpoints. -/
def State.pubDispatch (s : State) (x : FioPub) (n k tick : Nat) : State :=
  let segs := (1023 + x.count) / 1024
  let s1 := (List.range segs).foldl (fun s i =>
    let m := Nat.min 1024 (x.count - 1024 * i)
    s.sendDatagram x (s.pubHeader 1 0 n i segs k tick (1024 * i) m 0xFF 0xFF ++ readBytes s.hbm (x.src + 8192 * i) (8 * m))) (s.memRead .line x.src (8 * x.count))
  (s1.addF F.FIO_PUB_CNT_COUNT 1).setF F.FIO_PUB_LAST_TICK s.cad

/-- PUBLICATION_TICK. DESIGN CHOICE (log 93): the error record of the publication whose own verified read finds TILE_CHECK carries FAULT; R32
speaks of later publication ticks. -/
def execPublicationTick (p : PubTick) (s : State) : Host.Outcome State Fault Refusal :=
  let j := s.fioSlot
  done (match s.fio.due.find? (fun d => d.1 = p.n.toNat), s.fio.pubs[p.n.toNat]? with
    | some d, some x =>
      let tick := d.2.2 + x.offset
      if !s.fioOn || s.cad < tick || !s.stacksReady x.src (8 * x.count) then s
      else
        let s1 := s.setFio { s.fio with due := s.fio.due.erase d }
        let g := s.gateFail x.gate d.2.2 tick
        let hs := eccOn p.ecc true [(x.src, 8 * x.count)]
        if s.slotState j ≠ slotAccepting || s.faulted j || (s.sp j).restoring then s1.pubError x p.n.toNat d.2.1 tick true g
        else if g.isSome then s1.pubError x p.n.toNat d.2.1 tick false g
        else if eccBad hs then (s1.fioUe hs).pubError x p.n.toNat d.2.1 tick true none
        else if !s.hbmVerify x.src (8 * x.count) then s1.fioTileCheck.pubError x p.n.toNat d.2.1 tick true none
        else (s1.eccHits hs).pubDispatch x p.n.toNat d.2.1 tick
    | _, _ => s)

end Sys2Proof.Machine
end

