-- ==== Sys2Proof/Machine/Lichen.lean ====
section
/-! DEFINITION. Lichen engines (chapter 08): line accesses, the narrow path, reservations, streams, scrubbing, heat and the wipe. -/

namespace Sys2Proof.Machine

/-- Whether an Ovusk core may reach an HBM address: a unit of an OS-owned partition (R427). -/
def State.ovuskUnit (s : State) (a : Nat) : Bool :=
  decide (a < hbmEnd) &&
  (match s.partOfUnit (unitOf a) with
   | some p => s.getF F.PRT_OWNER_KIND p = 2
   | none => false)

/-! ### Line accesses (R191 to R193, R195, R207, R208, R212) -/

/-- Lines of a stack in the directory. -/
def State.dirCount (s : State) (st : Nat) : Nat := (s.dir.filter (fun d => stackOf (d.line * 64) = st)).length

/-- Evicts the least recently filled line of a stack from a full directory (R193). -/
def State.dirMakeRoom (s : State) (st : Nat) : State :=
  if s.dirCount st < 262144 then s else
  match s.dir.reverse.find? (fun d => stackOf (d.line * 64) = st) with
  | some v => { s.dropLine v with dir := s.dir.filter (fun d => d.line ≠ v.line) }
  | none => s

/-- An Ovusk cache takes a line. -/
def State.dirFill (s : State) (line : Nat) (dirty : Bool) : State :=
  let s1 := { s with dir := s.dir.filter (fun d => d.line ≠ line) }
  let s2 := s1.dirMakeRoom (stackOf (line * 64))
  { s2 with dir := { line := line, dirty := dirty } :: s2.dir }

/-- Who reads or writes a line: the hart of an Ovusk core, or no hart. -/
def lineHart (r : LineReq) : Option Nat :=
  match r.who with
  | .ovusk h => some h.toNat
  | .other => none

/-- A write of all 64 bytes. -/
def lineWhole (r : LineReq) : Bool := r.write.isSome && r.off.toNat = 0 && r.len.toNat = 64

/-- The memory-side cache serves the access: it held the line, and has not replaced it since. -/
def State.lineHits (s : State) (r : LineReq) : Bool := r.hit && s.cacheState (r.addr.toNat / 64) ≠ 0

/-- The access reads the DRAM: it misses, and does not write the whole line. -/
def State.lineReadsDram (s : State) (r : LineReq) : Bool := !s.lineHits r && !lineWhole r

/-- Reads or writes the bytes of the line. -/
def State.lineData (s : State) (r : LineReq) : State :=
  match r.write with
  | none =>
    let s1 := if (lineHart r).isSome then s else s.readLines r.addr.toNat 64
    s1.emit (.line (readBytes s1.hbm (r.addr.toNat + r.off.toNat) r.len.toNat) false)
  | some bs =>
    let s1 := (s.cowHold (r.addr.toNat + r.off.toNat) bs.length).ownLines (r.addr.toNat + r.off.toNat) bs.length (lineHart r)
    { s1 with hbm := writeBytes s1.hbm (r.addr.toNat + r.off.toNat) bs }

/-- A line access that no fault or poison ends: a correction is counted (R207), the cache serves it or DRAM does (R195). A line that the cache
has replaced since left it before. -/
def State.lineServe (s : State) (r : LineReq) : State :=
  let l := r.addr.toNat / 64
  let s0 := if s.lineReadsDram r then s.eccOff (stackOf r.addr.toNat) (stackOffset r.addr.toNat) r.ecc else s
  let s1 := if !s.lineHits r && s.cacheState l ≠ 0 then s0.cacheDrop l else s0
  let s2 := (if r.write.isSome then s1.lineWritten (lineWhole r) l else s1.lineRead .line l).lineData r
  if (lineHart r).isSome && r.fill then s2.dirFill l r.dirty else s2

/-- LINE_ACCESS. A hit is served from the cache, which has no ECC outcome of its own. -/
def execLineAccess (r : LineReq) (s : State) : Host.Outcome State Fault Refusal :=
  done (
    if (lineHart r).isSome && !s.ovuskUnit r.addr.toNat then s.emit .coreFault
    else if hbmEnd ≤ r.addr.toNat || !s.lichReady (stackOf r.addr.toNat) then s
    else if s.fencedAt r.addr.toNat then s.emit (.line [] true)
    else if s.lineReadsDram r && r.ecc = .uncorrectable then (s.hbmUe r.addr.toNat).emit (.line [] true)
    else s.lineServe r)

/-! ### The narrow path (R196 to R201) -/

/-- What FN, W32 and FETCH a code of Table 08-5 takes (R199). -/
def narrowLegal (op fn : Nat) (w32 fetch : Bool) : Bool :=
  (match op with
   | 0x0 => fn = 0 && fetch
   | 0x1 => fn = 0 && !fetch
   | 0x2 => fn = 0
   | 0x3 => decide (fn ≤ 1)
   | 0x4 => decide (fn ≤ 1)
   | 0x5 => decide (fn ≤ 2)
   | 0x6 => fn = 0
   | 0x7 => fn = 0 && fetch
   | 0x8 => decide (fn ≤ 1)
   | 0x9 => fn = 0
   | _ => false) &&
  (!w32 || (decide (2 ≤ op) && decide (op ≤ 7)))

def narrowAddr (r : NarrowReq) (i : Nat) : Nat := ((r.addr[i]?).getD 0).toNat
def narrowData (r : NarrowReq) (i : Nat) : Word := (r.data[i]?).getD 0

/-- Lanes that act: CAS acts with lane 0 only. -/
def narrowLanes (r : NarrowReq) (op : Nat) : List Nat :=
  (List.range 8).filter (fun i => testBit r.lanes.toNat i && (op ≠ 7 || i = 0))

/-- Every address is aligned to its word and lies in HBM. -/
def narrowAddrsOk (r : NarrowReq) (op : Nat) : Bool :=
  (narrowLanes r op).all (fun i => narrowAddr r i % (if r.w32 then 4 else 8) = 0 && decide (narrowAddr r i < hbmEnd))

/-- Engine that takes a request: that of its lowest lane. -/
def narrowHome (r : NarrowReq) : Nat :=
  stackOf (narrowAddr r (((List.range 8).find? (fun i => testBit r.lanes.toNat i)).getD 0)) % 16

/-- Refuses a request (R199). -/
def State.narrowRefuse (s : State) (r : NarrowReq) : State := (s.setErr F.LCH_ERR_OP_BAD (narrowHome r)).emit .narrowRefused

/-- Whether a lane hits in the cache: it holds the line, and has not replaced it since. -/
def State.laneHits (s : State) (r : NarrowReq) (i : Nat) : Bool := testBit r.hit.toNat i && s.cacheState (narrowAddr r i / 64) ≠ 0

/-- What a lane of a code does to its word: gathers read, scatters write, the others are atomics (Table 08-5). -/
def laneKind (op : Nat) : LaneKind := if op = 0 then .read else if op = 1 then .write else .atomic

/-- What the ECC of the DRAM found for a lane that misses. -/
def laneEcc (r : NarrowReq) (i : Nat) : List EccHit := eccOn r.ecc false [(narrowAddr r i, 1)]

/-- Applies one lane: its old value, poison, and the state. An Ovusk core's own atomic leaves its own reservation (R194). -/
def State.narrowLane (s : State) (r : NarrowReq) (op fn i : Nat) : (Word × Bool) × State :=
  let a := narrowAddr r i
  let st := stackOf a
  if s.fencedAt a then ((0, true), s) else
  let hit := s.laneHits r i
  let es := if hit then [] else laneEcc r i
  let s0 := s.eccHits es
  if eccBad es then ((0, true), s0) else
  let n := if r.w32 then 4 else 8
  let m := readLe s.hbm a n
  let w := 8 * n
  let s1 := (if !hit && s0.cacheState (a / 64) ≠ 0 then s0.cacheDrop (a / 64) else s0).lane (laneKind op) hit a
  let s2 := if op = 0 then s1.readLines a n
    else (((s1.cowHold a n).addF F.LCH_ATOMIC_CNT_COUNT 1 st).clearResv a n (r.hart.map BitVec.toNat)).dropDir a n
  let v := if op = 7 then lichenOp op fn w m ((narrowData r 0).toNat % 2 ^ w) ((narrowData r 1).toNat % 2 ^ w)
           else lichenOp op fn w m ((narrowData r i).toNat % 2 ^ w) 0
  ((BitVec.ofNat 64 m, false), if op = 0 then s2 else { s2 with hbm := writeLe s2.hbm a n (v.getD m) })

/-- Whether the window of each engine that a request names has room for its lanes that miss, and the engine is ready. A missing atomic fills its
line and takes no place in the window (R201). -/
def State.narrowRoom (s : State) (r : NarrowReq) (op : Nat) : Bool :=
  (narrowLanes r op).all (fun i =>
    let st := stackOf (narrowAddr r i)
    let wants := (narrowLanes r op).filter (fun k => stackOf (narrowAddr r k) = st && !s.laneHits r k)
    s.lichReady st && (decide (1 < op) || wants.isEmpty || decide ((s.lichen st).window.length + wants.length ≤ 512)))

/-- A narrow request of one function: lanes in lane order (R198), and one reply. A request that must wait changes nothing. -/
def State.narrow (s : State) (op fn : Nat) (r : NarrowReq) : State :=
  if !(r.fn.toNat = fn && narrowLegal op fn r.w32 r.fetch && narrowAddrsOk r op) then s.narrowRefuse r
  else if !s.narrowRoom r op then s
  else
    let q := (narrowLanes r op).foldl (fun (a : (List (Nat × Word) × Nat) × State) i =>
      let l := a.2.narrowLane r op fn i
      ((a.1.1 ++ [(i, l.1.1)], a.1.2 + (if l.1.2 then 2 ^ i else 0)), l.2)) (([], 0), s)
    let vals := (List.range 8).map (fun i => if r.fetch then ((q.1.1.find? (fun e => e.1 = i)).map (·.2)).getD 0 else 0)
    q.2.emit (.narrow vals q.1.2)

def execNarrowGather (r : NarrowReq) (s : State) : Host.Outcome State Fault Refusal := done (s.narrow 0x0 0 r)
def execNarrowScatter (r : NarrowReq) (s : State) : Host.Outcome State Fault Refusal := done (s.narrow 0x1 0 r)
def execNarrowAdd (r : NarrowReq) (s : State) : Host.Outcome State Fault Refusal := done (s.narrow 0x2 0 r)
def execNarrowMin (r : NarrowReq) (s : State) : Host.Outcome State Fault Refusal := done (s.narrow 0x3 0 r)
def execNarrowMax (r : NarrowReq) (s : State) : Host.Outcome State Fault Refusal := done (s.narrow 0x3 1 r)
def execNarrowMinu (r : NarrowReq) (s : State) : Host.Outcome State Fault Refusal := done (s.narrow 0x4 0 r)
def execNarrowMaxu (r : NarrowReq) (s : State) : Host.Outcome State Fault Refusal := done (s.narrow 0x4 1 r)
def execNarrowAnd (r : NarrowReq) (s : State) : Host.Outcome State Fault Refusal := done (s.narrow 0x5 0 r)
def execNarrowOr (r : NarrowReq) (s : State) : Host.Outcome State Fault Refusal := done (s.narrow 0x5 1 r)
def execNarrowXor (r : NarrowReq) (s : State) : Host.Outcome State Fault Refusal := done (s.narrow 0x5 2 r)
def execNarrowSwap (r : NarrowReq) (s : State) : Host.Outcome State Fault Refusal := done (s.narrow 0x6 0 r)
def execNarrowCas (r : NarrowReq) (s : State) : Host.Outcome State Fault Refusal := done (s.narrow 0x7 0 r)
def execNarrowFmin (r : NarrowReq) (s : State) : Host.Outcome State Fault Refusal := done (s.narrow 0x8 0 r)
def execNarrowFmax (r : NarrowReq) (s : State) : Host.Outcome State Fault Refusal := done (s.narrow 0x8 1 r)
def execNarrowFadd (r : NarrowReq) (s : State) : Host.Outcome State Fault Refusal := done (s.narrow 0x9 0 r)

/-- NARROW_ILLEGAL: a request with an illegal OP, FN, W32 or FETCH. A legal one is not this command's. -/
def execNarrowIllegal (op : BitVec 4) (r : NarrowReq) (s : State) : Host.Outcome State Fault Refusal :=
  done (if narrowLegal op.toNat r.fn.toNat r.w32 r.fetch then s else s.narrowRefuse r)

/-- COALESCE_TIMEOUT: sectors whose first lane has waited 64 ns are read, each in one 32-byte access (R197). -/
def execCoalesceTimeout (st : BitVec 4) (s : State) : Host.Outcome State Fault Refusal :=
  let due := (((s.lichen st.toNat).window.filter (fun l => decide (l.2 + 64 ≤ s.now))).map (·.1)).eraseDups
  done (due.foldl (fun s k => s.serveSector st.toNat k) s)

/-! ### Reservations (R194) -/

/-- Runs an access of an Ovusk core to a word of a ready stack: none reaches a fenced one, and a word that the DRAM gives with an uncorrectable
error is poison (R208, R212, R215). -/
def State.coreAccess (s : State) (a : Nat) (e : Ecc) (f : State → State) : State :=
  let miss := s.cacheState (a / 64) = 0
  if !s.lichReady (stackOf a) then s
  else if s.fencedAt a then s.emit (.line [] true)
  else if miss && e = .uncorrectable then (s.hbmUe a).emit (.line [] true)
  else f (if miss then s.eccOff (stackOf a) (stackOffset a) e else s)

/-- LR: a hart holds one reservation at an engine. -/
def execLr (hart : BitVec 7) (x : HartAddr) (s : State) : Host.Outcome State Fault Refusal :=
  let a := x.addr
  let e := x.ecc
  let l := a.toNat / 64
  done (if !s.ovuskUnit a.toNat then s.emit .coreFault
    else s.coreAccess a.toNat e (fun s =>
      let s1 := s.lineRead .line l
      let keep := s1.resv.filter (fun r => !(r.hart = hart.toNat && stackOf (r.line * 64) = stackOf a.toNat))
      ({ s1 with resv := { hart := hart.toNat, line := l, at_ := s.now } :: keep }).emit (.line (readBytes s1.hbm (a.toNat / 8 * 8) 8) false)))

/-- The reservation of a hart on a line, while it stands. -/
def State.reserved (s : State) (hart line : Nat) : Bool :=
  s.resv.any (fun r => r.hart = hart && r.line = line && decide (s.now < 10 * usec + r.at_))

/-- SC. -/
def execSc (hart : BitVec 7) (x : HartAddr) (w32 : Bool) (v : BitVec 64) (s : State) : Host.Outcome State Fault Refusal :=
  let a := x.addr
  let e := x.ecc
  let n := if w32 then 4 else 8
  done (if !s.ovuskUnit a.toNat || a.toNat % n ≠ 0 then s.emit .coreFault
    else s.coreAccess a.toNat e (fun s =>
      let ok := s.reserved hart.toNat (a.toNat / 64)
      let s1 := if ok then
          let s1 := ((s.cowHold a.toNat n).ownLines a.toNat n (some hart.toNat)).laneAt .atomic a.toNat
          { s1 with hbm := writeLe s1.hbm a.toNat n v.toNat }
        else s
      ({ s1 with resv := s1.resv.filter (fun r => !(r.hart = hart.toNat && stackOf (r.line * 64) = stackOf a.toNat)) }).emit
        (.scResult hart.toNat ok)))

/-- RESERVATION_LAPSE: 10 µs after its LR. -/
def execReservationLapse (st : BitVec 4) (hart : BitVec 7) (s : State) : Host.Outcome State Fault Refusal :=
  done { s with resv := s.resv.filter (fun r =>
    !(r.hart = hart.toNat && stackOf (r.line * 64) = st.toNat && decide (10 * usec + r.at_ ≤ s.now))) }

/-! ### Streams (R202 to R206) -/

abbrev opSpmv : Nat := 0x1
abbrev opSpmvSub : Nat := 0x2
abbrev opSweepDiv : Nat := 0x3
abbrev opGatherSum : Nat := 0x4
abbrev opGatherMin : Nat := 0x5
abbrev opGatherMax : Nat := 0x6

def streamW (x : StreamReq) (i : Nat) : Nat := ((x.words[i]?).getD 0).toNat
def streamRows (x : StreamReq) : Nat := bitsOf (streamW x 0) 23 0
def streamDone (x : StreamReq) : Nat := bitsOf (streamW x 0) 45 24

/-- Arrays an operation uses, by word (Table 08-8). -/
def streamUses (op i : Nat) : Bool :=
  match i with
  | 3 => decide (op ≤ 3)
  | 6 => op = opSpmvSub || op = opSweepDiv
  | 7 => op = opSweepDiv
  | _ => true

/-- Address of an array of a stream, which the channel resolves when it issues the stream (Table 08-7). -/
def State.streamAddr (s : State) (ch v : Nat) : Option Nat :=
  let q := (s.chan ch).params
  let w := fun i => ((q[i]?).getD 0).toNat
  let off := bitsOf v 39 0
  let sel := bitsOf v 63 57
  if bitsOf v 56 40 ≠ 0 then none
  else if sel = 0 then some off
  else if sel = 1 then some (s.u64 (w 1) + off)
  else if sel = 2 then some (s.u64 (w 1 + 8) + off)
  else if sel = 3 then some (s.u64 (w 1 + 16) + off)
  else if sel = 4 then some (w 2 + off)
  else if sel = 5 then some (w 3 + off)
  else if sel = 6 then some (w 5 + off)
  else if 16 ≤ sel && sel ≤ 90 then some (w 6 + (sel - 16) * s.u64 (w 0 + 64) + off)
  else none

/-- Whether a descriptor is legal. -/
def State.streamOk (s : State) (op : Nat) (x : StreamReq) : Bool :=
  bitsOf (streamW x 0) 63 60 = op && bitsOf (streamW x 0) 59 56 = 0 && bitsOf (streamW x 0) 47 46 = 0 && streamDone x % 8 = 0 && decide (1 ≤ streamRows x) &&
  [1, 2, 3, 4, 5, 6, 7].all (fun i =>
    if streamUses op i then (s.streamAddr x.ch.toNat (streamW x i)).isSome else streamW x i = 0)

/-- Cluster of a slot number. -/
def State.slotCluster (s : State) (ch slot : Nat) : Option Nat := (s.boundClusters ch)[slot]?

/-- One row of a stream: its value and its entries. -/
def State.streamRow (s : State) (op : Nat) (a : Nat → Nat) (i : Nat) : Nat × Nat :=
  let e0 := s.u32 (a 1 + 4 * i)
  let e1 := s.u32 (a 1 + 4 * (i + 1))
  let es := List.range' e0 (e1 - e0)
  let g := fun e => s.u64 (a 4 + 8 * s.u32 (a 2 + 4 * e))
  let v := fun e => s.u64 (a 3 + 8 * e)
  let one := 0x3FF0000000000000
  let steps := fun (c : Nat) (ts : List (Nat × Nat)) => (dotIeee fp64 4 c (ts.map (fun p => (fpVal fp64 p.1, fpVal fp64 p.2)))).1
  let sub := fun (_ : Unit) => steps (s.u64 (a 6 + 8 * i)) (es.map (fun e => (v e ^^^ 2 ^ 63, g e)))
  let y :=
    if op = opSpmv then steps 0 (es.map (fun e => (v e, g e)))
    else if op = opSpmvSub then sub ()
    else if op = opSweepDiv then (fpDiv fp64 .rne (sub ()) (s.u64 (a 7 + 8 * i))).1
    else if op = opGatherSum then steps 0 (es.map (fun e => (g e, one)))
    else if op = opGatherMin then es.foldl (fun m e => (fpMin fp64 m (g e)).1) 0x7FF0000000000000
    else es.foldl (fun m e => (fpMax fp64 m (g e)).1) 0xFFF0000000000000
  (y, es.length)

/-- The arrays that a stream reads by whole tiles, which it verifies (R204), and the words it gathers from X. -/
def State.streamArrays (s : State) (op n : Nat) (a : Nat → Nat) : List (Nat × Nat) :=
  let e0 := s.u32 (a 1)
  let e1 := s.u32 (a 1 + 4 * n)
  [(a 1, 4 * (n + 1)), (a 2 + 4 * e0, 4 * (e1 - e0))] ++ (if streamUses op 3 then [(a 3 + 8 * e0, 8 * (e1 - e0))] else []) ++
    (if streamUses op 6 then [(a 6, 8 * n)] else []) ++ (if streamUses op 7 then [(a 7, 8 * n)] else [])
def State.streamGathers (s : State) (n : Nat) (a : Nat → Nat) : List (Nat × Nat) :=
  let e0 := s.u32 (a 1)
  (List.range' e0 (s.u32 (a 1 + 4 * n) - e0)).map (fun e => (a 4 + 8 * s.u32 (a 2 + 4 * e), 8))
def State.streamReads (s : State) (op n : Nat) (a : Nat → Nat) : List (Nat × Nat) := s.streamArrays op n a ++ s.streamGathers n a

/-- Whether the arrays that a stream reads verify (R204); its gathers from X do not. -/
def State.streamVerify (s : State) (op n : Nat) (a : Nat → Nat) : Bool := (s.streamArrays op n a).all (fun r => s.hbmVerify r.1 r.2)

/-- Whether a stream reads a tile that it writes, which makes its result undefined (R204). -/
def State.streamSelf (s : State) (op n : Nat) (a : Nat → Nat) : Bool :=
  (s.streamReads op n a).any (fun r => r.2 ≠ 0 && decide (r.1 / 4096 ≤ (a 5 + 8 * n - 1) / 4096) && decide (a 5 / 4096 ≤ (r.1 + r.2 - 1) / 4096))

/-- Whether a stream reads or writes a fenced stack (R212). -/
def State.streamFenced (s : State) (op n : Nat) (a : Nat → Nat) : Bool :=
  s.fencedIn (a 5) (8 * n) || (s.streamReads op n a).any (fun r => s.fencedIn r.1 r.2)

/-- Whether what a stream reads and writes lies in its channel's partition (R115, R163); one that does not is illegal (log 110). -/
def State.streamInside (s : State) (p op n : Nat) (a : Nat → Nat) : Bool :=
  s.inUnits p (a 5) (8 * n) && s.inUnits p (a 1) (4 * (n + 1)) && (s.streamReads op n a).all (fun r => s.inUnits p r.1 r.2)

/-- Sets an engine's streams, and STREAMS_ACT with them. -/
def State.setStreams (s : State) (st : Nat) (x : Lichen) : State := (s.setLichen st x).setF F.LCH_STAT_STREAMS_ACT x.run.length st

def WaitStream.addr (w : WaitStream) (i : Nat) : Nat := (w.arrays[i]?).getD 0

/-- The fault that a stream meets as it begins (R204, R208, R212). -/
def State.streamFault (s : State) (w : WaitStream) (es : List EccHit) : Option JobFault :=
  let a := w.addr
  if s.streamFenced w.op w.rows a then some .fenced
  else if eccBad (eccOn es true (s.streamArrays w.op w.rows a)) || eccBad (eccOn es false (s.streamGathers w.rows a)) then some .eccUe
  else if !s.streamVerify w.op w.rows a then some .tileCheck
  else none

/-- What a stream's reads do to the stacks: its arrays by tiles, its gathers by the narrow path (R195, R196, R204), and the ECC's outcomes. -/
def State.streamTouch (s : State) (w : WaitStream) (es : List EccHit) : State :=
  let rs := s.streamArrays w.op w.rows w.addr
  let gs := s.streamGathers w.rows w.addr
  (gs.foldl (fun s r => s.narrowRead r.1 r.2) (s.memReads .tile rs)).eccHits (eccOn es true rs ++ eccOn es false gs)

/-- Begins a stream of a channel that still runs the command (R203). A fault of its accesses stops the channel (R162). A stream that reads a tile
it writes leaves free values (log 85). -/
def State.streamBegin (s : State) (st : Nat) (w : WaitStream) (es : List EccHit) : State :=
  match (s.chan w.ch).holder.bind s.cmd? with
  | none => s
  | some c =>
    if c.id ≠ w.cmd then s else
    let s0 := s.streamTouch w es
    match s.streamFault w es with
    | some f => (if f = .tileCheck then s0.setErr F.LCH_ERR_TILE_CHECK st (some c.part) else s0).slvFault w.ch c f
    | none =>
      let rows := (List.range w.rows).map (s.streamRow w.op w.addr)
      let self := s.streamSelf w.op w.rows w.addr
      let ys := if self then freeVals s0.fresh w.rows else rows.map (·.1)
      let r : LichStream := { ch := w.ch, cmd := w.cmd, cluster := w.cluster, spad := w.spad, y := w.addr 5, vals := ys
                              entries := (rows.map (·.2)).foldl (· + ·) 0, finite := ys.all (fun v => (fpVal fp64 v).isFin) }
      let l := s0.lichen st
      ({ s0 with fresh := if self then s0.fresh + w.rows else s0.fresh } : State).setStreams st { l with run := l.run ++ [r] }

/-- Streams that wait begin in arrival order while fewer than eight run (R206); one that does not begin makes way for the next. -/
def State.pumpStreams (st : Nat) (es : List EccHit) : Nat → State → State
  | 0, s => s
  | n + 1, s =>
    let l := s.lichen st
    match l.wait with
    | [] => s
    | w :: rest => if l.run.length < 8 then State.pumpStreams st es n ((s.setLichen st { l with wait := rest }).streamBegin st w es) else s

/-- Whether the words are a segment of the stream section of the channel's schedule (R139, Table 06-3). -/
def State.streamListed (s : State) (k : SlvChan) (ws : List Word) : Bool :=
  let l := s.asLaunched k.areas
  let h := l.schedHdr (solveParams k.params).sched
  (List.range ((h.total - h.offStream) / 64)).any (fun i => readWords l.hbm ((solveParams k.params).sched + h.offStream + 64 * i) 8 = ws)

/-- A stream that its channel issues from its schedule: the channel resolves its addresses and its slot, and the engine queues it behind those
that wait (R202, R206). An illegal descriptor ends the channel's command DESC_BAD. -/
def State.stream (s : State) (st op : Nat) (x : StreamReq) : State :=
  let ch := x.ch.toNat
  let k := s.chan ch
  match k.holder.bind s.cmd? with
  | none => s
  | some c =>
    if k.stage ≠ slvIterating || !s.lichReady st || !s.streamListed k x.words then s
    else
      let a := (List.range 8).map (fun i => (s.streamAddr ch (streamW x i)).getD 0)
      let n := streamRows x
      match s.slotCluster ch (bitsOf (streamW x 0) 55 48) with
      | some cl =>
        if s.streamOk op x && s.streamInside c.part op n (fun i => (a[i]?).getD 0) then
          let l := s.lichen st
          let w : WaitStream := { ch := ch, cmd := c.id, op := op, rows := n, arrays := a, cluster := cl, spad := streamDone x }
          State.pumpStreams st x.ecc (l.wait.length + 1) (s.setLichen st { l with wait := l.wait ++ [w] })
        else (s.setErr F.LCH_ERR_STREAM_BAD st (some c.part)).solveRefuse c k.params 0x10 5
      | none => (s.setErr F.LCH_ERR_STREAM_BAD st (some c.part)).solveRefuse c k.params 0x10 5

def execSpmv (st : BitVec 4) (x : StreamReq) (s : State) : Host.Outcome State Fault Refusal := done (s.stream st.toNat opSpmv x)
def execSpmvSub (st : BitVec 4) (x : StreamReq) (s : State) : Host.Outcome State Fault Refusal := done (s.stream st.toNat opSpmvSub x)
def execSweepDiv (st : BitVec 4) (x : StreamReq) (s : State) : Host.Outcome State Fault Refusal := done (s.stream st.toNat opSweepDiv x)
def execGatherSum (st : BitVec 4) (x : StreamReq) (s : State) : Host.Outcome State Fault Refusal := done (s.stream st.toNat opGatherSum x)
def execGatherMin (st : BitVec 4) (x : StreamReq) (s : State) : Host.Outcome State Fault Refusal := done (s.stream st.toNat opGatherMin x)
def execGatherMax (st : BitVec 4) (x : StreamReq) (s : State) : Host.Outcome State Fault Refusal := done (s.stream st.toNat opGatherMax x)

/-- STREAM_COMPLETE: the oldest running stream writes and seals Y, then its completion word (R205), unless its stack has been fenced since
(R212); the oldest waiting one begins. -/
def execStreamComplete (x : StreamEnd) (s : State) : Host.Outcome State Fault Refusal :=
  let st := x.st
  let es := x.ecc
  let l := s.lichen st.toNat
  done (match l.run with
    | [] => s
    | r :: rest =>
      let s0 := s.setStreams st.toNat { l with run := rest }
      let s3 := if s.fencedIn r.y (8 * r.vals.length) then
          (match (s.chan r.ch).holder.bind s.cmd? with
           | some c => if c.id = r.cmd then s0.slvFault r.ch c .fenced else s0
           | none => s0)
        else
          let s1 := s0.hbmSealWrite r.y (r.vals.flatMap (natLe 8))
          let s2 := s1.spadWrite r.cluster r.spad (natLe 8 (if r.finite then 1 else 0x8000000000000001))
          (s2.addF F.LCH_STREAM_CNT_COUNT 1 st.toNat).addF F.LCH_ENTRY_CNT_COUNT r.entries st.toNat
      State.pumpStreams st.toNat es l.wait.length s3)

/-! ### Scrubbing and heat (R209 to R212) -/

/-- SCRUB_PASS: SCRUB_HOURS after the pass before, every data line and checksum word has been read, and corrected where it could be. -/
def execScrubPass (st : BitVec 4) (x : ScrubOutcome) (s : State) : Host.Outcome State Fault Refusal :=
  let n := st.toNat
  let l := s.lichen n
  done (if s.powered && s.lichReady n && decide (3600000000000 * s.getF F.HBM_CTRL_SCRUB_HOURS n + l.scrubAt ≤ s.now) then
    x.hits.foldl (fun s h => s.eccOff n h.1.toNat h.2) ((s.setLichen n { l with scrubAt := s.now }).addF F.HBM_SCRUB_PASS_COUNT 1 n)
  else s)

/-- The thermal state after a sample (Table 08-9): 0 NORMAL, 1 REFRESH_2X, 2 THROTTLED, 3 FENCED. -/
def stackState (cur temp : Nat) : Nat :=
  if cur = 3 || 105 ≤ temp then 3
  else if 95 ≤ temp || (cur = 2 && 92 ≤ temp) then 2
  else if 85 ≤ temp || (1 ≤ cur && 82 ≤ temp) then 1
  else 0

/-- Fences a stack (R212): the fault of every job that holds a unit in it. -/
def State.fenceStack (s : State) (st : Nat) : State :=
  let s1 := ((s.setF F.LCH_STAT_FENCED 1 st).setErr F.LCH_ERR_FENCED st).setErr F.HBM_ERR_FENCED st
  s1.faultJobs .fenced (fun j => (List.range 92).any (fun i => s1.jobUnit j (92 * (st / 4) + i)))

/-- STACK_THERMAL_SAMPLE: each 1 ms (R210). -/
def execStackThermalSample (st : BitVec 4) (temp : BitVec 8) (trend : BitVec 16) (s : State) : Host.Outcome State Fault Refusal :=
  let n := st.toNat
  let cur := s.getF F.HBM_STAT_TSTATE n
  let next := stackState cur temp.toNat
  let s1 := (s.setF F.HBM_STAT_TEMP temp.toNat n).setF F.HBM_STAT_TEMP_MAX (Nat.max (s.getF F.HBM_STAT_TEMP_MAX n) temp.toNat) n
  let s2 := if cur = 2 then s1.addF F.LCH_THROTTLE_TICKS_COUNT msec n else s1
  let s3 := if cur = 1 || cur = 2 then s2.addF F.HBM_REFRESH_2X_TICKS_COUNT msec n else s2
  let s4 := (s3.setF F.HBM_STAT_TSTATE next n).setF F.LCH_STAT_THROTTLED (if next = 2 then 1 else 0) n
  let s5 := if next = 2 || cur = 2 then { s4 with hotAt := some s.now } else s4
  let s6 := if next = 2 && cur ≠ 2 then s5.setErr F.HBM_ERR_HOT n else s5
  let s7 := if next = 3 && cur ≠ 3 then s6.fenceStack n else s6
  let old := toSigned 16 (s.getF F.HBM_TEMP_TREND_MC_PER_S n)
  let s8 := (s7.setF F.HBM_TEMP_TREND_MC_PER_S trend.toNat n).tempWarn old (toSigned 16 trend.toNat)
  done (if s.clkOff .hbm n && n ≠ 0 || !s.powered then s else s8)

/-! ### The wipe (R114, R215, R240, R475) -/

/-- HBM_WIPE_DONE: a stack is trained and wiped. Stack 0 comes before the compute dies are released; when every stack is ready the queue
manager is. -/
def execHbmWipeDone (st : BitVec 4) (s : State) : Host.Outcome State Fault Refusal :=
  let n := st.toNat
  done (if !s.powered || s.lichReady n || !(n = 0 || s.diesReady) then s
    else
      let s1 := ({ s with hbm := s.hbm.filter (fun e => stackOf e.1 ≠ n), hbmSum := s.hbmSum.filter (fun e => stackOf (4096 * e.1) ≠ n) } : State).setLichen n
        { s.lichen n with cache := [], scrubAt := s.now }
      let s2 := ((s1.setF F.HBM_STAT_TRAINED 1 n).setF F.LCH_STAT_WIPING 0 n).setF F.LCH_STAT_READY 1 n
      if (List.range 16).all s2.lichReady then s2.setF F.QMG_STAT_READY 1 else s2)

end Sys2Proof.Machine
end

