-- ==== Sys2Proof/Machine/Run.lean ====
section
/-! DEFINITION. Starts, stops and wakes of threads (R37, R40, R41, R59, R64), and the RUN command (R42). -/

namespace Sys2Proof.Machine

/-! ### THR_RUN (R40, R41, R60, R64) -/

/-- A write of THR_RUN.START: OFF and HALTED threads start at THR_PC; during a wipe the start waits for its end. -/
def State.thrRunStart (s : State) (c m : Nat) : State :=
  let k := s.clu c
  if k.wiping then s.setClu c { k with startPend := k.startPend ||| m }
  else
    thrNums.foldl (fun s t =>
      if testBit m t && (s.thr c t).startable && !s.boundThread c t then s.startThread c t (s.getF (thrPcFld t) c) else s) s

/-- A write of THR_RUN.STOP. -/
def State.thrRunStop (s : State) (c m : Nat) : State :=
  thrNums.foldl (fun s t => if testBit m t && !s.boundThread c t then s.stopThread c t else s) s

/-- CLUSTER_WIPE_DONE (R64): pending starts take effect. -/
def execClusterWipeDone (c : BitVec 8) (s : State) : Host.Outcome State Fault Refusal :=
  let k := s.clu c.toNat
  done (if s.powered && k.wiping then
    (s.setClu c.toNat { k with wiping := false, removed := false, startPend := 0 }).thrRunStart c.toNat k.startPend
  else s)

/-! ### Waits -/

/-- Bytes of a remote result, once every piece is in; the pieces cover whole lines from the line of the first byte. -/
def Remote.bytes (r : Remote) : Option (List Byte) :=
  r.parts.foldr (fun p a => match a, p.data with
    | some bs, some d => some (d ++ bs)
    | _, _ => none) (some [])

/-- Byte `i` of the pieces, by offset from the line of the first byte. -/
def Remote.byteAt (r : Remote) (i : Nat) : Byte :=
  match r.parts.find? (fun p => decide (p.off ≤ i) && decide (i < p.off + p.len)) with
  | some p => ((p.data.getD [])[i - p.off]?).getD 0
  | none => 0

/-- The vector that VLDG leaves in its destination. -/
def Remote.vector (r : Remote) (old : Nat) : Nat :=
  (vMap r.w (2048 / r.w) (fun k => r.act.contains k) old (fun k =>
    (leNat ((List.range (r.w / 8)).map (fun b => r.byteAt (r.start + k * (r.w / 8) + b))), 0))).1

/-- REMOTE_RESULT: the result is written and the thread is READY; a STOP that waited takes effect (R37, R41). -/
def execRemoteResult (c : BitVec 8) (t : BitVec 3) (s : State) : Host.Outcome State Fault Refusal :=
  let x := s.thr c.toNat t.toNat
  done (match x.st, x.remote with
    | .waitRemote, some r =>
      match r.bytes with
      | none => s
      | some bs =>
        let y := if r.vec then x.wrV r.reg (r.vector (x.rdV r.reg)) else x.wr r.reg (BitVec.ofNat 64 (leNat bs))
        let s1 := s.setThr c.toNat t.toNat { y with st := .ready, remote := none }
        if x.stopPend then s1.haltThread c.toNat t.toNat causeStop else s1
    | _, _ => s)

/-- WAITM_WAKE: after a write to the watched line the condition is examined again (R59). -/
def execWaitmWake (c : BitVec 8) (t : BitVec 3) (s : State) : Host.Outcome State Fault Refusal :=
  let x := s.thr c.toNat t.toNat
  done (match x.wait with
    | .word a v true =>
      if v ≤ leNat (s.spadRead c.toNat a 8) then (s.setThr c.toNat t.toNat x.resume).settle c.toNat
      else s.setThr c.toNat t.toNat { x with wait := .word a v false }
    | _ => s)

/-! ### RUN (R42, Table 02-9) -/

/-- The threads a RUN command names, as cluster and thread. -/
def runTargets (c : Cmd) : List (Nat × Nat) :=
  ((List.range 32).filter (fun g => testBit (c.num 24 4) g)).flatMap (fun g =>
    (List.range 8).flatMap (fun i => (thrNums.filter (fun t => testBit (c.byte 28) t)).map (fun t => (8 * g + i, t))))

def State.threadHalted (s : State) (p : Nat × Nat) : Bool := (s.thr p.1 p.2).st = .halted

/-- The checks RUN makes at its start. -/
def State.runOk (s : State) (c : Cmd) : Bool :=
  c.engine = 0 && c.num 24 4 ≠ 0 && c.byte 28 ≠ 0 && c.byte 29 = 0 && c.num 30 2 < 32768 && c.num 40 24 = 0 &&
  (runTargets c).all (fun p => s.partOfCluster p.1 = some c.part && (s.thr p.1 p.2).startable && !s.boundThread p.1 p.2)

/-- RUN. -/
def execRun (id : Nat) (s : State) : Host.Outcome State Fault Refusal :=
  done (s.withStarted id (fun c =>
    if c.opc ≠ 0x6A || s.heldQueue c.queue then s
    else if !s.runOk c then s.setCmd { c with phase := .ended, status := 0x10 }
    else
      (runTargets c).foldl (fun s p =>
        let s1 := s.setF (thrPcFld p.2) (c.num 30 2) p.1
        s1.setThr p.1 p.2 (((s1.thr p.1 p.2).wr 1 (BitVec.ofNat 64 (c.num 32 8))).start (c.num 30 2)))
        (s.setCmd { c with phase := .running })))

/-- A running RUN command. -/
def State.withRun (s : State) (id : Nat) (f : Cmd → State) : State :=
  match s.cmd? id with
  | some c => if c.opc = 0x6A && c.phase = .running then f c else s
  | none => s

/-- Commits a RUN command at the first moment at which every thread it started is HALTED (R42). A command that its deadline has stopped
(`late`) ends DEADLINE_MISS, with the number of threads that the deadline halted. -/
def State.runCommit (s : State) (c : Cmd) : State :=
  if !(runTargets c).all s.threadHalted then s
  else if c.late then s.commitCmd c 0x20 c.aux 0 0
  else
    let n := ((runTargets c).filter (fun p => (s.thr p.1 p.2).cause ≠ causeHalt)).length
    s.commitCmd c (if n = 0 then 0 else 0x10) n 0 0

/-- RUN_COMMIT: every thread it started is HALTED. -/
def execRunCommit (id : Nat) (s : State) : Host.Outcome State Fault Refusal := done (s.withRun id s.runCommit)

/-- Halts the threads of a RUN command that have not halted. -/
def State.runStop (s : State) (c : Cmd) : State :=
  (runTargets c).foldl (fun s p => s.stopThread p.1 p.2) s

/-- RUN_DEADLINE: the threads that have not halted are halted as by a STOP write, and the command commits once they are, so that a thread
in WAIT_REMOTE first has its result (R26, R41, R42). -/
def execRunDeadline (id : Nat) (s : State) : Host.Outcome State Fault Refusal :=
  done (s.withRun id (fun c =>
    if c.deadline = 0 || c.late || s.cad < c.deadline || (runTargets c).all s.threadHalted then s
    else
      let n := ((runTargets c).filter (fun p => !s.threadHalted p)).length
      let c1 := { c with late := true, aux := n }
      ((s.setCmd c1).runStop c1).runCommit c1))

end Sys2Proof.Machine
end

