-- ==== Sys2Proof/Machine/Queues.lean ====
section
/-! DEFINITION. The queue manager's commands (R230 to R241): doorbells, contexts, starts, commits and aborts. -/

namespace Sys2Proof.Machine

/-! ### Doorbells (R233, R425, R427) -/

/-- The queue that a doorbell names: a PF sees its partition's range, VF f its subrange; a window and a core name the queue. -/
def State.dbQueue (s : State) (d : DbSrc) (i : Nat) : Option Nat :=
  match d with
  | .fn l f =>
    match s.partOfLink l.toNat with
    | none => none
    | some p =>
      let first := s.getF F.PRT_QUEUES_FIRST p
      let stride := s.getF F.PRT_VF_VF_STRIDE p
      let q := if f.toNat = 0 then first + i else first + f.toNat * stride + i
      if (f.toNat = 0 || decide (i < stride)) && s.prtQueue p q then some q else none
  | _ => some i

/-- A core reaches only queues of OS-owned partitions. -/
def State.dbCoreOk (s : State) (d : DbSrc) (q : Nat) : Bool :=
  match d with
  | .core => (match s.partOfQueue q with
    | some p => s.getF F.PRT_OWNER_KIND p = 2
    | none => false)
  | _ => true

def State.doorbellFrom (s : State) (d : DbSrc) (i : Nat) (cqHead : Bool) (v : Nat) : State :=
  match s.dbQueue d i with
  | none => s
  | some q => if s.dbCoreOk d q then s.doorbell q cqHead v else s.emit .coreFault

/-- What the queue manager meets as it fetches contexts that are not cached (R207, R208, Table 09-8). The spec does not say what becomes of a
doorbell or record whose context is uncorrectable: the model does nothing more of it (log 111). -/
def State.withCtxs (s : State) (es : List EccHit) (qs : List Nat) (f : State → State) : State :=
  let read := fun q => match s.partOfQueue q with
    | some p => if s.ctxCached q then [] else eccOn es false [(s.ctxAddr p q, 64)]
    | none => []
  let s1 := (qs.flatMap read).foldl State.eccHit s
  match qs.find? (fun q => eccBad (read q)) with
  | some q => s1.setErr F.QMG_ERR_ECC_UE 0 (s.partOfQueue q)
  | none => f s1

/-- SQ_DOORBELL. -/
def execSqDoorbell (d : DbSrc) (i : BitVec 20) (x : DbValue) (s : State) : Host.Outcome State Fault Refusal :=
  done (s.withCtxs x.ecc (s.dbQueue d i.toNat).toList (fun s => s.doorbellFrom d i.toNat false x.value.toNat))

/-- CQ_DOORBELL. -/
def execCqDoorbell (d : DbSrc) (i : BitVec 20) (x : DbValue) (s : State) : Host.Outcome State Fault Refusal :=
  done (s.withCtxs x.ecc (s.dbQueue d i.toNat).toList (fun s => s.doorbellFrom d i.toNat true x.value.toNat))

/-! ### Context operations (R231, R232) -/

/-- CTX_OP 1: the context into the origin's CTX_DATA. -/
def State.ctxToData (s : State) (copy q : Nat) : State :=
  let s := s.ctxFetch q
  (List.range 8).foldl (fun s i => s.setW .qmg (0x58 + 8 * i) (((s.ctx q)[i]?).getD 0) 0 copy) s

/-- The context in an origin's CTX_DATA. -/
def State.ctxData (s : State) (copy : Nat) : List Word := (List.range 8).map (fun i => s.regW .qmg (0x58 + 8 * i) 0 copy)

/-- Whether every field of a context to be enabled is in range. -/
def State.ctxLegal (s : State) (p : Nat) (x : List Word) : Bool :=
  let sq := ctxGet x cSqLog2
  let cq := ctxGet x cCqLog2
  decide (4 ≤ sq) && decide (sq ≤ 16) && decide (4 ≤ cq) && decide (cq ≤ 16) && decide (ctxGet x cClass ≤ 2) &&
  (ctxGet x cClass ≠ 0 || decide (1 ≤ ctxGet x cDlShare)) && s.prtQueue p (ctxGet x cCqQueue) && decide (ctxGet x cIrqVector < 2048) &&
  s.ringOk p (ctxGet x cSqBase) (64 * 2 ^ sq) && s.ringOk p (ctxGet x cCqBase) (32 * 2 ^ cq) &&
  decide ((131072 + ctxGet x cSqTail - ctxGet x cSqHead) % 131072 ≤ 2 ^ sq) && decide ((131072 + ctxGet x cCqTail - ctxGet x cCqHead) % 131072 ≤ 2 ^ cq) &&
  ctxGet x (2, 31, 17) = 0 && ctxGet x (2, 63, 49) = 0 && ctxGet x (3, 31, 17) = 0 && ctxGet x (3, 63, 49) = 0 && ctxGet x (4, 63, 52) = 0 &&
  ctxGet x (5, 63, 19) = 0 && ctxGet x (6, 63, 0) = 0 && ctxGet x (7, 63, 0) = 0

/-- Sum of DL_SHARE over a partition's enabled deadline queues (R231). -/
def State.dlSum (s : State) (p : Nat) : Nat :=
  (List.range' (s.getF F.PRT_QUEUES_FIRST p) (s.getF F.PRT_QUEUES_COUNT p)).foldl (fun a q =>
    let x := s.ctx q
    if ctxGet x cEn = 1 && ctxGet x cClass = 0 then a + ctxGet x cDlShare else a) 0

/-- Contexts pinned but for that of queue `q`. -/
def State.pinned (s : State) (q : Nat) : Nat := (s.qctx.filter (fun e => e.1 ≠ q && ctxGet e.2 cPin = 1)).length

/-- Bounds PIN of queue `q` (R232). -/
def State.pinClamp (s : State) (q : Nat) (x : List Word) : List Word :=
  if ctxGet x cPin = 1 && decide (4096 ≤ s.pinned q) then ctxSet x cPin 0 else x

/-- CTX_OP 2: CTX_DATA to the context. -/
def State.ctxWrite (s : State) (copy q : Nat) : State :=
  match s.partOfQueue q with
  | none => s
  | some p =>
    let s := s.ctxFetch q
    let x := s.ctx q
    let y := s.ctxData copy
    if ctxGet x cEn = 1 then
      if y = ctxSet x cEn 0 then (s.setCtx q y).ctxWriteBack q else s
    else
      let y1 := s.pinClamp q y
      if ctxGet y cEn = 0 then s.setCtx q y1
      else if !s.ctxLegal p y then (s.setCtx q (ctxSet y1 cEn 0)).setErr F.QMG_ERR_CTX_BAD 0 (some p)
      else if ctxGet y cClass = 0 && (s.getF F.PRT_CLASS_CLASS p ≠ 0 || decide (256 < s.dlSum p + ctxGet y cDlShare)) then
        (s.setCtx q (ctxSet y1 cEn 0)).setErr F.QMG_ERR_ADMIT_REFUSED 0 (some p)
      else
        let s1 := (s.setCtx q y1).setQext q { s.qext q with written := 0 }
        s1.fetchEntries p q ((131072 + ctxGet y cSqTail - ctxGet y cSqHead) % 131072)

/-! ### Starts (R26, R229, R235, R241, R317) -/

/-- LAUNCH_TICK_REACHED. -/
def execLaunchTickReached (id : Nat) (s : State) : Host.Outcome State Fault Refusal :=
  done (match s.cmd? id with
    | some c => if c.launchTick ≤ s.cad then s.setCmd { c with launched := true } else s
    | none => s)

/-- Uncommitted commands of the same queue that were fetched earlier. -/
def State.before (s : State) (c : Cmd) : List Cmd := s.cmds.filter (fun d => d.queue = c.queue && decide (d.id < c.id))

/-- Whether the ring's order lets a command start (R26, R235). -/
def State.ringAllows (s : State) (c : Cmd) : Bool :=
  if ctxGet (s.ctx c.queue) cClass = 0 then (s.before c).isEmpty else (s.before c).all (fun d => d.phase ≠ .waiting)

/-- Class of the ring of a command. -/
def State.cmdClass (s : State) (c : Cmd) : Nat := ctxGet (s.ctx c.queue) cClass

/-- Order among MOVE commands that wait for one channel (R229). -/
def State.moveBefore (s : State) (a b : Cmd) : Bool :=
  s.cmdClass a < s.cmdClass b ||
  (s.cmdClass a = s.cmdClass b && (a.launchTick < b.launchTick || (a.launchTick = b.launchTick && a.queue < b.queue)))

/-- Whether a command may start but for its engine. -/
def State.startable (s : State) (c : Cmd) : Bool :=
  c.phase = .waiting && s.ringAllows c && (c.launchTick = 0 || c.launched || decide (c.launchTick ≤ s.cad)) &&
  !s.heldQueue c.queue &&
  (match s.slotOfQueue c.queue with
   | some j => s.slotState j ≠ slotDraining && !s.faulted j
   | none => true)

/-- A MOVE that names a channel its partition holds. -/
def State.moveChannel (s : State) (c : Cmd) : Option Nat :=
  if c.opc = 0x60 && c.engine < 48 && s.partOfMov c.engine = some c.part then some c.engine else none

/-- Whether the engine accepts a command: a bulk channel runs one command at a time. -/
def State.engineAccepts (s : State) (c : Cmd) : Bool :=
  match s.moveChannel c with
  | some ch =>
    (s.bulkCh ch).cmd.isNone && s.cmds.all (fun d => d.id = c.id || s.moveChannel d ≠ some ch || !s.startable d || !s.moveBefore d c)
  | none => true

/-- Operation codes that the manual defines. -/
def opcDefined (o : Nat) : Bool :=
  [0x01, 0x50, 0x51, 0x52, 0x53, 0x60, 0x68, 0x69, 0x6A, 0x70, 0x71, 0x72, 0x73, 0x74, 0x75, 0x76, 0x7C, 0x7D].contains o

/-- COMMAND_START: a slot is reserved, and a solver command's parameter block copied (R141, R167, R235). -/
def execCommandStart (id : Nat) (s : State) : Host.Outcome State Fault Refusal :=
  done (match s.cmd? id with
    | none => s
    | some c =>
      if s.startable c && s.slotFreeCq c.queue && s.engineAccepts c then
        let s1 := s.reserveSlot c.queue
        if !opcDefined c.opc then s1.setCmd { c with phase := .ended, status := 0x10 }
        else
          let s2 := s1.setCmd { c with phase := .started, block := s.copyBlock c }
          match s.moveChannel c with
          | some ch => s2.setBulk ch { s2.bulkCh ch with cmd := some id }
          | none => s2
      else s)

/-- COMPLETION_COMMIT: a command that its engine has ended takes its commit point (R237, R239). -/
def execCompletionCommit (x : CmdReads) (s : State) : Host.Outcome State Fault Refusal :=
  let id := x.id
  let es := x.ecc
  done (match s.cmd? id with
    | some c => if c.phase = .ended then s.withCtxs es [c.queue, s.cqOf c.queue] (fun s => s.commitCmd c c.status c.aux c.flags 0) else s
    | none => s)

/-! ### Aborts (R239, R242) -/

/-- The oldest uncommitted command of a queue with a tag, other than the abort itself; a fault's status stands against an abort. -/
def State.abortTarget (s : State) (self q tag : Nat) : Option Cmd :=
  s.cmds.find? (fun d => d.queue = q && d.tag = tag && d.id ≠ self && !d.byFault && d.phase ≠ .aborted && d.phase ≠ .abortedNoSlot)

/-- An abort takes a command's commit point at this tick (R239); its engine stops at its next boundary, at once where it stands at one. A solver
command that holds its channels in the checks completes them (R153, R160). -/
def State.takeAbort (s : State) (c : Cmd) : State :=
  let d := { c with at_ := some s.cad }
  match d.phase with
  | .waiting => s.setCmd { d with phase := .abortedNoSlot }
  | .ended => s.setCmd { d with phase := .aborted, stopped := true }
  | .started =>
    let s1 := s.setCmd { d with phase := .aborted, stopped := true }
    if d.isSolver then
      if d.opc ≠ 0x51 && (s.chan d.engine).holder = some d.id && (s.chan d.engine).stage = slvChecks then s.setCmd { d with phase := .aborted }
      else s1.leaveAll d.id
    else
      match s.moveChannel d with
      | some ch => if (s1.bulkCh ch).cmd = some d.id then s1.bulkRelease ch else s1
      | none => s1
  | .running =>
    let s1 := s.setCmd { d with phase := .aborted }
    if d.opc = 0x6A then s1.runStop d
    else if d.opc = 0x60 && ((s1.bulkCh d.unit).run).isNone then s1.bulkBoundary d.unit
    else s1
  | _ => s

/-- Whether an ABORT's fields are legal and its queue lies in its partition. -/
def State.abortOk (s : State) (c : Cmd) : Bool :=
  c.engine = 0 && bitsOf (c.num 24 4) 31 20 = 0 && c.num 30 34 = 0 && bitsOf (c.word 0) 55 54 = 0 && bitsOf (c.word 0) 47 16 = 0 &&
  s.prtQueue c.part (bitsOf (c.num 24 4) 19 0)

/-- ABORT. -/
def execAbort (id : Nat) (s : State) : Host.Outcome State Fault Refusal :=
  done (s.withStarted id (fun c =>
    if c.opc ≠ 0x01 then s
    else if !s.abortOk c then s.setCmd { c with phase := .ended, status := 0x10 }
    else
      match s.abortTarget id (bitsOf (c.num 24 4) 19 0) (c.num 28 2) with
      | some d => ((s.takeAbort d).addF F.QMG_ABORT_WON_CNT_COUNT 1 0 c.part).setCmd { c with phase := .ended, status := 0 }
      | none => (s.addF F.QMG_ABORT_LATE_CNT_COUNT 1 0 c.part).setCmd { c with phase := .ended, status := 0x02 }))

/-- ABORTED_RECORD: the engine has stopped, or a slot is free for a command that never started. -/
def execAbortedRecord (id : Nat) (s : State) : Host.Outcome State Fault Refusal :=
  done (match s.cmd? id with
    | none => s
    | some c =>
      if c.phase = .aborted then
        if c.stopped || (c.opc = 0x6A && (runTargets c).all s.threadHalted) then s.commitCmd c 0x01 0 c.flags 0 else s
      else if c.phase = .abortedNoSlot && s.slotFreeCq c.queue then (s.reserveSlot c.queue).commitWith c 0x01 0 c.flags 0
      else s)

end Sys2Proof.Machine
end

