-- ==== Sys2Proof/Machine/Reset.lean ====
section
/-! DEFINITION. What resets of every scope do to the units they cover (R64, R163, R216, R240, R285, R314, R337, R356, R399, R431). -/

namespace Sys2Proof.Machine

/-- A reset whose scope includes a page discards its held writes (R16), and no ERR bit is left to concern anyone. -/
def State.dropHeld (s : State) (b : Block) (inst : Nat) : State :=
  ({ s with holds := spDel s.holds (blockBase b / 4096 + inst) } : State).errForget b inst

/-- Sets a page's registers to their reset values. -/
def State.pageReset (s : State) (b : Block) (inst : Nat) : State :=
  ({ s with regs := spClear s.regs (regAddr b inst 0) 4096 } : State).dropHeld b inst

/-! ### Clusters (R64) -/

/-- The counters of the CLU page, with the places of its threads. -/
def cluCounters : List Nat := [0x58, 0x60, 0x68, 0x70, 0x78, 0x80, 0x88, 0x90, 0xB0, 0xB8, 0xC0, 0xC8, 0xD0, 0xD8, 0xE0, 0xE8]

/-- A reset of a cluster: everything wiped, claims free, threads OFF; it wipes until CLUSTER_WIPE_DONE. -/
def State.cluReset (s : State) (c : Nat) : State :=
  let s1 := { s with
    spad := spClear s.spad (spadKey c 0) spadSize, spadSum := spClear s.spadSum (spadSumKey c 0) 1024, istore := spClear s.istore (32768 * c) 32768
    threads := spClear s.threads (c * 8) 8, tms := spClear s.tms (c * 4) 4 }
  let s2 := s1.setClu c {}
  ((cluCounters.foldl (fun s o => s.setW .clu o 0 c) s2).setF F.CLU_STAT_FAULTED 0 c).dropHeld .clu c

/-- Stops a cluster's threads, engines and movers without a wipe. -/
def State.cluStop (s : State) (c : Nat) : State :=
  let s1 := thrNums.foldl (fun s t =>
    let x := s.thr c t
    if x.st = ThrState.reserved then s else s.setThr c t { x with st := .off, wait := .none, remote := none, stopPend := false }) s
  let k := s1.clu c
  { s1.setClu c { k with mtxOwner := none, tqOwner := none, waiters := [], mops := [], pushPend := [], epi := .idle } with tms := spClear s1.tms (c * 4) 4 }

/-! ### Queues and channels (R163, R240, R242) -/

/-- Ends commands without records: engines let go of them. -/
def State.endCommands (s : State) (test : Cmd → Bool) : State :=
  let ids := (s.cmds.filter test).map (fun c => c.id)
  let s1 := ids.foldl State.leaveAll s
  let s2 := (List.range 64).foldl (fun s ch =>
    match (s.bulkCh ch).cmd with
    | some id => if ids.contains id then s.bulkRelease ch else s
    | none => s) s1
  { s2 with cmds := s2.cmds.filter (fun c => !test c), batch := s2.batch.filter (fun b => !ids.contains b.id) }

/-- Clears EN and PIN on a range of queues, and drops their cached contexts (R240). -/
def State.queueReset (s : State) (p first n : Nat) : State :=
  let hit := fun q => decide (first ≤ q) && decide (q < first + n)
  let s1 := s.endCommands (fun c => hit c.queue)
  let s2 := (List.range' first n).foldl (fun s q =>
    let x := s.ctx q
    if ctxGet x cEn = 0 && ctxGet x cPin = 0 then s
    else s.hbmWrite (s.ctxAddr p q) ((ctxSet (ctxSet x cEn 0) cPin 0).flatMap (fun w => natLe 8 w.toNat))) s1
  { s2 with qctx := s2.qctx.filter (fun e => !hit e.1), qlru := s2.qlru.filter (fun q => !hit q), qx := s2.qx.filter (fun e => !hit e.1)
            records := s2.records.filter (fun r => !hit r.1) }

/-- A reset of a bulk channel. -/
def State.movReset (s : State) (ch : Nat) : State :=
  ({ s with bulk := spDel s.bulk ch } : State).pageReset .mov ch

/-! ### A job's parts -/

/-- Frees a job's communicators and ends its collectives (R314). -/
def State.chainReset (s : State) (j : Nat) : State :=
  { s with comms := s.comms.filter (fun c => c.slot ≠ j), colls := s.colls.filter (fun k => k.slot ≠ j), early := s.early.filter (fun e => e.1 ≠ j) }

/-- The slot's part of the CAD page (R337). -/
def State.cadReset (s : State) (j : Nat) : State :=
  let s1 := ((List.range 14).map (fun i => 0xC8 + 8 * i)).foldl (fun s o => s.setW .cad o 0 0 j) s
  let s2 := (List.range 16).foldl (fun s e => [0x148, 0x150, 0x158].foldl (fun s o => s.setW .cad o 0 0 (logBank j e)) s) s1
  s2.setF F.CAD_STEP_CNT_COUNT 0 0 j

/-- A job's flows, reply cache and combining entries (R285). -/
def State.flowReset (s : State) (j : Nat) : State :=
  let tag := s.slotTag j
  let mine := fun (k : FlowKey) => k.tag.toNat = tag
  let s1 : State := { s with
    tx := s.tx.filter (fun e => !mine e.1), rx := s.rx.filter (fun e => !mine e.1.2), flowLru := s.flowLru.filter (fun e => !mine e.2.2), replyCache := s.replyCache.filter (fun e => !mine e.key)
    comb := s.comb.filter (fun e => !e.cells.any (fun c => c.jobTag.toNat = tag)), jobEp := spDel s.jobEp j }
  (s1.replyOcc 0).replyOcc 1

/-- A job's rank range, with JOB_RANKS, and windows (R285). -/
def State.tableReset (s : State) (j : Nat) : State :=
  let base := s.getF F.HUB_JOB_RANKS_BASE 0 j
  let s1 := (List.range (s.getF F.HUB_JOB_RANKS_COUNT 0 j)).foldl (fun s i => s.setW .hub 0x70 0 0 (base + i)) s
  (List.range 256).foldl (fun s i => [0x80, 0x88, 0x90].foldl (fun s o => s.setW .hub o 0 0 (winBank j i)) s) (s1.setW .hub F.HUB_JOB_RANKS_BASE.off 0 0 j)

/-- Ends a job's snapshot or restore: no VALID, holds released, the copies wiped (R399). -/
def State.sporeReset (s : State) (j : Nat) : State :=
  let x := s.sp j
  let s1 := x.holds.foldl (fun (s : State) h => s.hbmWrite h.2.2.addr.toNat h.2.2.bytes) s
  let s2 : State := { s1 with spore := spDel s1.spore j, quiesced := s1.quiesced.filter (· ≠ j), warnings := s1.warnings.filter (fun w => w.1 / 8 ≠ j + 1) }
  (s2.setF F.SPO_COPY_POS_DONE 0 0 j).setF F.SPO_COPY_POS_TOTAL 0 0 j

/-- What the broker keeps for a job, as it is where its slot enters ACCEPTING: every budget at JOB_W, no report, no entry read (R411). -/
def State.brokerClear (s : State) : State :=
  { s with gov := { s.gov with budgets := [], reports := [], seen := none, grantEpoch := none } }

/-- The power broker, where it acts for the slot (R419). -/
def State.brokerReset (s : State) (j : Nat) : State :=
  if s.getF F.PWR_BROKER0_EN = 1 && s.getF F.PWR_BROKER0_SLOT = j then
    ((s.setF F.PWR_BROKER0_EN 0).setF F.PWR_BUDGET_W (s.getF F.PWR_LIMIT_CAP_W)).brokerClear
  else s

def State.jobClusters (s : State) (j : Nat) : List Nat := (List.range 256).filter (fun c => s.jobGroup j (c / 8))
def State.jobUnitList (s : State) (j : Nat) : List Nat := (List.range 368).filter (fun u => s.jobUnit j u)

/-- Lichen streams of clusters of a job end without completion words, and those of others that waited begin; reservations and narrow lanes on its
lines go (R206, R216). -/
def State.lichenReset (s : State) (j : Nat) : State :=
  (List.range 16).foldl (fun s st =>
    let l := s.lichen st
    let x := { l with
      run := l.run.filter (fun r => !s.jobGroup j (r.cluster / 8)), wait := l.wait.filter (fun r => !s.jobGroup j (r.cluster / 8))
      window := l.window.filter (fun w => !s.jobUnit j (unitOf (32 * w.1))) }
    if x = l then s else State.pumpStreams st [] x.wait.length (s.setStreams st x))
    { s with resv := s.resv.filter (fun r => !s.jobUnit j (unitOf (r.line * 64))) }

/-- The stop that begins a reset of job scope (R373): every engine of the job stops, and its commands end without records. Channels bound
to its clusters are reset. -/
def State.jobStop (s : State) (j : Nat) : State :=
  let s0 := s.lichenReset j
  let s1 := s0.endCommands (fun c => s.jobQueue j c.queue)
  let s2 := (List.range 64).foldl (fun s ch => if (s.boundClusters ch).any (fun c => s.jobGroup j (c / 8)) then s.slvReset ch else s) s1
  let s3 := (s2.jobClusters j).foldl State.cluStop s2
  let s4 := (s3.chainReset j).sporeReset j
  let s5 := if s4.fioOn && s4.fioSlot = j then s4.fioStop else s4
  s5.brokerReset j

/-- The wipe of Table 14-5. -/
def State.jobWipe (s : State) (j : Nat) : State :=
  let s1 := (s.jobClusters j).foldl State.cluReset s
  let s2 := match s.slotPart j with
    | some p =>
      let first := s.getF F.GLB_JOB_QUEUES_FIRST 0 j
      let last := Nat.min (first + s.getF F.GLB_JOB_QUEUES_COUNT 0 j) (s.getF F.PRT_QUEUES_FIRST p + s.getF F.PRT_QUEUES_COUNT p)
      s1.queueReset p first (last - first)
    | none => s1
  let s3 := (s2.jobUnitList j).foldl (fun s u => s.hbmWipe (gib * u) gib) s2
  (((s3.flowReset j).tableReset j).chainReset j).cadReset j

end Sys2Proof.Machine
end

