-- ==== Sys2Proof/Machine/Jobs.lean ====
section
/-! DEFINITION. Job slots, the Frond broadcast, launch, digest checks and teardown (R360 to R374). -/

namespace Sys2Proof.Machine

/-! ### Starting origins (R360) -/

/-- Number of an origin as a starting origin: 0 is fabric management, p + 1 the owner of partition p; others start no job. -/
def State.startCode (s : State) (o : Origin) : Option Nat :=
  match o with
  | .fabric => some 0
  | _ => (s.originPart o).map (· + 1)

/-- Whether an origin may write a slot's registers: any starting origin while the slot is FREE, else the one that took it. -/
def State.slotWriter (s : State) (o : Origin) (j : Nat) : Bool :=
  match s.startCode o with
  | none => false
  | some n => s.slotState j = slotFree || (s.jobX j).origin = n

/-- Another slot of a partition in a state that satisfies a test. -/
def State.otherSlot (s : State) (j p : Nat) (test : Nat → Bool) : Bool :=
  slotNums.any (fun i => i ≠ j && s.slotPart i = some p && test (s.slotState i))

def isRunState (st : Nat) : Bool := st = slotLoading || st = slotAccepting
def isLeaveState (st : Nat) : Bool := st = slotDraining || st = slotWiping

/-- Whether a tag may be a slot's: not 0xFFFF, and no other slot's that is not FREE (R361). -/
def State.tagOk (s : State) (j tag : Nat) : Bool :=
  tag ≠ 0xFFFF && !slotNums.any (fun i => i ≠ j && s.slotState i ≠ slotFree && s.slotTag i = tag)

/-! ### Acceptance (R362) -/

def State.frondBase (s : State) (j : Nat) : Nat := 4096 * s.getF F.GLB_FROND_BASE_ADDR 0 j
def State.frondSegs (s : State) (j : Nat) : Nat := s.getF F.GLB_FROND_SEGS_S 0 j
abbrev segBytes : Nat := 0x400000

/-- Whether bytes of HBM lie in a job's units. -/
def State.inJobUnits (s : State) (j a n : Nat) : Bool :=
  decide (a + n ≤ hbmEnd) && (n = 0 || (List.range' (unitOf a) (unitOf (a + n - 1) + 1 - unitOf a)).all (fun u => s.jobUnit j u))

/-- Whether a window lies within the job's partition, by its KIND. -/
def State.windowOk (s : State) (j : Nat) (w : Window) : Bool :=
  match w.kind with
  | 0 => s.inJobUnits j w.base w.size
  | 1 =>
    let first := bitsOf w.base 29 22
    let last := first + (bitsOf w.base 21 0 + w.size - 1) / spadSize
    decide (last ≤ 255) && (List.range' first (last + 1 - first)).all (fun c => s.jobGroup j (c / 8))
  | 2 => (List.range (w.size / 8)).all (fun i => s.jobQueue j (w.base + i))
  | _ => false

/-- Whether a slot names no cluster, unit or queue of a slot whose wipe has failed: those are given to no job (R374). -/
def State.lostApart (s : State) (j : Nat) : Bool :=
  let q := fun i => (s.getF F.GLB_JOB_QUEUES_FIRST 0 i, s.getF F.GLB_JOB_QUEUES_COUNT 0 i)
  slotNums.all (fun i => i = j || !(s.jobX i).wipeFailed ||
    (s.getF F.GLB_SLOT_CFG_CLU_GROUPS 0 i &&& s.getF F.GLB_SLOT_CFG_CLU_GROUPS 0 j = 0 &&
     (List.range 6).all (fun k => s.regW .glb (0x58 + 8 * k) 0 i &&& s.regW .glb (0x58 + 8 * k) 0 j = 0) &&
     decide ((q i).1 + (q i).2 ≤ (q j).1 ∨ (q j).1 + (q j).2 ≤ (q i).1 ∨ (q i).2 = 0 ∨ (q j).2 = 0)))

/-- The conditions of R362 on a slot in LOADING, and that of R374. -/
def State.acceptOk (s : State) (j : Nat) : Bool :=
  let n := s.getF F.HUB_JOB_RANKS_COUNT 0 j
  let w := s.window j 255
  1 ≤ n && s.myRank j < n && s.rankEp j (s.myRank j) = some s.myEp &&
  s.getF F.GLB_SLOT_CFG_CLU_GROUPS 0 j ≠ 0 && (List.range 6).any (fun i => s.regW .glb (0x58 + 8 * i) 0 j ≠ 0) &&
  w.valid && w.kind = 0 && testBit w.perm 3 && w.base = s.frondBase j && decide (4096 + segBytes * s.frondSegs j ≤ w.size) &&
  decide (s.getF F.GLB_FROND_TICK_TICK 0 j < s.getF F.GLB_LAUNCH_TICK_TICK 0 j) &&
  decide (s.comms.length + 2 ≤ 4096) && s.getF F.GLB_SLOT_CFG_NAMED 0 j = 1 && s.myEp ≠ epNone && s.lostApart j &&
  (List.range 256).all (fun i => !(s.window j i).valid || s.windowOk j (s.window j i))

/-- Entry into ACCEPTING: communicators 0 and 4095, stage FRONDING, the broker's budget, and a restore that is to come (R362, R411, R394). -/
def State.jobEnter (s : State) (j : Nat) : State :=
  let ranks := List.range (s.getF F.HUB_JOB_RANKS_COUNT 0 j)
  let s1 := (s.setF F.HUB_JOB_CTL_STATE slotAccepting 0 j).setJobX j { s.jobX j with pend := false }
  let s2 : State := { s1 with comms := s1.comms ++ [({ slot := j, num := 0, ranks := ranks } : Comm), ({ slot := j, num := 4095, ranks := ranks } : Comm)] }
  let s3 := s2.setStage j stageFronding
  let s4 := if s3.getF F.PWR_BROKER0_EN = 1 && s3.getF F.PWR_BROKER0_SLOT = j then (s3.setF F.PWR_BUDGET_W (s3.getF F.PWR_BROKER0_JOB_W)).brokerClear else s3
  let s5 := if s4.getF F.SPO_SLOT_CTRL_RESTORE 0 j = 1 then s4.setSp j { s4.sp j with restoring := true } else s4
  if s5.getF F.GLB_FROND_TICK_TICK 0 j < s5.cad then s5.setErr F.GLB_ERR_LATE_ACCEPT 0 (s5.slotPart j) else s5

/-- A write of ACCEPTING that meets R362 is applied, or held pending beside a teardown of the same partition. -/
def State.jobAcceptNow (s : State) (j : Nat) : State :=
  if !s.acceptOk j then s
  else
    match s.slotPart j with
    | none => s
    | some p => if s.otherSlot j p isLeaveState then s.setJobX j { s.jobX j with pend := true } else s.jobEnter j

/-! ### Transitions of a slot (R361, R373) -/

/-- LOADING: the slot is taken by its starting origin. -/
def State.jobTake (s : State) (o : Origin) (j : Nat) : State :=
  match s.startCode o with
  | none => s
  | some 0 => ((s.setF F.HUB_JOB_CTL_STATE slotLoading 0 j).setJobX j { origin := 0 }).setStage j stageLoading
  | some (p + 1) =>
    if s.otherSlot j p isRunState then s
    else
      let s1 := ((s.setF F.HUB_JOB_CTL_STATE slotLoading 0 j).setJobX j { origin := p + 1 }).setStage j stageLoading
      (s1.setF F.GLB_SLOT_CFG_PARTITION p 0 j).setF F.GLB_SLOT_CFG_NAMED 1 0 j

/-- WIPING: everything of Table 14-5 is wiped. -/
def State.jobBeginWipe (s : State) (j : Nat) : State :=
  let s1 := (s.setF F.HUB_JOB_CTL_STATE slotWiping 0 j).setStage j stageWiping
  (s1.setJobX j { s1.jobX j with pend := false, wipeAt := s1.cad, wipeFailed := false }).jobWipe j

/-- DRAINING: a reset of job scope begins. -/
def State.jobBeginDrain (s : State) (j : Nat) : State :=
  let s1 := (s.jobStop j).setF F.HUB_JOB_CTL_STATE slotDraining 0 j
  ((s1.setStage j stageDraining).setJobX j { s1.jobX j with drainAt := s1.now }).timeSettle

/-- Whether a PLDM flash write is in progress, and a reset that waits for its end (R449). -/
def State.applying (s : State) : Bool :=
  match s.mgmt.upd with
  | some u => u.applying
  | none => false
def State.holdReset (s : State) (scope i : Nat) : State := { s with mgmt := { s.mgmt with heldResets := s.mgmt.heldResets ++ [(scope, i)] } }

/-- A reset of job scope (R373). -/
def State.jobReset (s : State) (j : Nat) : State :=
  if s.slotState j ≠ slotAccepting then s else if s.applying then s.holdReset 2 j else s.jobBeginDrain j

/-- A write of JOB_CTL: TAG and MY_RANK first, then STATE on the values that result. -/
def State.jobCtlWrite (s : State) (o : Origin) (j v : Nat) : State :=
  let st := s.slotState j
  let tag := bitsOf v 47 32
  let s1 := if (st = slotFree || st = slotLoading) && s.tagOk j tag then s.setF F.HUB_JOB_CTL_TAG tag 0 j else s
  let s2 := if st = slotLoading then s1.setF F.HUB_JOB_CTL_MY_RANK (bitsOf v 16 0) 0 j else s1
  let want := bitsOf v 63 60
  if st = slotFree && want = slotLoading then (if s2.tagOk j (s2.slotTag j) then s2.jobTake o j else s2)
  else if st = slotLoading && want = slotAccepting then s2.jobAcceptNow j
  else if st = slotLoading && want = slotWiping then (s2.jobStop j).jobBeginWipe j
  else if st = slotAccepting && want = slotDraining then s2.jobReset j
  else s2

/-- Fabric management names a slot's partition (R360); none where the write is clamped. -/
def State.nameable (s : State) (j p : Nat) : Bool :=
  s.slotState j = slotLoading && s.getF F.GLB_SLOT_CFG_NAMED 0 j = 0 && s.partEn p && !s.otherSlot j p isRunState

/-- DRAIN_END (R373): every flow of the job is acknowledged, or 5 ms have passed. -/
def execDrainEnd (slot : BitVec 3) (s : State) : Host.Outcome State Fault Refusal :=
  let j := slot.toNat
  let busy := s.tx.any (fun e => e.1.tag.toNat = s.slotTag j && !(e.2.cells.isEmpty && e.2.queue.isEmpty))
  done (if s.slotState j = slotDraining && (!busy || decide (5 * msec + (s.jobX j).drainAt ≤ s.now)) then s.jobBeginWipe j else s)

/-- Payload of a MGMT cell (Table 18-7). -/
def mgmtPayload (kind result tag ep req off value applied : Nat) : List Byte :=
  pad64 (natLe 1 kind ++ natLe 1 result ++ natLe 2 tag ++ natLe 4 ep ++ natLe 4 req ++ natLe 4 off ++ natLe 8 value ++ natLe 8 applied)

/-- Sends a MGMT cell on TC6. -/
def State.sendMgmt (s : State) (dst : Nat) (payload : List Byte) : State :=
  s.sendPlain { emptyCell with type := 0xC, tc := 6, dstEp := BitVec.ofNat 20 dst, srcEp := BitVec.ofNat 20 s.myEp, len := 32, payload := payload }

/-- The teardown report (R373). -/
def State.teardownReport (s : State) (j tag result : Nat) : State :=
  let ep := s.getF F.GLB_REPORT_EP_EP 0 j
  if ep = epNone then s else s.sendMgmt ep (mgmtPayload 1 result tag s.myEp 0 0 (s.getF F.GLB_WIPE_TICKS_COUNT 0 j) 0)

/-- WIPE_COMPLETE: the slot becomes FREE and a pending ACCEPTING of its partition is applied, or the wipe has failed (R373, R374). -/
def execWipeComplete (slot : BitVec 3) (ok : Bool) (s : State) : Host.Outcome State Fault Refusal :=
  let j := slot.toNat
  let x := s.jobX j
  let others := slotNums.filter (fun i => i ≠ j && (s.jobX i).pend && s.slotPart i = s.slotPart j)
  done (if s.slotState j ≠ slotWiping || x.wipeFailed || (ok && (s.jobClusters j).any (fun c => (s.clu c).wiping)) then s
    else if ok then
      let s1 := s.setF F.GLB_WIPE_TICKS_COUNT (s.cad - x.wipeAt) 0 j
      let tag := s1.slotTag j
      let s2 := ((s1.setF F.HUB_JOB_CTL_STATE slotFree 0 j).setF F.GLB_SLOT_CFG_NAMED 0 0 j).setStage j stageIdle
      let s3 := (s2.setJobX j {}).teardownReport j tag 0
      others.foldl (fun s i => s.jobEnter i) s3
    else
      let s1 := (s.setErr F.GLB_ERR_WIPE_FAIL 0 (s.slotPart j)).setJobX j { x with wipeFailed := true }
      others.foldl (fun s i => s.setJobX i { s.jobX i with pend := false }) (s1.teardownReport j (s1.slotTag j) 1))

/-! ### Frond (R363 to R367) -/

/-- Bytes of a segment that are fetched (R363). -/
def State.segLen (s : State) (j n : Nat) : Nat := if n = 0 then 64 + 48 * (s.frondSegs j - 1) else segBytes

/-- Whether a fronding job is on the slot. -/
def State.fronding (s : State) (j : Nat) : Bool := s.slotState j = slotAccepting && s.stage j = stageFronding && (s.jobX j).started

def State.held (s : State) (j : Nat) : Nat := s.getF F.GLB_FROND_STAT_HELD 0 j

/-- The rank that a segment is fetched from; a second fetch goes to the alternate where there is one. -/
def State.frondSource (s : State) (j : Nat) (again : Bool) : Nat :=
  if s.getF F.GLB_FROND_STAT_ON_ALT 0 j = 1 || (again && s.getF F.GLB_FROND_TREE_ALT_VALID 0 j = 1) then s.getF F.GLB_FROND_TREE_ALT 0 j
  else s.parent j

/-- One read through window 255 on TC4. -/
def State.frondRead (s : State) (j rank off len : Nat) (seg : Option (Nat × Nat)) : State :=
  let w := s.window j 255
  s.sendAccess j 0 4 255 w (2 ^ 40 * rank + (w.offBase + off) % 2 ^ 40) len .load (.frond j seg) (none, none, none)

/-- Fetches a segment, line by line. -/
def State.frondFetch (s : State) (j n : Nat) (again : Bool) : State :=
  let len := s.segLen j n
  let x := s.jobX j
  let s1 := s.setJobX j { x with fetch := x.fetch.filter (fun f => f.seg ≠ n) ++ [({ seg := n, len := len } : FrondFetch)] }
  (List.range ((len + 63) / 64)).foldl (fun s l => s.frondRead j (s.frondSource j again) (segBytes * n + 64 * l) 64 (some (n, l))) s1

/-- Fetches what the source holds, with four segments in flight. -/
def State.frondPump (s : State) (j : Nat) : Nat → State
  | 0 => s
  | n + 1 =>
    let x := s.jobX j
    if !s.fronding j || s.isRoot j || 4 ≤ x.fetch.length || Nat.min x.srcHeld (s.frondSegs j) ≤ x.next then s
    else ((s.setJobX j { x with next := x.next + 1 }).frondFetch j x.next false).frondPump j n

/-- FROND_START. -/
def execFrondStart (slot : BitVec 3) (s : State) : Host.Outcome State Fault Refusal :=
  let j := slot.toNat
  let x := s.jobX j
  done (if s.slotState j = slotAccepting && s.stage j = stageFronding && !x.started && decide (s.getF F.GLB_FROND_TICK_TICK 0 j ≤ s.cad) then
    (((s.setF F.GLB_FROND_STAT_HELD 0 0 j).setF F.GLB_FROND_STAT_ON_ALT 0 0 j).setF F.GLB_FROND_STAT_REFETCH 0 0 j).setJobX j
      { x with started := true, srcHeld := 0, next := 0, fetch := [], lastReply := s.now, polling := false, again := [] }
  else s)

/-- FROND_POLL. -/
def execFrondPoll (slot : BitVec 3) (s : State) : Host.Outcome State Fault Refusal :=
  let j := slot.toNat
  let s1 := s.frondPump j 4
  let x := s1.jobX j
  done (if !s1.fronding j || s1.isRoot j || s1.frondSegs j ≤ x.next || x.next < x.srcHeld then s1
    else
      let s2 := s1.setJobX j { x with polling := true, lastReply := if x.polling || !x.fetch.isEmpty then x.lastReply else s1.now }
      s2.frondRead j (s2.frondSource j false) (segBytes * s2.frondSegs j) 8 none)

/-- Digest of segment `n` in the index. -/
def segDigest (idx : List Byte) (n : Nat) : List Byte := (idx.drop (64 + 48 * (n - 1))).take 48

/-- Whether segment 0 is consistent (Table 14-4, R363). -/
def State.indexOk (s : State) (j : Nat) (idx : List Byte) : Bool :=
  let f := fun (i n : Nat) => leNat ((idx.drop i).take n)
  let sp := f 4 4
  let sw := f 8 4
  f 0 4 = 0x46524E44 && 1 ≤ sp && 1 + sp + sw = s.frondSegs j && decide (f 16 8 ≤ segBytes * sp) && decide (f 24 8 ≤ segBytes * sw) &&
  f 12 4 = 0 && ((idx.drop 32).take 32).all (· = 0) &&
  sha384 ((idx.drop 64).take (48 * sp)) = s.progDigest j && sha384 ((idx.drop (64 + 48 * sp)).take (48 * sw)) = s.wtsDigest j

/-- A segment fails for the last time, or segment 0 is inconsistent. -/
def State.frondBad (s : State) (j : Nat) : State := (s.setErr F.GLB_ERR_FROND_BAD 0 (s.slotPart j)).jobFault j .digestMismatch

/-- The bytes of a segment to be verified: the root's own HBM, or a fetch whose lines are all in. -/
def State.segData (s : State) (j n : Nat) : Option (List Byte) :=
  if s.isRoot j then some (readBytes s.hbm (s.frondBase j + segBytes * n) (s.segLen j n))
  else
    match (s.jobX j).fetch.find? (fun f => f.seg = n) with
    | some f => if f.lines.length = (f.len + 63) / 64 then some ((f.lines.flatMap (fun l => l.2)).take f.len) else none
    | none => none

/-- The verdict on the bytes of segment `n`, the lowest not verified: HELD advances, or the segment is fetched once more, or the job faults. -/
def State.judgeSegment (s : State) (j n : Nat) (bs : List Byte) : State :=
  let x := s.jobX j
  let base := s.frondBase j
  let idx := readBytes s.hbm base (s.segLen j 0)
  let good := if n = 0 then s.indexOk j bs else sha384 bs = segDigest idx n
  if good then
    let s1 := s.setJobX j { x with fetch := x.fetch.filter (fun f => f.seg ≠ n) }
    let s2 := if s.isRoot j then s1 else s1.hbmSealWrite (base + segBytes * n) bs
    let s3 := (s2.setF F.GLB_FROND_STAT_HELD (n + 1) 0 j).hbmSealWrite (base + segBytes * s.frondSegs j) (natLe 8 (n + 1) ++ List.replicate 4088 0)
    s3.frondPump j 4
  else if n = 0 || x.again.contains n then s.frondBad j
  else
    let s1 := (s.setJobX j { x with again := n :: x.again }).addSat F.GLB_FROND_STAT_REFETCH 1 0 j
    if s.isRoot j then s1 else s1.frondFetch j n true

/-- What a verification of segment `n` reads of HBM: the index, and at the root the segment itself. -/
def State.segReads (s : State) (j n : Nat) : List (Nat × Nat) :=
  (s.frondBase j, s.segLen j 0) :: (if s.isRoot j then [(s.frondBase j + segBytes * n, s.segLen j n)] else [])

/-- FROND_SEGMENT_VERIFIED. An uncorrectable line faults the jobs that hold its unit (R208), and nothing is verified. -/
def execFrondSegmentVerified (x : SlotReads) (s : State) : Host.Outcome State Fault Refusal :=
  let j := x.slot.toNat
  let n := s.held j
  let hs := eccOn x.ecc false (s.segReads j n)
  done (if !s.fronding j || s.frondSegs j ≤ n then s
    else
      match s.segData j n with
      | none => s
      | some bs => if eccBad hs then s.eccHits hs else (s.eccHits hs).judgeSegment j n bs)

/-- FROND_SWITCH: no reply for 5 ms. -/
def execFrondSwitch (slot : BitVec 3) (s : State) : Host.Outcome State Fault Refusal :=
  let j := slot.toNat
  let x := s.jobX j
  done (if s.fronding j && !s.isRoot j && (x.polling || !x.fetch.isEmpty) && decide (5 * msec + x.lastReply ≤ s.now) then s.frondSwitch j else s)

/-! ### Launch and digest checks (R369 to R371) -/

/-- Starts a digest check on communicator 4095. -/
def State.digestCheck (s : State) (j : Nat) : State :=
  let key := s.launchKey j
  let x := s.jobX j
  (s.setJobX j { x with checks := x.checks + 1, checking := true }).startColl
    { slot := j, comm := 4095, seq := 0, cmd := none, opc := opAllreduce, dtype := 3, rop := 2, count := 2, root := 0, dst := 0, digestAddr := 0
      ring := false, input := natLe 8 key ++ natLe 8 (2 ^ 64 - 1 - key), opDigest := opDigestOf opAllreduce 3 2 2 0, arrive := 0, reason := 0 } false false

/-- LAUNCH_BARRIER_START. -/
def execLaunchBarrierStart (slot : BitVec 3) (s : State) : Host.Outcome State Fault Refusal :=
  let j := slot.toNat
  done (if s.fronding j && s.held j = s.frondSegs j && s.inflight < 64 then (s.setStage j stageBarrier).digestCheck j else s)

/-- Loads the instruction store of a cluster with the first 256 KiB of segment 1. -/
def State.loadProgram (s : State) (c : Nat) (ws : List Word) : State :=
  let s1 := s.setClu c { s.clu c with stale := [] }
  { s1 with istore := (ws.foldl (fun (a : Nat × Sparse Word) w => (a.1 + 1, spPut 0 a.2 (32768 * c + a.1) w)) (0, s1.istore)).2 }

/-- The program in every cluster of the job, and its thread t0 started. -/
def State.launchThreads (s : State) (j : Nat) (ws : List Word) : State :=
  let s1 := (s.jobClusters j).foldl (fun s c => (s.loadProgram c ws).thrRunStart c 1) s
  (s1.setSp j { s1.sp j with lastResume := s1.cad }).setStage j stageRunning

/-- THREAD_LAUNCH; a restore fills instead (R394). The clusters' movers verify the tiles of segment 1 that they read: a mismatch, or a line or
checksum word that is uncorrectable, is recorded in CLU.ERR (R109, R112, R208). -/
def execThreadLaunch (x : SlotReads) (s : State) : Host.Outcome State Fault Refusal :=
  let j := x.slot.toNat
  let a := segBytes + s.frondBase j
  let hs := eccOn x.ecc true [(a, 256 * kib)]
  let fail := fun (s : State) (k : JobFault) => (s.jobClusters j).foldl (fun s c => s.clusterFault c k) (s.jobFault j k)
  done (if s.slotState j ≠ slotAccepting || s.stage j ≠ stageBarrier || !(s.jobX j).passed || (s.sp j).restoring || decide (s.cad < s.getF F.GLB_LAUNCH_TICK_TICK 0 j) then s
    else if eccBad hs then fail (s.eccHits hs) .eccUe
    else if !s.hbmVerify a (256 * kib) then fail (s.eccHits hs) .tileCheck
    else (s.eccHits hs).launchThreads j (readWords s.hbm a 32768))

/-- DIGEST_SWEEP: check n at its tick, or as soon as it can start (R371). -/
def execDigestSweep (slot : BitVec 3) (s : State) : Host.Outcome State Fault Refusal :=
  let j := slot.toNat
  let due := s.getF F.GLB_LAUNCH_TICK_TICK 0 j + (s.jobX j).checks * (1000000 * s.getF F.GLB_SWEEP_MS 0 j)
  done (if s.slotState j = slotAccepting && s.stage j = stageRunning && !s.quiesced.contains j && s.inflight < 64 && decide (due ≤ s.cad) then s.digestCheck j else s)

end Sys2Proof.Machine
end

