-- ==== Sys2Proof/Machine/Power.lean ====
section
/-! DEFINITION. Power and heat (R402 to R419). -/

namespace Sys2Proof.Machine

def State.setGov (s : State) (g : GovState) : State := { s with gov := g }

/-! ### What is in force -/

/-- Class of a cluster group: its partition's, or best effort where it has none. -/
def State.groupClass (s : State) (g : Nat) : Nat :=
  match s.findPart (fun p => s.prtGroup p g) with
  | some p => Nat.min 2 (s.getF F.PRT_CLASS_CLASS p)
  | none => 2

/-- Thermal state of a die, by the die index of R421. -/
def State.dieState (s : State) (d : Nat) : Nat := bitsOf (s.getF F.THM_STAT_STATE) (3 * d + 2) (3 * d)

/-- Issue level of a group: the floor while its die is at LIMIT or a transient throttle stands. -/
def State.groupLevel (s : State) (g : Nat) : Nat :=
  if s.gov.peak || s.dieState (1 + g / 8) = 2 then 1 else (s.gov.levels[s.groupClass g]?).getD 1

/-- Brings ISSUE0 and ISSUE1 to the levels in force. -/
def State.applyIssue (s : State) : State :=
  let w := fun (k : Nat) => (List.range 16).foldl (fun a j => a + s.groupLevel (16 * k + j) * 2 ^ (4 * j)) 0
  (s.setF F.PWR_ISSUE0_LEVEL (w 0)).setF F.PWR_ISSUE1_LEVEL (w 1)

/-- The operating point of Kamgina die `k` that the governor and heat ask for. -/
def State.wantedOp (s : State) (k : Nat) : Nat := Nat.max s.gov.op (spGet 0 s.gov.dieOp (1 + k))

/-- OPERATING_POINT_CHANGE: the points asked for take effect (R406). -/
def execOperatingPointChange (s : State) : Host.Outcome State Fault Refusal :=
  done (if s.powered && s.diesReady then
    s.setF F.PWR_STAT_OP ((List.range 4).foldl (fun a k => a + s.wantedOp k * 2 ^ (3 * k)) 0)
  else s)

/-! ### The input (R402) -/

/-- A regulator warning (R418). -/
def State.regWarn (s : State) : State := (s.setErr F.PWR_ERR_REG_WARN).sporeWarn 3

/-- INPUT_VOLTAGE_WARNING: a sample of the input. -/
def execInputVoltageWarning (mv : BitVec 16) (s : State) : Host.Outcome State Fault Refusal :=
  let out := decide (mv.toNat < 42000) || decide (58000 < mv.toNat)
  let s1 := (s.setF F.PWR_VIN_MV mv.toNat).setGov { s.gov with vinOut := out }
  done (if !s.powered then s
    else if out then
      let s2 := s1.setErr F.PWR_ERR_VIN_WARN
      if s.gov.vinOut then s2 else s2.regWarn
    else s1)

/-! ### The governor (R404 to R409) -/

/-- Whether a class has a group with a thread that is not OFF. -/
def State.classActive (s : State) (cls : Nat) : Bool :=
  (List.range 256).any (fun c => s.groupClass (c / 8) = cls && thrNums.any (fun t => (s.thr c t).st ≠ ThrState.off))

/-- A setting of the levers: operating point, and levels of the deadline, reserved and best-effort classes. -/
structure Setting where
  op : Nat
  dl : Nat
  res : Nat
  be : Nat
  deriving DecidableEq, Repr

def fullSetting : Setting := ⟨0, 8, 8, 8⟩

/-- One step of lever kinds 0 best effort, 1 reserved, 2 operating point, 3 deadline. -/
def Setting.step (x : Setting) : Nat → Setting
  | 0 => { x with be := Nat.max 1 (x.be - 1) }
  | 1 => { x with res := Nat.max 1 (x.res - 1) }
  | 2 => { x with op := Nat.min 7 (x.op + 1) }
  | _ => { x with dl := Nat.max 1 (x.dl - 1) }

/-- The levers' steps in the order of R407. -/
def State.leverSteps (s : State) : List Nat :=
  let l1 := s.classActive 0 || s.classActive 1
  let l2 := s.classActive 0
  let seven := fun (k : Nat) => List.replicate 7 k
  (if l1 then seven 0 else []) ++ (if l2 then seven 1 else []) ++ seven 2 ++
  (if l1 then [] else seven 0) ++ (if l2 then [] else seven 1) ++ seven 3

/-- Settings from full down to the floor. -/
def State.settings (s : State) : List Setting :=
  (s.leverSteps.foldl (fun (a : List Setting) k => (match a with | x :: _ => x.step k | [] => fullSetting) :: a) [fullSetting]).reverse

/-- Power a setting is expected to draw in the next period, in milliwatts. -/
def State.predict (s : State) (x : PowerSample) (t : Setting) : Nat :=
  let lv := fun (g : Nat) => match s.groupClass g with | 0 => t.dl | 1 => t.res | _ => t.be
  let sum := (List.range 32).foldl (fun a g => a + (lv g - 1)) 0
  1000 * ((x.base[t.op]?).getD 0).toNat + ((x.perLevel[t.op]?).getD 0).toNat * sum

/-- The governor's target in watts (R411). -/
def State.powerTarget (s : State) : Nat := Nat.min (s.getF F.PWR_LIMIT_CAP_W) (s.getF F.PWR_BUDGET_W)

/-- Measurements of a control period (R403, R404). -/
def State.measurePower (s : State) (x : PowerSample) : State :=
  let g := s.gov
  let hist := (x.watts.toNat :: g.samples).take (1000 * s.getF F.PWR_LIMIT_WINDOW_S)
  let s1 := (s.setGov { g with samples := hist }).setF F.PWR_POWER_NOW_W x.watts.toNat
  let s2 := (s1.setF F.PWR_POWER_AVG_W (hist.foldl (· + ·) 0 / hist.length)).setF F.PWR_VIN_MV x.mv.toNat
  (s2.addF F.PWR_ENERGY_MJ x.milliJ.toNat).setF F.PWR_POWER_PEAK_W (Nat.max (s2.getF F.PWR_POWER_PEAK_W) x.watts.toNat)

/-- GOVERNOR_TICK: the least throttled setting whose expected power meets the target. -/
def execGovernorTick (x : PowerSample) (s : State) : Host.Outcome State Fault Refusal :=
  done (if !s.powered then s
    else
      let s1 := s.measurePower x
      if !s1.diesReady then s1
      else
        let all := s1.settings
        let fit := all.find? (fun t => decide (s1.predict x t ≤ 1000 * s1.powerTarget))
        let t := fit.getD ⟨7, 1, 1, 1⟩
        let held := t ≠ fullSetting
        let hot := (List.range 4).any (fun k => decide (0 < spGet 0 s1.gov.dieOp (1 + k)) || s1.dieState (1 + k) = 2)
        let s2 := (s1.setGov { s1.gov with op := t.op, levels := [t.dl, t.res, t.be], peak := false, held := held || hot, limited := s1.gov.limited || held }).applyIssue
        let s3 := (s2.setF F.PWR_STAT_LIMITING (if held then 1 else 0)).setF F.PWR_STAT_CAP_UNATTAINABLE (if fit.isNone then 1 else 0)
        let s4 := if fit.isNone then s3.setErr F.PWR_ERR_CAP_UNATTAINABLE else s3
        if held || hot then { s4 with capAt := some s4.now } else s4)

/-- A write of CAP_W or WINDOW_S restarts the window (R404). -/
def State.capWritten (s : State) : State := s.setGov { s.gov with samples := [] }

/-- PEAK_HIT: a 1 µs sample (R405). -/
def execPeakHit (w : BitVec 16) (s : State) : Host.Outcome State Fault Refusal :=
  done (if !s.powered then s
    else
      let s1 := s.setF F.PWR_POWER_PEAK_W (Nat.max (s.getF F.PWR_POWER_PEAK_W) w.toNat)
      if w.toNat ≤ 4200 then s1 else ((s1.setErr F.PWR_ERR_PEAK_HIT).setGov { s1.gov with peak := true }).applyIssue)

/-! ### The broker (R411 to R414) -/

def State.brokerOn (s : State) : Bool := s.getF F.PWR_BROKER0_EN = 1 && s.slotState (s.getF F.PWR_BROKER0_SLOT) = slotAccepting
def State.brokerSlot (s : State) : Nat := s.getF F.PWR_BROKER0_SLOT

/-- Ranks of the broker's communicator, member 0 first. -/
def State.brokerRanks (s : State) : List Nat :=
  match s.comm? s.brokerSlot (s.getF F.PWR_BROKER1_COMM) with
  | some c => c.ranks
  | none => []

def powerPayload (kind flags epoch measured budget cap : Nat) : List Byte :=
  pad64 (natLe 1 kind ++ natLe 1 flags ++ natLe 2 0 ++ natLe 4 epoch ++ natLe 4 measured ++ natLe 4 budget ++ natLe 4 cap)

/-- A POWER cell to a rank on TC7 (R413). -/
def State.sendPower (s : State) (rank : Nat) (payload : List Byte) : State :=
  let j := s.brokerSlot
  s.sendPlain { emptyCell with
    type := 0xD, tc := 7, jobTag := BitVec.ofNat 16 (s.slotTag j), dstEp := BitVec.ofNat 20 ((s.rankEp j rank).getD epNone)
    srcEp := BitVec.ofNat 20 s.myEp, srcRank := BitVec.ofNat 17 (s.myRank j), len := 20, payload := payload }

/-- The package's own REPORT. -/
def State.ownReport (s : State) : GovReport :=
  let last := s.gov.samples.take 10
  { rank := s.myRank s.brokerSlot, measured := if last.isEmpty then 0 else last.foldl (· + ·) 0 / last.length, cap := s.getF F.PWR_LIMIT_CAP_W
    flags := (if s.gov.limited then 1 else 0) + (if s.getF F.PWR_STAT_CAP_UNATTAINABLE = 1 then 2 else 0) +
             (if (List.range 7).any (fun d => s.dieState d ≠ 0) then 4 else 0) }

/-- Reason POWER_CAP of Table 11-6. -/
abbrev reasonPower : Nat := 2

def State.budgetOf (s : State) (b : List (Nat × Nat)) (rank : Nat) : Nat :=
  match b.find? (fun e => e.1 = rank) with
  | some e => e.2
  | none => s.getF F.PWR_BROKER0_JOB_W

def putBudget (b : List (Nat × Nat)) (rank w : Nat) : List (Nat × Nat) := (rank, w) :: b.filter (fun e => e.1 ≠ rank)

/-- One raise, funded from donors in ascending rank (R412). -/
def State.raiseBudget (s : State) (reports : List GovReport) (b : List (Nat × Nat)) (rank : Nat) : List (Nat × Nat) :=
  match reports.find? (fun r => r.rank = rank) with
  | none => b
  | some me =>
    let step := s.getF F.PWR_BROKER0_STEP_W
    let floor := s.getF F.PWR_BROKER0_FLOOR_W
    let want := Nat.min step (me.cap - s.budgetOf b rank)
    let donors := (reports.filter (fun r => !testBit r.flags 0 && r.rank ≠ rank)).foldl (fun (m : Sparse GovReport) r => spIns m r.rank r) []
    let got := donors.foldl (fun (a : Nat × List (Nat × Nat)) d =>
      let w := s.budgetOf a.2 d.1
      let give := Nat.min (want - a.1) (w - Nat.max floor (d.2.measured + step))
      (a.1 + give, putBudget a.2 d.1 (w - give))) (0, b)
    putBudget got.2 rank (s.budgetOf got.2 rank + got.1)

/-- What the root does at a period: raises for late members held by their cap, and a GRANT to every member. -/
def State.brokerRoot (s : State) (ranks : List Nat) (epoch : Nat) (own : GovReport) : State :=
  let g := s.gov
  let slow := match s.comm? s.brokerSlot (s.getF F.PWR_BROKER1_COMM) with
    | some c => c.slow
    | none => []
  let fresh := slow.takeWhile (fun e => some e.1 ≠ g.seen)
  let due := fresh.filter (fun e => e.2.2.2 = reasonPower && decide (s.getF F.PWR_BROKER1_MIN_LATE ≤ e.2.2.1))
  let b := due.foldl (fun b e => s.raiseBudget g.reports b e.2.1) g.budgets
  let me := s.myRank s.brokerSlot
  let s1 := s.setGov { g with budgets := b, reports := [], seen := match slow with | e :: _ => some e.1 | [] => g.seen }
  ranks.foldl (fun s r =>
    let w := s.budgetOf b r
    if r = me then ((s.setF F.PWR_BUDGET_W w).addF F.PWR_GRANT_CNT_COUNT 1).setGov { s.gov with grantEpoch := some epoch }
    else s.sendPower r (powerPayload 2 own.flags epoch own.measured w own.cap)) s1

/-- BROKER_PERIOD: each 10 ms of the counter. -/
def execBrokerPeriod (s : State) : Host.Outcome State Fault Refusal :=
  let n := s.cad / 10000000
  let me := s.myRank s.brokerSlot
  done (if !s.powered || !s.brokerOn || n ≤ s.gov.epoch || s.getF F.MGT_STAT_BOOT ≠ 1 then s
    else
      let r := s.ownReport
      let epoch := n % 2 ^ 32
      let s1 := s.setGov { s.gov with epoch := n, limited := false }
      match s1.brokerRanks with
      | [] => s1
      | root :: rest =>
        if root = me then (s1.setGov { s1.gov with reports := r :: s1.gov.reports.filter (fun x => x.rank ≠ me) }).brokerRoot (root :: rest) epoch r
        else if rest.contains me then s1.sendPower root (powerPayload 1 r.flags epoch r.measured (s1.getF F.PWR_BUDGET_W) r.cap)
        else s1)

/-- A POWER cell that the broker of its job takes. -/
def State.powerCell (s : State) (x : Cell) (kind : Nat) : Bool :=
  x.type = 0xD && x.dstEp.toNat = s.myEp && x.crc = cellE2e x && s.powered && s.brokerOn && s.slotTag s.brokerSlot = x.jobTag.toNat &&
  leNat (x.payload.take 1) = kind

def payloadNum (x : Cell) (i n : Nat) : Nat := leNat ((x.payload.drop i).take n)

/-- POWER_REPORT. -/
def execPowerReport (x : Cell) (s : State) : Host.Outcome State Fault Refusal :=
  let r : GovReport := { rank := x.srcRank.toNat, flags := payloadNum x 1 1, measured := payloadNum x 8 4, cap := payloadNum x 16 4 }
  done (if s.powerCell x 1 && s.brokerRanks.contains r.rank then
    s.setGov { s.gov with reports := r :: s.gov.reports.filter (fun y => y.rank ≠ r.rank) }
  else s)

/-- POWER_GRANT: ignored where its EPOCH is older than the last applied. -/
def execPowerGrant (x : Cell) (s : State) : Host.Outcome State Fault Refusal :=
  let epoch := payloadNum x 4 4
  let old := match s.gov.grantEpoch with
    | some e => seqBelow epoch e
    | none => false
  done (if s.powerCell x 2 && !old then
    ((s.setF F.PWR_BUDGET_W (payloadNum x 12 4)).addF F.PWR_GRANT_CNT_COUNT 1).setGov { s.gov with grantEpoch := some epoch }
  else s)

/-! ### Die temperature (R415 to R417) -/

/-- Every host link down; PERST_N of each is the board's. -/
def State.linksDown (s : State) : Sparse HostLink :=
  (s.hostLinks.map (fun (e : Nat × HostLink) => (e.1, ({ e.2 with up := false } : HostLink)))).filter (fun e => e.2 ≠ {})

/-- Thermal trip: every clock stops, and every die is held in reset. -/
def State.trip (s : State) : State := { s with pow := { s.pow with stage := .trip }, hostLinks := s.linksDown }

/-- State of a die after a sample (Table 16-4). -/
def dieNext (cur t : Nat) : Nat :=
  if 105 ≤ t || (cur = 2 && 102 ≤ t) then 2 else if 100 ≤ t || (1 ≤ cur && 97 ≤ t) then 1 else 0

/-- DIE_THERMAL_SAMPLE: none is a sensor that fails its self-test or gives no reading for 1 ms. -/
def execDieThermalSample (d : BitVec 3) (temp : Option (BitVec 8)) (s : State) : Host.Outcome State Fault Refusal :=
  let n := d.toNat
  done (if !s.powered || 7 ≤ n then s
    else
      let bad := temp.isNone || s.gov.badSensors.contains n
      let t := if bad then 105 else (temp.map BitVec.toNat).getD 0
      let s0 := if temp.isNone then (s.setGov { s.gov with badSensors := n :: s.gov.badSensors.filter (fun k => k ≠ n) }).setErr F.THM_ERR_SENSOR_BAD else s
      let s1 := s0.setF F.THM_DIE_TEMP_TEMP (setBits (s0.getF F.THM_DIE_TEMP_TEMP) (8 * n + 7) (8 * n) t)
      let top := Nat.max t (bitsOf (s0.getF F.THM_DIE_MAX_TEMP) (8 * n + 7) (8 * n))
      let s2 := s1.setF F.THM_DIE_MAX_TEMP (setBits (s1.getF F.THM_DIE_MAX_TEMP) (8 * n + 7) (8 * n) top)
      if 110 ≤ t then s2.trip
      else
        let cur := s.dieState n
        let next := dieNext cur t
        let s3 := s2.setF F.THM_STAT_STATE (setBits (s2.getF F.THM_STAT_STATE) (3 * n + 2) (3 * n) next)
        let s4 := if next = 1 && cur ≠ 1 then s3.setErr F.THM_ERR_HOT else if next = 2 && cur ≠ 2 then s3.setErr F.THM_ERR_LIMIT else s3
        let scaled := decide (n ≤ 4)
        let op := if next = 0 || !scaled then 0 else if next = 1 then Nat.min 7 (Nat.max (spGet 0 s.gov.dieOp n) (if n = 0 then 0 else s.gov.op) + 1)
                  else if n = 0 then 7 else spGet 0 s.gov.dieOp n
        let s5 := (s4.setGov { s4.gov with dieOp := spPut 0 s4.gov.dieOp n op }).applyIssue
        if scaled && n ≠ 0 && next ≠ 0 then { s5 with capAt := some s5.now } else s5)

/-! ### Regulators (R418) -/

/-- Records a regulator's reading. -/
def State.railReading (s : State) (x : RailSample) (flags : Nat) : State :=
  let b := x.rail.toNat
  (((s.setF F.PWR_REG_DATA_MV x.mv.toNat 0 b).setF F.PWR_REG_DATA_DECI_A x.deciA.toNat 0 b).setF F.PWR_REG_DATA_TEMP x.temp.toNat 0 b).setF
    F.PWR_REG_DATA_FLAGS flags 0 b

/-- REGULATOR_WARNING. -/
def execRegulatorWarning (x : RailSample) (s : State) : Host.Outcome State Fault Refusal :=
  let old := s.getF F.PWR_REG_DATA_FLAGS 0 x.rail.toNat
  let hot := decide (115 < x.temp.toNat)
  let warn := x.phaseLost || hot
  let flags := (if x.phaseLost then 1 else 0) + (if hot then 2 else 0) + (if testBit old 2 then 4 else 0) + (if warn then 8 else 0)
  done (if !s.powered || 48 ≤ x.rail.toNat then s
    else
      let s1 := s.railReading x flags
      if warn && !testBit old 3 then s1.regWarn else if warn then s1.setErr F.PWR_ERR_REG_WARN else s1)

/-- RAIL_FAIL. Which die a rail feeds the spec does not say: a free value (log 44). -/
def execRailFail (x : RailSample) (s : State) : Host.Outcome State Fault Refusal :=
  let (w, s0) := s.free
  let die := w.toNat % 7
  done (if !s.powered || 48 ≤ x.rail.toNat then s
    else
      let s1 := s0.railReading x ((s0.getF F.PWR_REG_DATA_FLAGS 0 x.rail.toNat) ||| 4)
      let s2 := s1.setErr F.PWR_ERR_RAIL_FAIL
      let s3 := { s2 with pow := { s2.pow with heldDies := die :: s2.pow.heldDies.filter (fun k => k ≠ die) } }
      (List.range 16).foldl State.fenceStack s3)

end Sys2Proof.Machine
end

