-- ==== Sys2Proof/Machine/Partition.lean ====
section
/-! DEFINITION. Host links, partitions and guarantees (R422 to R436). -/

namespace Sys2Proof.Machine

/-! ### Host links (R422, R426, R476, R478) -/

def State.hostLink (s : State) (l : Nat) : HostLink := spGet {} s.hostLinks l
def State.setHostLink (s : State) (l : Nat) (x : HostLink) : State := { s with hostLinks := spPut {} s.hostLinks l x }

/-- Whether the straps give the package a link (R422, R470). -/
def State.linkExists (s : State) (l : Nat) : Bool := if l = 1 then s.pow.split0 else if l = 3 then s.pow.split1 else true

/-- Whether the management core has left reset: stack 0 is wiped (Table 19-6). -/
def State.coreUp (s : State) : Bool := s.powered && s.getF F.LCH_STAT_READY 0 = 1

/-- The partition that a link owns loses its owner, and keeps its jobs (R426). -/
def State.ownerLost (s : State) (l : Nat) : State :=
  match s.partOfLink l with
  | some p => s.setErr F.PRT_ERR_OWNER_LOST p (some p)
  | none => s

/-- A link goes down. -/
def State.linkFalls (s : State) (l : Nat) : State :=
  if !(s.hostLink l).up then s else (s.setHostLink l { s.hostLink l with up := false }).ownerLost l

/-- HOST_LINK_DOWN. -/
def execHostLinkDown (l : BitVec 2) (s : State) : Host.Outcome State Fault Refusal := done (s.linkFalls l.toNat)

/-- A recovery fetch over a link that is reset ends (R479). -/
def State.fetchLost (s : State) (l : Nat) : State :=
  if s.mgmt.rcv = some l then
    (({ s with mgmt := { s.mgmt with rcv := none } } : State).setF F.MGT_RCV_STAT_BUSY 0).setF F.MGT_RCV_STAT_CAUSE 0x10
  else s

/-- PERST. -/
def execPerst (l : BitVec 2) (asserted : Bool) (s : State) : Host.Outcome State Fault Refusal :=
  let n := l.toNat
  done (if s.powered && !s.linkExists n then s
    else
      let s1 := if !asserted then s else (if (s.hostLink n).up || (s.hostLink n).perst then s.linkFalls n else s.ownerLost n).fetchLost n
      let s2 := s1.setHostLink n { s1.hostLink n with perst := asserted }
      if asserted then { s2 with msix := spClear s2.msix (2048 * (n * 64)) (64 * 2048) } else s2)

/-- HOST_LINK_TRAIN. -/
def execHostLinkTrain (l : BitVec 2) (s : State) : Host.Outcome State Fault Refusal :=
  let n := l.toNat
  done (if s.coreUp && s.linkExists n && !(s.hostLink n).perst then s.setHostLink n { s.hostLink n with up := true } else s)

/-! ### BAR4 (R424) -/

/-- Address, bytes read or written, and ECC outcome of the line read. -/
def bar4Span : Bar4Op → Nat × Nat × Ecc
  | .read a n e => (a.toNat, n.toNat, e)
  | .write a bs => (a.toNat, bs.length, .clean)
  | .fetchAdd a w _ e => (a.toNat, if w then 4 else 8, e)
  | .swap a w _ e => (a.toNat, if w then 4 else 8, e)
  | .cas a w _ _ e => (a.toNat, if w then 4 else 8, e)
  | .cas128 a => (a.toNat, 16, .clean)

def bar4Writes : Bar4Op → Bool
  | .write _ _ => true
  | _ => false

/-- A BAR4 AtomicOp as OP of Table 08-5, with its operands. -/
def bar4Atomic : Bar4Op → Option (Nat × Nat × Nat)
  | .fetchAdd _ _ v _ => some (0x2, v.toNat, 0)
  | .swap _ _ v _ => some (0x6, v.toNat, 0)
  | .cas _ _ c n _ => some (0x7, c.toNat, n.toNat)
  | _ => none

/-- An access to the partition's own units. -/
def State.bar4Own (s : State) (x : Bar4Op) : State :=
  let (a, n, e) := bar4Span x
  let bad := Out.bar4 (some (List.replicate n 0xFF, true))
  if s.fencedAt a then
    let s1 := s.faultUnit (unitOf a) .fenced
    if bar4Writes x then s1 else s1.emit bad
  else
    let miss := (linesIn a n).any (fun l => s.cacheState l = 0)
    if miss && e = .uncorrectable then (s.hbmUe a).emit bad else
    let s1 := if miss then s.eccOff (stackOf a) (stackOffset a) e else s
    match x with
    | .write _ bs => s1.hbmWrite a bs
    | _ =>
      let old := readBytes s1.hbm a n
      let s2 := match bar4Atomic x with
        | some (op, d, d1) =>
          let w := 8 * n
          match lichenOp op 0 w (leNat old) (d % 2 ^ w) (d1 % 2 ^ w) with
          | some v => (s1.addF F.LCH_ATOMIC_CNT_COUNT 1 (stackOf a)).hbmLane .atomic a (natLe n v)
          | none => s1
        | none => s1.memRead .line a n
      s2.emit (.bar4 (some (old, false)))

/-- BAR4_ACCESS. An access to a stack that is not ready waits. -/
def execBar4Access (l : BitVec 2) (x : Bar4Op) (s : State) : Host.Outcome State Fault Refusal :=
  let (a, n, _) := bar4Span x
  let zero := fun (s : State) => if bar4Writes x then s else s.emit (.bar4 (some (List.replicate n 0, false)))
  done (if !(s.hostLink l.toNat).up || s.getF F.MGT_STAT_BOOT ≠ 1 then s
    else match x with
    | .cas128 _ => s.emit (.bar4 none)
    | _ =>
      match s.partOfLink l.toNat with
      | none => zero s
      | some p =>
        if (List.range' (unitOf a) (unitOf (a + n - 1) + 1 - unitOf a)).all (fun u => s.prtUnit p u) then
          if s.lichReady (stackOf a) then s.bar4Own x else s
        else zero (s.addF F.PRT_BAR4_MISS_CNT_COUNT 1 p))

/-! ### Resources (R428, R429) -/

/-- Whether another enabled partition satisfies a test. -/
def State.otherHolds (s : State) (p : Nat) (test : Nat → Bool) : Bool := partNums.any (fun q => q ≠ p && s.partEn q && test q)

/-- Whether a queue range overlaps another enabled partition's. -/
def State.queueClash (s : State) (p first n : Nat) : Bool :=
  s.otherHolds p (fun q =>
    let f := s.getF F.PRT_QUEUES_FIRST q
    let c := s.getF F.PRT_QUEUES_COUNT q
    decide (0 < n) && decide (0 < c) && decide (first < f + c) && decide (f < first + n))

/-- Whether a unit lies in a fenced stack: all units of a domain with one do (R212). -/
def State.unitFenced (s : State) (u : Nat) : Bool := (List.range 4).any (fun i => s.getF F.LCH_STAT_FENCED (4 * (u / 92) + i) = 1)

/-- Whether every resource condition of R429 holds. -/
def State.resIdle (s : State) (p : Nat) : Bool :=
  slotNums.all (fun j => s.slotPart j ≠ some p || s.slotState j = slotFree) &&
  (List.range 256).all (fun c => !s.prtGroup p (c / 8) || s.allOff c thrNums) &&
  (List.range 64).all (fun ch => !testBit (s.getF F.PRT_SLV_SET_CHANNELS p) ch || ((s.chan ch).stage = slvIdle && (s.chan ch).holder.isNone)) &&
  (List.range 48).all (fun ch => !testBit (s.getF F.PRT_MOV_SET_CHANNELS p) ch || ((s.bulkCh ch).cmd.isNone && (s.bulkCh ch).run.isNone))

/-- Bits of a mask that are newly set and may not be given keep their values. -/
def grantBits (n cur v : Nat) (ok : Nat → Bool) : Nat :=
  (List.range n).foldl (fun a b => if testBit v b && (testBit cur b || ok b) then a + 2 ^ b else a) 0

/-- Resets of the resources themselves, as a partition reset makes them. -/
def State.wipeGroups (s : State) (test : Nat → Bool) : State :=
  ((List.range 256).filter (fun c => test (c / 8))).foldl State.cluReset s
/-- The wipe of groups that a partition loses. -/
def State.giveUpGroups (s : State) (test : Nat → Bool) : State :=
  ((List.range 256).filter (fun c => test (c / 8))).foldl (fun s c => s.setClu c { s.clu c with removed := true }) (s.wipeGroups test)
/-- Whether a group was taken from a partition and is not yet clean: it is given to none (R429). -/
def State.groupDirty (s : State) (g : Nat) : Bool := (List.range' (8 * g) 8).any (fun c => (s.clu c).removed)
def State.wipeUnits (s : State) (test : Nat → Bool) : State :=
  ((List.range 368).filter test).foldl (fun s u => s.hbmWipe (gib * u) gib) s
def State.wipeSlv (s : State) (test : Nat → Bool) : State := ((List.range 64).filter test).foldl State.slvReset s
def State.wipeMov (s : State) (test : Nat → Bool) : State := ((List.range 48).filter test).foldl State.movReset s
def State.wipeFio (s : State) : State := s.fioStop.pageReset .fio 0

/-- Every resource that a partition holds is wiped or reset (R431). -/
def State.partWipe (s : State) (p : Nat) : State :=
  let s1 := s.wipeSlv (fun ch => testBit (s.getF F.PRT_SLV_SET_CHANNELS p) ch)
  let s2 := s1.queueReset p (s.getF F.PRT_QUEUES_FIRST p) (s.getF F.PRT_QUEUES_COUNT p)
  let s3 := s2.wipeMov (fun ch => testBit (s.getF F.PRT_MOV_SET_CHANNELS p) ch)
  let s4 := if s.getF F.PRT_GRANTS_FIO p = 1 then s3.wipeFio else s3
  (s4.wipeGroups (fun g => s.prtGroup p g)).wipeUnits (fun u => s.prtUnit p u)

/-- A write of a resource register of page `p` (R428, R429): the register takes the value, and what it no longer names is wiped. -/
def State.prtResource (s : State) (p off : Nat) (v : Nat) : State :=
  let en := s.partEn p
  if en && !s.resIdle p then s
  else
    let free := fun (test : Nat → Bool) => !en || !s.otherHolds p test
    match off with
    | 0x50 =>
      let cur := s.getF F.PRT_CLU_GROUPS_GROUPS p
      let new := grantBits 32 cur v (fun b => !(en && s.groupDirty b) && free (fun q => s.prtGroup q b))
      let s1 := if en then s.giveUpGroups (fun g => testBit cur g && !testBit new g) else s
      s1.setF F.PRT_CLU_GROUPS_GROUPS new p
    | 0x88 =>
      let first := bitsOf v 19 0
      let n := Nat.min (bitsOf v 52 32) (1048576 - first)
      if en && s.queueClash p first n then s
      else
        let f0 := s.getF F.PRT_QUEUES_FIRST p
        let c0 := s.getF F.PRT_QUEUES_COUNT p
        let s1 := if en then
            let low := Nat.min c0 (first - f0)
            let high := Nat.min c0 (f0 + c0 - (first + n))
            if n = 0 then s.queueReset p f0 c0 else (s.queueReset p f0 low).queueReset p (f0 + c0 - high) high
          else s
        (s1.setF F.PRT_QUEUES_FIRST first p).setF F.PRT_QUEUES_COUNT n p
    | 0x90 =>
      let cur := s.getF F.PRT_SLV_SET_CHANNELS p
      let new := grantBits 64 cur v (fun b => free (fun q => testBit (s.getF F.PRT_SLV_SET_CHANNELS q) b))
      let s1 := if en then s.wipeSlv (fun b => testBit cur b && !testBit new b) else s
      s1.setF F.PRT_SLV_SET_CHANNELS new p
    | 0x98 =>
      let cur := s.getF F.PRT_MOV_SET_CHANNELS p
      let new := grantBits 48 cur v (fun b => free (fun q => testBit (s.getF F.PRT_MOV_SET_CHANNELS q) b))
      let s1 := if en then s.wipeMov (fun b => testBit cur b && !testBit new b) else s
      s1.setF F.PRT_MOV_SET_CHANNELS new p
    | 0xA0 =>
      let cur := s.getF F.PRT_GRANTS_FIO p
      let new := grantBits 1 cur v (fun _ => free (fun q => s.getF F.PRT_GRANTS_FIO q = 1))
      let s1 := if en && cur = 1 && new = 0 then s.wipeFio else s
      s1.setF F.PRT_GRANTS_FIO new p
    | _ =>
      let w := (off - 0x58) / 8
      let cur := (s.regW .prt off p).toNat
      let new := grantBits 64 cur v (fun b => decide (64 * w + b < 368) && !s.unitFenced (64 * w + b) && free (fun q => s.prtUnit q (64 * w + b)))
      let s1 := if en then s.wipeUnits (fun u => u / 64 = w && testBit cur (u % 64) && !testBit new (u % 64)) else s
      s1.setW .prt off (BitVec.ofNat 64 new) p

/-! ### Shares (R429) -/

/-- Sum of a share kind over the other enabled partitions. -/
def State.otherShares (s : State) (p : Nat) (f : Fld) : Nat :=
  partNums.foldl (fun a q => if q ≠ p && s.partEn q then a + s.getF f q else a) 0

/-- A write of SHARES: each kind is clamped to what the other partitions leave. -/
def State.prtShares (s : State) (p v : Nat) : State :=
  let put := fun (s : State) (f : Fld) (x : Nat) => s.setF f (if s.partEn p then Nat.min x (256 - s.otherShares p f) else x) p
  put (put (put s F.PRT_SHARES_FAB (bitsOf v 7 0)) F.PRT_SHARES_MEM (bitsOf v 15 8)) F.PRT_SHARES_HOST (bitsOf v 23 16)

/-! ### EN and OWNER (R428, R425) -/

/-- Whether a partition may be enabled. -/
def State.enableOk (s : State) (p : Nat) : Bool :=
  let other := fun test => s.otherHolds p test
  (List.range 32).all (fun g => !(s.prtGroup p g && (s.groupDirty g || other (fun q => s.prtGroup q g)))) &&
  (List.range 368).all (fun u => !(s.prtUnit p u && (s.unitFenced u || other (fun q => s.prtUnit q u)))) &&
  !s.queueClash p (s.getF F.PRT_QUEUES_FIRST p) (s.getF F.PRT_QUEUES_COUNT p) &&
  (List.range 64).all (fun c => !(testBit (s.getF F.PRT_SLV_SET_CHANNELS p) c && other (fun q => testBit (s.getF F.PRT_SLV_SET_CHANNELS q) c))) &&
  (List.range 48).all (fun c => !(testBit (s.getF F.PRT_MOV_SET_CHANNELS p) c && other (fun q => testBit (s.getF F.PRT_MOV_SET_CHANNELS q) c))) &&
  !(s.getF F.PRT_GRANTS_FIO p = 1 && other (fun q => s.getF F.PRT_GRANTS_FIO q = 1)) &&
  [F.PRT_SHARES_FAB, F.PRT_SHARES_MEM, F.PRT_SHARES_HOST].all (fun f => decide (s.otherShares p f + s.getF f p ≤ 256))

/-- A write of EN. -/
def State.prtEnable (s : State) (p : Nat) (en : Bool) : State :=
  if en = s.partEn p then s
  else if en then (if s.enableOk p then s.setF F.PRT_CTRL_EN 1 p else s)
  else if s.resIdle p then ((s.partWipe p).giveUpGroups (fun g => s.prtGroup p g)).setF F.PRT_CTRL_EN 0 p
  else s

/-- A write of OWNER: a link owns at most one partition. -/
def State.prtOwner (s : State) (p v : Nat) : State :=
  let kind := if bitsOf v 6 4 ≤ 2 then bitsOf v 6 4 else s.getF F.PRT_OWNER_KIND p
  let link := bitsOf v 1 0
  if kind = 1 && partNums.any (fun q => q ≠ p && s.getF F.PRT_OWNER_KIND q = 1 && s.getF F.PRT_OWNER_LINK q = link) then s
  else (s.setF F.PRT_OWNER_KIND kind p).setF F.PRT_OWNER_LINK link p

/-! ### CLASS (R430, R166) -/

/-- Batch channels of a partition, and whether they are idle. -/
def State.batchChannels (s : State) (p : Nat) : List Nat := (List.range' 56 8).filter (fun c => testBit (s.getF F.PRT_SLV_SET_CHANNELS p) c)
def State.batchIdle (s : State) (p : Nat) : Bool :=
  (s.batchChannels p).all (fun c => (s.chan c).stage = slvIdle && (s.chan c).holder.isNone && s.batch.all (fun b => !testBit b.mask (c - 56)))

/-- A write of CLASS. -/
def State.prtClass (s : State) (p v : Nat) : State :=
  let cls := Nat.min 2 (bitsOf v 1 0)
  let was := s.getF F.PRT_CLASS_RT_PRIV p = 1
  let idle := s.batchIdle p
  if was && cls ≠ 0 && !idle then s
  else
    let rt := cls = 0 && (bitsOf v 8 8 = 1 || (was && !idle))
    let s1 := if was && !rt then (s.batchChannels p).foldl State.slvReset s else s
    let s2 := ((s1.setF F.PRT_CLASS_CLASS cls p).setF F.PRT_CLASS_RT_PRIV (if rt then 1 else 0) p).setF F.PRT_CLASS_ADMIT (bitsOf v 23 16) p
    s2.setF F.PRT_CLASS_MIN_ISSUE (clampTo 1 8 (bitsOf v 35 32)) p

/-! ### PRESET (R431) -/

/-- A reset of partition scope; one that meets a PLDM flash write waits for its end (R449). -/
def State.partReset (s : State) (p : Nat) : State :=
  if !s.partEn p then s
  else if s.applying then s.holdReset 1 p
  else
    let s1 := slotNums.foldl (fun s j =>
      if s.slotPart j ≠ some p then s
      else if s.slotState j = slotAccepting then s.jobBeginDrain j
      else if s.slotState j = slotLoading then (s.jobStop j).jobBeginWipe j
      else s) s
    (s1.partWipe p).setF F.PRT_STAT_WIPING 1 p

/-- PARTITION_WIPE_DONE. -/
def execPartitionWipeDone (p : BitVec 3) (ok : Bool) (s : State) : Host.Outcome State Fault Refusal :=
  let n := p.toNat
  let busy := slotNums.any (fun j => s.slotPart j = some n && isLeaveState (s.slotState j)) ||
    (List.range 256).any (fun c => s.prtGroup n (c / 8) && (s.clu c).wiping)
  done (if s.getF F.PRT_STAT_WIPING n = 1 && ok && !busy then s.setF F.PRT_STAT_WIPING 0 n else s)

/-! ### Guarantees (R435, R436) -/

def State.part (s : State) (p : Nat) : PartState := spGet {} s.parts p
def State.setPart (s : State) (p : Nat) (x : PartState) : State := { s with parts := spPut {} s.parts p x }

/-- SHARES of a bandwidth resource: 0 fabric, 1 memory, 2 host link. -/
def shareFld : Nat → Fld
  | 0 => F.PRT_SHARES_FAB
  | 1 => F.PRT_SHARES_MEM
  | _ => F.PRT_SHARES_HOST

/-- Divides `r` among claims (partition, size, most it takes) in proportion to size, none above its most. -/
def divideShare (r : Nat) (xs : List (Nat × Nat × Nat)) : Nat → List (Nat × Nat)
  | 0 => xs.map (fun x => (x.1, 0))
  | n + 1 =>
    let tot := xs.foldl (fun a x => a + x.2.1) 0
    if tot = 0 then xs.map (fun x => (x.1, 0))
    else
      let full := fun (x : Nat × Nat × Nat) => decide (x.2.2 * tot ≤ r * x.2.1)
      let met := xs.filter full
      if met.isEmpty then xs.map (fun x => (x.1, r * x.2.1 / tot))
      else met.map (fun x => (x.1, x.2.2)) ++ divideShare (r - met.foldl (fun a x => a + x.2.2) 0) (xs.filter (fun x => !full x)) n

def totalOf (xs : List (Nat × Nat)) : Nat := xs.foldl (fun a x => a + x.2) 0
def amountOf (xs : List (Nat × Nat)) (p : Nat) : Nat := totalOf (xs.filter (fun x => x.1 = p))

/-- What each enabled partition receives at one division. -/
def State.division (s : State) (x : ArbiterDemand) : List (Nat × Nat) :=
  let ps := partNums.filter s.partEn
  let share := fun p => s.getF (shareFld x.resource.toNat) p
  let size := fun p => share p * x.nominal / 256
  let cls := fun p => Nat.min 2 (s.getF F.PRT_CLASS_CLASS p)
  let adm := fun p => share p * s.getF F.PRT_CLASS_ADMIT p * x.nominal / 65536
  let want := fun p => (x.demand[p]?).getD 0
  let dl := ps.filter (fun p => cls p = 0)
  let first := dl.map (fun p => (p, Nat.min (want p) (adm p)))
  let rem := x.capacity - totalOf first
  let claims := (ps.filter (fun p => cls p = 1)).map (fun p => (p, size p, Nat.min (want p) (size p))) ++
    dl.map (fun p => (p, size p - adm p, Nat.min (want p - amountOf first p) (size p - adm p)))
  let second := divideShare rem claims 9
  let third := divideShare (rem - totalOf second) ((ps.filter (fun p => cls p = 2)).map (fun p => (p, Nat.max 1 (share p), want p))) 9
  first ++ second ++ third

/-- ARBITER_DIVIDE. Where the capacity does not reach the admitted minima, what each receives of its own is open (log 45). -/
def execArbiterDivide (x : ArbiterDemand) (s : State) : Host.Outcome State Fault Refusal :=
  let key := x.resource.toNat * 16 + x.index.toNat
  let g := s.division x
  let short := decide (x.capacity < totalOf g)
  done (if !s.powered || 3 ≤ x.resource.toNat then s
    else (partNums.filter s.partEn).foldl (fun s p =>
      let (w, s1) := s.free
      let got := if short then Nat.min (amountOf g p) w.toNat else amountOf g p
      let y := s1.part p
      (if short then s1 else s).setPart p { y with grants := (key, got) :: y.grants.filter (fun e => e.1 ≠ key) }) s)

/-- Whether a partition's guarantee is breached (R436). -/
def State.breached (s : State) (p : Nat) (x : BreachSample) : Bool :=
  s.getF F.PRT_CLASS_CLASS p < 2 &&
  (if x.resource.toNat = 3 then
    (List.range 32).any (fun g => s.prtGroup p g && decide (s.groupLevel g < s.getF F.PRT_CLASS_MIN_ISSUE p))
  else
    decide (x.resource.toNat < 3) && decide (256 * x.received < Nat.min (256 * x.demand) (s.getF (shareFld x.resource.toNat) p * x.capacity)))

/-- BREACH: one millisecond of one resource is judged. -/
def execBreach (p : BitVec 3) (x : BreachSample) (s : State) : Host.Outcome State Fault Refusal :=
  let n := p.toNat
  let key := x.resource.toNat * 16 + x.index.toNat
  let ms := s.now / msec
  let y := s.part n
  let last := (y.lastBreach.find? (fun e => e.1 = key)).map (·.2)
  let goes := match last with
    | some m => decide (ms ≤ m + 1)
    | none => false
  let counted := y.lastBreach.any (fun e => e.2 = ms)
  done (if !s.powered || !s.partEn n || !s.breached n x then s
    else
      let s1 := s.setPart n { y with lastBreach := (key, ms) :: y.lastBreach.filter (fun e => e.1 ≠ key) }
      let s2 := if counted then s1 else s1.addF F.PRT_BREACH_CNT_COUNT 1 n
      if goes then s2
      else
        let old := s2.regW .prt 0xC8 n
        let by_ := match x.servedDeadline with
          | some q => q.toNat
          | none => 0
        let new := BitVec.ofNat 64 (2 ^ 60 * x.resource.toNat + 2 ^ 56 * x.cause.toNat + 2 ^ 53 * by_ +
          (if x.deadlineKept then 2 ^ 52 else 0) + (if x.resource.toNat = 1 then x.index.toNat else 0))
        let s3 := (s2.setW .prt 0xC8 new n).setF F.PRT_BREACH_TICK_TICK s2.cad n
        (s3.setErr F.PRT_ERR_BREACH n (some n)).audit 0x20 (1 + n) 0xC8 old new new fEvent)

end Sys2Proof.Machine
end

