-- ==== Sys2Proof/Machine/Package.lean ====
section
/-! DEFINITION. The input, power-up and the package reset (R402, R416, R426, R440, R469 to R479). -/

namespace Sys2Proof.Machine

/-- What a package reset leaves (Table 19-7): flash, fuses and host memory, and what is not the package's. A flash write that it cuts
short leaves the image region invalid (R449). -/
def State.cold (s : State) (stage : PowStage) : State :=
  { pending := s.pending, now := s.now, fresh := s.fresh, hostMem := s.hostMem, out := s.out, images := s.images
    fuses := s.fuses, flash := if s.applying then { s.flash with image := .torn } else s.flash
    repairs := s.repairs, aud := { flash := s.aud.flash }, hostLinks := s.linksDown, pow := { stage := stage } }

/-- The copy of R440 before a reset that the management core controls. -/
def State.auditCopy (s : State) : State := { s with aud := { s.aud with flash := s.aud.entries.take 4096 } }

/-- INPUT_POWER_ON (R475). -/
def execInputPowerOn (mv : BitVec 16) (s : State) : Host.Outcome State Fault Refusal :=
  done (if s.pow.stage = .off && !s.pow.overVolt && decide (40000 ≤ mv.toNat) then { s with pow := { s.pow with stage := .soft } } else s)

/-- RAILS_REGULATE (R475, R470): straps PORT0_SPLIT, PORT1_SPLIT and FACTORY in bits 0 to 2. LCS.REQ starts at the fused state. -/
def execRailsRegulate (straps : BitVec 3) (s : State) : Host.Outcome State Fault Refusal :=
  let p : PowerState := { s.pow with stage := .on, split0 := straps.getLsbD 0, split1 := straps.getLsbD 1, factory := straps.getLsbD 2 }
  done (if s.pow.stage = .soft then ({ s with pow := p, cad := 0 } : State).setF F.LCS_REQ_STATE s.fuses.lcs else s)

/-- A commanded package reset (R477): it restarts at the 1 ms row, and waits for the end of a PLDM flash write. -/
def State.packageReset (s : State) : State := if s.applying then s.holdReset 0 0 else s.auditCopy.cold .soft

/-- PACKAGE_RESET. -/
def execPackageReset (s : State) : Host.Outcome State Fault Refusal := done (if s.powered then s.packageReset else s)

/-- BROWN_OUT (R402): below 38.0 V; a trip ends here too, for the input is gone (R416). -/
def execBrownOut (mv : BitVec 16) (s : State) : Host.Outcome State Fault Refusal :=
  done (if decide (mv.toNat < 38000) && s.pow.stage ≠ .off then s.cold .off else s)

/-- OVER_VOLTAGE (R402): above 62.0 V. -/
def execOverVoltage (mv : BitVec 16) (s : State) : Host.Outcome State Fault Refusal :=
  let s1 := s.cold .off
  done (if decide (62000 < mv.toNat) && s.pow.stage ≠ .off && s.pow.stage ≠ .trip then { s1 with pow := { s1.pow with overVolt := true } } else s)

/-- INPUT_BACK_IN_RANGE (R477). -/
def execInputBackInRange (mv : BitVec 16) (s : State) : Host.Outcome State Fault Refusal :=
  done (if s.pow.overVolt && s.pow.stage = .off && decide (40000 ≤ mv.toNat) && decide (mv.toNat ≤ 59500) then
    { s with pow := { s.pow with overVolt := false, stage := .soft } }
  else s)

/-- OVUSK_CORE_RESET (R426): `up` cores are out of reset. -/
def execOvuskCoreReset (up : BitVec 7) (s : State) : Host.Outcome State Fault Refusal :=
  let s1 : State := { s with pow := { s.pow with coresUp := up.toNat } }
  done (if !s.powered || decide (72 < up.toNat) then s
    else if up.toNat = 0 && s.pow.coresUp ≠ 0 then
      partNums.foldl (fun s p => if s.partEn p && s.getF F.PRT_OWNER_KIND p = 2 then s.setErr F.PRT_ERR_OWNER_LOST p (some p) else s) s1
    else s1)

end Sys2Proof.Machine
end

