-- ==== Sys2Proof/Machine/Mgmt.lean ====
section
/-! DEFINITION. The management core: images, ROM and recovery, updates, attestation, MCTP (R443 to R461). Codes of DSP0236, DSP0248,
DSP0267 and DSP0274 are those standards' (log 46). -/

namespace Sys2Proof.Machine

def State.setMgmt (s : State) (m : MgmtState) : State := { s with mgmt := m }

abbrev bootRom : Nat := 0
abbrev bootRun : Nat := 1
abbrev bootRecovery : Nat := 2
abbrev bootRetired : Nat := 3
def State.boot (s : State) : Nat := s.getF F.MGT_STAT_BOOT

/-! ### Images (R444, R445) -/

def imgNum (b : List Byte) (off n : Nat) : Nat := leNat ((b.drop off).take n)
def imgBytes (b : List Byte) (off n : Nat) : List Byte := (b.drop off).take n
def imgZero (b : List Byte) (off n : Nat) : Bool := (imgBytes b off n).all (· = 0)
def imgMessage (b : List Byte) : List Byte := b.take 512
def imgSvn (b : List Byte) : Nat := imgNum b 6 1

/-- Check 1: MAGIC, FORMAT, and the rest of the layout of Table 18-2. -/
def imgFormOk (b : List Byte) : Bool :=
  let n := imgNum b 16 4
  imgNum b 0 4 = 0x45574649 && imgNum b 4 2 = 1 && decide (imgNum b 7 1 ≤ 1) && imgZero b 20 4 && imgZero b 120 8 && imgZero b 17120 3360 &&
  decide (1 ≤ n) && decide (n ≤ 16777216) && decide (20480 + n ≤ b.length)

/-- The first check that an image fails, as BOOT_CAUSE; 0 is a valid image. -/
def imageCause (svn : Nat) (b : List Byte) : Nat :=
  let rsa := imgBytes b 128 384
  let slh := imgBytes b 72 48
  if !imgFormOk b then 1
  else if sha384 rsa ≠ Config.rsaKeyHash || sha384 slh ≠ Config.slhKeyHash then 2
  else if !Config.rsaValid rsa (imgMessage b) (imgBytes b 512 384) then 3
  else if !Config.slhValid slh (imgMessage b) (imgBytes b 896 16224) then 4
  else if imgBytes b 24 48 ≠ sha384 (imgBytes b 20480 (imgNum b 16 4)) then 5
  else if imgSvn b < svn then 6
  else 0

/-! ### Start (R446 to R448, R454, R460) -/

/-- The recorded repairs, as far as each pseudo-channel has spares (R460). -/
def State.applyRepairs (s : State) : State :=
  let r := s.repairs.foldr (fun (e : Nat × Nat) (a : List (Nat × Nat) × Sparse Nat) =>
    let k := e.1 * 32 + e.2 % 32
    let n := spGet 0 a.2 k
    if n < 4 then (a.1, spPut 0 a.2 k (n + 1)) else (e :: a.1, a.2)) ([], s.flash.repaired)
  let s1 : State := { s with repairs := r.1, flash := { s.flash with repaired := r.2 } }
  let s2 := s1.setF F.MGT_REPAIR_LEFT_ROWS (Nat.min r.1.length 65535)
  if r.1.isEmpty then s2 else s2.setErr F.MGT_ERR_REPAIR_OUT

/-- Release of the compute and fabric dies at OP7 with every group at the floor (R475, R419); once per cold reset. -/
def State.bringUp (s : State) : State :=
  if s.diesReady then s
  else (((s.applyRepairs).setF F.PWR_STAT_OP 0xFFF).setF F.PWR_STAT_READY 1).applyIssue

/-- The jump to an image that has been found valid. -/
def State.jump (s : State) (message : List Byte) (version : Nat) : State :=
  let s1 : State := { s with mgmt := { s.mgmt with running := message } }
  (((s1.setF F.MGT_STAT_BOOT bootRun).setF F.MGT_BOOT_CAUSE_CAUSE 0).setF F.MGT_FW_VER_VERSION version).bringUp

/-- A valid image runs: FUSE_SVN first. -/
def State.runImage (s : State) (b : List Byte) : State :=
  let svn := if imgNum b 7 1 = 1 then Nat.max s.fuses.svn (imgSvn b) else s.fuses.svn
  ({ s with fuses := { s.fuses with svn := svn } } : State).jump (imgMessage b) (imgNum b 8 8)

/-- Recovery (R447). -/
def State.enterRecovery (s : State) (cause : Nat) : State :=
  ((s.setF F.MGT_STAT_BOOT bootRecovery).setF F.MGT_BOOT_CAUSE_CAUSE cause).setErr F.MGT_ERR_IMAGE_BAD

/-- Reads and verifies the image region, and runs or recovers. What a torn region fails on is open. -/
def State.bootFlash (s : State) : State :=
  match s.flash.image with
  | .shipped => s.jump Config.shippedMessage Config.shippedVersion.toNat
  | .written b =>
    let c := imageCause s.fuses.svn b
    if c = 0 then s.runImage b else s.enterRecovery c
  | .torn =>
    let (w, s1) := s.free
    s1.enterRecovery (1 + w.toNat % 6)

/-- Whether fuses and device data agree with a life-cycle state (R454). -/
def State.lcsAgrees (s : State) (lcs : Nat) : Bool := s.flash.keys = (lcs = 1 || lcs = 2) && (lcs ≠ 3 || s.fuses.killed)

/-- A pending change, or the rest of one that a power loss cut short (R454). -/
def State.applyLcs (s : State) : State :=
  let lcs := if s.fuses.pending then Nat.min 3 (s.fuses.lcs + 1) else s.fuses.lcs
  if !s.fuses.pending && s.lcsAgrees lcs then s
  else
    let s1 : State := { s with
      fuses := { s.fuses with lcs := lcs, pending := false, killed := s.fuses.killed || lcs = 3 }
      flash := { s.flash with keys := lcs = 1 || lcs = 2 }
      hbm := [], hbmSum := [], spad := [], spadSum := [], istore := [] }
    s1.setF F.LCS_REQ_STATE lcs

/-- ROM_BOOT: the sequence of Table 18-3. -/
def execRomBoot (s : State) : Host.Outcome State Fault Refusal :=
  let s1 := s.applyLcs
  done (if !s.coreUp || s.boot ≠ bootRom then s
    else if s1.fuses.lcs = 3 then s1.setF F.MGT_STAT_BOOT bootRetired
    else s1.bootFlash)

/-! ### Recovery (R447) -/

/-- A write of GO over a link. -/
def State.recoveryStart (s : State) (l : Nat) : State :=
  if s.boot ≠ bootRecovery || s.mgmt.rcv.isSome then s
  else ((s.setMgmt { s.mgmt with rcv := some l }).setF F.MGT_RCV_STAT_BUSY 1).setF F.MGT_RCV_STAT_CAUSE 0

/-- RECOVERY_FETCH_DONE: the RCV_LEN bytes fetched, or none for a fetch error. -/
def execRecoveryFetchDone (x : Option FwImage) (s : State) : Host.Outcome State Fault Refusal :=
  let s1 := (s.setMgmt { s.mgmt with rcv := none }).setF F.MGT_RCV_STAT_BUSY 0
  done (if s.mgmt.rcv.isNone then s
    else
      match x with
      | none => s1.setF F.MGT_RCV_STAT_CAUSE 0x10
      | some img =>
        let b := img.bytes.take (s.getF F.MGT_RCV_LEN_BYTES)
        let c := imageCause s.fuses.svn b
        if c = 0 then
          (({ s1 with flash := { s1.flash with image := .written b } } : State).setF F.MGT_RCV_STAT_CAUSE 0).runImage b
        else s1.setF F.MGT_RCV_STAT_CAUSE c)

/-! ### Interfaces (R455) -/

/-- Whether an MCTP interface is there: 0 I3C, k + 1 the PF of link k. -/
def State.ifaceUp (s : State) (i : Nat) : Bool := i = 0 || (decide (i ≤ 4) && (s.hostLink (i - 1)).up)

/-- Whether management firmware answers on an interface. -/
def State.mctpUp (s : State) (i : Nat) : Bool := s.powered && s.boot = bootRun && s.ifaceUp i

/-- Whether MGT.MCTP_EN enables an interface. -/
def State.mctpEnabled (s : State) (i : Nat) : Bool := testBit (s.getF F.MGT_MCTP_EN_IFACES) i

/-- Completion code of MCTP and PLDM for an unsupported command. -/
abbrev ccUnsupported : Byte := 0x05

/-- An Evbor message on an enabled interface; another is answered as unsupported. -/
def State.evbor (s : State) (i cmd : Nat) (f : State → State) : State :=
  if !s.mctpUp i then s else if !s.mctpEnabled i then s.emit (.mctp i cmd [ccUnsupported]) else f s

/-! ### Updates (R449) -/

abbrev ccBusy : Byte := 0x86

/-- A PLDM type 5 message on an enabled interface. -/
def State.pldm5 (s : State) (i cmd : Nat) (f : State → State) : State :=
  if !s.mctpUp i then s else if !s.mctpEnabled i then s.emit (.pldm i cmd [ccUnsupported]) else f s

/-- One transfer of an update that has begun. -/
def State.stage5 (s : State) (i : Nat) (u : Update) (x : PldmData) : State :=
  let off := x.off.toNat
  if 4096 < x.data.length then s.emit (.pldm i 0x15 [0x83])
  else if 24 * mib < off + x.data.length then s.emit (.pldm i 0x15 [0x82])
  else
    let v := { u with staged := writeBytes u.staged off x.data, len := Nat.max u.len (off + x.data.length) }
    let s1 := (s.setMgmt { s.mgmt with upd := some v }).setF F.MGT_STAT_UPD_ACTIVE 1
    if !x.last then s1.emit (.pldm i 0x15 [0])
    else if imageCause s.fuses.svn (readBytes v.staged 0 v.len) = 0 then
      ((s1.setMgmt { s1.mgmt with upd := some { v with applying := true } }).emit (.pldm i 0x16 [0])).emit (.pldm i 0x17 [0])
    else
      let s2 := ((s1.setMgmt { s1.mgmt with upd := none }).setF F.MGT_STAT_UPD_ACTIVE 0).setErr F.MGT_ERR_UPD_FAIL
      (s2.emit (.pldm i 0x16 [0])).emit (.pldm i 0x17 [1])

/-- REQUEST_FIRMWARE_DATA: bytes that the update agent sends; the first begin an update. -/
def execRequestFirmwareData (i : BitVec 3) (x : PldmData) (s : State) : Host.Outcome State Fault Refusal :=
  let n := i.toNat
  done (s.pldm5 n 0x15 (fun s =>
    match s.mgmt.upd with
    | some u => if u.applying || u.iface ≠ n then s.emit (.pldm n 0x15 [ccBusy]) else s.stage5 n u x
    | none => s.stage5 n { iface := n } x))

/-- Resets that waited for ApplyComplete. -/
def State.runHeldResets (s : State) : State :=
  s.mgmt.heldResets.foldl (fun s (r : Nat × Nat) =>
    match r.1 with
    | 0 => s.packageReset
    | 1 => s.partReset r.2
    | _ => s.jobReset r.2) (s.setMgmt { s.mgmt with heldResets := [] })

/-- APPLY_COMPLETE: the flash write and the read-back against BODY_DIGEST have ended, well or not. -/
def execApplyComplete (ok : Bool) (s : State) : Host.Outcome State Fault Refusal :=
  done (match s.mgmt.upd with
    | none => s
    | some u =>
      if !u.applying then s
      else
        let s1 := (s.setMgmt { s.mgmt with upd := none, applied := ok }).setF F.MGT_STAT_UPD_ACTIVE 0
        let s2 := if ok then { s1 with flash := { s1.flash with image := .written (readBytes u.staged 0 u.len) } }
          else ({ s1 with flash := { s1.flash with image := .torn } } : State).setErr F.MGT_ERR_UPD_FAIL
        (s2.emit (.pldm u.iface 0x18 [if ok then 0 else 1])).runHeldResets)

/-- ACTIVATE_FIRMWARE. -/
def execActivateFirmware (i : BitVec 3) (selfContained : Bool) (s : State) : Host.Outcome State Fault Refusal :=
  let n := i.toNat
  done (s.pldm5 n 0x1A (fun s =>
    if selfContained then s.emit (.pldm n 0x1A [0x8C])
    else if !s.mgmt.applied then s.emit (.pldm n 0x1A [0x85])
    else ((s.setMgmt { s.mgmt with applied := false }).setF F.MGT_STAT_UPD_PENDING 1).emit (.pldm n 0x1A [0])))

/-! ### Attestation (R450 to R452) -/

def State.spdm (s : State) (i : Nat) : SpdmState := spGet {} s.mgmt.spdm i
def State.setSpdm (s : State) (i : Nat) (x : SpdmState) : State := s.setMgmt { s.mgmt with spdm := spPut {} s.mgmt.spdm i x }

/-- An SPDM request other than PQ_SIG discards M. In RETIRED, where no image runs, the ROM answers. -/
def State.spdmAsk (s : State) (i : Nat) (f : State → State) : State :=
  if s.powered && (s.boot = bootRun || s.boot = bootRetired) && s.ifaceUp i then f (s.setSpdm i { s.spdm i with m := none }) else s

abbrev errInvalid : Byte := 0x01
abbrev errUnexpected : Byte := 0x04
abbrev errUnsupported : Byte := 0x07
abbrev errLarge : Byte := 0x0F

def State.spdmError (s : State) (i : Nat) (e : Byte) : State := s.emit (.mctp i 0x7F [e])

/-- Whether the life cycle gives the package an identity: not in BLANK or RETIRED. -/
def State.hasIdentity (s : State) : Bool := s.fuses.lcs = 1 || s.fuses.lcs = 2

def execGetVersion (i : BitVec 3) (s : State) : Host.Outcome State Fault Refusal :=
  done (s.spdmAsk i.toNat (fun s => s.emit (.mctp i.toNat 0x04 (natLe 2 0x1300))))

/-- Certificates, CHALLENGE, signed measurements and chunks; no session and no key exchange. -/
def execGetCapabilities (i : BitVec 3) (s : State) : Host.Outcome State Fault Refusal :=
  done (s.spdmAsk i.toNat (fun s => s.emit (.mctp i.toNat 0x61 (natLe 4 0x20016))))

/-- TPM_ALG_RSAPSS_3072, SHA-384 for hash and measurement hash, DMTF measurements. -/
def execNegotiateAlgorithms (i : BitVec 3) (s : State) : Host.Outcome State Fault Refusal :=
  done (s.spdmAsk i.toNat (fun s => s.emit (.mctp i.toNat 0x63 (natLe 1 1 ++ natLe 4 4 ++ natLe 4 8 ++ natLe 4 2))))

/-- Digests of the certificate slots that hold a chain: slot 0, the RSA chain. -/
def execGetDigests (i : BitVec 3) (s : State) : Host.Outcome State Fault Refusal :=
  done (s.spdmAsk i.toNat (fun s =>
    s.emit (.mctp i.toNat 0x01 (if s.flash.keys then natLe 1 1 ++ sha384 Config.rsaChain else natLe 1 0))))

/-- A part of the RSA chain, with the bytes that follow it. -/
def execGetCertificate (i : BitVec 3) (off len : BitVec 16) (s : State) : Host.Outcome State Fault Refusal :=
  done (s.spdmAsk i.toNat (fun s =>
    if !s.hasIdentity then s.spdmError i.toNat errUnsupported
    else
      let rest := Config.rsaChain.drop off.toNat
      let part := rest.take len.toNat
      s.emit (.mctp i.toNat 0x02 (natLe 2 part.length ++ natLe 2 (rest.length - part.length) ++ part))))

/-- Sends a signed response: its body, and the RSA signature over M, which is then held. -/
def State.spdmSigned (s : State) (i code : Nat) (body : List Byte) : State :=
  let m := Config.spdmDigest s.fresh
  let s1 : State := { s with fresh := s.fresh + 1 }
  ((s1.setSpdm i { s1.spdm i with m := some m }).addF F.MGT_SPDM_CNT_COUNT 1).emit (.mctp i code (body ++ Config.rsaSign m))

/-- Four words of the entropy source: a responder's nonce. -/
def State.nonce (s : State) : List Byte × State :=
  ((List.range 4).flatMap (fun k => natLe 8 (Config.random (s.fresh + k)).toNat), { s with fresh := s.fresh + 4 })

def execChallenge (i : BitVec 3) (_nonce : BitVec 256) (s : State) : Host.Outcome State Fault Refusal :=
  done (s.spdmAsk i.toNat (fun s =>
    if !s.hasIdentity then s.spdmError i.toNat errUnsupported
    else
      let (n, s1) := s.nonce
      s1.spdmSigned i.toNat 0x03 (sha384 Config.rsaChain ++ n)))

/-- Contents of a measurement block (Table 18-4). -/
def State.measurement (s : State) : Nat → List Byte
  | 1 => Config.romHash
  | 2 => sha384 s.mgmt.running
  | 3 => [BitVec.ofNat 8 s.fuses.svn, BitVec.ofNat 8 s.fuses.lcs, if s.fuses.lcs = 0 then 0 else 1]
  | 4 => [BitVec.ofNat 8 Config.stepMajor, BitVec.ofNat 8 Config.stepMinor, BitVec.ofNat 8 compatLevel]
  | 5 => if s.flash.keys then Config.chainsHash else sha384 []
  | _ => []

/-- Index 0 asks for the number of blocks, 0xFF for all. -/
def execGetMeasurements (i : BitVec 3) (index : BitVec 8) (signed : Bool) (_nonce : BitVec 256) (s : State) : Host.Outcome State Fault Refusal :=
  let n := index.toNat
  done (s.spdmAsk i.toNat (fun s =>
    if signed && !s.hasIdentity then s.spdmError i.toNat errUnsupported
    else if !(decide (n ≤ 5) || n = 0xFF) then s.spdmError i.toNat errInvalid
    else
      let block := fun k => natLe 1 k ++ s.measurement k
      let body := if n = 0 then natLe 1 5 else if n = 0xFF then (List.range' 1 5).flatMap block else block n
      if signed then
        let (r, s1) := s.nonce
        s1.spdmSigned i.toNat 0x60 (body ++ r)
      else s.emit (.mctp i.toNat 0x60 body)))

/-- CHUNK_GET: chunk `n` of the large response that waits. -/
def execChunkGet (i : BitVec 3) (n : BitVec 16) (s : State) : Host.Outcome State Fault Refusal :=
  done (s.spdmAsk i.toNat (fun s =>
    let part := ((s.spdm i.toNat).large.drop (n.toNat * Config.chunkBytes)).take Config.chunkBytes
    if part.isEmpty then s.spdmError i.toNat errInvalid else s.emit (.mctp i.toNat 0x06 (natLe 2 n.toNat ++ part))))

/-- A large response waits for CHUNK_GET. -/
def State.spdmLarge (s : State) (i : Nat) (b : List Byte) : State := (s.setSpdm i { s.spdm i with large := b }).spdmError i errLarge

/-- PQ_SIG: the SLH-DSA signature over M, while it is held. -/
def execPqSig (i : BitVec 3) (s : State) : Host.Outcome State Fault Refusal :=
  let n := i.toNat
  done (if !(s.powered && (s.boot = bootRun || s.boot = bootRetired) && s.ifaceUp n) then s
    else
      match (s.spdm n).m with
      | none => s.spdmError n errUnexpected
      | some m => s.spdmLarge n (Config.slhSign m))

def execPqCert (i : BitVec 3) (s : State) : Host.Outcome State Fault Refusal :=
  done (s.spdmAsk i.toNat (fun s => s.spdmLarge i.toNat (if s.flash.keys then Config.slhChain else [])))

/-! ### MCTP control, sensors, and the audit log (R455 to R457) -/

/-- SET_ENDPOINT_ID: 0 and 0xFF are no endpoint IDs. -/
def execSetEndpointId (i : BitVec 3) (eid : BitVec 8) (s : State) : Host.Outcome State Fault Refusal :=
  let n := i.toNat
  done (if !s.mctpUp n then s
    else if eid.toNat = 0 || eid.toNat = 0xFF then s.emit (.mctp n 0x00 [0x02])
    else (s.setMgmt { s.mgmt with eids := spPut 0 s.mgmt.eids n eid.toNat }).emit (.mctp n 0x00 [0, 0, eid]))

/-- ENTDAA. -/
def execEntdaa (a : BitVec 7) (s : State) : Host.Outcome State Fault Refusal :=
  done (if s.coreUp then s.setMgmt { s.mgmt with i3c := some a.toNat } else s)

/-- A sensor's reading (R457). -/
def State.sensor (s : State) (n : Nat) : Option Nat :=
  if n = 1 then some (s.getF F.PWR_POWER_NOW_W)
  else if n = 2 then some (s.getF F.PWR_VIN_MV)
  else if 3 ≤ n ∧ n ≤ 9 then some (bitsOf (s.getF F.THM_DIE_TEMP_TEMP) (8 * (n - 3) + 7) (8 * (n - 3)))
  else if 10 ≤ n ∧ n ≤ 25 then some (s.getF F.HBM_STAT_TEMP (n - 10))
  else none

/-- PLDM_SENSOR_READ: answered on every interface. -/
def execPldmSensorRead (i : BitVec 3) (n : BitVec 16) (s : State) : Host.Outcome State Fault Refusal :=
  done (if !s.mctpUp i.toNat then s
    else
      match s.sensor n.toNat with
      | some v => s.emit (.pldm i.toNat 0x11 (0 :: natLe 4 v))
      | none => s.emit (.pldm i.toNat 0x11 [0x80]))

/-- The bytes of an audit entry as they read back: those of a damaged one are free values (R442). -/
def State.auditBytes (s : State) (k : Nat) (damaged : List Word) (e : AuditEntry) : List Byte :=
  if damaged.contains (BitVec.ofNat 64 e.seq) then (List.range 8).flatMap (fun i => natLe 8 (Config.freeWord (s.fresh + 8 * (e.seq - k) + i)).toNat) else e.bytes

/-- AUDIT_READ: the entries held from SEQ on, in SEQ order; `x.damaged` are those that read back damaged. -/
def execAuditRead (i : BitVec 3) (seq : BitVec 64) (x : AuditGet) (s : State) : Host.Outcome State Fault Refusal :=
  let k := seq.toNat
  done (s.evbor i.toNat 0x03 (fun s =>
    if x.n.toNat = 0 || 16 < x.n.toNat then s.emit (.mctp i.toNat 0x03 [])
    else
      let es := (s.aud.entries.filter (fun e => decide (k ≤ e.seq) && decide (e.seq < k + x.n.toNat))).reverse
      let s1 := if es.any (fun e => x.damaged.contains (BitVec.ofNat 64 e.seq)) then
          ({ s with fresh := s.fresh + 128 } : State).setErr F.AUD_ERR_ECC_UE
        else s
      s1.emit (.mctp i.toNat 0x03 (es.flatMap (s.auditBytes k x.damaged)))))

/-- MCTP_RESET: the response says whether the reset is accepted; it comes before the reset. -/
def execMctpReset (i : BitVec 3) (scope index : BitVec 8) (s : State) : Host.Outcome State Fault Refusal :=
  let k := index.toNat
  done (s.evbor i.toNat 0x05 (fun s =>
    let yes := s.emit (.mctp i.toNat 0x05 [1])
    let no := s.emit (.mctp i.toNat 0x05 [0])
    match scope.toNat with
    | 0 => yes.packageReset
    | 1 => if k < 8 && s.partEn k then yes.partReset k else no
    | 2 => if k < 8 && s.slotState k = slotAccepting then yes.jobReset k else no
    | _ => no))

/-! ### Restart of the core (R461) -/

/-- MC_RESTART. An update ends with what the core held of it; a flash write it cuts short leaves the region invalid. -/
def execMcRestart (s : State) : Host.Outcome State Fault Refusal :=
  let torn := s.applying
  let s1 : State := { s with
    mgmt := { s.mgmt with upd := none, applied := false, rcv := none, spdm := [], replies := [] }
    flash := if torn then { s.flash with image := .torn } else s.flash }
  done (if s.powered && s.boot = bootRun then
    ((s1.setF F.MGT_STAT_UPD_ACTIVE 0).setErr F.MGT_ERR_MC_RESTART).bootFlash.runHeldResets
  else s)

/-! ### Life cycle (R453) -/

/-- A write of REQ: the next state in order loads a fresh NONCE; another is clamped to the present state. -/
def State.lcsRequest (s : State) (v : Nat) : State :=
  if v % 4 = s.fuses.lcs + 1 then
    let (w, s1) := s.rand
    (s1.setF F.LCS_REQ_STATE (v % 4)).setF F.LCS_NONCE_VALUE w.toNat
  else s.setF F.LCS_REQ_STATE s.fuses.lcs

/-- A write of CONFIRM; the change from BLANK also requires the factory strap. -/
def State.lcsConfirmed (s : State) (v : Nat) : State :=
  let asked := s.getF F.LCS_REQ_STATE = s.fuses.lcs + 1
  if asked && v = s.getF F.LCS_NONCE_VALUE && (s.fuses.lcs ≠ 0 || s.pow.factory) then { s with fuses := { s.fuses with pending := true } }
  else s.setF F.LCS_REQ_STATE s.fuses.lcs

end Sys2Proof.Machine
end

