-- ==== Sys2Proof/Machine/Spore.lean ====
section
/-! DEFINITION. Spore snapshots and restore (R376 to R399). -/

namespace Sys2Proof.Machine

/-- Whether Spore acts on a slot. -/
def State.sporeLive (s : State) (j : Nat) : Bool := s.slotState j = slotAccepting && !s.faulted j

/-! ### Messages that arrive (R378) -/

/-- An up message from a child: it must be of the kind and generation in progress. -/
def State.takeUp (s : State) (j child kind : Nat) : State :=
  let m := SporeMsg.ofBytes (readBytes s.hbm (s.mailbox j + 64 * child) 64)
  let x := s.sp j
  if !s.sporeLive j || m.kind ≠ kind || m.gen ≠ s.curGen j || (s.kids j).length ≤ child then s
  else (s.setSp j { x with ups := (child, m) :: x.ups.filter (fun u => u.1 ≠ child) }).upTry j

/-- The down message of a kind: the root's own, or the mailbox. -/
def State.downMsg (s : State) (j kind : Nat) : Option SporeMsg :=
  let m := if s.isRoot j then (s.sp j).down else some (SporeMsg.ofBytes (readBytes s.hbm (0x400 + s.mailbox j) 64))
  m.filter (fun m => m.kind = kind && (kind = mAnnounce || m.gen = s.curGen j))

/-- Takes a down message in a stage in which it is due: it is forwarded, and then acted on. -/
def State.withDown (s : State) (j kind : Nat) (due : SporeSlot → Bool) (f : SporeMsg → State → State) : State :=
  match s.downMsg j kind with
  | some m =>
    if s.sporeLive j && due (s.sp j) then f m ((s.setSp j { s.sp j with down := none, upAt := none }).sendDown j m) else s
  | none => s

/-- A completion record of Spore's own (R389). -/
def State.sporeRecord (s : State) (j status aux : Nat) : State :=
  let q := s.getF F.SPO_QUEUE_QUEUE 0 j
  match s.slotPart j with
  | some p => (s.reserveSlot q).writeRecord p q status 0 0 0 (aux % 2 ^ 32) s.cad
  | none => s

/-- Whether the record's queue has a completion slot free; until then a message that ends with a record waits (R235). -/
def State.sporeRecordOk (s : State) (j : Nat) : Bool := s.slotFreeCq (s.getF F.SPO_QUEUE_QUEUE 0 j)

/-! ### Requests (R379, R380) -/

/-- SNAPSHOT. -/
def execSnapshot (id : Nat) (s : State) : Host.Outcome State Fault Refusal :=
  done (s.withStarted id (fun c =>
    let j := c.byte 24
    if c.opc ≠ 0x69 then s
    else if c.engine ≠ 0 || 8 ≤ j || c.num 25 39 ≠ 0 || s.slotPart j ≠ some c.part || s.getF F.SPO_SLOT_CTRL_EN 0 j = 0 then
      s.setCmd { c with phase := .ended, status := 0x10 }
    else (s.raiseRequest j).commitCmd c 0 0 0 0))

/-- SNAPSHOT_POLICY_TIMER. -/
def execSnapshotPolicyTimer (slot : BitVec 3) (s : State) : Host.Outcome State Fault Refusal :=
  let j := slot.toNat
  let ms := if s.getF F.SPO_INTERVAL_AUTO 0 j = 1 then s.getF F.SPO_SUGGEST_INTERVAL_MS 0 j else s.getF F.SPO_INTERVAL_MS 0 j
  done (if s.isRoot j && s.sporeLive j && s.stage j = stageRunning && s.getF F.SPO_INTERVAL_MS 0 j ≠ 0 && decide ((s.sp j).lastResume + msec * ms ≤ s.cad) then
    s.triggerSlot j 0
  else s)

/-- REQUEST. -/
def execRequest (slot : BitVec 3) (child : BitVec 4) (s : State) : Host.Outcome State Fault Refusal :=
  let j := slot.toNat
  let m := SporeMsg.ofBytes (readBytes s.hbm (0x800 + s.mailbox j + 64 * child.toNat) 64)
  done (if s.sporeLive j && m.kind = mRequest && child.toNat < (s.kids j).length then s.raiseRequest j else s)

/-! ### The pause (R381 to R384) -/

/-- ANNOUNCE. -/
def execAnnounce (slot : BitVec 3) (s : State) : Host.Outcome State Fault Refusal :=
  let j := slot.toNat
  done (s.withDown j mAnnounce (fun x => x.stage = spIdle && !x.restoring) (fun m s =>
    let x := s.sp j
    let s1 := (s.setF F.SPO_GEN_LAST_GEN m.gen 0 j).setF F.SPO_Q_TICK_TICK m.tick 0 j
    s1.setSp j { x with stage := spAnnounced, forwarded := false, ups := [], mine := none, recorded := false }))

/-- QUIESCE_TICK: at Q, or once an open cut frame has its INGEST_CLOSED and no other job is paused. -/
def execQuiesceTick (slot : BitVec 3) (s : State) : Host.Outcome State Fault Refusal :=
  let j := slot.toNat
  let q := s.getF F.SPO_Q_TICK_TICK 0 j
  let open_ := s.fioOn && s.fioSlot = j && s.fio.wins.any (fun w => decide (w.start ≤ q))
  done (if s.sporeLive j && (s.sp j).stage = spAnnounced && decide (q ≤ s.cad) && !open_ && s.quiesced.isEmpty then
    let s1 := (s.setF F.SPO_QUIESCE_TICK_TICK s.cad 0 j).setSp j { s.sp j with stage := spDraining }
    { s1 with quiesced := j :: s1.quiesced }
  else s)

/-- Whether the member's own drain is complete: its fences agree (R265), every engine stands at its boundary (R88, R132, R227, R213),
and its Chain engines wait for nothing (R308). -/
def State.drained (s : State) (j : Nat) : Bool :=
  let tag := s.slotTag j
  (s.jobEpochs j).idle &&
  (s.jobClusters j).all (fun c =>
    let k := s.clu c
    (if k.pushPend.isEmpty then k.mops.isEmpty else decide (16 ≤ k.tq.length)) &&
    (match k.epi with | .running _ _ _ _ => false | .waiting _ _ => k.tq.isEmpty | .idle => true) &&
    (List.range 4).all (fun m => (s.tileMover c m).run.isNone)) &&
  (List.range 64).all (fun ch =>
    match (s.bulkCh ch).cmd.bind s.cmd? with
    | some c => !s.jobQueue j c.queue || (s.bulkCh ch).run.isNone
    | none => true) &&
  s.lich.all (fun e => e.2.run.all (fun r => !s.jobGroup j (r.cluster / 8))) &&
  s.colls.all (fun k => k.slot ≠ j || !k.committed) &&
  s.tx.all (fun e => e.1.tag.toNat ≠ tag || (e.2.cells ++ e.2.queue).all (fun c => c.owner ≠ .chain))

/-- What a drained member writes back: the cached contexts of the job's partition (R232, R241), and the dirty lines of every engine (R213). -/
def State.writeBacks (s : State) (j : Nat) : State :=
  let s1 := match s.slotPart j with
    | some p => s.ctxFlush p
    | none => s
  (List.range 16).foldl State.cacheClean s1

/-- LOCAL_DRAIN_DONE: contexts and lines are written back, the floors of every flow of the job are sent (R284), those of its Hubs' flows among
them, and DRAINED goes up. A poisoned context faults the job (R308). -/
def execLocalDrainDone (slot : BitVec 3) (s : State) : Host.Outcome State Fault Refusal :=
  let j := slot.toNat
  let x := s.sp j
  done (if !s.sporeLive j || x.stage ≠ spDraining || x.mine.isSome || x.upAt.isSome || !s.drained j then s
    else if s.colls.any (fun k => k.slot = j && k.poison) then s.jobFault j .collPoisoned
    else
      let flows := (s.tx.filter (fun e => e.1.tag.toNat = s.slotTag j)).map (fun e => e.1)
      (flows.foldl State.sendFloor (s.writeBacks j)).contribute j (s.sporeMsg j mDrained))

/-- DRAINED. -/
def execDrained (slot : BitVec 3) (child : BitVec 4) (s : State) : Host.Outcome State Fault Refusal := done (s.takeUp slot.toNat child.toNat mDrained)

/-- SNAP_DRAIN_TIMEOUT: the member's own drain is not done DRAIN.MS after q. -/
def execSnapDrainTimeout (slot : BitVec 3) (s : State) : Host.Outcome State Fault Refusal :=
  let j := slot.toNat
  let x := s.sp j
  let lim := s.getF F.SPO_QUIESCE_TICK_TICK 0 j + msec * s.getF F.SPO_DRAIN_MS 0 j
  done (if s.sporeLive j && x.stage = spDraining && x.mine.isNone && x.upAt.isNone && decide (lim < s.cad) then s.snapFault j else s)

/-! ### Capture -/

/-- Entries of a sparse map in a range, from the range's start. -/
def spSlice {α : Type} (m : Sparse α) (lo n : Nat) : Sparse α :=
  (m.filter (fun e => decide (lo ≤ e.1) && decide (e.1 < lo + n))).map (fun e => (e.1 - lo, e.2))

/-- Puts such entries in the place of a range. -/
def spPaste {α : Type} [DecidableEq α] (d : α) (m : Sparse α) (lo n : Nat) (xs : Sparse α) : Sparse α :=
  xs.foldl (fun m e => spPut d m (lo + e.1) e.2) (spClear m lo n)

/-- A cluster image (Table 15-1). -/
def State.captureCluster (s : State) (c : Nat) : CluImage :=
  { spad := spSlice s.spad (spadKey c 0) spadSize, spadSum := spSlice s.spadSum (spadSumKey c 0) 1024, istore := spSlice s.istore (32768 * c) 32768
    threads := thrNums.map (s.thr c), clu := s.clu c, tms := (List.range 4).map (s.tileMover c) }

/-- Solver channels with clusters of a job. -/
def State.jobChannels (s : State) (j : Nat) : List Nat := (List.range 64).filter (fun ch => (s.boundClusters ch).any (fun c => s.jobGroup j (c / 8)))

/-- The package image of a job (R376). Queues are numbered from the job's first. -/
def State.captureImage (s : State) (j : Nat) : PkgImage :=
  let q0 := s.getF F.GLB_JOB_QUEUES_FIRST 0 j
  let qn := s.getF F.GLB_JOB_QUEUES_COUNT 0 j
  let tag := s.slotTag j
  let cmds := s.cmds.filter (fun c => s.jobQueue j c.queue)
  let ids := cmds.map (fun c => c.id)
  { clusters := (s.jobClusters j).map s.captureCluster
    qctx := (List.range qn).map (fun i => (i, s.ctx (q0 + i))), qx := spSlice s.qx q0 qn
    cmds := cmds.map (fun (c : Cmd) => { c with queue := c.queue - q0 })
    slv := s.slv.filter (fun e => (s.jobChannels j).contains e.1), batch := s.batch.filter (fun b => ids.contains b.id)
    bulk := s.bulk.filter (fun e => match e.2.cmd with | some i => ids.contains i | none => false)
    pcAreas := s.pcAreas.filter (fun a => s.jobUnit j (unitOf a.addr))
    comms := s.comms.filter (fun c => c.slot = j), colls := s.colls.filter (fun k => k.slot = j)
    early := (s.early.filter (fun e => e.1 = j)).map (fun e => e.2)
    tx := s.tx.filter (fun e => e.1.tag.toNat = tag), rx := s.rx.filter (fun e => e.1.2.tag.toNat = tag)
    ep := s.jobEpochs j, step := s.regW .cad F.CAD_STEP_STEP.off 0 j
    stepLog := (List.range 16).map (fun i => (s.getF F.CAD_LOG_STEP_STEP 0 (logBank j i), s.getF F.CAD_LOG_DIGEST_DIGEST 0 (logBank j i),
      s.getF F.CAD_LOG_TICK_TICK 0 (logBank j i))) }

/-- CAPTURE: copy-on-write is armed and the image is taken as the job stands. -/
def execCapture (slot : BitVec 3) (s : State) : Host.Outcome State Fault Refusal :=
  let j := slot.toNat
  done (s.withDown j mCapture (fun x => x.stage = spDraining && x.upAt.isSome) (fun _ s =>
    let gs := s.eligible j
    let s1 := ((s.setF F.SPO_COPY_POS_TOTAL gs.length 0 j).setF F.SPO_COPY_POS_DONE 0 0 j).setF F.SPO_HOLD_TICKS_COUNT 0 0 j
    s1.setSp j { s1.sp j with
      stage := spCapturing, image := some (s1.captureImage j), granules := gs, copying := true, copied := [], pool := []
      data := s1.hbm.filter (fun e => gs.contains (e.1 / granBytes)), sums := s1.hbmSum.filter (fun e => gs.contains (e.1 / 512)) }))

/-- CAPTURE_DONE. -/
def execCaptureDone (slot : BitVec 3) (s : State) : Host.Outcome State Fault Refusal :=
  let j := slot.toNat
  let x := s.sp j
  done (if s.sporeLive j && x.stage = spCapturing && x.mine.isNone && x.upAt.isNone then s.contribute j (s.sporeMsg j mCaptured) else s)

/-- CAPTURED. -/
def execCaptured (slot : BitVec 3) (child : BitVec 4) (s : State) : Host.Outcome State Fault Refusal := done (s.takeUp slot.toNat child.toNat mCaptured)

/-- RESUME. -/
def execResume (slot : BitVec 3) (s : State) : Host.Outcome State Fault Refusal :=
  let j := slot.toNat
  done (s.withDown j mResume (fun x => x.stage = spCapturing && x.upAt.isSome) (fun _ s =>
    let s1 := (s.setF F.SPO_RESUME_TICK_TICK s.cad 0 j).setSp j { s.sp j with stage := spCopying, stepRec := none, recorded := false }
    ({ s1 with quiesced := s1.quiesced.filter (fun i => i ≠ j) } : State).settleAll))

/-! ### Copy-on-write (R385 to R387) -/

/-- A held access proceeds. -/
def State.letGo (s : State) (h : Nat × Nat × HeldAccess) : State := s.hbmWrite h.2.2.addr.toNat h.2.2.bytes

/-- Lets go of the holds that satisfy a test; when none is left, the time of holding is counted. -/
def State.releaseHolds (s : State) (j : Nat) (test : Nat → Bool) : State :=
  let x := s.sp j
  let go := x.holds.filter (fun h => test h.1)
  let keep := x.holds.filter (fun h => !test h.1)
  let s1 := (go.reverse.foldl State.letGo s).setSp j { x with holds := keep }
  if !go.isEmpty && keep.isEmpty then s1.addF F.SPO_HOLD_TICKS_COUNT (s1.cad - x.holdStart) 0 j else s1

/-- COW_HOLD. -/
def execCowHold (slot : BitVec 3) (w : HeldAccess) (s : State) : Host.Outcome State Fault Refusal :=
  let j := slot.toNat
  let x := s.sp j
  let g := w.addr.toNat / granBytes
  done (if x.uncopied g && !w.bytes.isEmpty && (w.addr.toNat + w.bytes.length - 1) / granBytes = g then
    (s.setSp j { x with holds := (g, s.now, w) :: x.holds, holdStart := if x.holds.isEmpty then s.cad else x.holdStart }).addF F.SPO_COW_HOLD_CNT_COUNT 1 0 j
  else s)

/-- Bytes of a granule as captured, and of its checksum slots. -/
def SporeSlot.granData (x : SporeSlot) (g : Nat) : List Byte := readBytes x.data (granBytes * g) granBytes
def SporeSlot.granSums (x : SporeSlot) (g : Nat) : List Byte := (List.range 512).flatMap (fun i => natLe 8 (spGet (0 : Word) x.sums (g * 512 + i)).toNat)

/-- Writes a granule at its place in the host slot (Table 15-4). -/
def State.hostGranule (s : State) (j g : Nat) : State :=
  let x := s.sp j
  let i := (x.granules.findIdx? (fun k => k = g)).getD 0
  let a := 8192 + s.hostSlot j x.part + s.imageBytes j
  (s.hostPut j (a + granBytes * i) (x.granData g)).hostPut j (a + granBytes * x.granules.length + 4096 * i) (x.granSums g)

/-- Domain of a granule. -/
def granDomain (g : Nat) : Nat := granBytes * g / domainSize

/-- PRIORITY_COPY_DONE: to the pool while it has an entry free, else to the host slot. -/
def execPriorityCopyDone (slot : BitVec 3) (g : BitVec 18) (s : State) : Host.Outcome State Fault Refusal :=
  let j := slot.toNat
  let x := s.sp j
  let k := g.toNat
  done (if !x.uncopied k || !x.holds.any (fun h => h.1 = k) then s
    else
      let pooled := decide ((slotNums.foldl (fun n i => n + ((s.sp i).pool.filter (fun e => granDomain e = granDomain k)).length) 0) < 32)
      let s0 := s.setSp j { x with copied := k :: x.copied, pool := if pooled then k :: x.pool else x.pool }
      let s1 := if pooled then s0 else s0.hostGranule j k
      ((s1.setF F.SPO_POOL_OCC_ENTRIES (s1.sp j).pool.length 0 j).setF F.SPO_COPY_POS_DONE (x.copied.length + 1) 0 j).releaseHolds j (fun h => h = k))

/-! ### Parts and commit (R388 to R391) -/

/-- Bytes of a cluster image whose layout Table 15-1 gives: scratchpad, checksum array, instruction store. -/
def CluImage.known (c : CluImage) : List Byte :=
  readBytes c.spad 0 spadSize ++ (List.range 1024).flatMap (fun i => natLe 8 (spGet (0 : Word) c.spadSum i).toNat) ++
  (List.range 32768).flatMap (fun i => natLe 8 (spGet (0 : Word) c.istore i).toNat)

abbrev knownBytes : Nat := 4464640

/-- Bytes of a package image; what Table 15-1 gives no layout for is open (log 43). -/
def imageBytesOf (im : PkgImage) (section_ : Nat) : List Byte :=
  let rest := cluImageBytes - knownBytes
  let n := im.clusters.length
  (List.range n).flatMap (fun i =>
    (match im.clusters[i]? with | some c => c.known | none => []) ++ (List.range rest).map (fun b => Config.imageByte im (rest * i + b))) ++
  (List.range section_).map (fun b => Config.imageByte im (rest * n + b))

/-- The member's contribution to PART_DONE. -/
def State.partDoneMsg (s : State) (j : Nat) (bad : Bool) : SporeMsg :=
  { (s.sporeMsg j mPartDone).withFail bad 0 with
    value := s.hazard j, cost := s.getF F.SPO_RESUME_TICK_TICK 0 j - s.getF F.SPO_QUIESCE_TICK_TICK 0 j + s.getF F.SPO_HOLD_TICKS_COUNT 0 j
    copy := s.cad - s.getF F.SPO_RESUME_TICK_TICK 0 j }

/-- The copy map goes, and with it the image and the pool. -/
def State.copyEnd (s : State) (j : Nat) : State :=
  let s1 := s.releaseHolds j (fun _ => true)
  (s1.setSp j { s1.sp j with copying := false, image := none, granules := [], data := [], sums := [], copied := [], pool := [] }).setF F.SPO_POOL_OCC_ENTRIES 0 0 j

/-- Writes the part: VALID and the replay record of the slot are cleared first, and the manifest comes last. -/
def State.writePart (s : State) (j : Nat) (im : PkgImage) : State :=
  let h := s.newHostSlot j
  let a := s.hostSlot j h
  let s1 := (((s.setSp j { s.sp j with part := h }).hostPut j (4088 + a) (natLe 8 0)).hostPut j (4096 + a) (natLe 64 0)).hostPut j (8192 + a)
    (imageBytesOf im (s.sectionBytes j))
  let s2 := (s.sp j).granules.foldl (fun s g => s.hostGranule j g) s1
  { s2.hostPut j a (s2.manifest j im.step.toNat) with images := im :: s2.images }

/-- PART_COPY_DONE. An uncorrectable word of the image or the pool is the job's fault, and no part is written (R400). -/
def execPartCopyDone (slot : BitVec 3) (p : PartCopy) (s : State) : Host.Outcome State Fault Refusal :=
  let j := slot.toNat
  let x := s.sp j
  done (if !s.sporeLive j || x.stage ≠ spCopying || !x.copying || x.mine.isSome || x.upAt.isSome then s
    else
      match x.image with
      | none => s
      | some im =>
        if p.ecc = .uncorrectable then (s.setErr F.SPO_ERR_ECC_UE 0 (s.slotPart j)).jobFault j .eccUe
        else if !p.ok || decide (s.hostSlotSize j < s.partBytes j) then
          let s1 := if p.ok then s else s.setErr F.SPO_ERR_HOST_ERR 0 (s.slotPart j)
          let s2 := s1.copyEnd j
          s2.contribute j (s2.partDoneMsg j true)
        else
          let s1 := s.writePart j im
          let y := s1.sp j
          let s2 := ((s1.setSp j { y with copied := y.granules, pool := [] }).setF F.SPO_COPY_POS_DONE y.granules.length 0 j).setF F.SPO_POOL_OCC_ENTRIES 0 0 j
          let s3 := s2.releaseHolds j (fun _ => true)
          s3.contribute j (s3.partDoneMsg j false))

/-- PART_DONE. -/
def execPartDone (slot : BitVec 3) (child : BitVec 4) (s : State) : Host.Outcome State Fault Refusal := done (s.takeUp slot.toNat child.toNat mPartDone)

/-- COMMITTED: VALID is written, and the DONE record. -/
def execCommitted (slot : BitVec 3) (s : State) : Host.Outcome State Fault Refusal :=
  let j := slot.toNat
  done (if !s.sporeRecordOk j then s
    else s.withDown j mCommitted (fun x => x.stage = spCopying && x.upAt.isSome) (fun m s =>
      let g := s.curGen j
      let s1 := (s.copyEnd j).hostPut j (4088 + s.hostSlot j (s.sp j).part) (natLe 8 (validOf g))
      let s2 := ((s1.setF F.SPO_COMMIT_TICK_TICK s1.cad 0 j).addF F.SPO_SNAP_CNT_COUNT 1 0 j).setF F.SPO_SUGGEST_INTERVAL_MS m.value 0 j
      let s3 := s2.setSp j { s2.sp j with stage := spRecord, genWait := true, lastResume := s2.getF F.SPO_RESUME_TICK_TICK 0 j }
      (s3.sporeRecord j 0 g).sporeStep j))

/-- ABANDONED. -/
def execAbandoned (slot : BitVec 3) (s : State) : Host.Outcome State Fault Refusal :=
  let j := slot.toNat
  done (if !s.sporeRecordOk j then s
    else s.withDown j mAbandoned (fun x => x.stage = spCopying && x.upAt.isSome) (fun _ s =>
      let s1 := ((s.copyEnd j).setErr F.SPO_ERR_ABANDONED 0 (s.slotPart j)).addF F.SPO_ABANDON_CNT_COUNT 1 0 j
      let s2 := (s1.setSp j { s1.sp j with stage := spIdle }).sporeRecord j 0x01 (s1.curGen j)
      if s2.isRoot j then s2.rootAccept j else s2))

/-- RECORDED. -/
def execRecorded (slot : BitVec 3) (child : BitVec 4) (s : State) : Host.Outcome State Fault Refusal := done (s.takeUp slot.toNat child.toNat mRecorded)

/-- GEN_READY. -/
def execGenReady (slot : BitVec 3) (s : State) : Host.Outcome State Fault Refusal :=
  let j := slot.toNat
  done (s.withDown j mGenReady (fun x => x.stage = spRecord && x.upAt.isSome) (fun m s =>
    let s1 := (s.setF F.SPO_GEN_JOB_GEN m.gen 0 j).setSp j { s.sp j with stage := spIdle, genWait := false }
    if s1.isRoot j then s1.rootAccept j else s1))

/-- WAVE_TIMEOUT: no down message within WAVE.MS of the member's up message, in a pause or before the restore's resume (R392, R397). -/
def execWaveTimeout (slot : BitVec 3) (s : State) : Host.Outcome State Fault Refusal :=
  let j := slot.toNat
  let x := s.sp j
  done (match x.upAt with
    | some t =>
      if !s.sporeLive j || s.isRoot j || decide (s.now < t + msec * s.getF F.SPO_WAVE_MS 0 j) then s
      else if x.stage = spDraining || x.stage = spCapturing then s.snapFault j
      else if x.stage = spFilling then
        (((s.jobClusters j).foldl State.cluStop s).setSp j { x with upAt := none, mine := none, recorded := true }).setErr F.SPO_ERR_RESTORE_ABANDONED 0 (s.slotPart j)
      else s
    | none => s)

/-! ### Restore (R394 to R397) -/

/-- The host slot that holds a generation with its replay record. -/
def State.restoreSlot (s : State) (j gen : Nat) : Option Nat :=
  [0, 1].find? (fun i =>
    let a := 4096 + s.hostSlot j i
    s.slotHolds j i gen && leNat (s.hostBytes j a 8) = gen && leNat (s.hostBytes j (a + 56) 8) = validOf gen)

/-- The first check of Table 15-6 that fails, or 0, for the part at `a`. -/
def State.restoreCause (s : State) (j a : Nat) (hostOk : Bool) : Nat :=
  let f := fun (o n : Nat) => leNat (s.hostBytes j (a + o) n)
  let units := (List.range 6).flatMap (fun w => natLe 8 (s.regW .glb (0x58 + 8 * w) 0 j).toNat)
  if f 16 8 ≠ s.launchKey j then 2
  else if f 24 4 ≠ s.myRank j || f 28 4 ≠ s.getF F.HUB_JOB_RANKS_COUNT 0 j then 3
  else if f 64 4 ≠ s.jobClusterCount j || s.hostBytes j (a + 80) 48 ≠ units then 4
  else if s.getF F.SPO_SLOT_CTRL_EN 0 j = 0 then 5
  else if !hostOk then 6
  else 0

/-- The granules of a manifest, ascending. -/
def State.manifestGranules (s : State) (j a : Nat) : List Nat :=
  let all := (List.range 64).foldl (fun (m : Sparse Unit) r =>
    let w := leNat (s.hostBytes j (a + 128 + 8 * r) 8)
    if bitsOf w 63 63 = 0 then m
    else (List.range' (bitsOf w 17 0) (bitsOf w 49 32)).foldl (fun m g => if s.jobUnit j (g / 512) then spIns m g () else m) m) []
  all.map (fun e => e.1)

/-- Fills the eligible granules with their data and checksums. -/
def State.fillGranules (s : State) (j a : Nat) : State :=
  let gs := s.manifestGranules j a
  let img := leNat (s.hostBytes j (a + 72) 8)
  let base := 8192 + a + img
  (List.range gs.length).foldl (fun s i =>
    let g := (gs[i]?).getD 0
    let s1 := s.hbmWrite (granBytes * g) (s.hostBytes j (base + granBytes * i) granBytes)
    (List.range 512).foldl (fun (s : State) t =>
      { s with hbmSum := spPut 0 s.hbmSum (g * 512 + t) (BitVec.ofNat 64 (leNat (s.hostBytes j (base + granBytes * gs.length + 4096 * i + 8 * t) 8))) }) s1) s

/-- The words of a byte list as a sparse map. -/
def sparseWords (bs : List Byte) (n : Nat) : Sparse Word :=
  (List.range n).foldl (fun m i => spPut 0 m i (BitVec.ofNat 64 (leNat ((bs.drop (8 * i)).take 8)))) []

/-- Fills a cluster: what Table 15-1 lays out from the bytes, the rest from the image they stand for. -/
def State.fillCluster (s : State) (c : Nat) (im : Option CluImage) (bs : List Byte) : State :=
  let s1 : State := { s with
    spad := spPaste 0 s.spad (spadKey c 0) spadSize (writeBytes [] 0 (bs.take spadSize))
    spadSum := spPaste 0 s.spadSum (spadSumKey c 0) 1024 (sparseWords ((bs.drop spadSize).take 8192) 1024)
    istore := spPaste 0 s.istore (32768 * c) 32768 (sparseWords ((bs.drop (8192 + spadSize)).take 262144) 32768) }
  match im with
  | some k =>
    let s2 := (List.range 8).foldl (fun s t => match k.threads[t]? with | some x => s.setThr c t x | none => s) (s1.setClu c k.clu)
    (List.range 4).foldl (fun s m => match k.tms[m]? with | some x => s.setTileMover c m x | none => s) s2
  | none => s1

/-- Fills the engines of the job. Commands take new numbers, queues the job's own, and communicators and flows its slot and tag; cells that were
not acknowledged take the endpoints of the reloaded rank table (R284). -/
def State.fillEngines (s : State) (j : Nat) (im : PkgImage) : State :=
  let q0 := s.getF F.GLB_JOB_QUEUES_FIRST 0 j
  let base := s.nextCmd
  let tag := s.slotTag j
  let key := fun (k : FlowKey) => { k with tag := BitVec.ofNat 16 tag }
  let cell := fun (k : FlowKey) (c : TxCell) => { c with cell := { c.cell with
    jobTag := BitVec.ofNat 16 tag, srcEp := BitVec.ofNat 20 s.myEp
    dstEp := if k.hub.isSome then c.cell.dstEp else BitVec.ofNat 20 ((s.rankEp j k.rank.toNat).getD epNone) } }
  let flow := fun (k : FlowKey) (f : TxFlow) => { f with cells := f.cells.map (cell k), queue := f.queue.map (cell k) }
  let top := im.cmds.foldl (fun n c => Nat.max n (c.id + 1)) 0
  let s1 := im.qctx.foldl (fun s e => s.setCtx (q0 + e.1) e.2) s
  let s2 := im.qx.foldl (fun s e => s.setQext (q0 + e.1) e.2) s1
  let s3 : State := { s2 with
    cmds := s2.cmds.filter (fun c => !s.jobQueue j c.queue) ++ im.cmds.map (fun (c : Cmd) => { c with id := base + c.id, queue := q0 + c.queue })
    nextCmd := base + top
    batch := s2.batch ++ im.batch.map (fun (b : BatchRun) => { b with id := base + b.id })
    comms := s2.comms.filter (fun c => c.slot ≠ j) ++ im.comms.map (fun (c : Comm) => { c with slot := j })
    colls := s2.colls.filter (fun k => k.slot ≠ j) ++ im.colls.map (fun (k : Coll) => { k with slot := j, cmd := k.cmd.map (base + ·), progress := s.now })
    early := s2.early.filter (fun e => e.1 ≠ j) ++ im.early.map (fun e => (j, e))
    tx := s2.tx.filter (fun e => e.1.tag.toNat ≠ tag) ++ im.tx.map (fun e => (key e.1, flow e.1 e.2))
    pcAreas := im.pcAreas ++ s2.pcAreas.filter (fun a => !im.pcAreas.any (fun b => b.addr = a.addr))
    rx := s2.rx.filter (fun e => e.1.2.tag.toNat ≠ tag) ++ im.rx.map (fun e => ((e.1.1, key e.1.2), e.2)) }
  let s4 := im.slv.foldl (fun s e => s.setChan e.1 { e.2 with holder := e.2.holder.map (base + ·) }) s3
  let s5 := im.bulk.foldl (fun s e => s.setBulk e.1 { e.2 with cmd := e.2.cmd.map (base + ·) }) s4
  let s6 := (s5.setJobEpochs j im.ep).setW .cad F.CAD_STEP_STEP.off im.step 0 j
  (List.range 16).foldl (fun s i =>
    let e := (im.stepLog[i]?).getD (0, 0, 0)
    ((s.setF F.CAD_LOG_STEP_STEP e.1 0 (logBank j i)).setF F.CAD_LOG_DIGEST_DIGEST e.2.1 0 (logBank j i)).setF F.CAD_LOG_TICK_TICK e.2.2 0 (logBank j i)) s6

/-- Fills the job from a part; its issue stays held until RESTORE_RESUME. -/
def State.restoreFill (s : State) (j a : Nat) : State :=
  let bs := s.hostBytes j (8192 + a) (s.imageBytes j)
  let im := (s.images.find? (fun im => imageBytesOf im (s.sectionBytes j) = bs)).getD (Config.imageOf bs)
  let s1 : State := { s.fillGranules j a with quiesced := j :: s.quiesced }
  let cs := s.jobClusters j
  let s2 := (List.range cs.length).foldl (fun s i => s.fillCluster ((cs[i]?).getD 0) im.clusters[i]? ((bs.drop (cluImageBytes * i)).take cluImageBytes)) s1
  s2.fillEngines j im

/-- RESTORE_FILL_DONE. -/
def execRestoreFillDone (slot : BitVec 3) (hostOk : Bool) (s : State) : Host.Outcome State Fault Refusal :=
  let j := slot.toNat
  let x := s.sp j
  let gen := s.getF F.SPO_RESTORE_GEN_GEN 0 j
  done (if !s.sporeLive j || s.stage j ≠ stageBarrier || !(s.jobX j).passed || !x.restoring || x.stage ≠ spIdle then s
    else
      let at_ := s.restoreSlot j gen
      let cause := match at_ with
        | none => 1
        | some i => s.restoreCause j (s.hostSlot j i) hostOk
      let a := s.hostSlot j (at_.getD 0)
      let s1 := s.setSp j { x with stage := spFilling, fillCause := cause, upAt := none, recorded := false
                                   replay := (leNat (s.hostBytes j (4104 + a) 8), leNat (s.hostBytes j (4112 + a) 8)) }
      let s2 := if cause = 0 then s1.restoreFill j a else s1
      s2.contribute j ((s2.sporeMsg j mFilled).withFail (cause ≠ 0) cause))

/-- FILLED. -/
def execFilled (slot : BitVec 3) (child : BitVec 4) (s : State) : Host.Outcome State Fault Refusal := done (s.takeUp slot.toNat child.toNat mFilled)

/-- RESTORE_RESUME. -/
def execRestoreResume (slot : BitVec 3) (s : State) : Host.Outcome State Fault Refusal :=
  let j := slot.toNat
  done (s.withDown j mRestoreResume (fun x => x.stage = spFilling && x.upAt.isSome) (fun _ s =>
    let s1 := (s.setStage j stageRunning).setSp j { s.sp j with stage := spReplaying, stepRec := none, recorded := false, lastResume := s.cad }
    ({ s1 with quiesced := s1.quiesced.filter (fun i => i ≠ j) } : State).settleAll))

/-- REPLAY_RESULT. -/
def execReplayResult (slot : BitVec 3) (child : BitVec 4) (s : State) : Host.Outcome State Fault Refusal := done (s.takeUp slot.toNat child.toNat mReplayResult)

/-- REPLAY_TIMEOUT: no STEP within REPLAY.MS of the resume. -/
def execReplayTimeout (slot : BitVec 3) (s : State) : Host.Outcome State Fault Refusal :=
  let j := slot.toNat
  let x := s.sp j
  done (if s.sporeLive j && x.stage = spReplaying && !x.recorded && decide (x.lastResume + msec * s.getF F.SPO_REPLAY_MS 0 j ≤ s.cad) then
    (s.setSp j { x with recorded := true, fillCause := 8 }).contribute j ((s.sporeMsg j mReplayResult).withFail true 8)
  else s)

/-- A restore is rejected: threads halt or stay OFF, the engines stand still, and the job is FAULTED. -/
def State.restoreReject (s : State) (j cause : Nat) : State :=
  let running := (s.sp j).stage = spReplaying
  let s1 := (s.jobClusters j).foldl (fun s c =>
    if running then thrNums.foldl (fun s t => if (s.thr c t).st = ThrState.off || (s.thr c t).st = ThrState.reserved then s else s.haltThread c t causeStop) s
    else s.cluStop c) s
  let s2 : State := { s1 with quiesced := j :: s1.quiesced.filter (fun i => i ≠ j) }
  let s3 := ((s2.setErr F.SPO_ERR_REJECTED 0 (s2.slotPart j)).setF F.SPO_RESTORE_CAUSE_CAUSE cause 0 j).setStage j stageFaulted
  (s3.setSp j { s3.sp j with stage := spIdle }).sporeRecord j 0x42 cause

/-- VERDICT. -/
def execVerdict (slot : BitVec 3) (s : State) : Host.Outcome State Fault Refusal :=
  let j := slot.toNat
  done (if !s.sporeRecordOk j then s
    else s.withDown j mVerdict (fun x => x.restoring && (x.stage = spFilling || x.stage = spReplaying)) (fun m s =>
      let x := s.sp j
      if m.fail then s.restoreReject j (if x.fillCause = 0 then 9 else x.fillCause)
      else
        let g := s.curGen j
        ((s.setF F.SPO_GEN_JOB_GEN g 0 j).sporeRecord j 0 g).setSp j { x with stage := spIdle, restoring := false }))

/-! ### The enable (R401) -/

/-- The conditions of R401 on SLOT_CTRL.EN. -/
def State.sporeConfigOk (s : State) (j : Nat) : Bool :=
  let w := s.window j 254
  isRunState (s.slotState j) && (match s.slotPart j with | some p => s.getF F.PRT_OWNER_KIND p = 1 | none => false) &&
  w.valid && w.kind = 0 && testBit w.perm 2 && decide (4096 ≤ w.size) && w.base = s.mailbox j && s.inJobUnits j (s.mailbox j) 4096 &&
  decide (2 * s.partBytes j ≤ 4096 * s.getF F.SPO_HOST_SIZE_BYTES 0 j)

end Sys2Proof.Machine
end

