-- ==== Sys2Proof/Machine/Regs.lean ====
section
/-! DEFINITION. Where a register access goes and what a read returns (R4 to R9, R14, R16, R19 to R21, R425, R432, R482). -/

namespace Sys2Proof.Machine

/-! ### Pages and registers -/

/-- Block, page and offset at a BAR0 address (Table 00-11). -/
def pageAt (a : Nat) : Option (Block × Nat × Nat) :=
  allBlocks.findSome? (fun b =>
    if blockBase b ≤ a && a < blockBase b + 4096 * blockPages b then some (b, (a - blockBase b) / 4096, a % 4096) else none)

/-- The rows that only batch channels have (R185). -/
def batchRow (off hi : Nat) : Bool :=
  decide (0xB0 ≤ off) || (off = 0x08 && (hi = 61 || hi = 31 || hi = 23)) || (off = 0x18 && hi = 20) || (off = 0x20 && hi = 3)

/-- The rows of a page: those of its block, less those that its kind does not have. -/
def pageFields (b : Block) (inst : Nat) : List FieldRow :=
  if b = .slv && !isBatchCh inst then (blockFields b).filter (fun r => !batchRow r.off r.hi) else blockFields b

/-- The fields of one register, header fields included; a mask or enable has one bit for each ERR bit (R12). -/
def regRows (b : Block) (inst off : Nat) : List FieldRow :=
  let own := pageFields b inst
  let all := own ++ fieldsHeader
  if off = 0x28 || off = 0x30 then (all.filter (fun r => r.off = 0x20)).map (fun r => { r with off := off, acc := .rw })
  else all.filter (fun r => r.off = off)

/-- Selector registers, CTX_OP, CTX_DATA and AUD.READ_SEQ: held for each origin (R482, R439). -/
def isSelector (b : Block) (off : Nat) : Bool :=
  match b with
  | .glb => off = 0x40
  | .cad => off = 0xC0 || off = 0x140
  | .hub => off = 0x50 || off = 0x68 || off = 0x78 || off = 0x98
  | .chn => off = 0x40 || off = 0x58
  | .pwr => off = 0xB0
  | .spo => off = 0x40 || off = 0x78
  | .qmg => decide (0x48 ≤ off) && decide (off ≤ 0x90)
  | .aud => off = 0x68
  | _ => false

/-- The job slot that an origin's selector names. -/
def State.selSlot (s : State) (o : Origin) (b : Block) : Nat :=
  let c := s.originCopy o
  match b with
  | .glb => s.getF F.GLB_JOB_SEL_SLOT 0 c
  | .cad => s.getF F.CAD_JOB_SEL_SLOT 0 c
  | .spo => s.getF F.SPO_JOB_SEL_SLOT 0 c
  | .chn => s.getF F.CHN_COMM_SEL_SLOT 0 c
  | _ => s.getF F.HUB_JOB_SEL_SLOT 0 c

/-- The partition whose queues an origin sees; management firmware sees them all. -/
def State.qmgView (s : State) (o : Origin) : Nat := (s.originPart o).getD 8

/-- Page and bank in which a register that an origin names is held. -/
def State.regPlace (s : State) (o : Origin) (b : Block) (inst off : Nat) : Nat × Nat :=
  let c := s.originCopy o
  let j := s.selSlot o b
  if isSelector b off then (0, c)
  else
    match b with
    | .glb => if 0x48 ≤ off then (0, j) else (0, 0)
    | .cad => if off < 0xC8 then (0, 0) else if 0x148 ≤ off && off ≤ 0x158 then (0, logBank j (s.getF F.CAD_LOG_SEL_ENTRY 0 c)) else (0, j)
    | .spo => if off < 0x48 then (0, 0) else if off = 0x80 then (0, j * 64 + s.getF F.SPO_ELIG_SEL_RANGE 0 c) else (0, j)
    | .hub =>
      if off = 0x40 then (0, 0)
      else if off = 0x58 || off = 0x60 then (0, j)
      else if off = 0x70 then (0, s.getF F.HUB_JOB_RANKS_BASE 0 j + s.getF F.HUB_RT_SEL_RANK 0 c)
      else if 0x80 ≤ off && off ≤ 0x90 then (0, winBank j (s.getF F.HUB_WIN_SEL_WINDOW 0 c))
      else if off = 0xA0 then (0, routeBank (s.getF F.HUB_ROUTE_SEL_KEY 0 c) (s.getF F.HUB_ROUTE_SEL_SLOT 0 c))
      else (inst, 0)
    | .pwr => if off = 0xB8 then (0, s.getF F.PWR_REG_SEL_RAIL 0 c) else (0, 0)
    | .qmg => if 0x40 ≤ off then (0, s.qmgView o) else (0, 0)
    | _ => (inst, 0)

/-! ### Who sees what -/

/-- The partitions an origin owns. -/
def State.ownParts (s : State) (o : Origin) : List Nat :=
  match o with
  | .host l => (s.partOfLink l.toNat).toList
  | .os _ => partNums.filter (fun p => s.partEn p && s.getF F.PRT_OWNER_KIND p = 2)
  | _ => []

/-- Whether the package serves an origin's register accesses (R425, R447, R476). -/
def State.serves (s : State) (o : Origin) : Bool :=
  s.powered &&
  match o with
  | .host l => (s.hostLink l.toNat).up && (s.boot = bootRecovery || (s.boot = bootRun && (s.partOfLink l.toNat).isSome))
  | .os _ => s.boot = bootRun
  | .mgmt _ => s.boot = bootRun
  | .rom => s.boot ≠ bootRun
  | .fabric => s.boot = bootRun

/-- Whether an origin reads a page (R20, Table 17-4); in recovery a host reads the MGT page alone (R447). -/
def State.canSee (s : State) (o : Origin) (b : Block) (inst : Nat) : Bool :=
  match o with
  | .mgmt _ => true
  | .rom => true
  | .fabric => [Block.fab, .hub, .glb, .chn, .spo, .cad].contains b
  | _ => if s.boot = bootRecovery then b = .mgt else (s.ownParts o).any (fun p => (s.partPages p).contains (b, inst))

/-- Whether a slot is one of an origin's own (R482). -/
def State.ownSlot (s : State) (o : Origin) (j : Nat) : Bool :=
  match o with
  | .host _ => s.slotState j ≠ slotFree && (s.ownParts o).any (fun p => s.slotPart j = some p)
  | .os _ => s.slotState j ≠ slotFree && (s.ownParts o).any (fun p => s.slotPart j = some p)
  | _ => true

/-- Whether a register is a slot field of a page whose selector is clamped to own slots (R482). -/
def slotField (b : Block) (off : Nat) : Bool :=
  match b with
  | .glb => decide (0x48 ≤ off)
  | .cad => decide (0xC8 ≤ off) && off ≠ 0x140
  | .spo => decide (0x48 ≤ off) && off ≠ 0x78
  | .chn => off = 0x48 || off = 0x50 || off = 0x60 || off = 0x68
  | _ => false

/-- A slot field reached through a selection that names none of the origin's own slots. -/
def State.blocked (s : State) (o : Origin) (b : Block) (off : Nat) : Bool := slotField b off && !s.ownSlot o (s.selSlot o b)

/-! ### Values -/

def word (n : Nat) : Word := BitVec.ofNat 64 n

/-- CAP (the tables' fixed values, and what a page's number gives). -/
def capWord (b : Block) (inst : Nat) : Word :=
  let base := (pageFields b inst).foldl (fun a r => if r.off = 0x08 then a + r.reset * 2 ^ r.lo else a) 0
  word (base + match b with
    | .prt => inst
    | .lch => inst
    | .slv => if isBatchCh inst then 2 ^ 62 else 0
    | .mov => if inst < 48 then 0 else if inst < 52 then 1 else if inst < 60 then 2 else 3
    | .fab => 2 ^ 32 * (if inst % 10 ≥ 7 then 2 else inst / 10)
    | _ => 0)

/-- The slot that SPO.STAT serves: the lowest at work. -/
def State.sporeServed (s : State) : Option Nat :=
  slotNums.find? (fun j => (s.sp j).stage ≠ 0 || ((s.sp j).restoring && (s.jobX j).passed))

def State.sporeStat (s : State) : Nat :=
  match s.sporeServed with
  | some j => 2 ^ 16 * (if (s.sp j).stage = 0 then spFilling else (s.sp j).stage) + j
  | none => 0

/-- MOV.STAT.STATE (Table 09-7). -/
def State.movState (s : State) (ch : Nat) : Nat :=
  let b := s.bulkCh ch
  if b.stopped then 3 else if b.stopReq then 2
  else if b.cmd.isNone then 0
  else if s.movHeld (.bulk (BitVec.ofNat 6 ch)) && b.run.isNone then 4 else 1

/-- SLV.STAT.STATE (Table 06-13): a channel whose job is quiesced is held. Between its checks and its end the model takes a command in one step, so
whether it is in set-up, iterates or finishes is a free value (log 113). -/
def State.slvState (s : State) (ch : Nat) : Nat :=
  let x := s.chan ch
  let held := match x.holder.bind s.cmd? with
    | some c => x.stage ≠ slvHeld && s.heldQueue c.queue
    | none => false
  if held then 5 else if x.stage = slvIterating then 2 + (Config.freeWord (s.fresh + ch)).toNat % 3 else x.stage

/-- Bits of the slots that satisfy a test. -/
def slotBits (f : Nat → Bool) : Nat := slotNums.foldl (fun a j => if f j then a + 2 ^ j else a) 0

/-- Whether a partition's owner is up (R426). -/
def State.ownerUp (s : State) (p : Nat) : Bool :=
  (s.getF F.PRT_OWNER_KIND p = 1 && (s.hostLink (s.getF F.PRT_OWNER_LINK p)).up) || (s.getF F.PRT_OWNER_KIND p = 2 && decide (0 < s.pow.coresUp))

/-- Whether Spore still copies granules of a stack (R213). -/
def State.cowActive (s : State) (st : Nat) : Bool :=
  slotNums.any (fun j => (s.sp j).granules.any (fun g => (s.sp j).uncopied g && granDomain g = st / 4))

/-- STAT less the common bits. -/
def State.statOwn (s : State) (b : Block) (inst : Nat) : Nat :=
  let reg := (s.regW b 0x18 inst).toNat
  match b with
  | .slv => 2 ^ 16 * s.slvState inst + (s.boundClusters inst).length + (if isBatchCh inst && s.rtPriv inst then 2 ^ 20 else 0)
  | .lch => reg + (if s.cowActive inst then 2 ^ 13 else 0) + (if s.powered && !s.lichReady inst && (inst = 0 || s.diesReady) then 2 ^ 12 else 0)
  | .mov => 2 ^ 16 * s.movState inst + (s.bulkCh inst).idx % 2 ^ 16
  | .qmg => reg + s.qctx.length
  | .hub => slotBits (fun j => s.slotState j = slotAccepting || s.slotState j = slotDraining)
  | .chn => 2 ^ 16 * s.inflight + s.comms.length
  | .glb => 2 ^ 8 * slotBits (fun j => (s.jobX j).pend) + slotBits (fun j => s.stage j = stageRunning)
  | .spo => s.sporeStat
  | .prt => reg + (if s.ownerUp inst then 2 ^ 17 else 0) + 2 ^ 8 * (slotNums.filter (fun j => s.slotPart j = some inst && s.slotState j ≠ slotFree)).length
  | .aud => s.aud.occ
  | .sec => (if s.fuses.killed then 2 ^ 9 else 0) + (if s.fuses.lcs = 0 then 0 else 2 ^ 8) + s.fuses.svn
  | .lcs => (if s.fuses.pending then 2 ^ 8 else 0) + s.fuses.lcs
  | _ => reg

/-- Eight bytes of a list, as a register holds them. -/
def wordOf (bs : List Byte) (i : Nat) : Word := word (leNat ((bs.drop (8 * i)).take 8))

/-- The communicator that an origin's COMM_SEL names. -/
def State.selComm (s : State) (o : Origin) : Option Comm := s.comm? (s.selSlot o .chn) (s.getF F.CHN_COMM_SEL_COMM 0 (s.originCopy o))

/-- The communicator registers (Table 11-7). -/
def State.chnReg (s : State) (o : Origin) (off : Nat) : Word :=
  match s.selComm o with
  | none => 0
  | some c =>
    let e := (c.slow[s.getF F.CHN_SM_SEL_ENTRY 0 (s.originCopy o)]?)
    let open_ := s.colls.filter (fun k => k.slot = c.slot && k.comm = c.num)
    match off with
    | 0x48 => word (2 ^ 63 + 2 ^ 32 * c.ranks.length + (c.ranks.findIdx? (fun r => r = s.myRank c.slot)).getD 0)
    | 0x50 => word (2 ^ 32 * c.next + open_.foldl (fun a k => Nat.min a k.seq) c.next)
    | 0x60 => match e with | some x => word (2 ^ 32 * x.1 + 2 ^ 24 * x.2.2.2 + x.2.1) | none => 0
    | _ => match e with | some x => word x.2.2.1 | none => 0

/-- Registers of the AUD page from 0x40. -/
def State.audReg (s : State) (o : Origin) (off : Nat) : Word :=
  let seq := (s.regW .aud 0x68 0 (s.originCopy o)).toNat
  match off with
  | 0x40 => word s.aud.next
  | 0x48 => word s.aud.drained
  | 0x50 => word s.aud.lost
  | 0x58 => word ((s.aud.flash.getLast?.map (fun e => e.seq)).getD 0)
  | 0x60 => word ((s.aud.flash.head?.map (fun e => e.seq)).getD 0)
  | 0x68 => word seq
  | _ =>
    match s.aud.entries.find? (fun e => e.seq = seq) with
    | some e => wordOf e.bytes ((off - 0x70) / 8)
    | none => 0

/-- A register as an origin that may read it reads it. -/
def State.regValue (s : State) (o : Origin) (b : Block) (inst off : Nat) : Word :=
  let at_ := s.regPlace o b inst off
  let reg := s.regW b off at_.1 at_.2
  let j := s.selSlot o b
  if off = 0x00 then idWord b inst
  else if off = 0x08 then capWord b inst
  else if off = 0x38 then s.cfgDigest b inst
  else
    match b with
    | .clu => s.cluReg inst off
    | b =>
      if off = 0x18 then word (s.statCommon b inst + s.statOwn b inst)
      else
        match b with
        | .glb =>
          if 0x100 ≤ off && off ≤ 0x128 then wordOf (s.jobDigest j) ((off - 0x100) / 8)
          else if off = 0x130 then word (s.launchKey j) else reg
        | .spo => if off = 0x110 then word (s.hazard j) else if off = 0x118 then word (s.partBytes j) else reg
        | .cad => if off = 0x40 then word s.cad else reg
        | .aud => if 0x40 ≤ off && off ≤ 0xA8 then s.audReg o off else reg
        | .mgt => if 0x60 ≤ off && off ≤ 0x78 && s.boot ≠ bootRecovery then 0 else reg
        | .sec =>
          if 0x40 ≤ off && off ≤ 0x68 then wordOf Config.rsaKeyHash ((off - 0x40) / 8)
          else if 0x70 ≤ off && off ≤ 0x98 then wordOf Config.slhKeyHash ((off - 0x70) / 8)
          else if off = 0xA0 then (if s.hasIdentity then wordOf Config.idHash 0 else 0) else reg
        | .chn => if off = 0x48 || off = 0x50 || off = 0x60 || off = 0x68 then s.chnReg o off else reg
        | .qmg =>
          let v := s.qmgView o
          if off = 0x98 then
            (if v = 8 then word (2 ^ 32 * 2 ^ 20) else word (2 ^ 32 * s.getF F.PRT_QUEUES_COUNT v + s.getF F.PRT_QUEUES_FIRST v))
          else if off = 0xA0 then (if v = 8 then 0 else word (s.dlSum v)) else if off = 0x50 then 0 else reg
        | .slv =>
          let x := s.chan inst
          if off = F.SLV_BUSY_TICKS_COUNT.off && x.stage ≠ slvIdle then reg + word (s.cad - x.busyAt) else reg
        | .hbm => if off = F.HBM_CE_RATE_PER_HOUR.off then word (setBits reg.toNat 31 0 (s.ceRate inst)) else reg
        | .mov =>
          if off = 0x40 then
            (match (s.bulkCh inst).cmd.bind s.cmd? with
             | some c => word (2 ^ 48 * c.tag + c.queue)
             | none => 0)
          else reg
        | _ => reg

/-- Bits of a register that satisfy a test of their rows. -/
def rowMask (rows : List FieldRow) (test : FieldRow → Bool) : Nat := rows.foldl (fun a r => if test r then setBits a r.hi r.lo (2 ^ 64 - 1) else a) 0

/-- The writes held for a page (R16). -/
def State.heldOn (s : State) (b : Block) (inst : Nat) : List HeldWrite := spGet [] s.holds (blockBase b / 4096 + inst)

/-- The state as an origin's held selector writes make it see the page: what a selector is held to names the slot (R16, R482). -/
def State.seenBy (s : State) (o : Origin) (b : Block) (inst : Nat) : State :=
  ((s.heldOn b inst).filter (fun h => isSelector b (h.addr % 4096) && s.originCopy h.origin = s.originCopy o)).foldl
    (fun s h => s.setW b (h.addr % 4096) h.value 0 (s.originCopy o)) s

/-- The writes held for the register that an origin reaches at an offset: those of the same register and bank (R16, R482). -/
def State.heldAt (s : State) (o : Origin) (b : Block) (inst off : Nat) : List HeldWrite :=
  let here := (s.seenBy o b inst).regPlace o b inst off
  (s.heldOn b inst).filter (fun h => h.addr % 4096 = off && h.place = here)

/-- What a register reads as while writes to it are held: RO fields at their present value, W1C fields cleared where a held write clears
them, and the rest as the last one left it (R6, R16). -/
def heldValue (rows : List FieldRow) (l : List HeldWrite) (present : Word) : Word :=
  let ro := word (rowMask rows (fun r => r.acc = .ro))
  let w1c := word (rowMask rows (fun r => r.acc = .w1c))
  l.foldl (fun cur h => (present &&& ro) ||| (cur &&& ~~~h.written &&& w1c) ||| (h.value &&& ~~~(ro ||| w1c))) present

/-- A register as an origin reads it, held writes included. -/
def State.regHeld (s : State) (o : Origin) (b : Block) (inst off : Nat) : Word :=
  heldValue (regRows b inst off) (s.heldAt o b inst off) ((s.seenBy o b inst).regValue o b inst off)

/-- What an origin's read of a BAR0 address returns (R4, R16, R20, R21, R482). -/
def State.busRead (s : State) (o : Origin) (a : Nat) : Word :=
  if !s.serves o then 0
  else
    match pageAt a with
    | none => 0
    | some (b, inst, off) =>
      if !s.canSee o b inst || (s.seenBy o b inst).blocked o b off || (regRows b inst off).isEmpty then 0
      else s.regHeld o b inst off

/-- CFG_DIGEST_READ (R14). -/
def execCfgDigestRead (o : Origin) (page : BitVec 16) (s : State) : Host.Outcome State Fault Refusal :=
  done (s.emit (.regValue (s.busRead o (0x38 + 4096 * page.toNat))))

/-- JOB_DIGEST_READ (R368): word `w` of the slot that the origin's GLB.JOB_SEL names. -/
def execJobDigestRead (o : Origin) (w : BitVec 3) (s : State) : Host.Outcome State Fault Refusal :=
  done (s.emit (.regValue (if w.toNat < 6 then s.busRead o (regAddr .glb 0 (0x100 + 8 * w.toNat)) else 0)))

end Sys2Proof.Machine
end

