-- ==== Sys2Proof/Machine/Bus.lean ====
section
/-! DEFINITION. Register writes: access types, clamping, hold buffers, the audit of every write, and the commands that are
register writes (R4 to R8, R10, R16 to R18, R20, R21, R437, R438, R458, R459, R482). -/

namespace Sys2Proof.Machine

/-! ### Nearest legal values (R437, Table 17-6) -/

/-- The member of an ascending list nearest a number; of two equally near, the lower. -/
def nearestOf (l : List Nat) (v : Nat) : Option Nat :=
  l.foldl (fun best x =>
    match best with
    | none => some x
    | some b => if (x - v) + (v - x) < (b - v) + (v - b) then some x else some b) none

/-- The address nearest `a` in the units that satisfy a test, aligned down. -/
def nearestAddr (holds : Nat → Bool) (align a : Nat) : Option Nat :=
  if a < hbmEnd && holds (unitOf a) then some (a / align * align)
  else nearestOf (((List.range 368).filter holds).map (fun u => if a < gib * u then gib * u else gib * (u + 1) - align)) a

/-- TAU: +0 to 0.5; a NaN takes the reset value (Table 06-13). -/
def tauLegal (v : Nat) : Nat :=
  match fpVal fp64 v with
  | .nan _ => 0x3D70000000000000
  | _ => if 2 ^ 63 ≤ v then 0 else if 0x3FE0000000000000 < v then 0x3FE0000000000000 else v

/-- Legal ranges of plain numeric fields, by block, offset and lowest bit. -/
def fieldRange (b : Block) (off lo : Nat) : Option (Nat × Nat) :=
  match b, off, lo with
  | .clu, 0xA0, 16 => some (4, 64)
  | .clu, 0xA0, 0 => some (16, 4096)
  | .hbm, 0x10, 8 => some (1, 255)
  | .hbm, 0x10, 0 => some (6, 96)
  | .fab, 0x10, 8 => some (1, 255)
  | .hub, 0x10, 32 => some (0, 1000)
  | .hub, 0x98, 0 => some (0, 383)
  | .hub, 0xA0, 16 => some (0, 19)
  | .chn, 0x10, 32 => some (10, 60000)
  | .chn, 0x10, 0 => some (4096, 16777215)
  | .cad, 0x48, 0 => some (0, 255)
  | .cad, 0x58, 0 => some (1, 240)
  | .cad, 0x78, 0 => some (0, 19)
  | .cad, 0x90, 0 => some (0, 10000)
  | .fio, 0x70, 0 => some (1, 65536)
  | .fio, 0x78, 0 => some (1000, 4294967295)
  | .fio, 0x80, 0 => some (0, 2000000)
  | .fio, 0xA0, 0 => some (1, 1048576)
  | .fio, 0xB0, 0 => some (0, 4096)
  | .fio, 0xC0, 0 => some (0, 16)
  | .fio, 0xD0, 0 => some (4, 20)
  | .glb, 0x50, 32 => some (0, 1048576)
  | .glb, 0x90, 0 => some (2, 87381)
  | .glb, 0xA8, 56 => some (0, 16)
  | .glb, 0xE0, 0 => some (1000, 3600000)
  | .spo, 0x90, 0 => some (0, 86400000)
  | .spo, 0x98, 0 => some (50, 100000)
  | .spo, 0xA0, 0 => some (10, 1000)
  | .spo, 0xA8, 0 => some (10, 10000)
  | .spo, 0xB0, 0 => some (1000, 86400000)
  | .spo, 0xD0, 0 => some (1, 32767)
  | .pwr, 0x40, 32 => some (500, 3400)
  | .pwr, 0x40, 16 => some (1, 30)
  | .pwr, 0x40, 0 => some (16, 512)
  | .pwr, 0x50, 32 => some (500, 3400)
  | .pwr, 0x50, 16 => some (10, 500)
  | .pwr, 0x58, 32 => some (0, 10000000)
  | .pwr, 0xB0, 0 => some (0, 47)
  | .mgt, 0x68, 0 => some (20481, 16797696)
  | _, _, _ => none

def ranged (b : Block) (off lo x : Nat) : Nat :=
  match fieldRange b off lo with
  | some (l, h) => clampTo l h x
  | none => x

/-- A slot selector: the nearest of the origin's own slots, or the present value (R482). -/
def State.slotSelect (s : State) (o : Origin) (cur x : Nat) : Nat := (nearestOf (slotNums.filter (fun j => s.ownSlot o j)) x).getD cur

/-- A queue confined to a partition's range. -/
def State.queueIn (s : State) (p : Option Nat) (cur x : Nat) : Nat :=
  match p with
  | some p =>
    let first := s.getF F.PRT_QUEUES_FIRST p
    let n := s.getF F.PRT_QUEUES_COUNT p
    if n = 0 then cur else clampTo first (first + n - 1) x
  | none => cur

/-- JOB_RANKS: the range lies in the table and overlaps no other slot's that is not FREE (R252). -/
def State.ranksOk (s : State) (j base n : Nat) : Bool :=
  decide (base + n ≤ 131072) && !slotNums.any (fun i =>
    let b := s.getF F.HUB_JOB_RANKS_BASE 0 i
    let c := s.getF F.HUB_JOB_RANKS_COUNT 0 i
    i ≠ j && s.slotState i ≠ slotFree && decide (0 < n) && decide (0 < c) && decide (base < b + c) && decide (b < base + n))

/-- LOCAL_BASE, clamped into the job's partition by the window's KIND (R253, Table 10-15). -/
def State.localBase (s : State) (j kind cur x : Nat) : Nat :=
  match s.slotPart j with
  | none => cur
  | some p =>
    match kind with
    | 0 => (nearestAddr (fun u => s.prtUnit p u) 1 x).getD cur
    | 1 =>
      let y := 4096 * (x / 4096)
      if x < 2 ^ 30 && s.prtGroup p (bitsOf x 29 22 / 8) then y
      else match nearestOf ((List.range 256).filter (fun c => s.prtGroup p (c / 8))) (Nat.min 255 (x / spadSize)) with
        | some c => spadSize * c + y % spadSize
        | none => cur
    | _ => s.queueIn (some p) cur x

/-- A range of granules clamped to a slot's JOB_UNITS (R377): the nearest first granule, and as many as follow it there. -/
def State.eligFirst (s : State) (j x : Nat) : Option Nat := (nearestAddr (fun u => s.jobUnit j u) granBytes (granBytes * x)).map (· / granBytes)
def State.eligCount (s : State) (j first n : Nat) : Nat :=
  let u0 := first / 512
  let units := ((List.range' u0 (368 - u0)).takeWhile (fun u => s.jobUnit j u)).length
  Nat.min (clampTo 1 188416 n) ((u0 + units) * 512 - first)

/-! ### One field -/

/-- The value that a write of `x`, part of the word `v`, gives a field whose present value is `cur`. -/
def State.fieldValue (s : State) (o : Origin) (b : Block) (inst : Nat) (r : FieldRow) (cur x v : Nat) : Nat :=
  let j := s.selSlot o b
  let copy := s.originCopy o
  let loading := s.slotState j = slotLoading
  let y := ranged b r.off r.lo x
  match b with
  | .slv => if r.off = 0x68 then tauLegal x else y
  | .lch => if r.off = 0x10 && x = 3 then 0 else y
  | .qmg =>
    if r.off = 0x40 then
      (match s.originPart o with
       | some p =>
         let used := (List.range' (s.getF F.PRT_QUEUES_FIRST p) (s.getF F.PRT_QUEUES_COUNT p)).any (fun q => s.ctxEn q)
         if used then cur
         else match nearestAddr (fun u => s.prtUnit p u) 64 (x * 64) with
           | some a => a / 64
           | none => cur
       | none => cur)
    else if r.off = 0x48 then
      (match s.originPart o with
       | some p =>
         if s.prtQueue p x then x else if s.getF F.PRT_QUEUES_COUNT p = 0 then cur else s.getF F.PRT_QUEUES_FIRST p
       | none => x)
    else y
  | .hub =>
    match r.off with
    | 0x48 => (List.range 5).foldl (fun a i => a + Nat.max 1 (bitsOf x (4 * i + 3) (4 * i)) * 16 ^ i) 0
    | 0x60 => if loading && s.ranksOk j (bitsOf v 16 0) (bitsOf v 49 32) then x else cur
    | 0x68 => Nat.min x (s.getF F.HUB_JOB_RANKS_COUNT 0 j - 1)
    | 0x70 => if loading then x else cur
    | 0x80 => if !loading || (r.lo = 60 && 2 < x) then cur else if r.lo = 0 then 4096 * (x / 4096) else x
    | 0x88 => if loading then Nat.max 4096 (4096 * (x / 4096)) else cur
    | 0x90 => if loading then s.localBase j (s.getF F.HUB_WIN_DATA0_KIND 0 (winBank j (s.getF F.HUB_WIN_SEL_WINDOW 0 copy))) cur x else cur
    | 0xA0 => if r.lo = 60 && x = 3 then cur else y
    | _ => y
  | .chn => if r.off = 0x40 && r.lo = 16 then s.slotSelect o cur x else y
  | .cad =>
    match r.off with
    | 0x10 =>
      if r.lo = 0 && cur = 0 && s.timeStat ≠ timeLocked && s.timeStat ≠ timeHoldover then 0 else x
    | 0x50 => if s.getF F.CAD_CTRL_FRAME_EN = 1 then cur else 1000000000 * (x / 1000000000)
    | 0x58 => if s.getF F.CAD_CTRL_FRAME_EN = 1 then cur else y
    | 0x88 => if x < 2 ^ 31 then Nat.min x 1000 else Nat.max x (2 ^ 32 - 1000)
    | 0xC0 => s.slotSelect o cur x
    | off => if 0xC8 ≤ off && off ≤ 0x130 then (if loading then x else cur) else y
  | .fio =>
    if r.off = 0x10 && r.lo = 0 then cur
    else if r.off = 0x10 && r.lo = 4 then x
    else if r.off = 0xE0 then
      let size := 2 ^ s.getF F.FIO_LATE_CFG_LOG2
      let tail := s.getF F.FIO_LATE_TAIL_INDEX
      let gap := (tail + size - cur % size) % size
      if (x + size - cur % size) % size ≤ gap && x < size then x else if x < cur then cur else tail
    else if s.fioOn then cur else y
  | .glb =>
    if r.off = 0x40 then s.slotSelect o cur x
    else if r.off < 0x48 then y
    else if !loading then cur
    else if r.off = 0x48 && r.lo = 32 then (if o = .fabric && s.nameable j x then x else cur)
    else
      match s.slotPart j, r.off with
      | some p, 0x48 => (x &&& s.getF F.PRT_CLU_GROUPS_GROUPS p) ||| (cur &&& ((2 ^ 32 - 1) ^^^ s.getF F.PRT_CLU_GROUPS_GROUPS p))
      | some p, 0x50 => if r.lo = 0 then s.queueIn (some p) cur x else y
      | some _, 0x88 => ((nearestAddr (fun u => s.jobUnit j u) 4096 (4096 * x)).map (· / 4096)).getD cur
      | some p, off =>
        if 0x58 ≤ off && off ≤ 0x80 then
          let mask := (s.regW .prt off p).toNat
          (x &&& mask) ||| (cur &&& ((2 ^ 64 - 1) ^^^ mask))
        else y
      | none, off => if off ≤ 0x88 then cur else y
  | .spo =>
    let en := s.getF F.SPO_SLOT_CTRL_EN 0 j = 1
    match r.off with
    | 0x40 => s.slotSelect o cur x
    | 0x48 => if r.lo = 0 then cur else if r.lo = 16 then (if loading then x else cur) else x
    | 0x50 => if en then cur else x
    | 0x58 => if en then cur else x
    | 0x60 => if en then cur else x
    | 0x68 => if en then cur else x
    | 0x70 => s.queueIn (s.slotPart j) cur x
    | 0x80 =>
      if en || (s.slotPart j).isNone then cur
      else
        match s.eligFirst j (bitsOf v 17 0) with
        | none => cur
        | some f => if r.lo = 63 then x else if r.lo = 0 then f else s.eligCount j f x
    | 0xB8 => if loading then x else cur
    | _ => y
  | .pwr =>
    if r.off = 0x50 && r.lo = 48 then (nearestOf (slotNums.filter (fun i => isRunState (s.slotState i))) x).getD cur
    else if r.off = 0x50 && r.lo = 0 then clampTo 500 (clampTo 500 3400 (bitsOf v 43 32)) x
    else y
  | .prt => if r.off = 0xB0 then x &&& 0xFF3F else y
  | .aud =>
    if r.off = 0x48 then clampTo s.aud.drained s.aud.next x
    else if r.off = 0x68 then
      (match s.aud.entries, s.aud.entries.getLast? with
       | e :: _, some l => clampTo l.seq e.seq x
       | _, _ => cur)
    else y
  | _ => let _ := inst; y

/-! ### A register's fields together -/

/-- CTRL.LOCK (R10). -/
def State.locked (s : State) (b : Block) (inst : Nat) : Bool := bitsOf (s.regW b 0x10 inst).toNat 63 63 = 1

/-- The word a register holds after a plain write (R6, R7, R10). -/
def State.plainWord (s : State) (o : Origin) (b : Block) (inst off : Nat) (v : Word) : Word :=
  let at_ := s.regPlace o b inst off
  let cur := (s.regW b off at_.1 at_.2).toNat
  word ((regRows b inst off).foldl (fun acc r =>
    let c := bitsOf cur r.hi r.lo
    let x := bitsOf v.toNat r.hi r.lo
    let y := match r.acc with
      | .ro => c
      | .wo => c
      | .w1c => c &&& ((2 ^ (r.hi + 1 - r.lo) - 1) ^^^ x)
      | .rwl => if s.locked b inst then c else s.fieldValue o b inst r c x v.toNat
      | .rw => if off = 0x10 && r.lo = 63 then Nat.max c x else s.fieldValue o b inst r c x v.toNat
    setBits acc r.hi r.lo y) cur)

/-! ### What a write does -/

/-- The choice of a time source after its configuration changed. -/
def State.sourcesChanged (s : State) : State :=
  let s1 := s.chooseSrc
  if s1.srcChoice = 0 && s1.time.lostAt.isNone && (s1.timeStat = timeLocked || s1.timeStat = timeAcquiring) then s1.setTime { s1.time with lostAt := some s1.now } else s1

/-- A write of PRT.CTRL: EN, then PRESET; an owner's write carries PRESET alone (R432). -/
def State.prtCtrl (s plain : State) (o : Origin) (p n : Nat) : State :=
  let owner := match o with
    | .mgmt _ => false
    | .rom => false
    | _ => true
  let s1 := if owner then s else if s.locked .prt p then plain else (plain.setF F.PRT_CTRL_EN (s.getF F.PRT_CTRL_EN p) p).prtEnable p (testBit n 0)
  if testBit n 1 then s1.partReset p else s1

/-- The effect of an applied write on the state. DESIGN CHOICE (log 102): THRESHOLD and STALL_MS of the CHN pages, and HUB.ENDPOINT, hold one value
that both pages show (R315, R252); a write through a page whose LOCK is 0 applies, and shows on both, though the other page's LOCK is 1 (R10). -/
def State.regWrite (s : State) (o : Origin) (b : Block) (inst off : Nat) (v : Word) : State :=
  let at_ := s.regPlace o b inst off
  let plain := s.setW b off (s.plainWord o b inst off v) at_.1 at_.2
  let n := v.toNat
  let copy := s.originCopy o
  let j := s.selSlot o b
  if off = 0x20 || off = 0x28 || off = 0x30 then s.irqSince (plain.errForget b inst) b inst
  else
    match b, off with
    | .clu, 0x40 =>
      let stop := bitsOf n 15 8
      (s.thrRunStart inst (bitsOf n 7 0 &&& (255 ^^^ stop))).thrRunStop inst stop
    | .slv, 0x60 => if s.locked b inst then s else s.slvSpadWrite inst n
    | .slv, 0x10 => if s.getF F.SLV_CTRL_EN inst = 0 && plain.getF F.SLV_CTRL_EN inst = 1 then plain.offerChannel inst else plain
    | .mov, 0x10 => if testBit n 0 then plain.movStop inst else if testBit n 1 then plain.movResume inst else plain
    | .qmg, 0x50 =>
      let q := s.getF F.QMG_CTX_SEL_QUEUE 0 copy
      let reach := match s.originPart o with
        | some p => s.prtQueue p q
        | none => true
      if !reach then s else if bitsOf n 1 0 = 1 then s.ctxToData copy q else if bitsOf n 1 0 = 2 then s.ctxWrite copy q else s
    | .fab, 0x10 =>
      let was := s.getF F.FAB_CTRL_EN inst
      let now := plain.getF F.FAB_CTRL_EN inst
      if was = 1 && now = 0 then (if s.getF F.FAB_STAT_UP inst = 1 then plain.portDown inst 3 else plain.setF F.FAB_STAT_LT 3 inst)
      else if was = 0 && now = 1 then plain.setF F.FAB_STAT_LT 1 inst
      else plain
    | .hub, 0x58 => s.jobCtlWrite o j n
    | .chn, 0x10 =>
      (plain.setF F.CHN_CTRL_STALL_MS (plain.getF F.CHN_CTRL_STALL_MS inst) (1 - inst)).setF F.CHN_CTRL_THRESHOLD (plain.getF F.CHN_CTRL_THRESHOLD inst) (1 - inst)
    | .cad, 0x10 =>
      let was := s.getF F.CAD_CTRL_FRAME_EN
      let now := plain.getF F.CAD_CTRL_FRAME_EN
      (if was = 0 && now = 1 then plain.startFrames else if was = 1 && now = 0 then plain.stopFrames else plain).sourcesChanged
    | .cad, 0x78 => plain.sourcesChanged
    | .fio, 0x10 => if testBit n 0 then (if s.fioOn then plain else plain.fioTryEnable) else if s.fioOn then plain.fioStop else plain
    | .glb, 0x48 => if o = .fabric && s.nameable j (bitsOf n 34 32) then plain.setF F.GLB_SLOT_CFG_NAMED 1 0 j else plain
    | .spo, 0x48 =>
      if testBit n 0 then
        (if plain.sporeConfigOk j then plain.setF F.SPO_SLOT_CTRL_EN 1 0 j
         else (plain.setF F.SPO_SLOT_CTRL_EN 0 0 j).setErr F.SPO_ERR_CFG_BAD 0 (s.slotPart j))
      else plain.setF F.SPO_SLOT_CTRL_EN 0 0 j
    | .pwr, 0x40 => if s.locked b inst then s else plain.capWritten
    | .pwr, 0x50 =>
      if plain.getF F.PWR_BROKER0_SLOT = s.getF F.PWR_BROKER0_SLOT && plain.getF F.PWR_BROKER0_EN = s.getF F.PWR_BROKER0_EN then plain
      else plain.brokerClear
    | .prt, 0x10 => s.prtCtrl plain o inst n
    | .prt, 0x40 => if s.locked b inst then s else s.prtOwner inst n
    | .prt, 0x48 => s.prtClass inst n
    | .prt, 0xA0 => (s.prtResource inst off n).setF F.PRT_GRANTS_FABRIC_VIEW (bitsOf n 1 1) inst
    | .prt, 0xA8 => s.prtShares inst n
    | .aud, 0x48 => { s with aud := { s.aud with drained := clampTo s.aud.drained s.aud.next n } }
    | .mgt, 0x70 => (match o with
      | .host l => if testBit n 0 then s.recoveryStart l.toNat else s
      | _ => s)
    | .lcs, 0x40 => s.lcsRequest (n % 4)
    | .lcs, 0x50 => s.lcsConfirmed n
    | b, off =>
      if b = .slv && 0x40 ≤ off && off ≤ 0x58 then (if s.locked b inst then s else s.bindWrite inst ((off - 0x40) / 8) n)
      else if b = .prt && 0x50 ≤ off && off ≤ 0x98 then s.prtResource inst off n
      else if b = .clu && 0x58 ≤ off && off ≤ 0x90 then
        let t := (off - 0x58) / 8
        if (s.thr inst t).startable then s.setF (thrPcFld t) (bitsOf n 14 0) inst else s
      else plain

/-! ### Who may write (R360, R432, R447, R458) -/

/-- Registers of a job slot that its starting origin writes. -/
def slotReg (b : Block) (off : Nat) : Bool :=
  match b with
  | .glb => decide (0x48 ≤ off)
  | .cad => decide (0xC8 ≤ off) && off ≠ 0x140
  | .spo => decide (0x48 ≤ off) && off ≠ 0x78
  | .hub => off = 0x58 || off = 0x60 || off = 0x70 || (decide (0x80 ≤ off) && decide (off ≤ 0x90))
  | _ => false

/-- Registers of the HUB pages that a partition's owner uses to start its jobs: slot registers and the selectors (R286, R482). -/
def hubOwner (off : Nat) : Bool := slotReg .hub off || off = 0x50 || off = 0x68 || off = 0x78 || off = 0x98

/-- Whether a write by an origin is taken in. -/
def State.mayWrite (s : State) (o : Origin) (b : Block) (inst off : Nat) (v : Word) : Bool :=
  if slotReg b off then s.slotWriter o (s.selSlot o b)
  else
    match o with
    | .mgmt _ => true
    | .rom => true
    | .fabric => b = .fab || b = .hub || isSelector b off
    | _ =>
      match b with
      | .prt => off = 0x10 && testBit v.toNat 1
      | .lch => false
      | .hbm => false
      | .fab => false
      | .pwr => false
      | .thm => false
      | .aud => false
      | .sec => false
      | .lcs => false
      | .mgt => s.boot = bootRecovery && decide (0x60 ≤ off) && decide (off ≤ 0x70)
      | .hub => hubOwner off
      | .cad => decide (0xC0 ≤ off)
      | .mov => decide (inst < 48)
      | _ => true

/-- Whether an origin's write reaches a page (R20): a page it sees, or a HUB page's job registers. -/
def State.reaches (s : State) (o : Origin) (b : Block) (inst off : Nat) : Bool :=
  s.canSee o b inst || (b = .hub && hubOwner off && s.boot = bootRun)

/-- Whether the write is an owner's PRESET, which writes one bit of PRT.CTRL. -/
def ownerPreset (o : Origin) (b : Block) : Bool :=
  b = .prt && match o with
    | .mgmt _ => false
    | .rom => false
    | _ => true

/-! ### Applying and holding -/

/-- Applies a write of `value` and appends its audit entry, in which `written` stands (R6, R438). -/
def State.applyWrite (s : State) (o : Origin) (a : Nat) (b : Block) (inst off : Nat) (written value : Word) (flags : Nat) : State × Word :=
  let rows := regRows b inst off
  let old := s.regValue o b inst off
  let wo := rowMask rows (fun r => r.acc = .wo)
  let keep := if ownerPreset o b then 2 ^ 64 - 3 else rowMask rows (fun r => r.acc = .ro || (r.acc = .rwl && s.locked b inst))
  let s1 := s.regWrite o b inst off value
  let new := (s1.regValue o b inst off).toNat
  let applied := word ((new &&& ((2 ^ 64 - 1) ^^^ wo)) ||| (written.toNat &&& wo))
  let ignored := (written.toNat ^^^ old.toNat) &&& keep ≠ 0 || rows.all (fun r => r.acc = .ro)
  let clamped := (applied.toNat ^^^ written.toNat) &&& ((2 ^ 64 - 1) ^^^ (keep ||| rowMask rows (fun r => r.acc = .w1c))) ≠ 0
  let fl := flags + (if ignored then fIgnored else 0) + (if clamped then fClamped else 0)
  (s1.auditReg o a old written applied fl, applied)

/-- Whether a write waits in the page's hold buffer (R16): the clock is stopped, earlier writes wait, or a context operation comes before READY. -/
def State.mustHold (s : State) (b : Block) (inst off : Nat) : Bool :=
  s.clkOff b inst || !(spGet [] s.holds (blockBase b / 4096 + inst)).isEmpty || (b = .qmg && off = 0x50 && s.getF F.QMG_STAT_READY = 0)

/-- Takes a write into the hold buffer, or discards it where 16 are held (R16, R17). -/
def State.holdWrite (s : State) (o : Origin) (a : Nat) (b : Block) (inst off : Nat) (v : Word) : State × Word :=
  let page := blockBase b / 4096 + inst
  let l := s.heldOn b inst
  let seen := s.regHeld o b inst off
  if 16 ≤ l.length then ((s.setErr (errHoldOvf b) inst).auditReg o a seen v seen fDiscarded, seen)
  else
    let wo := rowMask (regRows b inst off) (fun r => r.acc = .wo)
    let t := s.seenBy o b inst
    let would := ((t.regWrite o b inst off v).regValue o b inst off).toNat
    let value := if off = 0x20 then seen &&& ~~~v else word ((would &&& ((2 ^ 64 - 1) ^^^ wo)))
    ({ s with holds := spPut [] s.holds page (l ++ [({ origin := o, addr := a, place := t.regPlace o b inst off, written := v, value := value } : HeldWrite)]) }, value)

/-- A write of a register by an origin: the state after it, and the value applied. -/
def State.busWrite (s : State) (o : Origin) (a : Nat) (v : Word) : State × Word :=
  if !s.serves o then (s, 0)
  else
    match pageAt a with
    | none => (s.auditReg o a 0 v 0 fIgnored, 0)
    | some (b, inst, off) =>
      if (regRows b inst off).isEmpty then (s.auditReg o a 0 v 0 fIgnored, 0)
      else
        let old := s.regHeld o b inst off
        let t := s.seenBy o b inst
        if !s.reaches o b inst off || !t.mayWrite o b inst off v || t.blocked o b off then (s.auditReg o a old v old fIgnored, old)
        else if s.mustHold b inst off then s.holdWrite o a b inst off v
        else s.applyWrite o a b inst off v v 0

/-- REGISTER_WRITE (R6, R18). -/
def execRegisterWrite (o : Origin) (a : BitVec 28) (v : BitVec 64) (s : State) : Host.Outcome State Fault Refusal :=
  done (s.busWrite o a.toNat v).1

/-- An access that is no naturally aligned 8-byte unit (R5): it sets ACC_BAD on a page of the origin's; a write is discarded and recorded. -/
def State.badAccess (s : State) (o : Origin) (n : Nat) (w : Option Word) : State :=
  let s1 := match pageAt n with
    | some (b, inst, _) => if s.canSee o b inst then s.setErr (errAccBad b) inst else s
    | none => s
  match w with
  | none => s1
  | some v => let old := s.busRead o (n / 8 * 8); s1.auditReg o n old v old fDiscarded

/-- BAD_SIZE_ACCESS (R5): a read returns zeros, a write is discarded; either sets ACC_BAD on a page of the origin's. -/
def execBadSizeAccess (o : Origin) (a : BitVec 28) (size : BitVec 8) (w : Option (BitVec 64)) (s : State) : Host.Outcome State Fault Refusal :=
  let n := a.toNat
  done (if size = 8 && n % 8 = 0 then
      (match w with
       | some v => (s.busWrite o n v).1
       | none => s.emit (.regValue (s.busRead o n)))
    else
      let s1 := if s.serves o then s.badAccess o n w else s
      if w.isSome then s1 else s1.emit (.regValue 0))

/-- HELD_WRITES_APPLY (R16): the clock has returned, and the page's held writes are applied in the order they came. -/
def execHeldWritesApply (page : BitVec 16) (s : State) : Host.Outcome State Fault Refusal :=
  let n := page.toNat
  done (match pageAt (4096 * n) with
    | none => s
    | some (b, inst, _) =>
      if s.clkOff b inst || (b = .qmg && s.getF F.QMG_STAT_READY = 0) then s
      else
        (spGet [] s.holds n).foldl (fun s h =>
          let off := h.addr % 4096
          let raw := word (rowMask (regRows b inst off) (fun r => r.acc = .wo || r.acc = .w1c))
          let value := (h.value &&& ~~~raw) ||| (h.written &&& raw)
          (s.applyWrite h.origin h.addr b inst off h.written value fHeld).1) { s with holds := spPut [] s.holds n [] })

/-! ### Commands that are writes of one register -/

/-- A write to a register of a page. -/
def State.poke (s : State) (o : Origin) (b : Block) (inst off v : Nat) : Host.Outcome State Fault Refusal :=
  done (s.busWrite o (regAddr b inst off) (word v)).1

/-- THR_RUN.START (R40). -/
def execThrRunStart (o : Origin) (c m : BitVec 8) (s : State) : Host.Outcome State Fault Refusal := s.poke o .clu c.toNat 0x40 m.toNat

/-- THR_RUN.STOP (R41). -/
def execThrRunStop (o : Origin) (c m : BitVec 8) (s : State) : Host.Outcome State Fault Refusal := s.poke o .clu c.toNat 0x40 (m.toNat * 256)

/-- BIND0 to BIND3, and SPAD for `r` 4 (R164). -/
def execSlvBindWrite (o : Origin) (ch : BitVec 6) (r : BitVec 3) (v : BitVec 64) (s : State) : Host.Outcome State Fault Refusal :=
  if r.toNat ≤ 4 then s.poke o .slv ch.toNat (0x40 + 8 * r.toNat) v.toNat else done s

/-- CTX_OP 1 and 2 (R231). -/
def execCtxOpRead (o : Origin) (s : State) : Host.Outcome State Fault Refusal := s.poke o .qmg 0 0x50 1
def execCtxOpWrite (o : Origin) (s : State) : Host.Outcome State Fault Refusal := s.poke o .qmg 0 0x50 2

/-- MOV.CTRL.STOP and RESUME (R242), with LOCK at its present value. -/
def execMovStop (o : Origin) (ch : BitVec 6) (s : State) : Host.Outcome State Fault Refusal :=
  s.poke o .mov ch.toNat 0x10 (setBits (s.regW .mov 0x10 ch.toNat).toNat 0 0 1)
def execMovResume (o : Origin) (ch : BitVec 6) (s : State) : Host.Outcome State Fault Refusal :=
  s.poke o .mov ch.toNat 0x10 (setBits (s.regW .mov 0x10 ch.toNat).toNat 1 1 1)

/-- CAD.CTRL.FRAME_EN (R319), CTRL's other fields at their present values. -/
def execFrameEnWrite (o : Origin) (en : Bool) (s : State) : Host.Outcome State Fault Refusal :=
  s.poke o .cad 0 0x10 (setBits (s.regW .cad 0x10).toNat 0 0 (if en then 1 else 0))

/-- FIO.CTRL.EN, with SLOT and PORT_EN (R354). -/
def execFioEnable (o : Origin) (slot : BitVec 3) (ports : BitVec 2) (s : State) : Host.Outcome State Fault Refusal :=
  s.poke o .fio 0 0x10 (setBits (setBits (setBits (s.regW .fio 0x10).toNat 10 8 slot.toNat) 5 4 ports.toNat) 0 0 1)

/-- Fabric management names the partition of the slot in its JOB_SEL (R360). -/
def execPartitionName (p : BitVec 3) (s : State) : Host.Outcome State Fault Refusal :=
  s.poke .fabric .glb 0 0x48 (setBits (s.regW .glb 0x48 0 (s.selSlot .fabric .glb)).toNat 34 32 p.toNat)

/-- JOB_CTL of the slot in the origin's HUB.JOB_SEL (R361). -/
def jobCtlWord (st tag rank : Nat) : Nat := 2 ^ 60 * st + 2 ^ 32 * tag + rank
def execJobLoad (o : Origin) (tag : BitVec 16) (rank : BitVec 17) (s : State) : Host.Outcome State Fault Refusal :=
  s.poke o .hub 0 0x58 (jobCtlWord slotLoading tag.toNat rank.toNat)
def execJobAccept (o : Origin) (tag : BitVec 16) (rank : BitVec 17) (s : State) : Host.Outcome State Fault Refusal :=
  s.poke o .hub 0 0x58 (jobCtlWord slotAccepting tag.toNat rank.toNat)
def execJobAbandon (o : Origin) (s : State) : Host.Outcome State Fault Refusal :=
  let j := s.selSlot o .hub
  s.poke o .hub 0 0x58 (jobCtlWord slotWiping (s.slotTag j) (s.myRank j))
def execJobDrain (o : Origin) (s : State) : Host.Outcome State Fault Refusal :=
  let j := s.selSlot o .hub
  s.poke o .hub 0 0x58 (jobCtlWord slotDraining (s.slotTag j) (s.myRank j))

/-- SPO.SLOT_CTRL.EN, with TRIG_EN and RESTORE (R401). -/
def execSporeEnable (o : Origin) (trig : BitVec 5) (restore : Bool) (s : State) : Host.Outcome State Fault Refusal :=
  s.poke o .spo 0 0x48 ((if restore then 2 ^ 16 else 0) + 2 ^ 8 * trig.toNat + 1)

/-- PWR.LIMIT (R405). -/
def execCapWrite (o : Origin) (v : BitVec 64) (s : State) : Host.Outcome State Fault Refusal := s.poke o .pwr 0 0x40 v.toNat

/-- PRT.CTRL.EN (R428) and PRESET (R431). -/
def execPartitionEnable (o : Origin) (p : BitVec 3) (s : State) : Host.Outcome State Fault Refusal :=
  s.poke o .prt p.toNat 0x10 (setBits (s.regW .prt 0x10 p.toNat).toNat 0 0 1)
def execPreset (o : Origin) (p : BitVec 3) (s : State) : Host.Outcome State Fault Refusal :=
  s.poke o .prt p.toNat 0x10 (setBits (s.regW .prt 0x10 p.toNat).toNat 1 1 1)

/-- PRT.CLASS (R430). -/
def execClassWrite (o : Origin) (p : BitVec 3) (v : BitVec 64) (s : State) : Host.Outcome State Fault Refusal := s.poke o .prt p.toNat 0x48 v.toNat

/-- MGT.RCV_CTRL.GO over a host link (R447). -/
def execRecoveryGo (l : BitVec 2) (s : State) : Host.Outcome State Fault Refusal := s.poke (.host l) .mgt 0 0x70 1

/-- LCS.REQ and LCS.CONFIRM (R453). -/
def execLcsReq (o : Origin) (v : BitVec 64) (s : State) : Host.Outcome State Fault Refusal := s.poke o .lcs 0 0x40 v.toNat
def execLcsConfirm (o : Origin) (v : BitVec 64) (s : State) : Host.Outcome State Fault Refusal := s.poke o .lcs 0 0x50 v.toNat

/-! ### Register access over MCTP (R456) -/

/-- MCTP_REG_READ: an offset that is no natural 8-byte unit below 256 MiB is read as R5 and R21 say. -/
def execMctpRegRead (i : BitVec 3) (off : BitVec 32) (s : State) : Host.Outcome State Fault Refusal :=
  let n := off.toNat
  done (s.evbor i.toNat 0x01 (fun s =>
    if n % 8 = 0 then s.emit (.mctp i.toNat 0x01 (natLe 8 (s.busRead (.mgmt true) n).toNat))
    else (s.badAccess (.mgmt true) n none).emit (.mctp i.toNat 0x01 (natLe 8 0))))

/-- MCTP_REG_WRITE. -/
def execMctpRegWrite (i : BitVec 3) (off : BitVec 32) (v : BitVec 64) (s : State) : Host.Outcome State Fault Refusal :=
  let n := off.toNat
  done (s.evbor i.toNat 0x02 (fun s =>
    if n % 8 = 0 then
      let r := s.busWrite (.mgmt true) n v
      r.1.emit (.mctp i.toNat 0x02 (natLe 8 r.2.toNat))
    else
      (s.badAccess (.mgmt true) n (some v)).emit (.mctp i.toNat 0x02 (natLe 8 (s.busRead (.mgmt true) (n / 8 * 8)).toNat))))

/-- AUDIT_ACK: a write of DRAINED_SEQ. -/
def execAuditAck (i : BitVec 3) (seq : BitVec 64) (s : State) : Host.Outcome State Fault Refusal :=
  done (s.evbor i.toNat 0x04 (fun s =>
    let r := s.busWrite (.mgmt true) (regAddr .aud 0 0x48) seq
    r.1.emit (.mctp i.toNat 0x04 (natLe 8 r.2.toNat))))

/-! ### Fabric management (R458, R459) -/

/-- A MGMT cell of a KIND that the management core consumes. -/
def State.mgmtCell (s : State) (x : Cell) (kind : Nat) : Bool :=
  x.type = 0xC && x.dstEp.toNat = s.myEp && s.myEp ≠ epNone && x.crc = cellE2e x && s.powered && s.boot = bootRun && leNat (x.payload.take 1) = kind

/-- The reply to a request. -/
def State.mgmtReply (s : State) (x : Cell) (payload : List Byte) : State := s.sendMgmt x.srcEp.toNat payload

/-- MGMT_REG_READ. -/
def execMgmtRegRead (x : Cell) (s : State) : Host.Outcome State Fault Refusal :=
  let off := payloadNum x 12 4
  done (if !s.mgmtCell x 2 then s
    else if x.srcEp.toNat ≠ s.getF F.MGT_FM_EP_EP then s.addF F.MGT_MGMT_DROP_CNT_COUNT 1
    else
      let r := if off % 8 = 0 then (s, (s.busRead .fabric off).toNat) else (s.badAccess .fabric off none, 0)
      r.1.mgmtReply x (mgmtPayload 4 0 0 s.myEp (payloadNum x 8 4) off r.2 0))

/-- Registers that a REG_WRITE may reach (R458), aligned or not. -/
def fabricTarget (a : Nat) : Bool :=
  match pageAt a with
  | some (b, _, off) => let off := off / 8 * 8; (b = .fab || b = .hub || slotReg b off || (isSelector b off && (b = .glb || b = .cad || b = .spo)))
  | none => false

/-- MGMT_REG_WRITE: a request repeated within 1 s is answered with the earlier reply. -/
def execMgmtRegWrite (x : Cell) (s : State) : Host.Outcome State Fault Refusal :=
  let off := payloadNum x 12 4
  let req := payloadNum x 8 4
  let v := word (payloadNum x 16 8)
  done (if !s.mgmtCell x 3 then s
    else if x.srcEp.toNat ≠ s.getF F.MGT_FM_EP_EP then s.addF F.MGT_MGMT_DROP_CNT_COUNT 1
    else
      match s.mgmt.replies.find? (fun (r : Nat × Nat × List Byte) => r.1 = req && decide (s.now < 1000 * msec + r.2.1)) with
      | some r => s.mgmtReply x r.2.2
      | none =>
        let ok := fabricTarget off
        let old := s.busRead .fabric (off / 8 * 8)
        let r := if ok && off % 8 = 0 then s.busWrite .fabric off v else if ok then (s.badAccess .fabric off (some v), old) else (s.auditReg .fabric off old v old fIgnored, old)
        let payload := mgmtPayload 4 (if ok && off % 8 = 0 then 0 else 1) 0 s.myEp req off v.toNat r.2.toNat
        (r.1.setMgmt { r.1.mgmt with replies := ((req, s.now, payload) :: r.1.mgmt.replies).take 64 }).mgmtReply x payload)

end Sys2Proof.Machine
end

