-- ==== Sys2Proof/Machine/Epilogue.lean ====
section
/-! DEFINITION. The epilogue unit (R82 to R88): EPI, and the start and end of an epilogue. -/

namespace Sys2Proof.Machine

/-- An epilogue descriptor (Table 03-6). -/
structure EpiDesc where
  dst : Nat
  res : Nat
  done_ : Nat
  bias : Nat
  dstStride : Nat
  resStride : Nat
  out : Nat
  act : Nat
  stoch : Bool
  resEn : Bool
  biasEn : Bool
  scaleEn : Bool
  stream : Nat
  scale : Nat
  pwl : Nat
  /-- Every bit the table does not list is zero. -/
  clean : Bool
  deriving DecidableEq, Repr

def epiDesc (bs : List Byte) : EpiDesc :=
  let w := fun i => leNat ((bs.drop (8 * i)).take 8)
  { dst := bitsOf (w 0) 21 0, res := bitsOf (w 0) 53 32, done_ := bitsOf (w 1) 21 0, bias := bitsOf (w 1) 53 32
    dstStride := bitsOf (w 2) 63 48, resStride := bitsOf (w 2) 47 32, out := bitsOf (w 2) 31 28, act := bitsOf (w 2) 27 24
    stoch := testBit (w 2) 23, resEn := testBit (w 2) 22, biasEn := testBit (w 2) 21, scaleEn := testBit (w 2) 20
    stream := bitsOf (w 2) 15 0, scale := bitsOf (w 3) 63 32, pwl := bitsOf (w 3) 21 0
    clean := bitsOf (w 0) 63 54 = 0 && bitsOf (w 0) 31 22 = 0 && bitsOf (w 1) 63 54 = 0 && bitsOf (w 1) 31 22 = 0 &&
      bitsOf (w 2) 19 16 = 0 && bitsOf (w 3) 31 22 = 0 }

/-- The cause with which EPI halts its thread, if its descriptor is in error (R82, R87; alignment of DONE_ADDR and PWL_ADDR log 28). -/
def EpiDesc.error (d : EpiDesc) : Option Nat :=
  if !d.clean || 9 < d.out || 2 < d.act then some causeIllegal
  else if d.done_ % 8 ≠ 0 || (d.act = 2 && d.pwl % 16 ≠ 0) then some causeAlign
  else if spadSize < d.done_ + 8 || (d.act = 2 && spadSize < d.pwl + 528) then some causeAddr
  else none

/-- EPI (R82): copies its descriptor; `e` is what the ECC of the descriptor's words found. Its EW selects nothing and is not checked (log 104). -/
def execEpi (c : BitVec 8) (t : BitVec 3) (y : EpiIssue) (s : State) : Host.Outcome State Fault Refusal :=
  let i := y.fmt
  let e := y.ecc
  issueV c t i s (fun x s =>
    let a := (x.rd i.va.toNat).toNat
    let k := s.clu c.toNat
    let bs := s.spadRead c.toNat a 32
    if k.tqOwner ≠ some t.toNat then s.haltError c.toNat t.toNat causeEngOwner
    else if a % 32 ≠ 0 then s.haltError c.toNat t.toNat causeAlign
    else if spadSize < a + 32 then s.haltError c.toNat t.toNat causeAddr
    else if e = .uncorrectable then s.clusterFault c.toNat .eccUe
    else
      let s := s.spadEcc c.toNat a e
      match (epiDesc bs).error with
      | some e => s.haltError c.toNat t.toNat e
      | none =>
        if k.epi = .idle then (s.setClu c.toNat { k with epi := .waiting t.toNat bs }).setThr c.toNat t.toNat (x.advance (vWords i))
        else s.beginWait c.toNat t.toNat x .waitLocal (.epi bs) (vWords i))

/-! ### One entry (R83 to R86) -/

/-- The entry's format and element bytes. -/
def entFmt (e : TqEntry) : Fmt := if e.fmt = 2 then fp32 else fp64
def entBytes (e : TqEntry) : Nat := if e.fmt = 2 then 4 else 8

/-- The piecewise-linear function (R84); `w i` is the FP32 at byte 4i of the table. A segment index that is no number is a free value
(log 29). -/
def pwlOf (f : Fmt) (w : Nat → Nat) (free : Nat) (y : Nat) : Nat × Nat :=
  if (fpVal f y).isNan then (f.qnan, if (fpVal f y).isSig then flInvalid else 0) else
  let d := fpSub f .rne y (widen32 f (w 0))
  let u := fpMul f .rne d.1 (widen32 f (w 1))
  let k := match fpVal f u.1 with
    | .nan _ => free % 64
    | .inf neg => if neg then 0 else 63
    | .fin neg m e => if neg then 0 else Nat.min 63 (roundAt .rtz false m e 0).1
  let r := fpFma f .rne (widen32 f (w (4 + 2 * k))) y (widen32 f (w (5 + 2 * k)))
  (r.1, d.2 ||| u.2 ||| r.2)

/-- relu: NaN stays NaN; −0 and negatives give +0. -/
def reluOf (f : Fmt) (y : Nat) : Nat := if (fpVal f y).isNan then y else if (fpVal f y).isNeg then 0 else y

/-- One element before its conversion (R83). -/
def epiElem (d : EpiDesc) (f : Fmt) (bias res : Nat) (w : Nat → Nat) (free acc : Nat) : Nat × Nat :=
  let y1 := if d.scaleEn then fpMul f .rne acc (widen32 f d.scale) else (acc, 0)
  let y2 := if d.biasEn then fpAdd f .rne y1.1 bias else (y1.1, 0)
  let y3 := if d.act = 1 then (reluOf f y2.1, 0) else if d.act = 2 then pwlOf f w free y2.1 else (y2.1, 0)
  let y4 := if d.resEn then fpAdd f .rne y3.1 res else (y3.1, 0)
  (y4.1, y1.2 ||| y2.2 ||| y3.2 ||| y4.2)

/-- Draws that an entry takes: one for each element of its rows, padding included (R83). -/
def epiRowDraws (d : EpiDesc) (cols : Nat) : Nat := if isMx d.out then (cols + 31) / 32 * 32 else cols

/-- One output row: its writes, from the row's address, and flags. -/
def epiRow (d : EpiDesc) (f : Fmt) (rnd : Nat → Rnd) (ys : List Nat) : List (Nat × List Byte) × Nat :=
  let vs := ys.map (fpVal f)
  if isMx d.out then mxRow d.out rnd vs
  else let r := ieeeRow d.out rnd vs; ([(0, r.1)], r.2)

/-- The whole output of an entry: writes by scratchpad address, and flags. -/
def State.epiOutput (s : State) (c : Nat) (d : EpiDesc) (e : TqEntry) (rnd : Nat → Rnd) : List (Nat × List Byte) × Nat :=
  let f := entFmt e
  let n := entBytes e
  let rd := fun a => leNat (s.spadRead c a n)
  let pw := fun i => leNat (s.spadRead c (d.pwl + 4 * i) 4)
  (List.range e.rows).foldl (fun (q : List (Nat × List Byte) × Nat) r =>
    let es := (List.range e.cols).map (fun j =>
      epiElem d f (rd (d.bias + j * n)) (rd (d.res + r * d.resStride + j * n)) pw
        (Config.freeWord (s.fresh + r * e.cols + j)).toNat (leNat ((e.data.drop (n * (r * e.cols + j))).take n)))
    let o := epiRow d f (fun j => rnd (r * epiRowDraws d e.cols + j)) (es.map Prod.fst)
    (q.1 ++ o.1.map (fun w => (d.dst + r * d.dstStride + w.1, w.2)), es.foldl (fun a x => a ||| x.2) (q.2 ||| o.2))) ([], 0)

/-- Bias and residual ranges of an entry. -/
def epiReads (d : EpiDesc) (e : TqEntry) : List (Nat × Nat) :=
  (if d.biasEn then [(d.bias, e.cols * entBytes e)] else []) ++
  (if d.resEn then (List.range e.rows).map (fun r => (d.res + r * d.resStride, e.cols * entBytes e)) else [])

/-- Whether the rows of an entry's output lie at multiples of 8, where they must (MX outputs, R96). -/
def EpiDesc.rowsAligned (d : EpiDesc) (e : TqEntry) : Bool := !isMx d.out || (d.dst % 8 = 0 && (decide (e.rows ≤ 1) || d.dstStride % 8 = 0))

/-- Counts the words that an epilogue found corrected: in the queue entry, and in the scratchpad from the first range it reads on (R45). -/
def State.epiCe (s : State) (c a : Nat) (tq sp : Ecc) : State :=
  let s1 := if (eccWords tq).isEmpty then s else s.addSat F.CLU_ECC_STAT_TQ_CE (eccWords tq).length c
  s1.spadEcc c a sp

/-- EPILOGUE_START: on the head entry, which is freed (R82, R83, R86); `tq` and `sp` are what the ECC of the entry and of the scratchpad words
read found. An output beyond the scratchpad, a row of MX output not at a multiple of 8, or an output in the reserved range halts the thread
and the epilogue ends (R87, log 28); an uncorrectable word of the entry, of the operands or of the unit is the cluster's fault. -/
def execEpilogueStart (x : EpiStart) (s : State) : Host.Outcome State Fault Refusal :=
  let c := x.c
  let tq := x.tq
  let sp := x.sp
  let k := s.clu c.toNat
  done (match k.epi, k.tq with
    | .waiting t bs, e :: rest =>
      let d := epiDesc bs
      let reads := epiReads d e
      let step := s.stepOf c.toNat
      let base := drawBase step k.epiStep k.epiDraw
      let rnd : Nat → Rnd := fun i => if d.stoch then .draw (s.drawFor c.toNat d.stream 8 (base + i)) else .mode .rne
      let o := s.epiOutput c.toNat d e rnd
      let bad := s.setClu c.toNat { k with epi := .idle }
      if tq = .uncorrectable || sp = .uncorrectable then s.clusterFault c.toNat .eccUe
      else if !d.rowsAligned e then bad.haltError c.toNat t causeAlign
      else if reads.any (fun r => spadSize < r.1 + r.2) || o.1.any (fun w => spadSize < w.1 + w.2.length) then bad.haltError c.toNat t causeAddr
      else if o.1.any (fun w => s.spadReserved c.toNat w.1 w.2.length) || s.spadReserved c.toNat d.done_ 8 then
        bad.haltError c.toNat t causeSpadProt
      else if !reads.all (fun r => s.spadVerify c.toNat r.1 r.2) then s.clusterFault c.toNat .tileCheck
      else
        let n := e.rows * epiRowDraws d e.cols
        { (s.epiCe c.toNat (((reads.map Prod.fst)[0]?).getD d.pwl) tq sp).setClu c.toNat { k with
            epi := .running t o.1 d.done_ o.2, tq := rest
            epiDraw := if d.stoch then (base + n) % 2 ^ 32 else k.epiDraw, epiStep := if d.stoch then step else k.epiStep } with
          fresh := s.fresh + e.rows * e.cols }
    | _, _ => s)

/-- EPILOGUE_DONE: output, seals and completion word (R85); an uncorrectable word held in the unit is the cluster's fault (R87). -/
def execEpilogueDone (x : EpiEnd) (s : State) : Host.Outcome State Fault Refusal :=
  let c := x.c
  let e := x.ecc
  let k := s.clu c.toNat
  done (match k.epi with
    | .running t ws doneAddr fl =>
      if e = .uncorrectable then s.clusterFault c.toNat .eccUe else
      let s1 := ws.foldl (fun s w => s.spadWrite c.toNat w.1 w.2) s
      let tiles := ((ws.flatMap (fun w => tilesOf w.1 w.2.length)).eraseDups)
      let s2 := tiles.foldl (fun s a => s.spadSealTile c.toNat a) s1
      let n := (k.epiCount + 1) % 2 ^ 64
      let s3 := s2.spadWrite c.toNat doneAddr (natLe 8 n)
      let s4 := s3.setClu c.toNat { s3.clu c.toNat with epi := .idle, epiCount := n }
      (s4.setThr c.toNat t ((s4.thr c.toNat t).raise fl)).settle c.toNat
    | _ => s)

end Sys2Proof.Machine
end

