-- ==== Sys2Proof/Machine/Matrix.lean ====
section
/-! DEFINITION. The matrix engine (chapter 05) and the tile queue's push (R55). Held formats are those in issue order; data
changes when an operation completes. -/

namespace Sys2Proof.Machine

/-! ### Accumulators (R116) -/

def accKey (a r c : Nat) : Nat := 1024 * a + r * 32 + c
def Cluster.accGet (k : Cluster) (a r c : Nat) : Nat := (spGet 0 k.acc (accKey a r c)).toNat
def Cluster.accPut (k : Cluster) (a r c v : Nat) : Cluster := { k with acc := spPut 0 k.acc (accKey a r c) (BitVec.ofNat 64 v) }
def Cluster.fmtOf (k : Cluster) (a : Nat) : AccFmt := spGet .fp64 k.accFmt a
def Cluster.putFmt (k : Cluster) (a : Nat) (f : AccFmt) : Cluster := { k with accFmt := spPut .fp64 k.accFmt a f }

/-- Marks the accumulators of a code: 0 FP64, 1 FP32, 2 a pair. -/
def Cluster.putCode (k : Cluster) (d code : Nat) : Cluster :=
  if code = 0 then k.putFmt d .fp64 else if code = 1 then k.putFmt d .fp32 else (k.putFmt d .hi).putFmt (d + 1) .lo

def Cluster.isPair (k : Cluster) (d : Nat) : Bool := d % 2 = 0 && k.fmtOf d = .hi && k.fmtOf (d + 1) = .lo

/-- All elements of a tile, row by row. -/
def accPlaces (rows cols : Nat) : List (Nat × Nat) := (List.range rows).flatMap (fun r => (List.range cols).map (fun c => (r, c)))

/-- Bytes of an element of a code in scratchpad (R120). -/
def accBytes (code : Nat) : Nat := if code = 0 then 8 else if code = 1 then 4 else 16

/-! ### Issue (R117 to R121, R131) -/

/-- Issues a matrix instruction: VD[4:3] zero, the matrix claim held (R54). No rule orders the causes of an instruction with several errors: the
model tests VD[4:3], then the claim, then a descriptor's alignment and address, then what makes it illegal, then its operands' alignment and
addresses (log 97). -/
def mtxOp (c : BitVec 8) (t : BitVec 3) (i : VFmt) (s : State) (f : Thread → State → State) : Host.Outcome State Fault Refusal :=
  issueV c t i s (fun x s =>
    if 8 ≤ i.vd.toNat then s.haltError c.toNat t.toNat causeIllegal
    else if (s.clu c.toNat).mtxOwner ≠ some t.toNat then s.haltError c.toNat t.toNat causeEngOwner
    else f x s)

/-- Hands an operation to the engine and advances the thread. -/
def State.issueMtx (s : State) (c t : Nat) (i : VFmt) (x : Thread) (k : Cluster) (o : MtxOp) : State :=
  (s.setClu c { k with mops := k.mops ++ [(t, o)] }).setThr c t (x.advance (vWords i))

/-- The code that EW and IMM24[0] give; none is illegal (a pair of FP32 among them, log 27). -/
def mtxCode (i : VFmt) : Option Nat :=
  let pair := testBit (vImm i).toNat 0
  if i.ew = 4 then (if pair then (if i.vd.toNat % 2 = 0 then some 2 else none) else some 0)
  else if i.ew = 5 && !pair then some 1 else none

def execMzero (c : BitVec 8) (t : BitVec 3) (i : VFmt) (s : State) : Host.Outcome State Fault Refusal :=
  mtxOp c t i s (fun x s =>
    match mtxCode i with
    | none => s.haltError c.toNat t.toNat causeIllegal
    | some code => s.issueMtx c.toNat t.toNat i x ((s.clu c.toNat).putCode i.vd.toNat code) (.zero i.vd.toNat code))

/-- Whether the sixteen rows of MLDA or MSTA lie in the scratchpad. The stride counts as unsigned and a row's address does not wrap, so a negative
stride fails: R120 does not say how it is read (log 98). -/
def rowsFit (a stride n : Nat) : Bool := decide (a + 15 * stride + n ≤ spadSize)

def execMlda (c : BitVec 8) (t : BitVec 3) (i : VFmt) (s : State) : Host.Outcome State Fault Refusal :=
  mtxOp c t i s (fun x s =>
    let a := (x.rd i.va.toNat).toNat
    let st := (x.rd i.vb.toNat).toNat
    match mtxCode i with
    | none => s.haltError c.toNat t.toNat causeIllegal
    | some code =>
      if a % 8 ≠ 0 || st % 8 ≠ 0 then s.haltError c.toNat t.toNat causeAlign
      else if !rowsFit a st (24 * accBytes code) then s.haltError c.toNat t.toNat causeAddr
      else s.issueMtx c.toNat t.toNat i x ((s.clu c.toNat).putCode i.vd.toNat code) (.load i.vd.toNat code a st))

/-- The code MSTA stores: a pair with IMM24[0], else by the held format. -/
def mstaCode (k : Cluster) (i : VFmt) : Option Nat :=
  if testBit (vImm i).toNat 0 then (if k.isPair i.vd.toNat then some 2 else none)
  else if k.fmtOf i.vd.toNat = .fp32 then some 1 else some 0

/-- MSTA. An address both out of range and reserved halts with ADDR: no rule orders the two (log 97). -/
def execMsta (c : BitVec 8) (t : BitVec 3) (i : VFmt) (s : State) : Host.Outcome State Fault Refusal :=
  mtxOp c t i s (fun x s =>
    let a := (x.rd i.va.toNat).toNat
    let st := (x.rd i.vb.toNat).toNat
    let k := s.clu c.toNat
    match mstaCode k i with
    | none => s.haltError c.toNat t.toNat causeIllegal
    | some code =>
      if a % 8 ≠ 0 || st % 8 ≠ 0 then s.haltError c.toNat t.toNat causeAlign
      else if !rowsFit a st (24 * accBytes code) then s.haltError c.toNat t.toNat causeAddr
      else if (List.range 16).any (fun r => s.spadReserved c.toNat (a + r * st) (24 * accBytes code)) then
        s.haltError c.toNat t.toNat causeSpadProt
      else s.issueMtx c.toNat t.toNat i x k (.store i.vd.toNat code a st))

/-- FMT of a queue entry (Table 02-7a). -/
def entryFmt (f : AccFmt) : Nat := if f = .fp32 then 2 else 1

def execMpush (c : BitVec 8) (t : BitVec 3) (i : VFmt) (s : State) : Host.Outcome State Fault Refusal :=
  mtxOp c t i s (fun x s =>
    let k := s.clu c.toNat
    s.issueMtx c.toNat t.toNat i x k (.push i.vd.toNat (bitsOf (x.rd i.va.toNat).toNat 15 0) (entryFmt (k.fmtOf i.vd.toNat))))

def execMfence (c : BitVec 8) (t : BitVec 3) (i : VFmt) (s : State) : Host.Outcome State Fault Refusal :=
  mtxOp c t i s (fun x s =>
    if (s.clu c.toNat).busyFor t.toNat then s.beginWait c.toNat t.toNat x .waitRes .mfence (vWords i)
    else s.setThr c.toNat t.toNat (x.advance (vWords i)))

/-- The fields of an MMA descriptor (Table 05-2). -/
structure MmaDesc where
  aAddr : Nat
  bAddr : Nat
  aStride : Nat
  bStride : Nat
  k : Nat
  aFmt : Nat
  bFmt : Nat
  x2 : Bool
  n : Nat
  rows : Nat
  cols : Nat
  push : Bool
  tag : Nat
  /-- Every bit the table does not list is zero. -/
  clean : Bool
  deriving DecidableEq, Repr

def mmaDesc (w0 w1 w2 w3 : Nat) : MmaDesc :=
  { aAddr := bitsOf w0 21 0, bAddr := bitsOf w0 53 32, aStride := bitsOf w1 63 48, bStride := bitsOf w1 47 32, k := bitsOf w1 15 0
    aFmt := bitsOf w2 31 28, bFmt := bitsOf w2 27 24, x2 := testBit w2 20, n := bitsOf w2 18 16 + 1, rows := bitsOf w2 12 8
    cols := bitsOf w2 4 0, push := testBit w3 63, tag := bitsOf w3 47 32
    clean := bitsOf w0 63 54 = 0 && bitsOf w0 31 22 = 0 && bitsOf w1 31 16 = 0 && bitsOf w2 63 32 = 0 && bitsOf w2 23 21 = 0 &&
      bitsOf w2 19 19 = 0 && bitsOf w2 15 13 = 0 && bitsOf w2 7 5 = 0 && bitsOf w3 62 48 = 0 && bitsOf w3 31 0 = 0 }

/-- Whether Table 05-3 has the combination. -/
def MmaDesc.comb (x : MmaDesc) : Bool :=
  if x.x2 then x.aFmt = 0 && x.bFmt = 0
  else (x.aFmt = x.bFmt && decide (x.aFmt < 3)) || (isMx x.aFmt && isMx x.bFmt)

/-- Accumulators a tile uses. -/
def MmaDesc.span (x : MmaDesc) : Nat := if x.x2 then 2 else 1

/-- Whether the accumulators hold the formats Table 05-3 requires. -/
def MmaDesc.held (x : MmaDesc) (k : Cluster) (d : Nat) : Bool :=
  (List.range x.n).all (fun t =>
    if x.x2 then k.isPair (d + 2 * t) else k.fmtOf (d + t) = (if x.aFmt = 0 then .fp64 else .fp32))

def MmaDesc.legal (x : MmaDesc) (k : Cluster) (d : Nat) : Bool :=
  x.clean && x.comb && decide (1 ≤ x.rows) && decide (x.rows ≤ 16) && decide (1 ≤ x.cols) && decide (x.cols ≤ 24) && decide (1 ≤ x.k) &&
  decide (d + x.span * x.n ≤ 8) && x.held k d

/-- Addresses of the operand rows: A rows 0 to 16n − 1, B columns 0 to 23 (R118, R120). -/
def MmaDesc.aRows (x : MmaDesc) : List Nat := (List.range (16 * x.n)).map (fun r => x.aAddr + r * x.aStride)
def MmaDesc.bCols (x : MmaDesc) : List Nat := (List.range 24).map (fun j => x.bAddr + j * x.bStride)

def MmaDesc.fits (x : MmaDesc) : Bool :=
  x.aRows.all (fun a => decide (a + rowBytes x.aFmt x.k ≤ spadSize)) && x.bCols.all (fun a => decide (a + rowBytes x.bFmt x.k ≤ spadSize))

/-- The operands as they stand: rows of A, columns of B, the checksums of their tiles, and whether they verify (R120, R121). -/
def State.mmaReads (s : State) (c : Nat) (x : MmaDesc) : List Nat :=
  let rows := x.aRows.map (fun a => (a, rowBytes x.aFmt x.k)) ++ x.bCols.map (fun a => (a, rowBytes x.bFmt x.k))
  rows.map (fun r => readLe s.spad (spadKey c r.1) r.2) ++
  rows.flatMap (fun r => (tilesOf r.1 r.2).map (fun t => (spGet 0 s.spadSum (spadSumKey c t)).toNat)) ++
  [if rows.all (fun r => s.spadVerify c r.1 r.2) then 1 else 0]

/-- Elements of accumulators with unspecified contents, in the rows and columns of a tile: free values from number `n` on (log 3). -/
def Cluster.freeAccs (k : Cluster) (as : List Nat) (rows cols n : Nat) : Cluster :=
  as.foldl (fun k a => (accPlaces rows cols).foldl (fun k p =>
    let v := (Config.freeWord (n + 384 * a + 24 * p.1 + p.2)).toNat
    k.accPut a p.1 p.2 (if k.fmtOf a = .fp32 then v % 2 ^ 32 else v)) k) k

/-- Free values that an operation's accumulators and outcome can take. -/
abbrev mtxFree : Nat := 384 * 16

/-- ECC_UE or TILE_CHECK of an operation: its accumulators hold unspecified values, and the cluster faults (R131). -/
def State.mtxFaultOf (s : State) (c : Nat) (as : List Nat) (f : JobFault) : State :=
  ({ s.setClu c ((s.clu c).freeAccs as 16 24 s.fresh) with fresh := s.fresh + mtxFree }).clusterFault c f

/-- MMA. Where the descriptor's own words are uncorrectable, the accumulators it would have named are any from the first on (R131). -/
def execMma (c : BitVec 8) (t : BitVec 3) (i : VFmt) (e : Ecc) (s : State) : Host.Outcome State Fault Refusal :=
  mtxOp c t i s (fun x s =>
    let a := (x.rd i.va.toNat).toNat
    if a % 32 ≠ 0 then s.haltError c.toNat t.toNat causeAlign
    else if spadSize < a + 32 then s.haltError c.toNat t.toNat causeAddr
    else if e = .uncorrectable then s.mtxFaultOf c.toNat ((List.range 8).filter (fun a => i.vd.toNat ≤ a)) .eccUe
    else
      let s := s.spadEcc c.toNat a e
      let w := fun j => readLe s.spad (spadKey c.toNat a + 8 * j) 8
      let d := mmaDesc (w 0) (w 1) (w 2) (w 3)
      let k := s.clu c.toNat
      if !d.legal k i.vd.toNat then s.haltError c.toNat t.toNat causeIllegal
      else if d.aAddr % 8 ≠ 0 || d.bAddr % 8 ≠ 0 || d.aStride % 8 ≠ 0 || d.bStride % 8 ≠ 0 then s.haltError c.toNat t.toNat causeAlign
      else if !d.fits then s.haltError c.toNat t.toNat causeAddr
      else s.issueMtx c.toNat t.toNat i x k (.mma i.vd.toNat (w 0) (w 1) (w 2) (w 3) (s.mmaReads c.toNat d)))

/-! ### Completion (R55, R122 to R128, R130) -/

/-- The queue entry of rows and columns of an accumulator (Table 02-7a); SEQ is given as it enters the queue. -/
def Cluster.entry (k : Cluster) (a tag fmt rows cols : Nat) : TqEntry :=
  { seq := 0, tag := tag, fmt := fmt, acc := a, rows := rows, cols := cols
    data := (accPlaces rows cols).flatMap (fun p => natLe (if fmt = 2 then 4 else 8) (k.accGet a p.1 p.2)) }

/-- Element of an accumulator after an MMA: new values of the accumulators used, and flags. -/
def mmaElem (x : MmaDesc) (k : Cluster) (a i j ra rb : Nat) : Cluster × Nat :=
  if x.x2 then
    let r := dotPair (k.accGet a i j, k.accGet (a + 1) i j) ((ieeeOperand 0 x.k ra).zip (ieeeOperand 0 x.k rb))
    ((k.accPut a i j r.1.1).accPut (a + 1) i j r.1.2, r.2)
  else if isMx x.aFmt then
    let r := dotMx (k.accGet a i j) (mxOperand x.aFmt x.k ra) (mxOperand x.bFmt x.k rb)
    (k.accPut a i j r.1, r.2)
  else
    let r := dotIeee (if x.aFmt = 0 then fp64 else fp32) (if x.aFmt = 2 then 16 else 4) (k.accGet a i j)
      ((ieeeOperand x.aFmt x.k ra).zip (ieeeOperand x.bFmt x.k rb))
    (k.accPut a i j r.1, r.2)

/-- All output tiles of an MMA. -/
def State.mmaTiles (s : State) (c d : Nat) (x : MmaDesc) : Cluster × Nat :=
  let rowA := fun r => readLe s.spad (spadKey c (x.aAddr + r * x.aStride)) (rowBytes x.aFmt x.k)
  let colB := fun j => readLe s.spad (spadKey c (x.bAddr + j * x.bStride)) (rowBytes x.bFmt x.k)
  (List.range x.n).foldl (fun q t =>
    (accPlaces x.rows x.cols).foldl (fun (q : Cluster × Nat) p =>
      let r := mmaElem x q.1 (d + x.span * t) p.1 p.2 (rowA (16 * t + p.1)) (colB p.2)
      (r.1, q.2 ||| r.2)) q) (s.clu c, 0)

/-- One element loaded by MLDA: the pair is normalised (R127). -/
def loadElem (k : Cluster) (d code i j v : Nat) : Cluster × Nat :=
  if code = 2 then
    let r := pairNorm (v % 2 ^ 64) (v / 2 ^ 64)
    ((k.accPut d i j r.1.1).accPut (d + 1) i j r.1.2, r.2)
  else (k.accPut d i j v, 0)

/-- Bytes of row `i` as MSTA stores them. -/
def storeRow (k : Cluster) (d code i : Nat) : List Byte :=
  (List.range 24).flatMap (fun j =>
    if code = 2 then natLe 8 (k.accGet d i j) ++ natLe 8 (k.accGet (d + 1) i j) else natLe (accBytes code) (k.accGet d i j))

/-- The effect of a finished operation on a cluster: its accumulators, flags for the issuing thread, tiles pushed; a store writes
the scratchpad. None: an operand tile's checksum does not match. An MMA whose operands have been written since its issue, which R121
forbids, may have read them before or after: what it computes is free, or it meets TILE_CHECK (log 85). -/
def State.runMtx (s : State) (c : Nat) (o : MtxOp) : Option (State × Nat × List TqEntry) :=
  let k := s.clu c
  match o with
  | .zero d code =>
    let k1 := (accPlaces 16 24).foldl (fun k p => let k2 := k.accPut d p.1 p.2 0; if code = 2 then k2.accPut (d + 1) p.1 p.2 0 else k2) k
    some (s.setClu c k1, 0, [])
  | .load d code a st =>
    let n := accBytes code
    if !(List.range 16).all (fun r => s.spadVerify c (a + r * st) (24 * n)) then none else
    let r := (accPlaces 16 24).foldl (fun (q : Cluster × Nat) p =>
      let e := loadElem q.1 d code p.1 p.2 (leNat (s.spadRead c (a + p.1 * st + p.2 * n) n))
      (e.1, q.2 ||| e.2)) (k, 0)
    some (s.setClu c r.1, r.2, [])
  | .store d code a st =>
    some ((List.range 16).foldl (fun s r => s.spadSealWrite c (a + r * st) (storeRow k d code r)) s, 0, [])
  | .push d tag fmt => some (s, 0, [k.entry d tag fmt 16 24])
  | .mma d w0 w1 w2 w3 seen =>
    let x := mmaDesc w0 w1 w2 w3
    let torn := decide (seen ≠ s.mmaReads c x)
    let w := (Config.freeWord (s.fresh + (mtxFree - 1))).toNat
    if (if torn then testBit w 63
        else !(x.aRows.all (fun a => s.spadVerify c a (rowBytes x.aFmt x.k)) && x.bCols.all (fun a => s.spadVerify c a (rowBytes x.bFmt x.k))))
    then none else
    let r := if torn then (k.freeAccs ((List.range (x.span * x.n)).map (fun j => d + j)) x.rows x.cols s.fresh, bitsOf w 5 0) else s.mmaTiles c d x
    let ps := if x.push then (List.range x.n).map (fun t =>
      r.1.entry (d + x.span * t) x.tag (if x.x2 || x.aFmt = 0 then 1 else 2) x.rows x.cols) else []
    some ((if torn then { s with fresh := s.fresh + mtxFree } else s).setClu c r.1, r.2, ps)

/-- Address that a corrected word of an operation's operands is counted at. -/
def mtxAddr : MtxOp → Option Nat
  | .load _ _ a _ => some a
  | .mma _ w0 _ _ _ _ => some (bitsOf w0 21 0)
  | _ => none

/-- The accumulators an operation names. -/
def mtxAccs : MtxOp → List Nat
  | .zero d code => if code = 2 then [d, d + 1] else [d]
  | .load d code _ _ => if code = 2 then [d, d + 1] else [d]
  | .store d code _ _ => if code = 2 then [d, d + 1] else [d]
  | .push d _ _ => [d]
  | .mma d w0 w1 w2 w3 _ => let x := mmaDesc w0 w1 w2 w3; (List.range (x.span * x.n)).map (fun j => d + j)

/-- The event met by an operation that runs. -/
def State.mtxFault (s : State) (c : Nat) (o : MtxOp) (f : JobFault) : State := s.mtxFaultOf c (mtxAccs o) f

/-- MATRIX_OP_COMPLETE: the oldest operation finishes; none while a finished tile waits for the queue (R55). -/
def execMatrixOpComplete (c : BitVec 8) (e : Ecc) (s : State) : Host.Outcome State Fault Refusal :=
  let k := s.clu c.toNat
  done (match k.mops with
    | [] => s
    | (t, o) :: rest =>
      if !k.pushPend.isEmpty || k.faulted then s
      else if e = .uncorrectable then s.mtxFault c.toNat o .eccUe
      else
        let s1 := match mtxAddr o with
          | some a => s.spadEcc c.toNat a e
          | none => s
        match (s1.setClu c.toNat { k with mops := rest }).runMtx c.toNat o with
        | none => s1.mtxFault c.toNat o .tileCheck
        | some (s2, fl, ps) =>
          let k2 := s2.clu c.toNat
          let s3 := s2.setClu c.toNat { k2 with pushPend := ps.map (fun p => (t, p)) }
          (s3.setThr c.toNat t ((s3.thr c.toNat t).raise fl)).settle c.toNat)

/-- TILE_QUEUE_PUSH: a finished tile enters the queue once an entry is free (R55). -/
def execTileQueuePush (c : BitVec 8) (s : State) : Host.Outcome State Fault Refusal :=
  let k := s.clu c.toNat
  done (match k.pushPend with
    | [] => s
    | (_, p) :: rest =>
      if 16 ≤ k.tq.length then s
      else
        (s.setClu c.toNat { k with pushPend := rest, tq := k.tq ++ [{ p with seq := k.pushSeq }], pushSeq := (k.pushSeq + 1) % 2 ^ 24 }).settle c.toNat)

end Sys2Proof.Machine
end

