-- ==== Sys2Proof/Machine/Dispatch.lean ====
section
/-! DEFINITION. The dispatch: one arm for each command of spec/opcode_table.json, each one call of its meaning. -/

namespace Sys2Proof.Machine

def exec (i : Instr) (s : State) : Host.Outcome State Fault Refusal :=
  match i with
  | .registerWrite o a v => Sys2Proof.Machine.execRegisterWrite o a v s
  | .badSizeAccess o a size w => Sys2Proof.Machine.execBadSizeAccess o a size w s
  | .heldWritesApply page => Sys2Proof.Machine.execHeldWritesApply page s
  | .cfgDigestRead o page => Sys2Proof.Machine.execCfgDigestRead o page s
  | .jobDigestRead o w => Sys2Proof.Machine.execJobDigestRead o w s
  | .thrRunStart o c m => Sys2Proof.Machine.execThrRunStart o c m s
  | .thrRunStop o c m => Sys2Proof.Machine.execThrRunStop o c m s
  | .add c t xi => Sys2Proof.Machine.execAdd c t xi s
  | .sub c t xi => Sys2Proof.Machine.execSub c t xi s
  | .mul c t xi => Sys2Proof.Machine.execMul c t xi s
  | .mulhu c t xi => Sys2Proof.Machine.execMulhu c t xi s
  | .mulhs c t xi => Sys2Proof.Machine.execMulhs c t xi s
  | .andI c t xi => Sys2Proof.Machine.execAndI c t xi s
  | .orI c t xi => Sys2Proof.Machine.execOrI c t xi s
  | .xor c t xi => Sys2Proof.Machine.execXor c t xi s
  | .sll c t xi => Sys2Proof.Machine.execSll c t xi s
  | .srl c t xi => Sys2Proof.Machine.execSrl c t xi s
  | .sra c t xi => Sys2Proof.Machine.execSra c t xi s
  | .min c t xi => Sys2Proof.Machine.execMin c t xi s
  | .max c t xi => Sys2Proof.Machine.execMax c t xi s
  | .minu c t xi => Sys2Proof.Machine.execMinu c t xi s
  | .maxu c t xi => Sys2Proof.Machine.execMaxu c t xi s
  | .seq c t xi => Sys2Proof.Machine.execSeq c t xi s
  | .slt c t xi => Sys2Proof.Machine.execSlt c t xi s
  | .sltu c t xi => Sys2Proof.Machine.execSltu c t xi s
  | .divu c t xi => Sys2Proof.Machine.execDivu c t xi s
  | .remu c t xi => Sys2Proof.Machine.execRemu c t xi s
  | .fadd c t xi => Sys2Proof.Machine.execFadd c t xi s
  | .fsub c t xi => Sys2Proof.Machine.execFsub c t xi s
  | .fmul c t xi => Sys2Proof.Machine.execFmul c t xi s
  | .fma c t xi => Sys2Proof.Machine.execFma c t xi s
  | .fdiv c t xi => Sys2Proof.Machine.execFdiv c t xi s
  | .fsqrt c t xi => Sys2Proof.Machine.execFsqrt c t xi s
  | .fmin c t xi => Sys2Proof.Machine.execFmin c t xi s
  | .fmax c t xi => Sys2Proof.Machine.execFmax c t xi s
  | .feq c t xi => Sys2Proof.Machine.execFeq c t xi s
  | .flt c t xi => Sys2Proof.Machine.execFlt c t xi s
  | .fle c t xi => Sys2Proof.Machine.execFle c t xi s
  | .fcvtI c t xi => Sys2Proof.Machine.execFcvtI c t xi s
  | .fcvtF c t xi => Sys2Proof.Machine.execFcvtF c t xi s
  | .fabs c t xi => Sys2Proof.Machine.execFabs c t xi s
  | .fneg c t xi => Sys2Proof.Machine.execFneg c t xi s
  | .frm c t xi => Sys2Proof.Machine.execFrm c t xi s
  | .br c t xi => Sys2Proof.Machine.execBr c t xi s
  | .bz c t xi => Sys2Proof.Machine.execBz c t xi s
  | .bnz c t xi => Sys2Proof.Machine.execBnz c t xi s
  | .blt c t xi => Sys2Proof.Machine.execBlt c t xi s
  | .bge c t xi => Sys2Proof.Machine.execBge c t xi s
  | .call c t xi => Sys2Proof.Machine.execCall c t xi s
  | .jr c t xi => Sys2Proof.Machine.execJr c t xi s
  | .ldsB c t xi e => Sys2Proof.Machine.execLdsB c t xi e s
  | .ldsH c t xi e => Sys2Proof.Machine.execLdsH c t xi e s
  | .ldsW c t xi e => Sys2Proof.Machine.execLdsW c t xi e s
  | .ldsD c t xi e => Sys2Proof.Machine.execLdsD c t xi e s
  | .ldsBs c t xi e => Sys2Proof.Machine.execLdsBs c t xi e s
  | .ldsHs c t xi e => Sys2Proof.Machine.execLdsHs c t xi e s
  | .ldsWs c t xi e => Sys2Proof.Machine.execLdsWs c t xi e s
  | .stsB c t xi => Sys2Proof.Machine.execStsB c t xi s
  | .stsH c t xi => Sys2Proof.Machine.execStsH c t xi s
  | .stsW c t xi => Sys2Proof.Machine.execStsW c t xi s
  | .stsD c t xi => Sys2Proof.Machine.execStsD c t xi s
  | .ldg c t xi => Sys2Proof.Machine.execLdg c t xi s
  | .stg c t xi => Sys2Proof.Machine.execStg c t xi s
  | .aadd c t xi => Sys2Proof.Machine.execAadd c t xi s
  | .aaddn c t xi => Sys2Proof.Machine.execAaddn c t xi s
  | .amin c t xi => Sys2Proof.Machine.execAmin c t xi s
  | .aminn c t xi => Sys2Proof.Machine.execAminn c t xi s
  | .amax c t xi => Sys2Proof.Machine.execAmax c t xi s
  | .amaxn c t xi => Sys2Proof.Machine.execAmaxn c t xi s
  | .acas c t xi => Sys2Proof.Machine.execAcas c t xi s
  | .afmin c t xi => Sys2Proof.Machine.execAfmin c t xi s
  | .afmax c t xi => Sys2Proof.Machine.execAfmax c t xi s
  | .afadd c t xi => Sys2Proof.Machine.execAfadd c t xi s
  | .fence c t xi => Sys2Proof.Machine.execFence c t xi s
  | .ifence c t xi => Sys2Proof.Machine.execIfence c t xi s
  | .yield c t xi => Sys2Proof.Machine.execYield c t xi s
  | .waitc c t xi => Sys2Proof.Machine.execWaitc c t xi s
  | .waitm c t xi => Sys2Proof.Machine.execWaitm c t xi s
  | .tstart c t xi => Sys2Proof.Machine.execTstart c t xi s
  | .halt c t xi => Sys2Proof.Machine.execHalt c t xi s
  | .csrr c t xi => Sys2Proof.Machine.execCsrr c t xi s
  | .tick c t xi => Sys2Proof.Machine.execTick c t xi s
  | .flags c t xi => Sys2Proof.Machine.execFlags c t xi s
  | .mclaim c t xi => Sys2Proof.Machine.execMclaim c t xi s
  | .mrel c t xi => Sys2Proof.Machine.execMrel c t xi s
  | .tqclaim c t xi => Sys2Proof.Machine.execTqclaim c t xi s
  | .tqrel c t xi => Sys2Proof.Machine.execTqrel c t xi s
  | .mvgo c t xi => Sys2Proof.Machine.execMvgo c t xi s
  | .tqwait c t xi => Sys2Proof.Machine.execTqwait c t xi s
  | .tqpop c t xi => Sys2Proof.Machine.execTqpop c t xi s
  | .tqld c t xi e => Sys2Proof.Machine.execTqld c t xi e s
  | .vadd c t xi => Sys2Proof.Machine.execVadd c t xi s
  | .vsub c t xi => Sys2Proof.Machine.execVsub c t xi s
  | .vmul c t xi => Sys2Proof.Machine.execVmul c t xi s
  | .vmin c t xi => Sys2Proof.Machine.execVmin c t xi s
  | .vmax c t xi => Sys2Proof.Machine.execVmax c t xi s
  | .vminu c t xi => Sys2Proof.Machine.execVminu c t xi s
  | .vmaxu c t xi => Sys2Proof.Machine.execVmaxu c t xi s
  | .vand c t xi => Sys2Proof.Machine.execVand c t xi s
  | .vor c t xi => Sys2Proof.Machine.execVor c t xi s
  | .vxor c t xi => Sys2Proof.Machine.execVxor c t xi s
  | .vsll c t xi => Sys2Proof.Machine.execVsll c t xi s
  | .vsrl c t xi => Sys2Proof.Machine.execVsrl c t xi s
  | .vsra c t xi => Sys2Proof.Machine.execVsra c t xi s
  | .vidx c t xi => Sys2Proof.Machine.execVidx c t xi s
  | .vfadd c t xi => Sys2Proof.Machine.execVfadd c t xi s
  | .vfsub c t xi => Sys2Proof.Machine.execVfsub c t xi s
  | .vfmul c t xi => Sys2Proof.Machine.execVfmul c t xi s
  | .vfma c t xi => Sys2Proof.Machine.execVfma c t xi s
  | .vfdiv c t xi => Sys2Proof.Machine.execVfdiv c t xi s
  | .vfsqrt c t xi => Sys2Proof.Machine.execVfsqrt c t xi s
  | .vfmin c t xi => Sys2Proof.Machine.execVfmin c t xi s
  | .vfmax c t xi => Sys2Proof.Machine.execVfmax c t xi s
  | .vfabs c t xi => Sys2Proof.Machine.execVfabs c t xi s
  | .vfneg c t xi => Sys2Proof.Machine.execVfneg c t xi s
  | .vcmpeq c t xi => Sys2Proof.Machine.execVcmpeq c t xi s
  | .vcmpne c t xi => Sys2Proof.Machine.execVcmpne c t xi s
  | .vcmplt c t xi => Sys2Proof.Machine.execVcmplt c t xi s
  | .vcmple c t xi => Sys2Proof.Machine.execVcmple c t xi s
  | .vcmpltu c t xi => Sys2Proof.Machine.execVcmpltu c t xi s
  | .vcmpleu c t xi => Sys2Proof.Machine.execVcmpleu c t xi s
  | .vcmpun c t xi => Sys2Proof.Machine.execVcmpun c t xi s
  | .pand c t xi => Sys2Proof.Machine.execPand c t xi s
  | .por c t xi => Sys2Proof.Machine.execPor c t xi s
  | .pxor c t xi => Sys2Proof.Machine.execPxor c t xi s
  | .pnot c t xi => Sys2Proof.Machine.execPnot c t xi s
  | .vcompress c t xi => Sys2Proof.Machine.execVcompress c t xi s
  | .vexpand c t xi => Sys2Proof.Machine.execVexpand c t xi s
  | .vsel c t xi => Sys2Proof.Machine.execVsel c t xi s
  | .vslidedn c t xi => Sys2Proof.Machine.execVslidedn c t xi s
  | .vslideup c t xi => Sys2Proof.Machine.execVslideup c t xi s
  | .vsplat c t xi => Sys2Proof.Machine.execVsplat c t xi s
  | .vins c t xi => Sys2Proof.Machine.execVins c t xi s
  | .vext c t xi => Sys2Proof.Machine.execVext c t xi s
  | .vpcnt c t xi => Sys2Proof.Machine.execVpcnt c t xi s
  | .vcvt c t xi => Sys2Proof.Machine.execVcvt c t xi s
  | .vld c t xi e => Sys2Proof.Machine.execVld c t xi e s
  | .vst c t xi => Sys2Proof.Machine.execVst c t xi s
  | .vldg c t xi => Sys2Proof.Machine.execVldg c t xi s
  | .vstg c t xi => Sys2Proof.Machine.execVstg c t xi s
  | .vrsum c t xi => Sys2Proof.Machine.execVrsum c t xi s
  | .vrsuma c t xi => Sys2Proof.Machine.execVrsuma c t xi s
  | .vrmin c t xi => Sys2Proof.Machine.execVrmin c t xi s
  | .vrmax c t xi => Sys2Proof.Machine.execVrmax c t xi s
  | .vrminu c t xi => Sys2Proof.Machine.execVrminu c t xi s
  | .vrmaxu c t xi => Sys2Proof.Machine.execVrmaxu c t xi s
  | .setvl c t xi => Sys2Proof.Machine.execSetvl c t xi s
  | .epi c t x => Sys2Proof.Machine.execEpi c t x s
  | .vseal c t xi => Sys2Proof.Machine.execVseal c t xi s
  | .mzero c t xi => Sys2Proof.Machine.execMzero c t xi s
  | .mlda c t xi => Sys2Proof.Machine.execMlda c t xi s
  | .msta c t xi => Sys2Proof.Machine.execMsta c t xi s
  | .mpush c t xi => Sys2Proof.Machine.execMpush c t xi s
  | .mfence c t xi => Sys2Proof.Machine.execMfence c t xi s
  | .mma c t xi e => Sys2Proof.Machine.execMma c t xi e s
  | .matrixOpComplete c e => Sys2Proof.Machine.execMatrixOpComplete c e s
  | .tileQueuePush c => Sys2Proof.Machine.execTileQueuePush c s
  | .epilogueStart x => Sys2Proof.Machine.execEpilogueStart x s
  | .epilogueDone x => Sys2Proof.Machine.execEpilogueDone x s
  | .remoteResult c t => Sys2Proof.Machine.execRemoteResult c t s
  | .waitmWake c t => Sys2Proof.Machine.execWaitmWake c t s
  | .clusterWipeDone c => Sys2Proof.Machine.execClusterWipeDone c s
  | .run id => Sys2Proof.Machine.execRun id s
  | .runCommit id => Sys2Proof.Machine.execRunCommit id s
  | .runDeadline id => Sys2Proof.Machine.execRunDeadline id s
  | .moverCopy x => Sys2Proof.Machine.execMoverCopy x s
  | .moverGather x => Sys2Proof.Machine.execMoverGather x s
  | .moverScatter x => Sys2Proof.Machine.execMoverScatter x s
  | .moverSeal x => Sys2Proof.Machine.execMoverSeal x s
  | .descriptorEnd m => Sys2Proof.Machine.execDescriptorEnd m s
  | .slvBindWrite o ch r v => Sys2Proof.Machine.execSlvBindWrite o ch r v s
  | .solve x => Sys2Proof.Machine.execSolve x s
  | .digest x => Sys2Proof.Machine.execDigest x s
  | .solveStart ch => Sys2Proof.Machine.execSolveStart ch s
  | .solveEnd ch p => Sys2Proof.Machine.execSolveEnd ch p s
  | .solveDeadline id => Sys2Proof.Machine.execSolveDeadline id s
  | .batchDense x => Sys2Proof.Machine.execBatchDense x s
  | .batchSparse x => Sys2Proof.Machine.execBatchSparse x s
  | .batchStart id => Sys2Proof.Machine.execBatchStart id s
  | .batchSystemEnd id x => Sys2Proof.Machine.execBatchSystemEnd id x s
  | .batchCommit id => Sys2Proof.Machine.execBatchCommit id s
  | .lineAccess r => Sys2Proof.Machine.execLineAccess r s
  | .narrowGather r => Sys2Proof.Machine.execNarrowGather r s
  | .narrowScatter r => Sys2Proof.Machine.execNarrowScatter r s
  | .narrowAdd r => Sys2Proof.Machine.execNarrowAdd r s
  | .narrowMin r => Sys2Proof.Machine.execNarrowMin r s
  | .narrowMax r => Sys2Proof.Machine.execNarrowMax r s
  | .narrowMinu r => Sys2Proof.Machine.execNarrowMinu r s
  | .narrowMaxu r => Sys2Proof.Machine.execNarrowMaxu r s
  | .narrowAnd r => Sys2Proof.Machine.execNarrowAnd r s
  | .narrowOr r => Sys2Proof.Machine.execNarrowOr r s
  | .narrowXor r => Sys2Proof.Machine.execNarrowXor r s
  | .narrowSwap r => Sys2Proof.Machine.execNarrowSwap r s
  | .narrowCas r => Sys2Proof.Machine.execNarrowCas r s
  | .narrowFmin r => Sys2Proof.Machine.execNarrowFmin r s
  | .narrowFmax r => Sys2Proof.Machine.execNarrowFmax r s
  | .narrowFadd r => Sys2Proof.Machine.execNarrowFadd r s
  | .narrowIllegal op r => Sys2Proof.Machine.execNarrowIllegal op r s
  | .coalesceTimeout st => Sys2Proof.Machine.execCoalesceTimeout st s
  | .lr hart x => Sys2Proof.Machine.execLr hart x s
  | .sc hart x w32 v => Sys2Proof.Machine.execSc hart x w32 v s
  | .reservationLapse st hart => Sys2Proof.Machine.execReservationLapse st hart s
  | .spmv st x => Sys2Proof.Machine.execSpmv st x s
  | .spmvSub st x => Sys2Proof.Machine.execSpmvSub st x s
  | .sweepDiv st x => Sys2Proof.Machine.execSweepDiv st x s
  | .gatherSum st x => Sys2Proof.Machine.execGatherSum st x s
  | .gatherMin st x => Sys2Proof.Machine.execGatherMin st x s
  | .gatherMax st x => Sys2Proof.Machine.execGatherMax st x s
  | .streamComplete x => Sys2Proof.Machine.execStreamComplete x s
  | .scrubPass st x => Sys2Proof.Machine.execScrubPass st x s
  | .stackThermalSample st temp trend => Sys2Proof.Machine.execStackThermalSample st temp trend s
  | .hbmWipeDone st => Sys2Proof.Machine.execHbmWipeDone st s
  | .sqDoorbell d xi x => Sys2Proof.Machine.execSqDoorbell d xi x s
  | .cqDoorbell d xi x => Sys2Proof.Machine.execCqDoorbell d xi x s
  | .ctxOpRead o => Sys2Proof.Machine.execCtxOpRead o s
  | .ctxOpWrite o => Sys2Proof.Machine.execCtxOpWrite o s
  | .launchTickReached id => Sys2Proof.Machine.execLaunchTickReached id s
  | .commandStart id => Sys2Proof.Machine.execCommandStart id s
  | .completionCommit x => Sys2Proof.Machine.execCompletionCommit x s
  | .abort id => Sys2Proof.Machine.execAbort id s
  | .abortedRecord id => Sys2Proof.Machine.execAbortedRecord id s
  | .move id => Sys2Proof.Machine.execMove id s
  | .moveDeadline id => Sys2Proof.Machine.execMoveDeadline id s
  | .movStop o ch => Sys2Proof.Machine.execMovStop o ch s
  | .movResume o ch => Sys2Proof.Machine.execMovResume o ch s
  | .hostCompletion m ok => Sys2Proof.Machine.execHostCompletion m ok s
  | .hostTimeout m => Sys2Proof.Machine.execHostTimeout m s
  | .loadCell x => Sys2Proof.Machine.execLoadCell x s
  | .storeCell x => Sys2Proof.Machine.execStoreCell x s
  | .atomicCell x => Sys2Proof.Machine.execAtomicCell x s
  | .atomicFCell x => Sys2Proof.Machine.execAtomicFCell x s
  | .combAtomicCell x => Sys2Proof.Machine.execCombAtomicCell x s
  | .combLoadCell x => Sys2Proof.Machine.execCombLoadCell x s
  | .replyCell x => Sys2Proof.Machine.execReplyCell x s
  | .ackCell x => Sys2Proof.Machine.execAckCell x s
  | .floorCell x => Sys2Proof.Machine.execFloorCell x s
  | .transitCell port x => Sys2Proof.Machine.execTransitCell port x s
  | .ackSend die k => Sys2Proof.Machine.execAckSend die k s
  | .floorTimer k => Sys2Proof.Machine.execFloorTimer k s
  | .retransmitTimeout k seq => Sys2Proof.Machine.execRetransmitTimeout k seq s
  | .combineWindowClose die x => Sys2Proof.Machine.execCombineWindowClose die x s
  | .replyCacheAge die k => Sys2Proof.Machine.execReplyCacheAge die k s
  | .linkReplay port x => Sys2Proof.Machine.execLinkReplay port x s
  | .linkDown port => Sys2Proof.Machine.execLinkDown port s
  | .linkUp port peerPort peerEp => Sys2Proof.Machine.execLinkUp port peerPort peerEp s
  | .barrier x => Sys2Proof.Machine.execBarrier x s
  | .allreduce x => Sys2Proof.Machine.execAllreduce x s
  | .reduce x => Sys2Proof.Machine.execReduce x s
  | .broadcast x => Sys2Proof.Machine.execBroadcast x s
  | .reduceScatter x => Sys2Proof.Machine.execReduceScatter x s
  | .allgather x => Sys2Proof.Machine.execAllgather x s
  | .confirmWait id => Sys2Proof.Machine.execConfirmWait id s
  | .commCreate x => Sys2Proof.Machine.execCommCreate x s
  | .commFree id => Sys2Proof.Machine.execCommFree id s
  | .chainUp x => Sys2Proof.Machine.execChainUp x s
  | .chainDown x => Sys2Proof.Machine.execChainDown x s
  | .ringRs x => Sys2Proof.Machine.execRingRs x s
  | .ringAg x => Sys2Proof.Machine.execRingAg x s
  | .chunk x => Sys2Proof.Machine.execChunk x s
  | .chainReady x => Sys2Proof.Machine.execChainReady x s
  | .chainEnd x => Sys2Proof.Machine.execChainEnd x s
  | .confirmUp x => Sys2Proof.Machine.execConfirmUp x s
  | .confirmDown x => Sys2Proof.Machine.execConfirmDown x s
  | .confirmTimeout slot comm seq => Sys2Proof.Machine.execConfirmTimeout slot comm seq s
  | .collectiveStall slot comm seq => Sys2Proof.Machine.execCollectiveStall slot comm seq s
  | .frameStart => Sys2Proof.Machine.execFrameStart s
  | .frameEnWrite o en => Sys2Proof.Machine.execFrameEnWrite o en s
  | .ptpMessage x => Sys2Proof.Machine.execPtpMessage x s
  | .timeExchange => Sys2Proof.Machine.execTimeExchange s
  | .timeRequest port x => Sys2Proof.Machine.execTimeRequest port x s
  | .timeResponse port x t4 => Sys2Proof.Machine.execTimeResponse port x t4 s
  | .holdoverEntry => Sys2Proof.Machine.execHoldoverEntry s
  | .ppsIn => Sys2Proof.Machine.execPpsIn s
  | .ppsOut => Sys2Proof.Machine.execPpsOut s
  | .ref10mLost => Sys2Proof.Machine.execRef10mLost s
  | .step x => Sys2Proof.Machine.execStep x s
  | .c37DataFrame p => Sys2Proof.Machine.execC37DataFrame p s
  | .sampledValueAsdu p => Sys2Proof.Machine.execSampledValueAsdu p s
  | .telemetryRecord p => Sys2Proof.Machine.execTelemetryRecord p s
  | .fieldFrameDrop port => Sys2Proof.Machine.execFieldFrameDrop port s
  | .ingestWindowClose => Sys2Proof.Machine.execIngestWindowClose s
  | .closeFillComplete => Sys2Proof.Machine.execCloseFillComplete s
  | .publicationTick x => Sys2Proof.Machine.execPublicationTick x s
  | .fioEnable o slot ports => Sys2Proof.Machine.execFioEnable o slot ports s
  | .partitionName p => Sys2Proof.Machine.execPartitionName p s
  | .jobLoad o tag rank => Sys2Proof.Machine.execJobLoad o tag rank s
  | .jobAccept o tag rank => Sys2Proof.Machine.execJobAccept o tag rank s
  | .jobAbandon o => Sys2Proof.Machine.execJobAbandon o s
  | .jobDrain o => Sys2Proof.Machine.execJobDrain o s
  | .drainEnd slot => Sys2Proof.Machine.execDrainEnd slot s
  | .wipeComplete slot ok => Sys2Proof.Machine.execWipeComplete slot ok s
  | .frondStart slot => Sys2Proof.Machine.execFrondStart slot s
  | .frondPoll slot => Sys2Proof.Machine.execFrondPoll slot s
  | .frondSegmentVerified slot => Sys2Proof.Machine.execFrondSegmentVerified slot s
  | .frondSwitch slot => Sys2Proof.Machine.execFrondSwitch slot s
  | .launchBarrierStart slot => Sys2Proof.Machine.execLaunchBarrierStart slot s
  | .threadLaunch slot => Sys2Proof.Machine.execThreadLaunch slot s
  | .digestSweep slot => Sys2Proof.Machine.execDigestSweep slot s
  | .snapshot id => Sys2Proof.Machine.execSnapshot id s
  | .snapshotPolicyTimer slot => Sys2Proof.Machine.execSnapshotPolicyTimer slot s
  | .request slot child => Sys2Proof.Machine.execRequest slot child s
  | .announce slot => Sys2Proof.Machine.execAnnounce slot s
  | .quiesceTick slot => Sys2Proof.Machine.execQuiesceTick slot s
  | .localDrainDone slot => Sys2Proof.Machine.execLocalDrainDone slot s
  | .drained slot child => Sys2Proof.Machine.execDrained slot child s
  | .snapDrainTimeout slot => Sys2Proof.Machine.execSnapDrainTimeout slot s
  | .capture slot => Sys2Proof.Machine.execCapture slot s
  | .captureDone slot => Sys2Proof.Machine.execCaptureDone slot s
  | .captured slot child => Sys2Proof.Machine.execCaptured slot child s
  | .resume slot => Sys2Proof.Machine.execResume slot s
  | .cowHold slot w => Sys2Proof.Machine.execCowHold slot w s
  | .priorityCopyDone slot g => Sys2Proof.Machine.execPriorityCopyDone slot g s
  | .partCopyDone slot x => Sys2Proof.Machine.execPartCopyDone slot x s
  | .partDone slot child => Sys2Proof.Machine.execPartDone slot child s
  | .committed slot => Sys2Proof.Machine.execCommitted slot s
  | .abandoned slot => Sys2Proof.Machine.execAbandoned slot s
  | .recorded slot child => Sys2Proof.Machine.execRecorded slot child s
  | .genReady slot => Sys2Proof.Machine.execGenReady slot s
  | .waveTimeout slot => Sys2Proof.Machine.execWaveTimeout slot s
  | .restoreFillDone slot hostOk => Sys2Proof.Machine.execRestoreFillDone slot hostOk s
  | .filled slot child => Sys2Proof.Machine.execFilled slot child s
  | .restoreResume slot => Sys2Proof.Machine.execRestoreResume slot s
  | .replayResult slot child => Sys2Proof.Machine.execReplayResult slot child s
  | .verdict slot => Sys2Proof.Machine.execVerdict slot s
  | .replayTimeout slot => Sys2Proof.Machine.execReplayTimeout slot s
  | .sporeEnable o trig restore => Sys2Proof.Machine.execSporeEnable o trig restore s
  | .brownOut mv => Sys2Proof.Machine.execBrownOut mv s
  | .overVoltage mv => Sys2Proof.Machine.execOverVoltage mv s
  | .peakHit w => Sys2Proof.Machine.execPeakHit w s
  | .governorTick x => Sys2Proof.Machine.execGovernorTick x s
  | .capWrite o v => Sys2Proof.Machine.execCapWrite o v s
  | .brokerPeriod => Sys2Proof.Machine.execBrokerPeriod s
  | .powerReport x => Sys2Proof.Machine.execPowerReport x s
  | .powerGrant x => Sys2Proof.Machine.execPowerGrant x s
  | .dieThermalSample d temp => Sys2Proof.Machine.execDieThermalSample d temp s
  | .regulatorWarning x => Sys2Proof.Machine.execRegulatorWarning x s
  | .railFail x => Sys2Proof.Machine.execRailFail x s
  | .hostLinkDown l => Sys2Proof.Machine.execHostLinkDown l s
  | .perst l asserted => Sys2Proof.Machine.execPerst l asserted s
  | .hostLinkTrain l => Sys2Proof.Machine.execHostLinkTrain l s
  | .bar4Access l x => Sys2Proof.Machine.execBar4Access l x s
  | .arbiterDivide x => Sys2Proof.Machine.execArbiterDivide x s
  | .breach p x => Sys2Proof.Machine.execBreach p x s
  | .partitionEnable o p => Sys2Proof.Machine.execPartitionEnable o p s
  | .preset o p => Sys2Proof.Machine.execPreset o p s
  | .partitionWipeDone p ok => Sys2Proof.Machine.execPartitionWipeDone p ok s
  | .classWrite o p v => Sys2Proof.Machine.execClassWrite o p v s
  | .romBoot => Sys2Proof.Machine.execRomBoot s
  | .recoveryGo l => Sys2Proof.Machine.execRecoveryGo l s
  | .recoveryFetchDone x => Sys2Proof.Machine.execRecoveryFetchDone x s
  | .requestFirmwareData xi x => Sys2Proof.Machine.execRequestFirmwareData xi x s
  | .applyComplete ok => Sys2Proof.Machine.execApplyComplete ok s
  | .activateFirmware xi selfContained => Sys2Proof.Machine.execActivateFirmware xi selfContained s
  | .getVersion xi => Sys2Proof.Machine.execGetVersion xi s
  | .getCapabilities xi => Sys2Proof.Machine.execGetCapabilities xi s
  | .negotiateAlgorithms xi => Sys2Proof.Machine.execNegotiateAlgorithms xi s
  | .getDigests xi => Sys2Proof.Machine.execGetDigests xi s
  | .getCertificate xi off len => Sys2Proof.Machine.execGetCertificate xi off len s
  | .challenge xi nonce => Sys2Proof.Machine.execChallenge xi nonce s
  | .getMeasurements xi index signed nonce => Sys2Proof.Machine.execGetMeasurements xi index signed nonce s
  | .chunkGet xi n => Sys2Proof.Machine.execChunkGet xi n s
  | .pqSig xi => Sys2Proof.Machine.execPqSig xi s
  | .pqCert xi => Sys2Proof.Machine.execPqCert xi s
  | .setEndpointId xi eid => Sys2Proof.Machine.execSetEndpointId xi eid s
  | .entdaa a => Sys2Proof.Machine.execEntdaa a s
  | .pldmSensorRead xi n => Sys2Proof.Machine.execPldmSensorRead xi n s
  | .mctpRegRead xi off => Sys2Proof.Machine.execMctpRegRead xi off s
  | .mctpRegWrite xi off v => Sys2Proof.Machine.execMctpRegWrite xi off v s
  | .auditRead xi seq x => Sys2Proof.Machine.execAuditRead xi seq x s
  | .auditAck xi seq => Sys2Proof.Machine.execAuditAck xi seq s
  | .mctpReset xi scope index => Sys2Proof.Machine.execMctpReset xi scope index s
  | .mgmtRegRead x => Sys2Proof.Machine.execMgmtRegRead x s
  | .mgmtRegWrite x => Sys2Proof.Machine.execMgmtRegWrite x s
  | .mcRestart => Sys2Proof.Machine.execMcRestart s
  | .lcsReq o v => Sys2Proof.Machine.execLcsReq o v s
  | .lcsConfirm o v => Sys2Proof.Machine.execLcsConfirm o v s
  | .inputPowerOn mv => Sys2Proof.Machine.execInputPowerOn mv s
  | .railsRegulate straps => Sys2Proof.Machine.execRailsRegulate straps s
  | .packageReset => Sys2Proof.Machine.execPackageReset s
  | .inputVoltageWarning mv => Sys2Proof.Machine.execInputVoltageWarning mv s
  | .inputBackInRange mv => Sys2Proof.Machine.execInputBackInRange mv s
  | .fieldPortLinkDown port => Sys2Proof.Machine.execFieldPortLinkDown port s
  | .fieldPortLinkUp port => Sys2Proof.Machine.execFieldPortLinkUp port s
  | .ref10mReturn => Sys2Proof.Machine.execRef10mReturn s
  | .timeSourceLost src => Sys2Proof.Machine.execTimeSourceLost src s
  | .ovuskCoreReset up => Sys2Proof.Machine.execOvuskCoreReset up s
  | .operatingPointChange => Sys2Proof.Machine.execOperatingPointChange s

end Sys2Proof.Machine
end

