-- ==== Sys2Proof/Machine/Pins.lean ====
section
/-! DEFINITION. The levels of the sideband outputs (R12, R416, R447, R468 to R470), each a function of the state. -/

namespace Sys2Proof.Machine

/-- A sideband output: driven low, driven high, or high-impedance, as an open-drain output not asserted is. -/
inductive PinLevel where
  | low | high | highZ
  deriving DecidableEq, Repr

/-- An open-drain output. -/
def openDrain (asserted : Bool) : PinLevel := if asserted then .low else .highZ

/-- Whether the power controller holds the package in trip hold (R416, R469). -/
def State.tripHold (s : State) : Bool := s.pow.stage = .trip

/-- THERMTRIP_N. -/
def State.thermtripN (s : State) : PinLevel := openDrain s.tripHold

/-- A condition of R470, which only a package reset clears: a rail failure, a fenced stack or a failed teardown wipe. -/
def State.faultCondition (s : State) : Bool :=
  !s.pow.heldDies.isEmpty || (List.range 16).any (fun k => s.getF F.LCH_STAT_FENCED k = 1) || slotNums.any (fun j => (s.jobX j).wipeFailed)

/-- FAULT_N: a trip, or a condition of R470 while the package is out of reset. -/
def State.faultN (s : State) : PinLevel := openDrain (s.tripHold || (s.powered && s.faultCondition))

/-- Whether a page has an ERR bit that its ERR_MASK leaves unmasked (R12). -/
def State.unmaskedErr (s : State) (b : Block) (inst : Nat) : Bool := s.regW b 0x20 inst &&& ~~~(s.regW b 0x28 inst) ≠ 0

/-- ALERT_N: an unmasked ERR bit or ROM recovery; driven from the moment the ROM starts. -/
def State.alertN (s : State) : PinLevel :=
  openDrain (s.coreUp && (s.getF F.MGT_STAT_BOOT = 2 || allBlocks.any (fun b => (List.range (blockPages b)).any (s.unmaskedErr b))))

/-- PWRGD: high while every rail regulates and no trip holds. -/
def State.pwrgd (s : State) : PinLevel := if s.powered then (if s.pow.heldDies.isEmpty then .high else .low) else .highZ

end Sys2Proof.Machine
end

