-- ==== Sys2Proof/WellFormed.lean ====
section
/-! DEFINITION. Which command terms are commands at all: every operand list has the length its wire form gives it. Operands
of fixed width are bit vectors and need no check. -/

namespace Sys2Proof

/-- A cell carries 64 payload bytes (R249). -/
def Cell.wf (x : Cell) : Bool := decide (x.payload.length = 64)

/-- A narrow request has eight addresses and eight data words (Table 08-4). -/
def NarrowReq.wf (r : NarrowReq) : Bool := decide (r.addr.length = 8) && decide (r.data.length = 8)

/-- A stream descriptor has eight words, and its OP is the command's, or illegal (R202). -/
def StreamReq.wf (op : Nat) (x : StreamReq) : Bool :=
  decide (x.words.length = 8) &&
  (let o := ((x.words[0]?).getD 0).toNat / 2 ^ 60
   o = op || o = 0 || decide (6 < o))

/-- A line access stays in its line, and a write brings as many bytes as it says (R191). -/
def LineReq.wf (r : LineReq) : Bool :=
  decide (r.addr.toNat % 64 = 0) && decide (1 ≤ r.len.toNat) && decide (r.off.toNat + r.len.toNat ≤ 64) &&
  match r.write with
  | none => true
  | some b => decide (b.length = r.len.toNat)

/-- The predictions cover the eight operating points of Table 16-1. -/
def PowerSample.wf (x : PowerSample) : Bool := decide (x.base.length = 8) && decide (x.perLevel.length = 8)

/-- One demand for each of the eight partitions (R435). -/
def ArbiterDemand.wf (x : ArbiterDemand) : Bool := decide (x.demand.length = 8)

/-- A BAR4 access stays in the window (Table 17-1). -/
def Bar4Op.wf : Bar4Op → Bool
  | .read a n _ => decide (a.toNat + n.toNat ≤ 2 ^ 39)
  | .write a b => decide (a.toNat + b.length ≤ 2 ^ 39)
  | .fetchAdd a w32 _ _ => decide (a.toNat % (if w32 then 4 else 8) = 0)
  | .swap a w32 _ _ => decide (a.toNat % (if w32 then 4 else 8) = 0)
  | .cas a w32 _ _ _ => decide (a.toNat % (if w32 then 4 else 8) = 0)
  | .cas128 a => decide (a.toNat % 16 = 0)

/-- A UDP payload fits its length field. -/
def FieldPacket.wf (p : FieldPacket) : Bool := decide (p.data.length < 65536)

/-- A held access stays in one line (R387, R191). -/
def HeldAccess.wf (w : HeldAccess) : Bool :=
  decide (1 ≤ w.bytes.length) && decide (w.addr.toNat % 64 + w.bytes.length ≤ 64)

/-- Which commands are well formed. -/
def Instr.wf : Instr → Bool
  | .lineAccess r => r.wf
  | .narrowGather r => r.wf && r.fn = 0
  | .narrowScatter r => r.wf && r.fn = 0
  | .narrowAdd r => r.wf && r.fn = 0
  | .narrowMin r => r.wf && r.fn = 0
  | .narrowMax r => r.wf && r.fn = 1
  | .narrowMinu r => r.wf && r.fn = 0
  | .narrowMaxu r => r.wf && r.fn = 1
  | .narrowAnd r => r.wf && r.fn = 0
  | .narrowOr r => r.wf && r.fn = 1
  | .narrowXor r => r.wf && r.fn = 2
  | .narrowSwap r => r.wf && r.fn = 0
  | .narrowCas r => r.wf && r.fn = 0
  | .narrowFmin r => r.wf && r.fn = 0
  | .narrowFmax r => r.wf && r.fn = 1
  | .narrowFadd r => r.wf && r.fn = 0
  | .narrowIllegal _ r => r.wf
  | .spmv _ x => x.wf 1
  | .spmvSub _ x => x.wf 2
  | .sweepDiv _ x => x.wf 3
  | .gatherSum _ x => x.wf 4
  | .gatherMin _ x => x.wf 5
  | .gatherMax _ x => x.wf 6
  | .loadCell x => x.cell.wf
  | .storeCell x => x.cell.wf
  | .atomicCell x => x.cell.wf
  | .atomicFCell x => x.cell.wf
  | .combAtomicCell x => x.cell.wf
  | .combLoadCell x => x.cell.wf
  | .replyCell x => x.wf
  | .ackCell x => x.wf
  | .floorCell x => x.wf
  | .transitCell _ x => x.cell.wf
  | .chainUp x => x.cell.wf
  | .chainDown x => x.cell.wf
  | .ringRs x => x.cell.wf
  | .ringAg x => x.cell.wf
  | .chunk x => x.cell.wf
  | .chainReady x => x.cell.wf
  | .chainEnd x => x.cell.wf
  | .confirmUp x => x.cell.wf
  | .confirmDown x => x.cell.wf
  | .powerReport x => x.wf
  | .powerGrant x => x.wf
  | .mgmtRegRead x => x.wf
  | .mgmtRegWrite x => x.wf
  | .c37DataFrame p => p.wf
  | .telemetryRecord p => p.wf
  | .cowHold _ w => w.wf
  | .governorTick x => x.wf
  | .arbiterDivide x => x.wf
  | .bar4Access _ x => x.wf
  | _ => true

end Sys2Proof
end

