-- ==== Sys2Proof/Safety.lean ====
section
/-! DEFINITION. What the statements call safe: memories in their canonical form, a queue of well-formed commands, and what a
command may not touch. -/

namespace Sys2Proof.Machine

/-- Every addressed memory and checksum table is in its one canonical form, so that equal contents are equal data. -/
structure State.Canonical (s : State) : Prop where
  hbm : Memory.wf s.hbm = true
  hbmSum : spWf (0 : Word) s.hbmSum = true
  spad : Memory.wf s.spad = true
  spadSum : spWf (0 : Word) s.spadSum = true
  hostMem : Memory.wf s.hostMem = true
  istore : spWf (0 : Word) s.istore = true

/-- Every waiting command is well formed. -/
def State.QueueWf (s : State) : Prop := ∀ c ∈ s.pending, c.wf = true

/-! ### What the statements say of one command -/

/-- A command completes: exec answers a next state, of which `P` holds. -/
def Completes (i : Instr) (s : State) (P : State → Prop) : Prop := ∃ s', exec i s = .next s' ∧ P s'

/-- Place of a register field's register in the register file. -/
def fldKey (f : Fld) (inst : Nat := 0) (bank : Nat := 0) : Nat := regKey f.blk inst f.off bank

/-- Every register but those at the places listed reads as before, whatever its reset value. -/
def RegsBut (s s' : State) (ks : List Nat) : Prop := ∀ d k, k ∉ ks → spGet d s'.regs k = spGet d s.regs k

/-- The state in which an instruction issues: its fetch's corrected words and its issue are counted (R36, R45). -/
def State.issued (s : State) (c t : Nat) (fetch : Ecc) : State := (s.fetchCe c fetch).countIssue c t

/-- A format S instruction issues: its thread may (R36), its words are sound (R45), and its reserved field is zero (R50). -/
def Issues (s : State) (c : BitVec 8) (t : BitVec 3) (i : SFmt) : Prop :=
  s.canIssue c.toNat t.toNat = true ∧ i.fetch ≠ .uncorrectable ∧ i.rsv = 0

/-- The same of format V, whose vector registers must be sound too (R87). -/
def IssuesV (s : State) (c : BitVec 8) (t : BitVec 3) (i : VFmt) : Prop :=
  s.canIssue c.toNat t.toNat = true ∧ i.fetch ≠ .uncorrectable ∧ i.regs ≠ .uncorrectable ∧ i.rsv = 0

/-- An instruction that changes no more than its thread, the issue counters with the count of corrected words it was fetched from, and
what the cluster's scheduler keeps: every other thread, cluster and register, and every other piece of state, memory included, is as
before. -/
structure ThreadFrame (s s' : State) (c t : Nat) : Prop where
  rest : { s' with threads := s.threads, clus := s.clus, regs := s.regs } = s
  others : ∀ c' t', c' * 8 + t' ≠ c * 8 + t → s'.thr c' t' = s.thr c' t'
  clusters : ∀ c', c' ≠ c → s'.clu c' = s.clu c'
  cluster : ∃ n, s'.clu c = { s.clu c with lastIssue := t, runLen := n, lastRemote := false, yielded := false }
  issued : s'.getF F.CLU_ISSUE_CNT_COUNT c = (s.getF F.CLU_ISSUE_CNT_COUNT c + 1) % 2 ^ 64
  regs : RegsBut s s' [fldKey F.CLU_ISSUE_CNT_COUNT c, fldKey F.CLU_SWITCH_CNT_COUNT c, fldKey F.CLU_IDLE_CNT_COUNT c,
    fldKey F.CLU_ECC_STAT_ISTORE_CE c]

/-- What a scalar instruction leaves: SD reads `v` unless it is s0, flags `fl` are raised, the PC has advanced past its words, and
nothing else of the thread has changed. -/
structure ScalarResult (s s' : State) (c t : Nat) (i : SFmt) (v : Word) (fl : Nat) : Prop where
  frame : ThreadFrame s s' c t
  sd : i.sd ≠ 0 → (s'.thr c t).rd i.sd.toNat = v
  registers : ∀ r, r ≠ i.sd.toNat → (s'.thr c t).rd r = (s.thr c t).rd r
  flags : (s'.thr c t).flags = (s.thr c t).flags ||| fl
  pc : (s'.thr c t).pc = ((s.thr c t).pc + sWords i) % 32768
  rest : { s'.thr c t with sr := (s.thr c t).sr, flags := (s.thr c t).flags, pc := (s.thr c t).pc } = s.thr c t

/-- What a vector instruction that writes VD leaves, from the state `s` in which it issued: below VLMAX each active element reads
`v` of its index and every other element as before (R70), flags `fl` are raised, the PC has advanced past the instruction's words,
and nothing else has changed. -/
structure VectorResult (s s' : State) (c t : Nat) (i : VFmt) (act : Nat → Bool) (v : Nat → Nat) (fl : Nat) : Prop where
  frame : s' = s.setThr c t (s'.thr c t)
  elements : ∀ k, k < vlMax i.ew.toNat → vElem (ewWidth i.ew.toNat) ((s'.thr c t).rdV i.vd.toNat) k =
    if act k then v k else vElem (ewWidth i.ew.toNat) ((s.thr c t).rdV i.vd.toNat) k
  registers : ∀ r, r ≠ i.vd.toNat → (s'.thr c t).rdV r = (s.thr c t).rdV r
  flags : (s'.thr c t).flags = (s.thr c t).flags ||| fl
  pc : (s'.thr c t).pc = ((s.thr c t).pc + vWords i) % 32768
  rest : { s'.thr c t with vr := (s.thr c t).vr, flags := (s.thr c t).flags, pc := (s.thr c t).pc } = s.thr c t

/-- What a vector instruction that writes a predicate leaves: bit k is `b` of k, but that p0 stays all ones (R69, R70). -/
structure PredicateResult (s s' : State) (c t : Nat) (i : VFmt) (b : Nat → Bool) (fl : Nat) : Prop where
  frame : s' = s.setThr c t (s'.thr c t)
  bits : ∀ k, k < 256 → ((s'.thr c t).rdP i.vd.toNat).testBit k = if i.vd.toNat % 8 = 0 then true else b k
  registers : ∀ r, r % 8 ≠ i.vd.toNat % 8 → (s'.thr c t).rdP r = (s.thr c t).rdP r
  flags : (s'.thr c t).flags = (s.thr c t).flags ||| fl
  pc : (s'.thr c t).pc = ((s.thr c t).pc + vWords i) % 32768
  rest : { s'.thr c t with pr := (s.thr c t).pr, flags := (s.thr c t).flags, pc := (s.thr c t).pc } = s.thr c t

/-! ### Register writes -/

/-- A write that reaches its register, from an origin that may write it, and that nothing holds back. -/
structure WriteTaken (s : State) (o : Origin) (b : Block) (inst off : Nat) (v : Word) : Prop where
  serves : s.serves o = true
  reaches : s.reaches o b inst off = true
  allowed : s.mayWrite o b inst off v = true
  own : s.blocked o b off = false
  now : s.mustHold b inst off = false

/-- A command that is the write of `v` to one register: where the write is taken, it has an effect `u` of which `P` holds, and one
audit entry. -/
def Written (i : Instr) (s : State) (o : Origin) (b : Block) (inst off : Nat) (v : Word) (P : State → Prop) : Prop :=
  WriteTaken s o b inst off v →
    ∃ (u : State) (applied : Word) (flags : Nat), P u ∧ exec i s = .next (u.auditReg o (regAddr b inst off) (s.regValue o b inst off) v applied flags)

end Sys2Proof.Machine
end

