-- ==== Sys2Proof/Certificates/Slice0/Obligations.lean ====
section
/-! DEFINITION. The statements for the provers. -/

open Sys2Proof Sys2Proof.Machine

/-- One step takes the command at the front of the queue and is what exec answers for it on the state with the queue's rest. -/
def Obligations.StepRunsFrontCommand : Prop :=
  ∀ (c : Instr) (s : State) (rest : List Instr), s.pending = c :: rest → step s = exec c { s with pending := rest }

/-- With no command waiting a step is one nanosecond (log 48): nothing but time, the thermal and cadence counters and the counters of ticks moves, and
without power time alone. R320: the counter gains one tick for each nanosecond while nothing slews or holds it. R5, R33, R64, R427, R475, Table 19-7:
after reset no rail regulates, every thread is OFF, no memory, store, queue, engine, job or collective holds anything, every register field has its
table's reset value, and no command waits. -/
def Obligations.IdleAndReset : Prop :=
  (∀ s : State, s.pending = [] → ∃ s', step s = .next s' ∧ s'.now = s.now + 1 ∧ { s' with now := s.now, cad := s.cad, time := s.time, regs := s.regs } = s ∧
     (s.powered = false → s' = { s with now := s.now + 1 }) ∧
     (s.powered = true → s.time.slew = 0 → s.time.hold = 0 → s'.cad = (s.cad + 1) % 2 ^ 64 ∧ s'.time = s.time) ∧
     (s.powered = true → 0 < s.time.hold → s'.cad = s.cad ∧ s'.time = { s.time with hold := s.time.hold - 1 })) ∧
  (let s := State.reset
   s.pending = [] ∧ s.pow.stage = .off ∧ s.now = 0 ∧ s.cad = 0 ∧ s.hbm = [] ∧ s.hbmSum = [] ∧ s.spad = [] ∧ s.spadSum = [] ∧ s.istore = [] ∧ s.hostMem = [] ∧
   s.holds = [] ∧ s.aud = {} ∧ s.cmds = [] ∧ s.qctx = [] ∧ s.tx = [] ∧ s.rx = [] ∧ s.comms = [] ∧ s.colls = [] ∧ s.lich = [] ∧ s.resv = [] ∧ s.jobs = [] ∧ s.spore = [] ∧
   (∀ c t, c < 256 → t < 8 → (s.thr c t).st = .off ∧ (s.thr c t).pc = 0 ∧ ∀ r, (s.thr c t).rd r = 0) ∧
   (∀ b off inst bank, s.regW b off inst bank = resetWord b off) ∧
   (∀ j, j < 8 → s.slotState j = slotFree ∧ s.slotPart j = none) ∧ (∀ p, p < 8 → s.partEn p = false) ∧
   s.getF F.PWR_LIMIT_CAP_W = 3400 ∧ s.getF F.MGT_STAT_BOOT = 0 ∧ s.Canonical ∧ s.QueueWf)

/-- No step leaves the queue but by its front command, well formed commands stay well formed, and every step answers a next state: a command that the spec
lets run is never refused. -/
def Obligations.StepTakesOneCommand : Prop :=
  ∀ s : State, (∃ s', step s = .next s') ∧
    ∀ s', step s = .next s' → s'.pending = s.pending.tail ∧ (s.QueueWf → s'.QueueWf)

/-- The headline invariant: where every addressed memory and checksum table is in its canonical form, so that equal contents are equal data, every command
leaves it so. -/
def Obligations.StepKeepsCanonical : Prop :=
  ∀ s s' : State, s.Canonical → step s = .next s' → s'.Canonical

/-- R16, R18, R41, R164, R231, R242, R319, R354, R361, R401, R405, R428, R430, R447, R453: each command that is a write of one register, once the write is
taken, writes that word to that register and records one audit entry; writes held for a page whose clock has returned apply. -/
def Obligations.RegisterCommandsComplete : Prop :=
  ∀ (o : Origin) (s : State),
    let w := fun (i : Instr) (o : Origin) (b : Block) (inst off n : Nat) => Written i s o b inst off (BitVec.ofNat 64 n) (fun u => u = s.regWrite o b inst off (BitVec.ofNat 64 n))
    let job := fun (n tag rank : Nat) => 2 ^ 60 * n + 2 ^ 32 * tag + rank
    let hub := s.selSlot o .hub
    (∀ (a : BitVec 28) (v : Word) b inst off, pageAt a.toNat = some (b, inst, off) → regRows b inst off ≠ [] → WriteTaken s o b inst off v →
      (∃ applied flags, exec (.registerWrite o a v) s = .next ((s.regWrite o b inst off v).auditReg o a.toNat (s.regValue o b inst off) v applied flags)) ∧
      (a.toNat % 8 = 0 → ∃ applied flags, exec (.badSizeAccess o a 8 (some v)) s =
        .next ((s.regWrite o b inst off v).auditReg o a.toNat (s.regValue o b inst off) v applied flags))) ∧
    (∀ a : BitVec 28, a.toNat % 8 = 0 → exec (.badSizeAccess o a 8 none) s = .next (s.emit (.regValue (s.busRead o a.toNat)))) ∧
    (∀ (page : BitVec 16) (b : Block) (inst off : Nat), pageAt (4096 * page.toNat) = some (b, inst, off) → s.clkOff b inst = false →
      (b = .qmg → s.getF F.QMG_STAT_READY ≠ 0) → ∀ h, spGet [] s.holds page.toNat = [h] → (∀ r ∈ regRows b inst (h.addr % 4096), r.acc ≠ .wo ∧ r.acc ≠ .w1c) →
      let t : State := { s with holds := spPut [] s.holds page.toNat [] }
      ∃ (applied : Word) (flags : Nat), exec (.heldWritesApply page) s = .next ((t.regWrite h.origin b inst (h.addr % 4096) h.value).auditReg h.origin h.addr
        (t.regValue h.origin b inst (h.addr % 4096)) h.written applied flags)) ∧
    (∀ (page : BitVec 16) (b : Block) (inst off : Nat), pageAt (0x38 + 4096 * page.toNat) = some (b, inst, off) → s.serves o = true → s.canSee o b inst = true →
      exec (.cfgDigestRead o page) s = .next (s.emit (.regValue ((s.seenBy o b inst).cfgDigest b inst)))) ∧
    (∀ k : BitVec 3, k.toNat < 6 → s.serves o = true → s.canSee o .glb 0 = true →
      let t := s.seenBy o .glb 0
      t.ownSlot o (t.selSlot o .glb) = true →
      exec (.jobDigestRead o k) s = .next (s.emit (.regValue (BitVec.ofNat 64 (leNat (((t.jobDigest (t.selSlot o .glb)).drop (8 * k.toNat)).take 8)))))) ∧
    (∀ c m : BitVec 8, w (.thrRunStart o c m) o .clu c.toNat 0x40 m.toNat ∧ w (.thrRunStop o c m) o .clu c.toNat 0x40 (256 * m.toNat)) ∧
    (∀ (ch : BitVec 6) (r : BitVec 3) (v : Word), r.toNat ≤ 4 → w (.slvBindWrite o ch r v) o .slv ch.toNat (0x40 + 8 * r.toNat) v.toNat) ∧
    w (.ctxOpRead o) o .qmg 0 0x50 1 ∧ w (.ctxOpWrite o) o .qmg 0 0x50 2 ∧
    (∀ ch : BitVec 6, let cur := (s.regW .mov 0x10 ch.toNat).toNat
      w (.movStop o ch) o .mov ch.toNat 0x10 (setBits cur 0 0 1) ∧ w (.movResume o ch) o .mov ch.toNat 0x10 (setBits cur 1 1 1)) ∧
    (∀ en : Bool, w (.frameEnWrite o en) o .cad 0 0x10 (setBits (s.regW .cad 0x10).toNat 0 0 (if en then 1 else 0))) ∧
    (∀ (slot : BitVec 3) (ports : BitVec 2),
      w (.fioEnable o slot ports) o .fio 0 0x10 (setBits (setBits (setBits (s.regW .fio 0x10).toNat 10 8 slot.toNat) 5 4 ports.toNat) 0 0 1)) ∧
    (∀ (trig : BitVec 5) (restore : Bool), w (.sporeEnable o trig restore) o .spo 0 0x48 ((if restore then 0x10000 else 0) + 256 * trig.toNat + 1)) ∧
    (∀ v : Word, w (.capWrite o v) o .pwr 0 0x40 v.toNat ∧ w (.lcsReq o v) o .lcs 0 0x40 v.toNat ∧ w (.lcsConfirm o v) o .lcs 0 0x50 v.toNat) ∧
    (∀ (tag : BitVec 16) (rank : BitVec 17), w (.jobLoad o tag rank) o .hub 0 0x58 (job 2 tag.toNat rank.toNat) ∧
      w (.jobAccept o tag rank) o .hub 0 0x58 (job 3 tag.toNat rank.toNat)) ∧
    w (.jobAbandon o) o .hub 0 0x58 (job 1 (s.slotTag hub) (s.myRank hub)) ∧ w (.jobDrain o) o .hub 0 0x58 (job 4 (s.slotTag hub) (s.myRank hub)) ∧
    (∀ (p : BitVec 3) (v : Word), let cur := (s.regW .prt 0x10 p.toNat).toNat
      w (.partitionName p) .fabric .glb 0 0x48 (setBits (s.regW .glb 0x48 0 (s.selSlot .fabric .glb)).toNat 34 32 p.toNat) ∧
      w (.partitionEnable o p) o .prt p.toNat 0x10 (setBits cur 0 0 1) ∧ w (.preset o p) o .prt p.toNat 0x10 (setBits cur 1 1 1) ∧
      w (.classWrite o p v) o .prt p.toNat 0x48 v.toNat) ∧
    (∀ l : BitVec 2, w (.recoveryGo l) (.host l) .mgt 0 0x70 1)

/-- R318, R320 to R324, R332, R351, R353: what the time sources, the frame timer, the field windows and STEP do where they act. R322, R323, R324: a 1PPS
edge more than 1 µs from the locked counter is an error and no measurement; the 1PPS output rises once at each second, shifted by its adjustment; the
10 MHz reference, where enabled, is present or lost. R361, R364 to R367, R370, R371, R373: the steps of a job's load, launch and teardown, each where
it is due. -/
def Obligations.TimeAndJobCommandsComplete : Prop :=
  (∀ (s : State),
     (∀ x : PtpTime, s.powered = true → x.port.toNat = s.getF F.CAD_PTP_PORT → (s.getF F.FIO_CTRL_PORT_EN).testBit x.port.toNat = true →
       (s.getF F.FIO_STAT_LINK).testBit x.port.toNat = true → (s.getF F.CAD_CTRL_SRC_EN).testBit 0 = true →
       Completes (.ptpMessage x) s (fun s' => (s'.getF F.CAD_STAT_PRESENT).testBit 0 = true ∧ s'.getF F.CAD_STAT_SRC = 1 ∧ s'.time.lostAt = none ∧ s'.hbm = s.hbm)) ∧
     (s.hasParent = true → s.getF F.FAB_STAT_UP (s.getF F.CAD_PARENT_PORT) = 1 → s.time.exchAt = none →
       Completes .timeExchange s (fun s' => s'.time = { s.time with exchAt := some s.now } ∧ s'.regs = s.regs ∧ s'.hbm = s.hbm)) ∧
     (∀ (port : BitVec 5) (x : TimeCell) (t4 : BitVec 64), s.hasParent = true → s.getF F.FAB_STAT_UP (s.getF F.CAD_PARENT_PORT) = 1 →
       port.toNat = s.getF F.CAD_PARENT_PORT → x.state = 2 → exec (.timeResponse port x t4) s =
         .next (s.measure 1 ((((x.t2.toNat : Int) - x.t1.toNat) - ((t4.toNat : Int) - x.t3.toNat)) / 2))) ∧
     (∀ (port : BitVec 5) (x : TimeCell), port.toNat < 20 → s.getF F.FAB_STAT_UP port.toNat = 1 → ∃ y : TimeCell, y.t1 = x.t1 ∧ y.t2 = BitVec.ofNat 64 s.cad ∧
       exec (.timeRequest port x) s = .next (s.emit (.timeCell port.toNat 2 y))) ∧
     (∀ src : BitVec 2, src.toNat < 3 → (s.getF F.CAD_STAT_PRESENT).testBit src.toNat = true → exec (.timeSourceLost src) s = .next (s.loseSrc src.toNat)) ∧
     (∀ t, s.time.lostAt = some t → t + 2000000000 ≤ s.now → s.timeStat ≠ timeFree → s.timeStat ≠ timeHoldover → s.time.everLocked = true →
       Completes .holdoverEntry s (fun s' => s'.timeStat = timeHoldover ∧ s'.getF F.CAD_STAT_SRC = 0 ∧ s'.getF F.CAD_ERR_TIME_LOST = 1 ∧ s'.cad = s.cad)) ∧
     (∀ n, s.time.frameNext = some n → s.getF F.CAD_CTRL_FRAME_EN = 1 → s.frameTick n ≤ s.cad →
       Completes .frameStart s (fun s' => s'.getF F.CAD_FRAME_NUMBER = n % 2 ^ 32 ∧ s'.getF F.CAD_FRAME_TICK_TICK = s.frameTick n % 2 ^ 64 ∧
         s'.time.frameNext = some (n + 1) ∧ s'.cad = s.cad)) ∧
     (∀ w, s.fio.wins.find? (fun w => !w.filling) = some w → w.start + s.getF F.FIO_WINDOW_NS ≤ s.cad → Completes .ingestWindowClose s (fun s' =>
       s'.fio = { s.fio with wins := s.fio.wins.map (fun v => if v.k = w.k then { v with filling := true } else v) } ∧ s'.hbm = s.hbm)) ∧
     (∀ w, s.fio.wins.find? (fun w => w.filling) = some w →
       let bs := ((List.range s.mapCount).map ((s.memRead .line s.mapBase (16 * s.mapCount)).fillEntry w)).flatMap (fun e => e.1)
       s.slotState s.fioSlot = slotAccepting → s.stacksReady s.mapBase (16 * s.mapCount) = true → s.stacksReady (s.bankAddr w.k) (16 * s.mapCount) = true →
       s.hbmVerify s.mapBase (16 * s.mapCount) = true → s.fencedIn (s.bankAddr w.k) bs.length = false → s.partOfQueue (s.getF F.FIO_INGEST_Q_QUEUE) = none →
       Completes .closeFillComplete s (fun s' => s'.fio = { s.fio with wins := s.fio.wins.filter (fun v => v.k ≠ w.k), closed := some w.k } ∧
         s'.hbm = writeBytes s.hbm (s.bankAddr w.k) bs)) ∧
     (∀ (n : BitVec 4) (k start : Nat) (x : FioPub), s.fio.due.find? (fun d => d.1 = n.toNat) = some (n.toNat, k, start) → s.fio.pubs[n.toNat]? = some x →
       s.fioOn = true → start + x.offset ≤ s.cad → s.stacksReady x.src (8 * x.count) = true → s.slotState s.fioSlot = slotAccepting →
       s.faulted s.fioSlot = false → (s.sp s.fioSlot).restoring = false → s.gateFail x.gate start (start + x.offset) = none → s.hbmVerify x.src (8 * x.count) = true →
       exec (.publicationTick ⟨n, []⟩) s = .next ((s.setFio { s.fio with due := s.fio.due.erase (n.toNat, k, start) }).pubDispatch x n.toNat k (start + x.offset))) ∧
     (∀ (id : Nat) (c : Cmd), s.cmd? id = some c → c.phase = .started → c.opc = 0x68 → s.stepOk c = true → c.num 32 8 = 0 → (s.sp (c.byte 40)).stepRec ≠ none →
       exec (.step ⟨id, []⟩) s = .next (State.sporeStep ((((s.logStep (c.byte 40) (s.getF F.CAD_STEP_STEP 0 (c.byte 40)) 0 s.cad).setF F.CAD_STEP_STEP (c.num 24 8) 0
         (c.byte 40)).addF F.CAD_STEP_CNT_COUNT 1 0 (c.byte 40)).commitCmd c 0 0 0 0) (c.byte 40)))) ∧
  (∀ (s : State), s.powered = true →
     (let r := (s.cad - s.getF F.CAD_PPS_IN_DELAY_NS) % 1000000000
      let d : Int := if r ≤ 500000000 then - (r : Int) else 1000000000 - (r : Int)
      (s.getF F.CAD_CTRL_SRC_EN).testBit 2 = true →
       (s.timeStat = timeLocked → 1000 < d.natAbs → exec .ppsIn s = .next (s.setErr F.CAD_ERR_PPS_BAD)) ∧
       (s.timeStat ≠ timeLocked ∨ d.natAbs ≤ 1000 → exec .ppsIn s = .next (s.measure 2 d))) ∧
     (let adj := toSigned 32 (s.getF F.CAD_PPS_OUT_ADJ_NS)
      let sec := (((s.cad : Int) - adj) / 1000000000).toNat
      s.getF F.CAD_CTRL_PPS_OUT_EN = 1 → adj ≤ s.cad → s.time.ppsSec ≠ some sec →
       exec .ppsOut s = .next ((s.setTime { s.time with ppsSec := some sec }).emit (.ppsEdge (((1000000000 * sec : Nat) : Int) + adj).toNat))) ∧
     ((s.getF F.CAD_CTRL_SRC_EN).testBit 3 = true →
       Completes .ref10mLost s (fun s' => (s'.getF F.CAD_STAT_PRESENT).testBit 3 = false ∧ s'.getF F.CAD_ERR_REF_LOST = 1 ∧ s'.cad = s.cad ∧ s'.time = s.time) ∧
       Completes .ref10mReturn s (fun s' => (s'.getF F.CAD_STAT_PRESENT).testBit 3 = true ∧ s'.cad = s.cad ∧ s'.time = s.time))) ∧
  (∀ (slot : BitVec 3) (s : State),
     let j := slot.toNat
     let x := s.jobX j
     let n := s.held j
     let base := 4096 * s.getF F.GLB_FROND_BASE_ADDR 0 j
     (s.slotState j = slotDraining → 5000000 + x.drainAt ≤ s.now → exec (.drainEnd slot) s = .next (s.jobBeginWipe j)) ∧
     (s.slotState j = slotWiping → x.wipeFailed = false → (∀ c ∈ s.jobClusters j, (s.clu c).wiping = false) → (∀ i < 8, (s.jobX i).pend = false) →
       s.getF F.GLB_REPORT_EP_EP 0 j = epNone → Completes (.wipeComplete slot true) s (fun s' => s'.slotState j = slotFree ∧ s'.slotPart j = none ∧
         s'.jobX j = {} ∧ s'.hbm = s.hbm ∧ s'.getF F.GLB_WIPE_TICKS_COUNT 0 j = (s.cad - x.wipeAt) % 2 ^ 64)) ∧
     (s.slotState j = slotAccepting → s.stage j = stageFronding → x.started = false → s.getF F.GLB_FROND_TICK_TICK 0 j ≤ s.cad →
       Completes (.frondStart slot) s (fun s' => s'.held j = 0 ∧ s'.fronding j = true ∧ s'.hbm = s.hbm)) ∧
     (s.fronding j = true → s.isRoot j = false → x.srcHeld ≤ x.next → x.next < s.frondSegs j → x.polling = true →
       exec (.frondPoll slot) s = .next ((s.setJobX j { x with polling := true, lastReply := x.lastReply }).frondRead j (s.frondSource j false) (0x400000 * s.frondSegs j) 8 none)) ∧
     (∀ bs, s.fronding j = true → 0 < n → n < s.frondSegs j → s.segLen j n = 0x400000 → s.segData j n = some bs →
       sha384 bs = segDigest (readBytes s.hbm base (64 + 48 * (s.frondSegs j - 1))) n → s.isRoot j = true →
       exec (.frondSegmentVerified ⟨slot, []⟩) s = .next ((((s.setJobX j { x with fetch := x.fetch.filter (fun f => f.seg ≠ n) }).setF F.GLB_FROND_STAT_HELD (n + 1) 0
         j).hbmSealWrite (base + 0x400000 * s.frondSegs j) (natLe 8 (n + 1) ++ List.replicate 4088 0)).frondPump j 4)) ∧
     (s.fronding j = true → s.isRoot j = false → (x.polling = true ∨ x.fetch ≠ []) → 5000000 + x.lastReply ≤ s.now →
       exec (.frondSwitch slot) s = .next (s.frondSwitch j)) ∧
     (s.fronding j = true → s.held j = s.frondSegs j → s.inflight < 64 → exec (.launchBarrierStart slot) s = .next ((s.setStage j stageBarrier).digestCheck j)) ∧
     (s.slotState j = slotAccepting → s.stage j = stageBarrier → x.passed = true → (s.sp j).restoring = false → s.getF F.GLB_LAUNCH_TICK_TICK 0 j ≤ s.cad →
       s.hbmVerify (0x400000 + s.frondBase j) 0x40000 = true →
       Completes (.threadLaunch ⟨slot, []⟩) s (fun s' => s'.stage j = stageRunning ∧ s'.hbm = s.hbm ∧ ∀ c ∈ s.jobClusters j, (s.clu c).wiping = false →
         (s.thr c 0).st = .off → s'.thr c 0 = (s.thr c 0).start (s.getF (thrPcFld 0) c))) ∧
     (s.slotState j = slotAccepting → s.stage j = stageRunning → j ∉ s.quiesced → s.inflight < 64 →
       s.getF F.GLB_LAUNCH_TICK_TICK 0 j + x.checks * (1000000 * s.getF F.GLB_SWEEP_MS 0 j) ≤ s.cad → exec (.digestSweep slot) s = .next (s.digestCheck j)))

/-- R378 to R398: the steps of a snapshot's wave, its pause, its copy and a restore, each where it is due and succeeds. -/
def Obligations.SporeStepsComplete : Prop :=
  ∀ (slot : BitVec 3) (s : State),
    let j := slot.toNat
    let x := s.sp j
    let down := fun (m : SporeMsg) => (s.setSp j { x with down := none, upAt := none }).sendDown j m
    let idle := x.mine = none ∧ x.upAt = none
    let gets := fun (k : Instr) (kind : Nat) (stage : Nat) (P : SporeMsg → State → Prop) => ∀ m, s.downMsg j kind = some m → x.stage = stage → x.upAt ≠ none →
      Completes k s (P m)
    (∀ (id : Nat) (c : Cmd), s.cmd? id = some c → c.phase = .started → c.opc = 0x69 → c.engine = 0 → c.byte 24 < 8 → c.num 25 39 = 0 →
      s.slotPart (c.byte 24) = some c.part → s.getF F.SPO_SLOT_CTRL_EN 0 (c.byte 24) ≠ 0 →
      exec (.snapshot id) s = .next ((s.raiseRequest (c.byte 24)).commitCmd c 0 0 0 0)) ∧
    (s.sporeLive j = true →
      (s.isRoot j = true → s.stage j = stageRunning → s.getF F.SPO_INTERVAL_MS 0 j ≠ 0 → s.getF F.SPO_INTERVAL_AUTO 0 j = 0 →
        x.lastResume + 1000000 * s.getF F.SPO_INTERVAL_MS 0 j ≤ s.cad → s.getF F.SPO_SLOT_CTRL_EN 0 j = 1 → (s.getF F.SPO_SLOT_CTRL_TRIG_EN 0 j).testBit 0 = true →
        exec (.snapshotPolicyTimer slot) s = .next (s.raiseRequest j)) ∧
      (∀ child : BitVec 4, child.toNat < (s.kids j).length →
        let a := 4096 * s.getF F.SPO_MAILBOX_ADDR 0 j + 64 * child.toNat
        let m := SporeMsg.ofBytes (readBytes s.hbm a 64)
        (readByte s.hbm (0x800 + a) = 0x01 → exec (.request slot child) s = .next (s.raiseRequest j)) ∧
        (m.gen = s.curGen j → ∀ p ∈ [(Instr.drained slot child, 0x03), (.captured slot child, 0x05), (.partDone slot child, 0x07), (.recorded slot child, 0x0A),
            (.filled slot child, 0x0C), (.replayResult slot child, 0x0E)], m.kind = p.2 →
          exec p.1 s = .next ((s.setSp j { x with ups := (child.toNat, m) :: x.ups.filter (fun u => u.1 ≠ child.toNat) }).upTry j))) ∧
      (∀ m, s.downMsg j 0x02 = some m → x.stage = 0 → x.restoring = false → Completes (.announce slot) s (fun s' => (s'.sp j).stage = 1 ∧
        s'.getF F.SPO_Q_TICK_TICK 0 j = m.tick % 2 ^ 64)) ∧
      (x.stage = 1 → s.getF F.SPO_Q_TICK_TICK 0 j ≤ s.cad → s.quiesced = [] → s.fioOn = false →
        Completes (.quiesceTick slot) s (fun s' => s'.quiesced = [j] ∧ s'.sp j = { x with stage := 2 })) ∧
      (x.stage = 2 → idle → s.drained j = true → (∀ k ∈ s.colls, k.slot = j → k.poison = false) → exec (.localDrainDone slot) s = .next
        ((((s.tx.filter (fun e => e.1.tag.toNat = s.slotTag j)).map (fun e => e.1)).foldl State.sendFloor (s.writeBacks j)).contribute j (s.sporeMsg j 0x03))) ∧
      (x.stage = 2 → idle → s.getF F.SPO_QUIESCE_TICK_TICK 0 j + 1000000 * s.getF F.SPO_DRAIN_MS 0 j < s.cad →
        exec (.snapDrainTimeout slot) s = .next ((s.setErr F.SPO_ERR_SNAP_CONSISTENCY 0 (s.slotPart j)).jobFault j .snapConsistency)) ∧
      gets (.capture slot) 0x04 2 (fun m s' => (s'.sp j).stage = 3 ∧ (s'.sp j).copying = true ∧ (s'.sp j).image = some ((down m).captureImage j)) ∧
      (x.stage = 3 → idle → exec (.captureDone slot) s = .next (s.contribute j (s.sporeMsg j 0x05))) ∧
      (∀ m, s.downMsg j 0x06 = some m → x.stage = 3 → x.upAt ≠ none →
        let t := down m
        let u := (t.setF F.SPO_RESUME_TICK_TICK t.cad 0 j).setSp j { t.sp j with stage := 4, stepRec := none, recorded := false }
        exec (.resume slot) s = .next (({ u with quiesced := t.quiesced.filter (fun i => i ≠ j) } : State).settleAll)) ∧
      (∀ t, x.upAt = some t → s.isRoot j = false → t + 1000000 * s.getF F.SPO_WAVE_MS 0 j ≤ s.now → x.stage = 2 ∨ x.stage = 3 →
        exec (.waveTimeout slot) s = .next ((s.setErr F.SPO_ERR_SNAP_CONSISTENCY 0 (s.slotPart j)).jobFault j .snapConsistency)) ∧
      (∀ im, x.stage = 4 → x.copying = true → idle → x.image = some im → s.partBytes j ≤ s.hostSlotSize j →
        let t := s.writePart j im
        let u := (((t.setSp j { t.sp j with copied := x.granules, pool := [] }).setF F.SPO_COPY_POS_DONE x.granules.length 0 j).setF F.SPO_POOL_OCC_ENTRIES 0 0 j).releaseHolds
          j (fun _ => true)
        exec (.partCopyDone slot ⟨true, .clean⟩) s = .next (u.contribute j (u.partDoneMsg j false))) ∧
      (∀ m, s.sporeRecordOk j = true → s.downMsg j 0x08 = some m → x.stage = 4 → x.upAt ≠ none →
        let t := down m
        let g := t.curGen j
        let u := (((((t.copyEnd j).hostPut j (4088 + t.hostSlot j (t.sp j).part) (natLe 8 (g ^^^ 0xA5A5A5A5A5A5A5A5))).setF F.SPO_COMMIT_TICK_TICK t.cad 0 j).addF
          F.SPO_SNAP_CNT_COUNT 1 0 j)).setF F.SPO_SUGGEST_INTERVAL_MS m.value 0 j
        exec (.committed slot) s = .next (((u.setSp j { u.sp j with stage := 5, genWait := true, lastResume := u.getF F.SPO_RESUME_TICK_TICK 0 j }).sporeRecord
          j 0 g).sporeStep j)) ∧
      (∀ m, s.sporeRecordOk j = true → s.downMsg j 0x09 = some m → x.stage = 4 → x.upAt ≠ none →
        let t := down m
        let u := ((t.copyEnd j).setErr F.SPO_ERR_ABANDONED 0 (t.slotPart j)).addF F.SPO_ABANDON_CNT_COUNT 1 0 j
        (((u.setSp j { u.sp j with stage := 0 }).sporeRecord j 0x01 (u.curGen j)).isRoot j = false →
          exec (.abandoned slot) s = .next ((u.setSp j { u.sp j with stage := 0 }).sporeRecord j 0x01 (u.curGen j)))) ∧
      (∀ m, s.downMsg j 0x0B = some m → x.stage = 5 → x.upAt ≠ none →
        let t := down m
        let u := (t.setF F.SPO_GEN_JOB_GEN m.gen 0 j).setSp j { t.sp j with stage := 0, genWait := false }
        u.isRoot j = false → exec (.genReady slot) s = .next u) ∧
      (∀ i, s.stage j = stageBarrier → (s.jobX j).passed = true → x.restoring = true → x.stage = 0 →
        s.restoreSlot j (s.getF F.SPO_RESTORE_GEN_GEN 0 j) = some i → s.restoreCause j (s.hostSlot j i) true = 0 → ∃ y,
        let u := (s.setSp j y).restoreFill j (s.hostSlot j i)
        y.stage = 6 ∧ y.fillCause = 0 ∧ exec (.restoreFillDone slot true) s = .next (u.contribute j (u.sporeMsg j 0x0C))) ∧
      (∀ m, s.downMsg j 0x0D = some m → x.stage = 6 → x.upAt ≠ none →
        let t := down m
        let u := (t.setStage j stageRunning).setSp j { t.sp j with stage := 7, stepRec := none, recorded := false, lastResume := t.cad }
        exec (.restoreResume slot) s = .next (({ u with quiesced := t.quiesced.filter (fun i => i ≠ j) } : State).settleAll)) ∧
      (x.stage = 7 → x.recorded = false → x.lastResume + 1000000 * s.getF F.SPO_REPLAY_MS 0 j ≤ s.cad → exec (.replayTimeout slot) s =
        .next ((s.setSp j { x with recorded := true, fillCause := 8 }).contribute j { s.sporeMsg j 0x0E with flags := 1, cause := 8 })) ∧
      (∀ m, s.sporeRecordOk j = true → s.downMsg j 0x0F = some m → x.restoring = true → x.stage = 6 ∨ x.stage = 7 → m.flags.testBit 0 = false →
        let t := down m
        exec (.verdict slot) s = .next (((t.setF F.SPO_GEN_JOB_GEN (t.curGen j) 0 j).sporeRecord j 0 (t.curGen j)).setSp j { t.sp j with stage := 0, restoring := false }))) ∧
    (∀ w : HeldAccess, let g := w.addr.toNat / 2097152
      x.copying = true → g ∈ x.granules → g ∉ x.copied → w.bytes ≠ [] → (w.addr.toNat + w.bytes.length - 1) / 2097152 = g →
      Completes (.cowHold slot w) s (fun s' => s'.hbm = s.hbm ∧ (s'.sp j).holds = (g, s.now, w) :: x.holds)) ∧
    (∀ g : BitVec 18, x.copying = true → g.toNat ∈ x.granules → g.toNat ∉ x.copied → ∀ h, x.holds = [(g.toNat, h)] →
      Completes (.priorityCopyDone slot g) s (fun s' => s'.hbm = (s.hbmWrite h.2.addr.toNat h.2.bytes).hbm ∧ (s'.sp j).holds = [] ∧ (s'.sp j).copied = g.toNat :: x.copied))

/-- R402 to R418, R435, R436, R449, R475, R479: input, rails, governor, broker, heat, host links and partitions, each where it acts. -/
def Obligations.PackageCommandsComplete : Prop :=
  ∀ (s : State),
    (∀ mv : BitVec 16,
      (s.pow.stage = .off → s.pow.overVolt = false → 40000 ≤ mv.toNat → exec (.inputPowerOn mv) s = .next { s with pow := { s.pow with stage := .soft } }) ∧
      (s.pow.stage ≠ .off → mv.toNat < 38000 → exec (.brownOut mv) s = .next (s.cold .off)) ∧
      (s.pow.stage ≠ .off → s.pow.stage ≠ .trip → 62000 < mv.toNat → Completes (.overVoltage mv) s (fun s' => s' = { s.cold .off with pow := { stage := .off, overVolt := true } })) ∧
      (s.pow.stage = .off → s.pow.overVolt = true → 40000 ≤ mv.toNat → mv.toNat ≤ 59500 →
        exec (.inputBackInRange mv) s = .next { s with pow := { s.pow with overVolt := false, stage := .soft } })) ∧
    (∀ straps : BitVec 3, s.pow.stage = .soft → Completes (.railsRegulate straps) s (fun s' => s'.powered = true ∧ s'.cad = 0 ∧ s'.pow.split0 = straps.getLsbD 0)) ∧
    (∀ l : BitVec 2, let n := l.toNat
      (s.coreUp = true → s.linkExists n = true → (s.hostLink n).perst = false → exec (.hostLinkTrain l) s = .next (s.setHostLink n { s.hostLink n with up := true })) ∧
      ((s.hostLink n).up = true → Completes (.hostLinkDown l) s (fun s' => (s'.hostLink n).up = false ∧ s'.jobs = s.jobs)) ∧
      exec (.perst l false) s = .next (s.setHostLink n { s.hostLink n with perst := false }) ∧
      ((s.powered = true → s.linkExists n = true) → Completes (.perst l true) s (fun s' => (s'.hostLink n).up = false ∧ (s'.hostLink n).perst = true)) ∧
      (∀ a, (s.hostLink n).up = true → s.getF F.MGT_STAT_BOOT = 1 → exec (.bar4Access l (.cas128 a)) s = .next (s.emit (.bar4 none))) ∧
      (∀ (a : BitVec 39) (bs : List Byte) p, (s.hostLink n).up = true → s.getF F.MGT_STAT_BOOT = 1 → s.partOfLink n = some p →
        (List.range' (unitOf a.toNat) (unitOf (a.toNat + bs.length - 1) + 1 - unitOf a.toNat)).all (fun u => s.prtUnit p u) = true →
        s.lichReady (stackOf a.toNat) = true → s.fencedAt a.toNat = false → (∀ k ∈ linesIn a.toNat bs.length, s.cacheState k ≠ 0) →
        exec (.bar4Access l (.write a bs)) s = .next (s.hbmWrite a.toNat bs))) ∧
    (s.powered = true →
      (∀ mv : BitVec 16, 42000 ≤ mv.toNat → mv.toNat ≤ 58000 → exec (.inputVoltageWarning mv) s =
        .next ((s.setF F.PWR_VIN_MV mv.toNat).setGov { s.gov with vinOut := false })) ∧
      (s.applying = false → exec .packageReset s = .next (({ s with aud := { s.aud with flash := s.aud.entries.take 4096 } } : State).cold .soft)) ∧
      (∀ up : BitVec 7, 0 < up.toNat → up.toNat ≤ 72 → exec (.ovuskCoreReset up) s = .next { s with pow := { s.pow with coresUp := up.toNat } }) ∧
      (∀ (x : PowerSample) t r, s.diesReady = true → (s.measurePower x).settings = t :: r → (s.measurePower x).predict x t ≤ 1000 * (s.measurePower x).powerTarget →
        Completes (.governorTick x) s (fun s' => s'.gov.op = t.op ∧ s'.gov.levels = [t.dl, t.res, t.be] ∧ s'.getF F.PWR_STAT_CAP_UNATTAINABLE = 0)) ∧
      (∀ w : BitVec 16, 4200 < w.toNat → Completes (.peakHit w) s (fun s' => s'.getF F.PWR_ERR_PEAK_HIT = 1 ∧ s'.gov = { s.gov with peak := true })) ∧
      (s.diesReady = true → (∀ k, k < 4 → max s.gov.op (spGet 0 s.gov.dieOp (1 + k)) ≤ 7) → Completes .operatingPointChange s (fun s' =>
        RegsBut s s' [fldKey F.PWR_STAT_OP] ∧ ∀ k, k < 4 → bitsOf (s'.getF F.PWR_STAT_OP) (3 * k + 2) (3 * k) = max s.gov.op (spGet 0 s.gov.dieOp (1 + k)))) ∧
      (∀ root rest, s.brokerOn = true → s.gov.epoch < s.cad / 10000000 → s.getF F.MGT_STAT_BOOT = 1 → s.brokerRanks = root :: rest → root ≠ s.myRank s.brokerSlot →
        s.myRank s.brokerSlot ∈ rest → let r := s.ownReport
        exec .brokerPeriod s = .next (State.sendPower (s.setGov { s.gov with epoch := s.cad / 10000000, limited := false }) root
          (powerPayload 1 r.flags (s.cad / 10000000 % 2 ^ 32) r.measured (s.getF F.PWR_BUDGET_W) r.cap))) ∧
      (∀ d : BitVec 3, d.toNat < 7 → ∀ t : BitVec 8, t.toNat < 100 → s.gov.badSensors.contains d.toNat = false → s.dieState d.toNat = 0 →
        Completes (.dieThermalSample d (some t)) s (fun s' => bitsOf (s'.getF F.THM_DIE_TEMP_TEMP) (8 * d.toNat + 7) (8 * d.toNat) = t.toNat ∧ s'.dieState d.toNat = 0)) ∧
      (∀ x : RailSample, x.rail.toNat < 48 →
        (x.phaseLost = false → x.temp.toNat ≤ 115 → exec (.regulatorWarning x) s =
          .next (s.railReading x (if (s.getF F.PWR_REG_DATA_FLAGS 0 x.rail.toNat).testBit 2 then 4 else 0))) ∧
        Completes (.railFail x) s (fun s' => s'.getF F.PWR_ERR_RAIL_FAIL = 1 ∧ s'.faultN = .low)) ∧
      (∀ x : ArbiterDemand, x.resource.toNat < 3 → totalOf (s.division x) ≤ x.capacity → Completes (.arbiterDivide x) s (fun s' => { s' with parts := s.parts } = s ∧
        ∀ p, p < 8 → s.partEn p = true →
          (s'.part p).grants.head? = some (x.resource.toNat * 16 + x.index.toNat, amountOf (s.division x) p))) ∧
      (∀ (p : BitVec 3) (x : BreachSample), s.partEn p.toNat = true → s.breached p.toNat x = true → Completes (.breach p x) s (fun s' =>
        (s'.part p.toNat).lastBreach.head? = some (x.resource.toNat * 16 + x.index.toNat, s.now / 1000000)))) ∧
    (∀ x : Cell, (s.powerCell x 1 = true → x.srcRank.toNat ∈ s.brokerRanks → exec (.powerReport x) s = .next (s.setGov { s.gov with
        reports := { rank := x.srcRank.toNat, flags := payloadNum x 1 1, measured := payloadNum x 8 4, cap := payloadNum x 16 4 } ::
          s.gov.reports.filter (fun y => y.rank ≠ x.srcRank.toNat) })) ∧
      (s.powerCell x 2 = true → s.gov.grantEpoch = none → Completes (.powerGrant x) s (fun s' =>
        s'.getF F.PWR_BUDGET_W = payloadNum x 12 4 % 2 ^ 12 ∧ s'.gov = { s.gov with grantEpoch := some (payloadNum x 4 4) }))) ∧
    (∀ p : BitVec 3, s.getF F.PRT_STAT_WIPING p.toNat = 1 → (∀ j, j < 8 → s.slotPart j = some p.toNat → s.slotState j ≠ slotDraining ∧ s.slotState j ≠ slotWiping) →
      (∀ c, c < 256 → s.prtGroup p.toNat (c / 8) = true → (s.clu c).wiping = false) →
      exec (.partitionWipeDone p true) s = .next (s.setF F.PRT_STAT_WIPING 0 p.toNat))

/-- R439, R440, R444 to R459: boot, updates, attestation and management messages, each answered where it is served. -/
def Obligations.ManagementCommandsComplete : Prop :=
  ∀ (s : State),
    (s.coreUp = true → s.boot = bootRom → s.applyLcs.fuses.lcs ≠ 3 → s.applyLcs.flash.image = .shipped →
      exec .romBoot s = .next (s.applyLcs.jump Config.shippedMessage Config.shippedVersion.toNat)) ∧
    (∀ x : FwImage, s.mgmt.rcv ≠ none → let b := x.bytes.take (s.getF F.MGT_RCV_LEN_BYTES)
      let t := (s.setMgmt { s.mgmt with rcv := none }).setF F.MGT_RCV_STAT_BUSY 0
      imageCause s.fuses.svn b = 0 → exec (.recoveryFetchDone (some x)) s =
        .next ((({ t with flash := { s.flash with image := .written b } } : State).setF F.MGT_RCV_STAT_CAUSE 0).runImage b)) ∧
    (s.powered = true → s.boot = bootRun → s.applying = false →
      let u := s.setMgmt { s.mgmt with upd := none, applied := false, rcv := none, spdm := [], replies := [] }
      exec .mcRestart s = .next (((u.setF F.MGT_STAT_UPD_ACTIVE 0).setErr F.MGT_ERR_MC_RESTART).bootFlash.runHeldResets)) ∧
    (∀ (i : BitVec 3) (x : PldmData), s.mctpUp i.toNat = true → s.mctpEnabled i.toNat = true → s.mgmt.upd = none → x.data.length ≤ 4096 →
      x.off.toNat + x.data.length ≤ 0x1800000 → x.last = false →
      let u : Update := { iface := i.toNat, staged := writeBytes [] x.off.toNat x.data, len := x.off.toNat + x.data.length }
      exec (.requestFirmwareData i x) s = .next (((s.setMgmt { s.mgmt with upd := some u }).setF F.MGT_STAT_UPD_ACTIVE 1).emit (.pldm i.toNat 0x15 [0]))) ∧
    (∀ i : BitVec 3, s.mctpUp i.toNat = true → s.mctpEnabled i.toNat = true → s.mgmt.applied = true → exec (.activateFirmware i false) s =
      .next (((s.setMgmt { s.mgmt with applied := false }).setF F.MGT_STAT_UPD_PENDING 1).emit (.pldm i.toNat 0x1A [0]))) ∧
    (∀ u, s.mgmt.upd = some u → u.applying = true → let t := (s.setMgmt { s.mgmt with upd := none, applied := true }).setF F.MGT_STAT_UPD_ACTIVE 0
      exec (.applyComplete true) s = .next ((({ t with flash := { s.flash with image := .written (readBytes u.staged 0 u.len) } } : State).emit
        (.pldm u.iface 0x18 [0])).runHeldResets)) ∧
    (∀ i : BitVec 3, s.powered = true → s.boot = bootRun → s.ifaceUp i.toNat = true →
      let n := i.toNat
      let answers := fun (code : Nat) (b : List Byte) => Host.Outcome.next (φ := Fault) (ρ := Refusal) ((s.setSpdm n { s.spdm n with m := none }).emit (.mctp n code b))
      let identity := s.fuses.lcs = 1 ∨ s.fuses.lcs = 2
      exec (.getVersion i) s = answers 0x04 (natLe 2 0x1300) ∧ exec (.getCapabilities i) s = answers 0x61 (natLe 4 0x20016) ∧
      exec (.negotiateAlgorithms i) s = answers 0x63 (natLe 1 1 ++ natLe 4 4 ++ natLe 4 8 ++ natLe 4 2) ∧
      (s.flash.keys = true → exec (.getDigests i) s = answers 0x01 (natLe 1 1 ++ sha384 Config.rsaChain)) ∧
      (∀ off len : BitVec 16, identity → let part := (Config.rsaChain.drop off.toNat).take len.toNat
        exec (.getCertificate i off len) s = answers 0x02 (natLe 2 part.length ++ natLe 2 (Config.rsaChain.length - off.toNat - part.length) ++ part)) ∧
      (∀ x : BitVec 256, identity → Completes (.challenge i x) s (fun s' => (s'.spdm n).m ≠ none ∧ s'.hbm = s.hbm ∧
        s'.getF F.MGT_SPDM_CNT_COUNT = (s.getF F.MGT_SPDM_CNT_COUNT + 1) % 2 ^ 64)) ∧
      (∀ (k : BitVec 8) (x : BitVec 256), 1 ≤ k.toNat → k.toNat ≤ 5 → exec (.getMeasurements i k false x) s = answers 0x60 (natLe 1 k.toNat ++ s.measurement k.toNat)) ∧
      (∀ k : BitVec 16, let part := ((s.spdm n).large.drop (k.toNat * Config.chunkBytes)).take Config.chunkBytes
        part ≠ [] → exec (.chunkGet i k) s = answers 0x06 (natLe 2 k.toNat ++ part)) ∧
      (∀ m, (s.spdm n).m = some m → exec (.pqSig i) s = .next ((s.setSpdm n { s.spdm n with large := Config.slhSign m }).emit (.mctp n 0x7F [0x0F]))) ∧
      Completes (.pqCert i) s (fun s' => (s'.spdm n).large = (if s.flash.keys then Config.slhChain else []) ∧ (s'.spdm n).m = none)) ∧
    (∀ i : BitVec 3, s.mctpUp i.toNat = true →
      let n := i.toNat
      (∀ eid : BitVec 8, eid ≠ 0 → eid ≠ 0xFF → exec (.setEndpointId i eid) s =
        .next ((s.setMgmt { s.mgmt with eids := spPut 0 s.mgmt.eids n eid.toNat }).emit (.mctp n 0x00 [0, 0, eid]))) ∧
      exec (.pldmSensorRead i 1) s = .next (s.emit (.pldm n 0x11 (0 :: natLe 4 (s.getF F.PWR_POWER_NOW_W)))) ∧
      (s.mctpEnabled n = true →
        (∀ (off : BitVec 32) (v : Word), off.toNat % 8 = 0 → exec (.mctpRegRead i off) s = .next (s.emit (.mctp n 0x01 (natLe 8 (s.busRead (.mgmt true) off.toNat).toNat))) ∧
          (∀ b inst o, pageAt off.toNat = some (b, inst, o) → regRows b inst o ≠ [] → WriteTaken s (.mgmt true) b inst o v →
            ∃ applied flags, exec (.mctpRegWrite i off v) s = .next (((s.regWrite (.mgmt true) b inst o v).auditReg (.mgmt true) off.toNat
              (s.regValue (.mgmt true) b inst o) v applied flags).emit (.mctp n 0x02 (natLe 8 applied.toNat))))) ∧
        (∀ (seq : Word) (k : BitVec 8), 1 ≤ k.toNat → k.toNat ≤ 16 → exec (.auditRead i seq ⟨k, []⟩) s = .next (s.emit (.mctp n 0x03
          ((s.aud.entries.filter (fun e => decide (seq.toNat ≤ e.seq) && decide (e.seq < seq.toNat + k.toNat))).reverse.flatMap AuditEntry.bytes)))) ∧
        (∀ seq : Word, WriteTaken s (.mgmt true) .aud 0 0x48 seq → Completes (.auditAck i seq) s (fun s' => s'.aud.drained = clampTo s.aud.drained s.aud.next seq.toNat)) ∧
        (∀ index : BitVec 8, exec (.mctpReset i 0 index) s = .next (s.emit (.mctp n 0x05 [1])).packageReset))) ∧
    (∀ a : BitVec 7, s.coreUp = true → exec (.entdaa a) s = .next (s.setMgmt { s.mgmt with i3c := some a.toNat })) ∧
    (∀ x : Cell, x.srcEp.toNat = s.getF F.MGT_FM_EP_EP →
      let off := payloadNum x 12 4
      let req := payloadNum x 8 4
      (s.mgmtCell x 2 = true → off % 8 = 0 → exec (.mgmtRegRead x) s =
        .next (s.sendMgmt x.srcEp.toNat (mgmtPayload 4 0 0 s.myEp req off (s.busRead .fabric off).toNat 0))) ∧
      (∀ b inst o, s.mgmtCell x 3 = true → s.mgmt.replies = [] → fabricTarget off = true → pageAt off = some (b, inst, o) → regRows b inst o ≠ [] →
        let v := BitVec.ofNat 64 (payloadNum x 16 8)
        WriteTaken s .fabric b inst o v → Completes (.mgmtRegWrite x) s (fun s' => ∃ applied flags b' u,
          u = (s.regWrite .fabric b inst o v).auditReg .fabric off (s.regValue .fabric b inst o) v applied flags ∧
          s' = State.sendMgmt (u.setMgmt { u.mgmt with replies := ((req, s.now, b') :: u.mgmt.replies).take 64 }) x.srcEp.toNat b')))

/-- R119, R220 to R223, R227, R229, R236: a matrix operation, a mover's descriptor, its end, its host reads and MOVE, each where its checks pass and its
data is at hand. R250, R255, R260: a sound, new cell of an accepting job is applied once at its window onto HBM. -/
def Obligations.EngineStepsComplete : Prop :=
  ((∀ (c : BitVec 8) (e : Ecc) (s : State) (t d code : Nat) (rest : List (Nat × MtxOp)), (s.clu c.toNat).mops = (t, .zero d code) :: rest → (s.clu c.toNat).pushPend = [] →
     (s.clu c.toNat).faulted = false → e ≠ .uncorrectable → Completes (.matrixOpComplete c e) s (fun s' => (s'.clu c.toNat).mops = rest ∧
       ∀ r j, r < 16 → j < 24 → spGet 0 (s'.clu c.toNat).acc (1024 * d + 32 * r + j) = 0)) ∧
   (∀ (c : BitVec 8) (t : BitVec 2) (es : List EccHit) (s : State) (ws : List Word) (addr : Nat),
     let m := Mover.tile c t
     let d := mdesc ws
     let w := s.movWho m
     let u := s.movCounted m
     let v := (u.movTouch w d).eccHits (u.movHits w d es)
     s.movHeld m = false → s.movRun m = none → s.movNext m = some (ws, addr) → s.movReady w d = true → u.movFields w d = true →
     u.anyFenced (idxSpace d) d.idxAddrs = false → u.movVerify w (idxSpace d) d.idxAddrs = true → u.movCheck w d = true → u.anyFenced d.srcSpace d.srcAddrs = false →
     (d.op = 2 → u.anyFenced 2 (u.wordAddrs w d) = false) → eccBad (u.movHits w d es) = false → v.movVerify w d.srcSpace d.srcAddrs = true →
     d.srcSpace ≠ 3 → d.srcSpace ≠ 5 → ∀ k ∈ [(1, Instr.moverCopy ⟨m, es⟩), (2, .moverGather ⟨m, es⟩), (3, .moverScatter ⟨m, es⟩), (4, .moverSeal ⟨m, es⟩)], d.op = k.1 →
       exec k.2 s = .next (v.movFinish m { desc := ws, descAddr := addr, isOver := false, seq := s.movNumber m } false)) ∧
   (∀ (c : BitVec 8) (t : BitVec 2) (s : State) (r : MovRun), s.movRun (.tile c t) = some r → r.isOver = true → ((mdesc r.desc).barrier = false ∨ r.stores = 0) →
     Completes (.descriptorEnd (.tile c t)) s (fun s' => (s'.tileMover c.toNat t.toNat).run = none ∧ s'.hbm = s.hbm ∧
       s'.getF (tmDone t.toNat) c.toNat = (s.getF (tmDone t.toNat) c.toNat + 1) % 2 ^ 32)) ∧
   (∀ (m : Mover) (s : State) (r : MovRun) (t : Nat), s.movRun m = some r → r.hostAt = some t →
     (∀ p, r.loads = [p] → p.data = none → exec (.hostCompletion m true) s = .next (s.movFinish m { r with hostAt := some s.now, loads :=
       [{ p with data := some (readBytes s.hostMem (2 ^ 64 * (((s.movWho m).part.bind s.partLink).getD 0) + p.off) 64) }] } false)) ∧
     (50000000 + t ≤ s.now → exec (.hostTimeout m) s = .next (s.movHostErr m r))) ∧
   (∀ (id : Nat) (s : State) (c : Cmd), s.cmd? id = some c → c.opc = 0x60 →
     let b := s.bulkCh c.engine
     (c.phase = .started → s.moveOk c = true → b.cmd = some id → exec (.move id) s = .next (((((s.setCmd { c with phase := .running, unit := c.engine }).setBulk
       c.engine { b with addr := c.num 24 8, idx := 0, count := c.num 40 4, bad := 0, flags := 0 }).setF F.MOV_CUR_TAG c.tag c.engine).setF
       F.MOV_CUR_QUEUE c.queue c.engine))) ∧
     (c.phase = .running → c.deadline ≠ 0 → c.deadline ≤ s.cad → (s.bulkCh c.unit).run ≠ none → exec (.moveDeadline id) s = .next (s.setCmd { c with late := true })))) ∧
  (∀ (x : Cell) (es : List EccHit) (s : State) (slot : Nat),
     let k := flowOf x
     let w := s.window slot x.win.toNat
     let die := s.handlingDie slot x
     let a := w.base + (x.offset.toNat - w.offBase)
     let f := (s.rxFlow die k).takeFloor ((2 ^ 32 + x.seq.toNat - x.floorGap.toNat) % 2 ^ 32)
     let old := readLe s.hbm a 8
     let d := leNat (x.payload.take 8)
     let sum := fun (k : Instr) => x.op = 0 → Completes k s (fun s' => s'.hbm = writeLe s.hbm a 8 ((old + d) % 2 ^ 64) ∧ s'.spad = s.spad)
     let keep := fun (k : Instr) => x.len.toNat ≤ 64 → Completes k s (fun s' => s'.hbm = s.hbm ∧ s'.spad = s.spad)
     x.dstEp.toNat = s.myEp → s.myEp ≠ epNone → s.diesReady = true → s.cellReady slot x = true → s.slotOfTag x.jobTag.toNat = some slot → x.crc = cellE2e x →
     w.kind = 0 → s.fencedAt a = false → s.combable die x = false → f.isDup x.seq.toNat = false → (∀ h ∈ es, h.ecc = .clean) →
       (x.type = 2 → Completes (.storeCell ⟨x, es⟩) s (fun s' => s'.hbm = writeBytes s.hbm a (x.payload.take x.len.toNat) ∧ (s'.rxFlow die k).ackDue = true)) ∧
       (x.type = 1 → keep (.loadCell ⟨x, es⟩)) ∧ (x.type = 6 → keep (.combLoadCell ⟨x, es⟩)) ∧ (x.type = 3 → sum (.atomicCell ⟨x, es⟩)) ∧
       (x.type = 4 → s.replyFree die = true → sum (.atomicFCell ⟨x, es⟩)) ∧
       (x.type = 5 → (x.fetch = true → s.replyFree die = true) → sum (.combAtomicCell ⟨x, es⟩)))

/-- R138, R142, R143, R165, R169, R171, R175, R181, R203, R206: solver commands and batches start, run and end, and Lichen's streams begin and complete,
each where its checks pass. R152, R153, R154, R159, Table 06-7: a solve with one member that ends before its deadline, its areas as they were
launched, writes its report, with the status and cause of the first row of Table 06-7 that holds, the counts of its run and the pattern digest; its
channel becomes idle, and the command commits with that status. -/
def Obligations.SolverStepsComplete : Prop :=
  ((∀ (id : Nat) (es : List EccHit) (s : State) (c : Cmd), s.cmd? id = some c → c.phase = .started →
     let s0 := s.takeIfNext c.engine c
     let k := s0.chan c.engine
     let q := solveParams c.block
     let b := batchParams c.block
     (c.opc = 0x50 → s.heldQueue c.queue = false → s.partOfSlv c.engine = some c.part → k.holder = some id → k.stage = slvChecks → s0.solveCheck1 c = true →
       s0.solveCheck2 c = true → s0.solveCheck3 c = true → readBytes s0.hbm (q.sched + 8) 16 = readBytes s0.hbm (q.mat + 48) 16 →
       s0.readFault es (s0.solveReads q) = none → Completes (.solve ⟨id, es⟩) s (fun s' => (s'.chan c.engine).stage = slvIterating ∧
         (s'.chan c.engine).params = c.block ∧ (s'.chan c.engine).holder = some id)) ∧
     (c.opc = 0x51 → s.partOfSlv c.engine = some c.part → (isBatchCh c.engine = true → s.rtPriv c.engine = true) → k.holder = some id →
       s0.chanOk c.engine c.part = true → s0.matOk c.part c.param true = true →
       let m := s.matDesc c.param
       s0.readFault es [(c.param, 64), (m.rowPtr, 4 * (m.n + 1)), (m.colIdx, 4 * m.nnz)] = none →
       Completes (.digest ⟨id, es⟩) s (fun s' => readBytes s'.hbm (c.param + 48) 16 = (sha384 (natLe 8 m.n ++ natLe 8 m.halo ++ natLe 8 m.nnz ++
         readBytes s.hbm m.rowPtr (4 * (m.n + 1)) ++ readBytes s.hbm m.colIdx (4 * m.nnz))).take 16 ∧ (s'.chan c.engine).holder = none)) ∧
     (∀ ch : BitVec 6, (s.chan ch.toNat).holder = none → s.nextForChannel ch.toNat = some c → c.isBatch = false → Completes (.solveStart ch) s (fun s' =>
       (s'.chan ch.toNat).holder = some c.id ∧ s'.getF F.SLV_LAUNCH_CNT_COUNT ch.toNat = (s.getF F.SLV_LAUNCH_CNT_COUNT ch.toNat + 1) % 2 ^ 64)) ∧
     (c.isSolver = true → c.deadline ≠ 0 → c.deadline ≤ s.cad → exec (.solveDeadline id) s = .next (s.setCmd { c with late := true })) ∧
     (∀ p ∈ [(Instr.batchDense ⟨id, es⟩, 0x52), (.batchSparse ⟨id, es⟩, 0x53)], c.opc = p.2 → s.heldQueue c.queue = false → s.batchMayWait c = true →
       (s.chan c.engine).holder = some id → (s.chan c.engine).stage = slvChecks → s.batchCheck1 c = true → s.batchCheck2 c = true → s.batchCheck3 c = true →
       s.batchCheck4 c = true → c.pastDeadline s.cad = false →
       s.readFault es (if p.2 = 0x53 then [(b.sched, (s.batchHdr b.sched).total), (b.mat, 64)] else []) = none →
       Completes p.1 s (fun s' => ∃ r, s'.batchOf id = some r ∧ r.next = min (s.batchSlots c).length b.count ∧ r.slots.length = r.next ∧ s'.hbm = s.hbm)) ∧
     (c.isBatch = true → s.batchMayWait c = true → let u := (s.waitChannels c).foldl State.offerChannel s
       (∀ ch ∈ s.waitChannels c, (u.chan ch).holder = some id ∧ (u.chan ch).stage = slvHeld) →
       exec (.batchStart id) s = .next ((s.waitChannels c).foldl (fun u ch => u.takeChannel ch c) u))) ∧
   (∀ (id : Nat) (es : List EccHit) (s : State) (c : Cmd) (r : BatchRun), s.cmd? id = some c → c.phase = .running → s.batchOf id = some r → s.heldQueue c.queue = false →
     let b := batchParams r.params
     (∀ n ch k, r.slots.find? (fun x => x.2.2 = n) = some (ch, k, n) → s.systemSame r n = true → c.pastDeadline s.cad = false → s.launchWaits ch = false →
       eccBad (eccOn es true ((s.systemRanges c b n).take 2)) = false →
       let e := s.solveSystem c b r.tau n none
       Completes (.batchSystemEnd id ⟨n, es⟩) s (fun s' => readBytes s'.hbm (b.status + 2 * n) 1 = [BitVec.ofNat 8 e.1] ∧ ∃ r', s'.batchOf id = some r' ∧
         r'.ends.length = r.ends.length + 1)) ∧
     (r.slots = [] → c.digestAddr = 0 → r.next = b.count → ∃ (u : State) (flags : Nat),
       exec (.batchCommit id) s = .next (u.commitCmd c (batchStatus false r.ends).1 0 flags 0) ∧ u.batchOf id = none)) ∧
   (∀ (st : BitVec 4) (s : State) (x : StreamReq) (c : Cmd),
     let ch := x.ch.toNat
     let l := s.lichen st.toNat
     let as_ := (List.range 8).map (fun i => (s.streamAddr ch (streamW x i)).getD 0)
     let a := fun i => (as_[i]?).getD 0
     (s.chan ch).holder.bind s.cmd? = some c → (s.chan ch).stage = slvIterating → s.lichReady st.toNat = true → s.streamListed (s.chan ch) x.words = true →
     l.run.length < 8 → l.wait = [] → ∀ u, s.slotCluster ch (bitsOf (streamW x 0) 55 48) = some u →
     ∀ p ∈ [(1, Instr.spmv st x), (2, .spmvSub st x), (3, .sweepDiv st x), (4, .gatherSum st x), (5, .gatherMin st x), (6, .gatherMax st x)],
       s.streamOk p.1 x = true → s.streamInside c.part p.1 (streamRows x) a = true →
       s.streamFault { ch := ch, cmd := c.id, op := p.1, rows := streamRows x, arrays := as_, cluster := u, spad := streamDone x } x.ecc = none →
       s.streamSelf p.1 (streamRows x) a = false →
       Completes p.2 s (fun s' => ∃ y : LichStream, (s'.lichen st.toNat).run = l.run ++ [y] ∧ y.ch = ch ∧ y.y = a 5 ∧ y.vals.length = streamRows x ∧ s'.hbm = s.hbm)) ∧
   (∀ (st : BitVec 4) (s : State) (es : List EccHit) (r : LichStream) (rest : List LichStream), (s.lichen st.toNat).run = r :: rest → (s.lichen st.toNat).wait = [] →
     s.fencedIn r.y (8 * r.vals.length) = false → Completes (.streamComplete ⟨st, es⟩) s (fun s' => (s'.lichen st.toNat).run = rest ∧
       s'.hbm = writeBytes s.hbm r.y (r.vals.flatMap (natLe 8))))) ∧
  (∀ (ch : BitVec 6) (p : SolvePeers) (s : State) (c : Cmd) (id : Nat),
     let k := s.chan ch.toNat
     let q := solveParams k.params
     let l := s.asLaunched k.areas
     let warm := match (l.warmCase q k.tau).2.1 with
       | some a => [(a, 8 * (l.matDesc q.mat).n)]
       | none => []
     let hits := eccOn p.ecc true (l.solveReads q)
     let r := (s.memReads .line (l.solveReads q ++ warm)).eccHits hits
     let o := s.runSolve k p r.fresh false false
     k.holder = some id → s.cmd? id = some c → c.phase = .running → k.stage = slvIterating → s.heldQueue c.queue = false → c.pastDeadline s.cad = false →
     s.areasSame k.areas = true → k.lateEarly = false → k.multi = false → (l.schedHdr q.sched).ranks = 1 → s.launchWaits ch.toNat = false →
     c.digestAddr = 0 → eccBad hits = false →
     ∀ st cause, (o.code, st, cause) ∈ [(SolEnd.conv, 0, 0), (.cap, 0x21, 1), (.breakdown, 0x21, 2), (.pivotZero, 0x22, 6), (.overflow, 0x23, 7)] →
       ∃ u : State, exec (.solveEnd ch p) s = .next (u.commitCmd c st 0 ((if o.last.piv = 0 then 0 else 2) + (if k.warm = 3 then 1 else 0)) 0) ∧
         readBytes u.hbm q.report 64 = solveReport st (if st = 0 ∨ st = 0x21 then 1 else 0) k.warm cause o.last.it o.last.restarts o.last.piv
           o.last.resNorm o.last.bNorm k.start s.cad (readBytes l.hbm (q.mat + 48) 16) ∧
         u.chan ch.toNat = {} ∧ u.getF F.SLV_LAST_STATUS ch.toNat = st ∧ u.getF F.SLV_CUR_ITER ch.toNat = o.last.it % 2 ^ 32 ∧
         (∀ a, (∀ b ∈ s.boundClusters ch.toNat, a < 0x400000 * b + s.spadLimit b ∨ 0x400000 * (b + 1) ≤ a) → readByte u.spad a = readByte s.spad a))

/-- R37, R42, R59, R64, R82, R85: what wakes a thread, RUN commands and the epilogue unit do where their conditions hold. R26, R233, R235, R239: doorbells
move their pointers, and a queue's commands start, end, abort and leave their records. -/
def Obligations.ClusterAndQueueStepsComplete : Prop :=
  ((∀ (c : BitVec 8) (t : BitVec 3) (s : State),
     let x := s.thr c.toNat t.toNat
     (∀ r bs, x.st = .waitRemote → x.remote = some r → r.bytes = some bs → r.vec = false → x.stopPend = false → exec (.remoteResult c t) s =
       .next (s.setThr c.toNat t.toNat { x.wr r.reg (BitVec.ofNat 64 (leNat bs)) with st := .ready, remote := none })) ∧
     (∀ a v, x.wait = .word a v true → v ≤ readLe s.spad (0x400000 * c.toNat + a) 8 → Completes (.waitmWake c t) s (fun s' =>
       s'.thr c.toNat t.toNat = { x with st := .ready, wait := .none, adv := 0, pc := (x.pc + x.adv) % 32768 })) ∧
     (s.powered = true → (s.clu c.toNat).wiping = true → Completes (.clusterWipeDone c) s (fun s' =>
       s'.clu c.toNat = { s.clu c.toNat with wiping := false, removed := false, startPend := 0 } ∧ s'.hbm = s.hbm)) ∧
     (∀ (i : VFmt) (e : Ecc), IssuesV s c t i →
       let s1 := s.issued c.toNat t.toNat i.fetch
       let k := s1.clu c.toNat
       let a := (x.rd i.va.toNat).toNat
       let bs := readBytes s.spad (0x400000 * c.toNat + a) 32
       k.tqOwner = some t.toNat → a % 32 = 0 → a + 32 ≤ 0x400000 → (epiDesc bs).error = none → e ≠ .uncorrectable → k.epi = .idle →
       exec (.epi c t ⟨i, e⟩) s = .next (((s1.spadEcc c.toNat a e).setClu c.toNat { k with epi := .waiting t.toNat bs }).setThr c.toNat t.toNat
         { x with pc := (x.pc + vWords i) % 32768 }))) ∧
   (∀ (c : BitVec 8) (s : State), let k := s.clu c.toNat
     (∀ u bs q rest, let d := epiDesc bs
       let o := s.epiOutput c.toNat d q (fun _ => .mode .rne)
       k.epi = .waiting u bs → k.tq = q :: rest → d.stoch = false → (isMx d.out = true → d.dst % 8 = 0 ∧ (q.rows ≤ 1 ∨ d.dstStride % 8 = 0)) →
       (∀ r ∈ epiReads d q, r.1 + r.2 ≤ 0x400000 ∧ s.spadVerify c.toNat r.1 r.2 = true) →
       (∀ w ∈ o.1, w.1 + w.2.length ≤ 0x400000 ∧ s.spadReserved c.toNat w.1 w.2.length = false) → s.spadReserved c.toNat d.done_ 8 = false →
       Completes (.epilogueStart ⟨c, .clean, .clean⟩) s (fun s' => (s'.clu c.toNat).epi = .running u o.1 d.done_ o.2 ∧ (s'.clu c.toNat).tq = rest ∧ s'.spad = s.spad)) ∧
     (∀ u ws a fl e, k.epi = .running u ws a fl → e ≠ .uncorrectable → Completes (.epilogueDone ⟨c, e⟩) s (fun s' => (s'.clu c.toNat).epiCount = (k.epiCount + 1) % 2 ^ 64 ∧
       readLe s'.spad (0x400000 * c.toNat + a) 8 = (k.epiCount + 1) % 2 ^ 64 ∧ s'.hbm = s.hbm))) ∧
   (∀ (id : Nat) (s : State) (c : Cmd), s.cmd? id = some c → c.opc = 0x6A → s.heldQueue c.queue = false →
     (c.phase = .started → s.runOk c = true → Completes (.run id) s (fun s' => s'.cmds = (s.setCmd { c with phase := .running }).cmds ∧ s'.hbm = s.hbm ∧
       ∀ k t, k < 256 → t < 8 → (c.num 24 4).testBit (k / 8) = true → (c.byte 28).testBit t = true →
         (s'.thr k t).st = .ready ∧ (s'.thr k t).pc = c.num 30 2 ∧ (s'.thr k t).rd 1 = BitVec.ofNat 64 (c.num 32 8))) ∧
     (c.phase = .running → c.late = false → (∀ p ∈ runTargets c, (s.thr p.1 p.2).st = .halted ∧ (s.thr p.1 p.2).cause = 0x01) →
       exec (.runCommit id) s = .next (s.commitCmd c 0 0 0 0)) ∧
     (c.phase = .running → c.deadline ≠ 0 → c.deadline ≤ s.cad → c.late = false → (∃ p ∈ runTargets c, (s.thr p.1 p.2).st ≠ .halted) →
       let n := ((runTargets c).filter (fun p => (s.thr p.1 p.2).st ≠ .halted)).length
       let u := (runTargets c).foldl (fun s p => s.stopThread p.1 p.2) (s.setCmd { c with late := true, aux := n })
       (runTargets c).all u.threadHalted = false → exec (.runDeadline id) s = .next u))) ∧
  ((∀ (d : DbSrc) (i : BitVec 20) (v : BitVec 17) (es : List EccHit) (s : State) (q p : Nat), s.dbQueue d i.toNat = some q → s.dbCoreOk d q = true →
     s.partOfQueue q = some p → s.ctxCached q = true → (s.ctx q).length = 8 →
     let x := s.ctx q
     (∀ k < 2 ^ ctxGet x cSqLog2, s.ringReach p (ctxGet x cSqBase) (64 * k) 64 = true) → ctxGet x cEn = 1 →
     ((131072 + v.toNat - ctxGet x cSqTail) % 131072 ≤ 2 ^ ctxGet x cSqLog2 - (131072 + ctxGet x cSqTail - ctxGet x cSqHead) % 131072 →
       Completes (.sqDoorbell d i ⟨v, es⟩) s (fun s' => ctxGet (s'.ctx q) cSqTail = v.toNat ∧ ctxGet (s'.ctx q) cSqHead = v.toNat ∧
         ∃ l, s'.cmds = s.cmds ++ l ∧ l.length = (131072 + v.toNat - ctxGet x cSqHead) % 131072)) ∧
     ((131072 + v.toNat - ctxGet x cCqHead) % 131072 ≤ (131072 + ctxGet x cCqTail - ctxGet x cCqHead) % 131072 →
       Completes (.cqDoorbell d i ⟨v, es⟩) s (fun s' => ctxGet (s'.ctx q) cCqHead = v.toNat ∧ s'.cmds = s.cmds))) ∧
   (∀ (id : Nat) (s : State) (c : Cmd), s.cmd? id = some c →
     (c.launchTick ≤ s.cad → exec (.launchTickReached id) s = .next (s.setCmd { c with launched := true })) ∧
     (s.startable c = true → s.slotFreeCq c.queue = true → s.engineAccepts c = true → opcDefined c.opc = true → s.moveChannel c = none →
       exec (.commandStart id) s = .next ((s.reserveSlot c.queue).setCmd { c with phase := .started, block := s.copyBlock c })) ∧
     (c.phase = .ended → exec (.completionCommit ⟨id, []⟩) s = .next (s.commitCmd c c.status c.aux c.flags 0)) ∧
     (c.phase = .started → c.opc = 0x01 → s.abortOk c = true → (∀ d ∈ s.cmds, d.queue = bitsOf (c.num 24 4) 19 0 → d.tag = c.num 28 2 → d.id = id) →
       exec (.abort id) s = .next ((s.addF F.QMG_ABORT_LATE_CNT_COUNT 1 0 c.part).setCmd { c with phase := .ended, status := 0x02 })) ∧
     (c.phase = .aborted → c.stopped = true → exec (.abortedRecord id) s = .next (s.commitCmd c 0x01 0 c.flags 0))))

/-- R197, R209, R210, R215, R246, R257 to R262, R268, R278, R280, R283: what Lichen's windows, scrubs, heat and wipes do, and what ends, repeats or
carries on a cell or changes a link, each where it acts. -/
def Obligations.MemoryAndFabricStepsComplete : Prop :=
  ∀ (s : State),
    (∀ st : BitVec 4, let n := st.toNat
      ((∃ l ∈ (s.lichen n).window, l.2 + 64 ≤ s.now) → Completes (.coalesceTimeout st) s (fun s' => (s'.lichen n).window.length < (s.lichen n).window.length ∧ s'.hbm = s.hbm)) ∧
      (s.powered = true → s.lichReady n = true → 3600000000000 * s.getF F.HBM_CTRL_SCRUB_HOURS n + (s.lichen n).scrubAt ≤ s.now →
        Completes (.scrubPass st { hits := [] }) s (fun s' => s'.getF F.HBM_SCRUB_PASS_COUNT n = (s.getF F.HBM_SCRUB_PASS_COUNT n + 1) % 2 ^ 64)) ∧
      (∀ (temp : BitVec 8) (trend : BitVec 16), s.powered = true → s.clkOff .hbm n = false → Completes (.stackThermalSample st temp trend) s (fun s' =>
        s'.getF F.HBM_STAT_TEMP n = temp.toNat ∧ s'.getF F.HBM_STAT_TEMP_MAX n = max (s.getF F.HBM_STAT_TEMP_MAX n) temp.toNat)) ∧
      (s.powered = true → s.lichReady n = false → n = 0 ∨ s.diesReady = true → Completes (.hbmWipeDone st) s (fun s' => s'.lichReady n = true ∧
        (∀ a, readByte s'.hbm a = if stackOf a = n then 0 else readByte s.hbm a)))) ∧
    (∀ (x : Cell), x.dstEp.toNat = s.myEp → s.myEp ≠ epNone → x.crc = cellE2e x →
      (∀ k c, x.type = 7 → s.replyTarget x = some (k, c) → x.resp = 0 → exec (.replyCell x) s = .next ((s.arrive x).completeCell k c (some (x.payload.take x.len.toNat)))) ∧
      (x.type = 8 → s.slotOfTag x.jobTag.toNat ≠ none → ∃ l : List TxCell, (∀ c ∈ l, c ∈ (s.txFlow { tc := x.tc, tag := x.jobTag, rank := x.srcRank, hub := none }).cells) ∧
        exec (.ackCell x) s = .next (l.foldl (fun u c => u.completeCell { tc := x.tc, tag := x.jobTag, rank := x.srcRank, hub := none } c (some [])) (s.arrive x))) ∧
      (x.type = 9 → s.slotOfTag x.jobTag.toNat ≠ none → Completes (.floorCell x) s (fun s' =>
        (∀ die < 2, s'.rxFlow die (flowOf x) = (s.rxFlow die (flowOf x)).takeFloor x.seq.toNat) ∧ s'.hbm = s.hbm))) ∧
    (∀ (die : BitVec 1) (k : FlowKey), let f := s.rxFlow die.toNat k
      (f.ackDue = true → s.myEp ≠ epNone → s.selectRoute (routeKey s.myEp (f.srcEp % 2 ^ 20)) ≠ none →
        Completes (.ackSend die k) s (fun s' => s'.rxFlow die.toNat k = { f with ackDue := false } ∧ s'.hbm = s.hbm)) ∧
      ((s.txFlow k).carried < (s.txFlow k).floor → (s.txFlow k).advancedAt + 10000 ≤ s.now → exec (.floorTimer k) s = .next (s.sendFloor k)) ∧
      Completes (.replyCacheAge die k) s (fun s' => s'.hbm = s.hbm ∧ s'.tx = s.tx ∧
        ∀ e, e ∈ s'.replyCache ↔ e ∈ s.replyCache ∧ ¬ (e.die = die.toNat ∧ e.key = k ∧ e.at_ + 100000000 ≤ s.now)) ∧
      (∀ n es e, s.comb.find? (fun e => e.die = die.toNat && e.n = n) = some e → e.closed = false → e.openedAt + s.getF F.HUB_CTRL_COMB_NS die.toNat ≤ s.now →
        exec (.combineWindowClose die ⟨n, es⟩) s = .next (s.closeComb e es))) ∧
    (∀ (k : FlowKey) (seq : BitVec 32) (c c2 : TxCell) (f2 : TxFlow) (s1 : State), s.txCell? k seq.toNat = some c → c.sentAt + c.timeout ≤ s.now → s.myEp ≠ epNone → c.tries < 8 →
      s.launchCell k (s.txFlow k) { c with tries := c.tries + 1, timeout := min (2 * c.timeout) 2000000 } = some (c2, f2, s1) →
      exec (.retransmitTimeout k seq) s = .next ((s1.setTx k { f2 with cells := (s.txFlow k).cells.map (fun d => if d.seq = c.seq then c2 else d) }).addF
        F.HUB_RETX_CNT_COUNT 1 (ownerDie c))) ∧
    (∀ (port : BitVec 5) (x : Cell) (e : Ecc) p, port.toNat < 20 → s.getF F.FAB_STAT_UP port.toNat = 1 → x.dstEp.toNat ≠ s.myEp → x.type ≠ 0 → x.type.toNat < 14 →
      (s.myEp ≠ epNone ∨ x.type = 12) → s.combable (port.toNat / 10) x = false → transitPort s.myEp x = some p → s.getF F.FAB_STAT_UP p = 1 → e ≠ .uncorrectable →
      Completes (.transitCell port ⟨x, e⟩) s (fun s' => ∃ y, s'.out = .cell p y :: s.out ∧ { y with linkSeq := x.linkSeq, credit := x.credit, port := x.port } = x)) ∧
    (∀ (port : BitVec 5) (ok : Bool), let p := port.toNat
      p < 20 →
      (∀ (n : BitVec 12) i, s.getF F.FAB_STAT_UP p = 1 → (s.link p).sent.findIdx? (fun c => c.linkSeq = n) = some i → exec (.linkReplay port ⟨ok, some n⟩) s =
        .next { s with out := ((s.link p).sent.take (i + 1)).map (Out.cell p) ++ s.out }) ∧
      (s.getF F.FAB_STAT_UP p = 1 → 16 ≤ (s.link p).fails → exec (.linkDown port) s = .next ((s.setErr F.FAB_ERR_REPLAY_FAIL p).portDown p 1)) ∧
      (∀ (peerPort : BitVec 5) (peerEp : BitVec 20), s.clkOff .fab p = false → s.getF F.FAB_CTRL_EN p = 1 → s.getF F.FAB_STAT_UP p = 0 →
        Completes (.linkUp port peerPort peerEp) s (fun s' => s'.getF F.FAB_STAT_UP p = 1 ∧ s'.getF F.FAB_PEER_EP p = peerEp.toNat ∧ s'.hbm = s.hbm)))

/-- R291, R292, R299, R306, R309, Tables 11-1 and 11-3: a collective command with room for its collective begins it; a new cell reaches its collective;
communicators are made and freed. R339, R344 to R348: a record of a stream's, sound and at an open port, is taken, and another counted; a port's link
comes and goes. -/
def Obligations.CollectiveAndFieldStepsComplete : Prop :=
  ((∀ (id : Nat) (es : List EccHit) (s : State) (c : Cmd) (slot : Nat), s.cmd? id = some c → c.phase = .started → s.acceptingSlot c.part = some slot → s.quiesced.contains slot = false →
     (∀ d ∈ s.cmds, d.queue = c.queue → d.id < c.id → d.phase = .started → ¬ (0x70 ≤ d.opc ∧ d.opc ≤ 0x7D)) →
     (∀ d me, s.comm? slot c.comm = some d → d.ranks.findIdx? (fun r => r = s.myRank slot) = some me → c.chainFields d.ranks.length = true →
       s.chainPlaces c d.ranks.length me = true → s.inflight < 64 →
       ∀ p ∈ [(Instr.barrier ⟨id, es⟩, 0x70), (.allreduce ⟨id, es⟩, 0x71), (.reduce ⟨id, es⟩, 0x72), (.broadcast ⟨id, es⟩, 0x73), (.reduceScatter ⟨id, es⟩, 0x74), (.allgather ⟨id, es⟩, 0x75)],
         c.opc = p.2 → ∃ k : Coll, k.slot = slot ∧ k.comm = c.comm ∧ k.cmd = some id ∧ k.opc = c.opc ∧ k.input = readBytes s.hbm c.src (c.inBytes me) ∧
           exec p.1 s = .next (s.startInput c slot k es)) ∧
     (c.opc = 0x7C → c.chainFields c.count = true → s.chainPlaces c c.count 0 = true →
       let ranks := (List.range c.count).map (fun i => leNat (((readBytes s.hbm c.src (4 * c.count)).drop (4 * i)).take 4))
       s.comm? slot c.comm = none → c.comm ≠ 4095 → ranks.Nodup → (∀ r ∈ ranks, r < s.getF F.HUB_JOB_RANKS_COUNT 0 slot) → s.myRank slot ∈ ranks →
       s.comms.length < 4096 → s.inflight < 64 → ∃ k : Coll, k.slot = slot ∧ k.comm = c.comm ∧ exec (.commCreate ⟨id, es⟩) s = .next (State.startInput
         { s with comms := s.comms ++ [{ slot := slot, num := c.comm, ranks := ranks, staging := some c.dst }] } c slot k es)) ∧
     (c.opc = 0x7D → ∀ d, s.comm? slot c.comm = some d → c.chainFields d.ranks.length = true → s.chainPlaces c 0 0 = true → c.comm ≠ 0 → c.comm ≠ 4095 →
       (∀ k ∈ s.colls, ¬ (k.slot = slot ∧ k.comm = c.comm)) → ∃ rest : List Comm, State.comm? { s with comms := rest } slot c.comm = none ∧
         exec (.commFree id) s = .next ((State.writeDigestRecord { s with comms := rest } c.part c.collDigest (sha384 []) []).commitCmd c
           (if c.deadline ≠ 0 ∧ c.deadline ≤ s.cad then 0x20 else 0) 0 0 c.collDigest)) ∧
     (c.opc = 0x76 → ∀ d, s.comm? slot c.comm = some d → c.chainFields d.ranks.length = true → s.chainPlaces c 1 0 = true →
       (∃ k ∈ s.colls, k.slot = slot ∧ k.comm = c.comm ∧ seqBelow k.seq d.next = true) →
       exec (.confirmWait id) s = .next (s.setCmd { c with phase := .running, unit := d.next }))) ∧
   (∀ (x : Cell) (w : ChainWords) (s s1 : State) (a : Arrival) (d : Comm) (q : Coll) (m me : Nat), (x.type = 10 ∨ x.type = 11) → s.receive x = (some a, s1) → a.dup = false →
     let num := x.offset.toNat / 2 ^ 28
     let s2 := s1.markApplied a.die (flowOf x) x.seq.toNat true
     s2.comm? a.slot num = some d → s2.colls.find? (fun q => q.slot = a.slot && q.comm = num && q.seq % 256 = x.win.toNat) = some q →
     d.ranks.findIdx? (fun r => r = x.srcRank.toNat) = some m → d.ranks.findIdx? (fun r => r = s2.myRank a.slot) = some me →
     ∀ p ∈ [(Instr.chainUp ⟨x, w⟩, 0), (.chainDown ⟨x, w⟩, 1), (.ringRs ⟨x, w⟩, 2), (.ringAg ⟨x, w⟩, 3), (.chunk ⟨x, w⟩, 4), (.chainReady ⟨x, w⟩, 5), (.confirmUp ⟨x, w⟩, 6), (.confirmDown ⟨x, w⟩, 7),
       (.chainEnd ⟨x, w⟩, 8)], x.op.toNat = p.2 → w.staging ≠ .uncorrectable → w.residue = false → exec p.1 s = .next (s2.collCell q m d.ranks me x)) ∧
   (∀ (slot : BitVec 3) (comm : BitVec 12) (seq : BitVec 32) (s : State) (k : Coll) (d : Comm), s.coll? slot.toNat comm.toNat seq.toNat = some k →
     s.comm? slot.toNat comm.toNat = some d →
     (k.committed = true → 50000 + k.commitAt + (if k.ring then 0 else (treeLevels d.ranks.length).length * k.m / 133) ≤ s.now →
       exec (.confirmTimeout slot comm seq) s = .next (s.poison k)) ∧
     (k.committed = false → k.progress + 1000000 * s.getF F.CHN_CTRL_STALL_MS ≤ s.now → k.cmd = none → exec (.collectiveStall slot comm seq) s =
       .next (((s.poison k).setColl { k with committed := true, commitAt := s.now, poison := true }).collPump slot.toNat comm.toNat seq.toNat)))) ∧
  (∀ (s : State),
     (∀ (p : FieldPacket) l x r, s.portOpen p.port.toNat = true → s.fioOn = true → s.macOk p = true → s.fio.streams = l ++ x :: r →
       let d := p.data
       let be := fun i n => beNat ((d.drop i).take n)
       let le := fun i n => leNat ((d.drop i).take n)
       let here := fun (y : FioStream) (kind : Nat) => y.kind = kind && testBit y.ports p.port.toNat && (y.srcIp = 0 || y.srcIp = p.srcIp.toNat)
       ((∀ y ∈ l, here y 1 = true → y.id ≠ be 4 2) → here x 1 = true → x.id = be 4 2 →
         be 0 1 = 0xAA → be 1 1 = 1 ∨ be 1 1 = 2 → be 2 2 = 16 + x.layout.foldl (fun a b => a + pmuBytes b) 0 → d.length = be 2 2 →
         be (d.length - 2) 2 = crcCcitt (d.take (d.length - 2)) →
         exec (.c37DataFrame p) s = .next (s.fioRecord l.length x p.port.toNat (1000000000 * (be 6 4 + s.getF F.CAD_UTC_OFFSET_SECONDS) +
           1000000000 * (be 10 4 % 2 ^ 24) / x.timeBase) 0 (frameComps d 14 x.layout) p.ecc)) ∧
       ((∀ y ∈ l, here y 3 = true → y.sourceId ≠ le 4 4) → here x 3 = true → x.sourceId = le 4 4 → p.dstUdp.toNat = s.getF F.FIO_UDP_PORT_PORT →
         le 0 2 = 0xC5A1 → le 2 1 = 1 → 1 ≤ le 20 4 → le 20 4 ≤ 1024 → d.length = 36 + 8 * le 20 4 → le (32 + 8 * le 20 4) 4 = crc32c (d.take (32 + 8 * le 20 4)) →
         le 16 4 + le 20 4 ≤ x.comps → ∃ comps : List FioComp, comps.length = le 20 4 ∧
           exec (.telemetryRecord p) s = .next (s.fioRecord l.length x p.port.toNat (le 8 8) (le 16 4) comps p.ecc))) ∧
     (∀ (p : SampledAsdu) l x r, s.portOpen p.port.toNat = true → s.fioOn = true → s.fio.streams = l ++ x :: r →
       let sv := fun (x : FioStream) => x.kind = 2 && testBit x.ports p.port.toNat && x.id = p.appid.toNat && x.mac = p.dstMac.toNat
       (∀ y ∈ l, sv y = false) → sv x = true → p.pairs.length = x.comps → ∃ comps : List FioComp, comps.length = x.comps ∧
         exec (.sampledValueAsdu p) s = .next (s.fioRecord l.length x p.port.toNat
           (s.cad - (1000000000 + s.cad - 1000000000 * p.smpCnt.toNat / x.rate % 1000000000) % 1000000000) 0 comps p.ecc)) ∧
     (∀ port : BitVec 1,
       (s.portOpen port.toNat = true → exec (.fieldFrameDrop port) s = .next (s.addF F.FIO_DROP_CNT_COUNT 1)) ∧
       (s.powered = true → (s.getF F.FIO_CTRL_PORT_EN).testBit port.toNat = true → Completes (.fieldPortLinkUp port) s (fun s' =>
         (s'.getF F.FIO_STAT_LINK).testBit port.toNat = true)) ∧
       ((s.getF F.FIO_STAT_LINK).testBit port.toNat = true → Completes (.fieldPortLinkDown port) s (fun s' =>
         (s'.getF F.FIO_STAT_LINK).testBit port.toNat = false ∧ s'.getF F.FIO_ERR_LINK_DOWN = 1))))

/-- R52, Table 02-5, OPC 0x00: the value each scalar integer instruction puts into SD, with a = SA and b = SB or the immediate (R49); arithmetic wraps
modulo 2^64 and raises no flag. R52, Table 02-5, OPC 0x10: where each control instruction sends the PC, modulo 32,768; CALL writes the return index
into SD. R52, Table 02-5, OPC 0x08: each scalar FP64 instruction puts its correctly rounded value, in the thread's rounding mode, into SD and raises
the flags of its exceptions. The arithmetic itself is that of chapter 04, which `RoundingModes` says is correctly rounded. -/
def Obligations.ScalarResults : Prop :=
  (∀ (c : BitVec 8) (t : BitVec 3) (i : SFmt) (s : State), Issues s c t i →
     let a := sOpA (s.thr c.toNat t.toNat) i
     let b := sOpB (s.thr c.toNat t.toNat) i
     let gives := fun (k : Instr) (v : Word) => Completes k s (fun s' => ScalarResult s s' c.toNat t.toNat i v 0)
     gives (.add c t i) (BitVec.ofNat 64 (a.toNat + b.toNat)) ∧
     gives (.sub c t i) (BitVec.ofInt 64 ((a.toNat : Int) - b.toNat)) ∧
     gives (.mul c t i) (BitVec.ofNat 64 (a.toNat * b.toNat)) ∧
     gives (.mulhu c t i) (BitVec.ofNat 64 (a.toNat * b.toNat / 2 ^ 64)) ∧
     gives (.mulhs c t i) (BitVec.ofInt 64 (a.toInt * b.toInt / 2 ^ 64)) ∧
     gives (.andI c t i) (a &&& b) ∧
     gives (.orI c t i) (a ||| b) ∧
     gives (.xor c t i) (a ^^^ b) ∧
     gives (.sll c t i) (BitVec.ofNat 64 (a.toNat * 2 ^ (b.toNat % 64))) ∧
     gives (.srl c t i) (BitVec.ofNat 64 (a.toNat / 2 ^ (b.toNat % 64))) ∧
     gives (.sra c t i) (BitVec.ofInt 64 (a.toInt / 2 ^ (b.toNat % 64))) ∧
     gives (.min c t i) (BitVec.ofInt 64 (min a.toInt b.toInt)) ∧
     gives (.max c t i) (BitVec.ofInt 64 (max a.toInt b.toInt)) ∧
     gives (.minu c t i) (BitVec.ofNat 64 (min a.toNat b.toNat)) ∧
     gives (.maxu c t i) (BitVec.ofNat 64 (max a.toNat b.toNat)) ∧
     gives (.seq c t i) (if a = b then 1 else 0) ∧
     gives (.slt c t i) (if a.toInt < b.toInt then 1 else 0) ∧
     gives (.sltu c t i) (if a.toNat < b.toNat then 1 else 0) ∧
     gives (.divu c t i) (if b = 0 then BitVec.ofNat 64 (2 ^ 64 - 1) else BitVec.ofNat 64 (a.toNat / b.toNat)) ∧
     gives (.remu c t i) (if b = 0 then a else BitVec.ofNat 64 (a.toNat % b.toNat))) ∧
  (∀ (c : BitVec 8) (t : BitVec 3) (i : SFmt) (s : State), Issues s c t i →
     let s1 := s.issued c.toNat t.toNat i.fetch
     let x := s.thr c.toNat t.toNat
     let a := sOpA x i
     let b := x.rd i.sb.toNat
     let after := (x.pc + sWords i) % 32768
     let target := ((((x.pc + sWords i : Nat) : Int) + (sImm i).toInt) % 32768).toNat
     let goes := fun (k : Instr) (p : Nat) => exec k s = .next (s1.setThr c.toNat t.toNat { x with pc := p })
     goes (.br c t i) target ∧
     goes (.bz c t i) (if a = 0 then target else after) ∧
     goes (.bnz c t i) (if a ≠ 0 then target else after) ∧
     goes (.blt c t i) (if a.toInt < b.toInt then target else after) ∧
     goes (.bge c t i) (if b.toInt ≤ a.toInt then target else after) ∧
     goes (.jr c t i) (a.toNat % 32768) ∧
     exec (.call c t i) s = .next (s1.setThr c.toNat t.toNat { x.wr i.sd.toNat (BitVec.ofNat 64 after) with pc := target })) ∧
  (∀ (c : BitVec 8) (t : BitVec 3) (i : SFmt) (s : State), Issues s c t i →
     let x := s.thr c.toNat t.toNat
     let a := (sOpA x i).toNat
     let b := (sOpB x i).toNat
     let gives := fun (k : Instr) (v : Nat × Nat) =>
       Completes k s (fun s' => ScalarResult s s' c.toNat t.toNat i (BitVec.ofNat 64 v.1) v.2)
     let truth := fun (v : Bool × Nat) => ((if v.1 then 1 else 0 : Nat), v.2)
     gives (.fadd c t i) (fpAdd fp64 x.mode a b) ∧ gives (.fsub c t i) (fpSub fp64 x.mode a b) ∧
     gives (.fmul c t i) (fpMul fp64 x.mode a b) ∧ gives (.fma c t i) (fpFma fp64 x.mode a b (x.rd i.sd.toNat).toNat) ∧
     gives (.fdiv c t i) (fpDiv fp64 x.mode a b) ∧ gives (.fsqrt c t i) (fpSqrt fp64 x.mode a) ∧
     gives (.fmin c t i) (fpMin fp64 a b) ∧ gives (.fmax c t i) (fpMax fp64 a b) ∧
     gives (.feq c t i) (truth (fpEq fp64 a b)) ∧ gives (.flt c t i) (truth (fpLt fp64 a b)) ∧
     gives (.fle c t i) (truth (fpLe fp64 a b)) ∧
     gives (.fcvtI c t i) (convInt 64 (.mode x.mode) (fpVal fp64 a)) ∧
     gives (.fcvtF c t i) (convIeee fp64 (.mode x.mode) (intVal 64 a)) ∧
     gives (.fabs c t i) (a % 2 ^ 63, 0) ∧
     gives (.fneg c t i) ((a + 2 ^ 63) % 2 ^ 64, 0) ∧
     exec (.frm c t i) s = .next ((s.issued c.toNat t.toNat i.fetch).setThr c.toNat t.toNat
       { x with rm := (sImm i).toNat % 4, pc := (x.pc + sWords i) % 32768 }))

/-- R52, R53, R45: an aligned scratchpad load below 0x40_0000 puts the bytes at a + IMM32, zero- or sign-extended, into SD; each corrected word is counted
in ECC_STAT and its address kept in ECC_ADDR. Memory is as before. R52, R53, R62: an aligned scratchpad store below 0x40_0000, outside a channel's
reserved range, writes the low bytes of SD at a + IMM32: the write of `SpadWriteFrame`. R53, R254, R255, R273, Table 02-5: an LDG, STG or atomic at
the package's own rank, through a window onto HBM, whose address is a multiple of 8 and which the sender-side checks pass. The word at the target is
read and updated at once; a fetching instruction leaves the thread in WAIT_REMOTE with the old word on its way to SD, another leaves it ready. Of
memory only the eight bytes of the target change, and of the threads only this one. -/
def Obligations.ScratchpadAndRemoteAccesses : Prop :=
  (∀ (c : BitVec 8) (t : BitVec 3) (i : SFmt) (e : Ecc) (s : State), Issues s c t i →
     e ≠ .uncorrectable →
     let s1 := s.issued c.toNat t.toNat i.fetch
     let x := s.thr c.toNat t.toNat
     let a := (sOpA x i + sImm i).toNat
     let s2 := (eccWords e).foldl (fun u w => (u.setF F.CLU_ECC_STAT_SPAD_CE (min (u.getF F.CLU_ECC_STAT_SPAD_CE c.toNat + 1) (2 ^ 32 - 1)) c.toNat).setF
       F.CLU_ECC_ADDR_LAST_CE ((a + 8 * w) % 0x400000 / 8 * 8) c.toNat) s1
     let m := fun n => leNat (readBytes s.spad (0x400000 * c.toNat + a) n)
     let gives := fun (k : Instr) (v : Word) =>
       exec k s = .next (s2.setThr c.toNat t.toNat { x.wr i.sd.toNat v with pc := (x.pc + sWords i) % 32768 })
     a < 0x400000 →
     gives (.ldsB c t i e) (BitVec.ofNat 64 (m 1)) ∧
     gives (.ldsBs c t i e) ((BitVec.ofNat 8 (m 1)).signExtend 64) ∧
     (a % 2 = 0 → gives (.ldsH c t i e) (BitVec.ofNat 64 (m 2)) ∧ gives (.ldsHs c t i e) ((BitVec.ofNat 16 (m 2)).signExtend 64)) ∧
     (a % 4 = 0 → gives (.ldsW c t i e) (BitVec.ofNat 64 (m 4)) ∧ gives (.ldsWs c t i e) ((BitVec.ofNat 32 (m 4)).signExtend 64)) ∧
     (a % 8 = 0 → gives (.ldsD c t i e) (BitVec.ofNat 64 (m 8)))) ∧
  (∀ (c : BitVec 8) (t : BitVec 3) (i : SFmt) (s : State), Issues s c t i →
     let s1 := s.issued c.toNat t.toNat i.fetch
     let x := s.thr c.toNat t.toNat
     let a := (sOpA x i + sImm i).toNat
     let stores := fun (k : Instr) (n : Nat) => a % n = 0 → s1.spadReserved c.toNat a n = false →
       exec k s = .next ((s1.setThr c.toNat t.toNat { x with pc := (x.pc + sWords i) % 32768 }).spadWrite c.toNat a
         ((List.range n).map (fun j => BitVec.ofNat 8 ((x.rd i.sd.toNat).toNat / 256 ^ j))))
     a < 0x400000 →
     stores (.stsB c t i) 1 ∧ stores (.stsH c t i) 2 ∧ stores (.stsW c t i) 4 ∧ stores (.stsD c t i) 8) ∧
  (∀ (c : BitVec 8) (t : BitVec 3) (i : SFmt) (s : State) (slot win : Nat) (w : Window),
     Issues s c t i →
     let s1 := s.issued c.toNat t.toNat i.fetch
     let x := s.thr c.toNat t.toNat
     let a := (sOpA x i + sImm i).toNat
     let sd := x.rd i.sd.toNat
     let sb := x.rd i.sb.toNat
     let at_ := w.base + (addrOff a - w.offBase)
     let old := readLe s.hbm at_ 8
     let next := (x.pc + sWords i) % 32768
     a % 8 = 0 → addrRank a = s1.myRank slot → w.kind = 0 → s1.fencedAt at_ = false →
     let does := fun (k : Instr) (acc : Access1) (fetch : Bool) (new : Nat) =>
       s1.checkSend (s1.partOfCluster c.toNat) a 8 acc = some (slot, win, w) →
       Completes k s (fun s' =>
         readLe s'.hbm at_ 8 = new ∧
         (∀ m, (m < at_ ∨ at_ + 8 ≤ m) → readByte s'.hbm m = readByte s.hbm m) ∧
         s'.spad = s.spad ∧ s'.hbmSum = s.hbmSum ∧ s'.spadSum = s.spadSum ∧ s'.istore = s.istore ∧ s'.hostMem = s.hostMem ∧
         (∀ c' t', c' * 8 + t' ≠ c.toNat * 8 + t.toNat → s'.thr c' t' = s.thr c' t') ∧
         { s'.thr c.toNat t.toNat with ep := x.ep } =
           if fetch then
             { x with pc := next, st := .waitRemote, remote := some { vec := false, reg := i.sd.toNat, parts := [⟨0, 8, some (natLe 8 old)⟩] } }
           else { x with pc := next })
     does (.ldg c t i) .load true old ∧
     does (.stg c t i) (.store (natLe 8 sd.toNat)) false sd.toNat ∧
     does (.aadd c t i) (.atomic 0 true sb 0) true ((old + sb.toNat) % 2 ^ 64) ∧
     does (.aaddn c t i) (.atomic 0 false sb 0) false ((old + sb.toNat) % 2 ^ 64) ∧
     does (.amin c t i) (.atomic 1 true sb 0) true (if (BitVec.ofNat 64 old).toInt ≤ sb.toInt then old else sb.toNat) ∧
     does (.aminn c t i) (.atomic 1 false sb 0) false (if (BitVec.ofNat 64 old).toInt ≤ sb.toInt then old else sb.toNat) ∧
     does (.amax c t i) (.atomic 2 true sb 0) true (if (BitVec.ofNat 64 old).toInt ≤ sb.toInt then sb.toNat else old) ∧
     does (.amaxn c t i) (.atomic 2 false sb 0) false (if (BitVec.ofNat 64 old).toInt ≤ sb.toInt then sb.toNat else old) ∧
     does (.acas c t i) (.atomic 3 true sd sb) true (if old = sd.toNat then sb.toNat else old) ∧
     does (.afmin c t i) (.atomic 4 true sb 0) true ((fpMin fp64 old sb.toNat).1 % 2 ^ 64) ∧
     does (.afmax c t i) (.atomic 5 true sb 0) true ((fpMax fp64 old sb.toNat).1 % 2 ^ 64) ∧
     does (.afadd c t i) (.fadd sb) true ((fpAdd fp64 .rne old sb.toNat).1 % 2 ^ 64))

/-- R48, R49, R40, R59, R34, R5, Table 02-5, OPC 0x38: what each system instruction that does not wait leaves. R37, R59, Table 02-1: WAITC and WAITM whose
condition is false leave the thread in WAIT_COUNT, and TQWAIT on an empty queue in WAIT_TQ; the thread goes on after the instruction once the
condition holds. R41: HALT halts the thread with HALT_CAUSE 0x01, and changes nothing of another thread but what a released claim lets go on. R264: a
FENCE closes the open epoch of its scope. Where every access of that epoch and of the ones before it has completed the thread goes on; else it waits
in WAIT_RES; a fifth FENCE of a scope waits first for the oldest closed epoch. -/
def Obligations.SystemAndWaitInstructions : Prop :=
  (∀ (c : BitVec 8) (t : BitVec 3) (i : SFmt) (s : State), Issues s c t i →
     let s1 := s.issued c.toNat t.toNat i.fetch
     let x := s.thr c.toNat t.toNat
     let a := sOpA x i
     let next := (x.pc + sWords i) % 32768
     let sd := i.sd.toNat
     let becomes := fun (k : Instr) (u : State) (y : Thread) => exec k s = .next (u.setThr c.toNat t.toNat y)
     becomes (.yield c t i) (s1.setClu c.toNat { s1.clu c.toNat with yielded := true }) { x with pc := next } ∧
     becomes (.ifence c t i) (s1.mergeIstore c.toNat) { x with pc := next } ∧ ((s1.mergeIstore c.toNat).clu c.toNat).stale = [] ∧
     (∀ w, spGet (0 : Word) (s1.mergeIstore c.toNat).istore (32768 * c.toNat + w) =
       (((s1.clu c.toNat).stale.filter (fun e => e.1 = w)).getLast?.map (·.2)).getD (spGet 0 s.istore (32768 * c.toNat + w))) ∧
     becomes (.tick c t i) s1 { x.wr sd (BitVec.ofNat 64 s.cad) with pc := next } ∧
     becomes (.flags c t i) s1 { x.wr sd (BitVec.ofNat 64 x.flags) with flags := x.flags &&& (63 ^^^ ((sOpB x i).toNat % 64)), pc := next } ∧
     ((sImm i).toNat % 8 = 0 → becomes (.csrr c t i) s1 { x.wr sd (s1.cluReg c.toNat ((sImm i).toNat % 4096)) with pc := next }) ∧
     ((sImm i).toNat % 8 ≠ 0 → becomes (.csrr c t i) (s1.setErr (errAccBad .clu) c.toNat) { x.wr sd 0 with pc := next }) ∧
     (let u := (sImm i).toNat % 8
      let y := s.thr c.toNat u
      ((y.st = .off ∨ y.st = .halted) ∧ s1.boundThread c.toNat u = false →
        exec (.tstart c t i) s = .next ((s1.setThr c.toNat t.toNat { x.wr sd 1 with pc := next }).setThr c.toNat u
          { y with st := .ready, pc := a.toNat % 32768, cause := 0, vl := 0, flags := 0, wait := .none, adv := 0, remote := none, stopPend := false })) ∧
      (¬ ((y.st = .off ∨ y.st = .halted) ∧ s1.boundThread c.toNat u = false) →
        becomes (.tstart c t i) s1 { x.wr sd 0 with pc := next })) ∧
     (∀ k, k = (sImm i).toNat % 256 → k ≤ 3 →
       (2 ^ 32 + s1.getF (tmDone k) c.toNat - a.toNat % 2 ^ 32) % 2 ^ 32 < 2 ^ 31 → becomes (.waitc c t i) s1 { x with pc := next }) ∧
     (a.toNat % 8 = 0 → a.toNat < 0x400000 → (x.rd i.sb.toNat).toNat ≤ readLe s.spad (0x400000 * c.toNat + a.toNat) 8 →
       becomes (.waitm c t i) s1 { x with pc := next })) ∧
  (∀ (c : BitVec 8) (t : BitVec 3) (i : SFmt) (s : State), Issues s c t i →
     let s1 := s.issued c.toNat t.toNat i.fetch
     let x := s.thr c.toNat t.toNat
     let a := (sOpA x i).toNat
     let b := (x.rd i.sb.toNat).toNat
     let waits := fun (k : Instr) (st : ThrState) (w : Waiting) =>
       exec k s = .next ((s1.setThr c.toNat t.toNat { x with st := st, wait := w, adv := sWords i }).setClu c.toNat
         { s1.clu c.toNat with waiters := (s1.clu c.toNat).waiters.filter (· ≠ t.toNat) ++ [t.toNat] })
     (∀ k, k = (sImm i).toNat % 256 → k ≤ 3 → ¬ (2 ^ 32 + s1.getF (tmDone k) c.toNat - a % 2 ^ 32) % 2 ^ 32 < 2 ^ 31 →
       waits (.waitc c t i) .waitCount (.counter k (a % 2 ^ 32))) ∧
     (a % 8 = 0 → a < 0x400000 → readLe s.spad (0x400000 * c.toNat + a) 8 < b → waits (.waitm c t i) .waitCount (.word a b false)) ∧
     ((s1.clu c.toNat).tqOwner = some t.toNat → (s1.clu c.toNat).tq = [] → waits (.tqwait c t i) .waitTq (.tq i.sd.toNat)) ∧
     (∀ u, (s1.clu c.toNat).mtxOwner = some u → u ≠ t.toNat → waits (.mclaim c t i) .waitRes .mclaim) ∧
     (∀ u, (s1.clu c.toNat).tqOwner = some u → u ≠ t.toNat → waits (.tqclaim c t i) .waitRes .tqclaim)) ∧
  (∀ (c : BitVec 8) (t : BitVec 3) (i : SFmt) (s : State), Issues s c t i →
     Completes (.halt c t i) s (fun s' =>
       (s'.thr c.toNat t.toNat).st = .halted ∧ (s'.thr c.toNat t.toNat).cause = 0x01 ∧
       (s'.thr c.toNat t.toNat).pc = (s.thr c.toNat t.toNat).pc ∧ (s'.thr c.toNat t.toNat).sr = (s.thr c.toNat t.toNat).sr ∧
       s'.hbm = s.hbm ∧ s'.spad = s.spad ∧ s'.istore = s.istore)) ∧
  (∀ (c : BitVec 8) (t : BitVec 3) (i : SFmt) (s : State), Issues s c t i →
     let s1 := s.issued c.toNat t.toNat i.fetch
     let scope := (sImm i).toNat % 4
     let e := s1.scopeEpochs c.toNat t.toNat scope
     scope < 3 →
     (∀ id n m rest, e.closed = (id, n, m) :: rest → 4 ≤ e.closed.length →
       Completes (.fence c t i) s (fun s' => (s'.thr c.toNat t.toNat).st = .waitRes ∧ (s'.thr c.toNat t.toNat).wait = .fenceFull scope id ∧
         s'.scopeEpochs c.toNat t.toNat scope = e)) ∧
     (e.closed = [] ∧ e.issued = e.completed →
       Completes (.fence c t i) s (fun s' =>
         (s'.thr c.toNat t.toNat).st = .ready ∧ (s'.thr c.toNat t.toNat).pc = ((s.thr c.toNat t.toNat).pc + sWords i) % 32768 ∧
         s'.scopeEpochs c.toNat t.toNat scope = { e with curId := e.curId + 1, issued := 0, completed := 0 } ∧
         s'.hbm = s.hbm ∧ s'.spad = s.spad)) ∧
     (e.closed.length < 4 → e.issued ≠ e.completed →
       Completes (.fence c t i) s (fun s' =>
         (s'.thr c.toNat t.toNat).st = .waitRes ∧ (s'.thr c.toNat t.toNat).wait = .fence scope e.curId ∧
         (s'.thr c.toNat t.toNat).pc = (s.thr c.toNat t.toNat).pc ∧
         s'.scopeEpochs c.toNat t.toNat scope =
           { e with curId := e.curId + 1, issued := 0, completed := 0, closed := e.closed ++ [(e.curId, e.issued, e.completed)] } ∧
         s'.hbm = s.hbm ∧ s'.spad = s.spad)))

/-- R54: MCLAIM and TQCLAIM take a free claim; MREL, with nothing of the thread unfinished, and TQREL give it up. The claim goes to the first thread that
waits for it in the cyclic order after the releaser, which then goes on. R56, R57, Tables 02-6 and 02-7a: MVGO copies the descriptor at a 64-byte
aligned address onto a mover queue with room; to the claimant, TQWAIT gives the header of the head entry, TQPOP frees it, and TQLD loads 256 of its
bytes into VD. -/
def Obligations.ClaimAndQueueInstructions : Prop :=
  (∀ (c : BitVec 8) (t : BitVec 3) (i : SFmt) (s : State), Issues s c t i →
     let s1 := s.issued c.toNat t.toNat i.fetch
     let x := s.thr c.toNat t.toNat
     let k := s1.clu c.toNat
     let moved := { x with pc := (x.pc + sWords i) % 32768 }
     let first := fun (w : Thread → Bool) => ((List.range 8).map (fun n => (t.toNat + 1 + n) % 8)).find? (fun u => w (s.thr c.toNat u))
     (k.mtxOwner = none → exec (.mclaim c t i) s = .next ((s1.setClu c.toNat { k with mtxOwner := some t.toNat }).setThr c.toNat t.toNat moved)) ∧
     (k.tqOwner = none → exec (.tqclaim c t i) s = .next ((s1.setClu c.toNat { k with tqOwner := some t.toNat }).setThr c.toNat t.toNat moved)) ∧
     (x.wait = .none → k.mtxOwner = some t.toNat → k.busyFor t.toNat = false →
       Completes (.mrel c t i) s (fun s' =>
         s'.thr c.toNat t.toNat = moved ∧ s'.clu c.toNat = { k with mtxOwner := first Thread.wantsMtx, mtxRelease := false } ∧
         (∀ u, first Thread.wantsMtx = some u → s'.thr c.toNat u = (s.thr c.toNat u).gotMtx) ∧
         (∀ u, u < 8 → u ≠ t.toNat → first Thread.wantsMtx ≠ some u → s'.thr c.toNat u = s.thr c.toNat u) ∧ s'.spad = s.spad ∧ s'.hbm = s.hbm)) ∧
     (x.wait = .none → k.tqOwner = some t.toNat →
       Completes (.tqrel c t i) s (fun s' =>
         s'.thr c.toNat t.toNat = moved ∧ s'.clu c.toNat = { k with tqOwner := first Thread.wantsTq } ∧
         (∀ u, first Thread.wantsTq = some u → s'.thr c.toNat u = (s.thr c.toNat u).gotTq) ∧
         (∀ u, u < 8 → u ≠ t.toNat → first Thread.wantsTq ≠ some u → s'.thr c.toNat u = s.thr c.toNat u) ∧ s'.spad = s.spad ∧ s'.hbm = s.hbm))) ∧
  (∀ (c : BitVec 8) (t : BitVec 3) (i : SFmt) (s : State), Issues s c t i →
     let s1 := s.issued c.toNat t.toNat i.fetch
     let x := s.thr c.toNat t.toNat
     let k := s1.clu c.toNat
     let next := (x.pc + sWords i) % 32768
     let a := (sOpA x i).toNat
     let m := (sImm i).toNat % 4
     (a % 64 = 0 → a < 0x400000 → (s1.tileMover c.toNat m).q.length < 8 →
       exec (.mvgo c t i) s = .next ((s1.setTileMover c.toNat m
         { s1.tileMover c.toNat m with q := (s1.tileMover c.toNat m).q ++ [readWords s.spad (0x400000 * c.toNat + a) 8] }).setThr c.toNat t.toNat { x with pc := next })) ∧
     (k.tqOwner = some t.toNat → ∀ e es, k.tq = e :: es →
       exec (.tqwait c t i) s = .next (s1.setThr c.toNat t.toNat { x.wr i.sd.toNat
         (BitVec.ofNat 64 (2 ^ 40 * e.seq + 2 ^ 24 * e.tag + 2 ^ 20 * e.fmt + 2 ^ 17 * e.acc + 2 ^ 8 * e.rows + e.cols)) with pc := next }) ∧
       exec (.tqpop c t i) s = .next ((s1.setClu c.toNat { k with tq := es }).setThr c.toNat t.toNat { x with pc := next })) ∧
     (∀ (v : VFmt) (e : TqEntry) (es : List TqEntry), IssuesV s c t v → v.fetch = i.fetch → k.tqOwner = some t.toNat → k.tq = e :: es →
       (vImm v).toNat % 8 = 0 → (vImm v).toNat + 256 ≤ e.data.length → (vImm v).toNat ≤ 3840 →
       Completes (.tqld c t v .clean) s (fun s' =>
         (s'.thr c.toNat t.toNat).pc = (x.pc + vWords v) % 32768 ∧
         (∀ r, spGet 0 (s'.thr c.toNat t.toNat).vr r =
           if r = v.vd.toNat then leNat ((e.data.drop (vImm v).toNat).take 256) else spGet 0 x.vr r) ∧
         (s'.thr c.toNat t.toNat).sr = x.sr ∧ s'.clu c.toNat = k ∧ s'.spad = s.spad ∧ s'.hbm = s.hbm)))

/-- R70 to R73, Table 03-2, OPC 0x20: element by element, what each vector integer instruction writes; arithmetic wraps at the element width. R70 to R73,
Table 03-2, OPC 0x21: element by element, what each vector floating-point instruction writes, in the thread's rounding mode, and that its flags are
those of the active elements. R70, R72, R73, Table 03-2, OPC 0x22: a compare writes its truth for each active element and 0 to every other bit of the
predicate; predicate logic takes all 256 bits, whatever VL and PG are. -/
def Obligations.VectorResults : Prop :=
  (∀ (c : BitVec 8) (t : BitVec 3) (i : VFmt) (s : State), IssuesV s c t i → i.ew.toNat < 4 →
     let s1 := s.issued c.toNat t.toNat i.fetch
     let x := s.thr c.toNat t.toNat
     let w := ewWidth i.ew.toNat
     let a := fun k => vElem w (x.rdV i.va.toNat) k
     let b := fun k => vOpB s1 x i k
     let sg := fun (v : Nat) => (BitVec.ofNat w v).toInt
     let gives := fun (n : Instr) (v : Nat → Nat) => Completes n s (fun s' => VectorResult s1 s' c.toNat t.toNat i (active x i) v 0)
     gives (.vadd c t i) (fun k => (a k + b k) % 2 ^ w) ∧
     gives (.vsub c t i) (fun k => (((a k : Int) - b k) % 2 ^ w).toNat) ∧
     gives (.vmul c t i) (fun k => a k * b k % 2 ^ w) ∧
     gives (.vmin c t i) (fun k => if sg (a k) ≤ sg (b k) then a k else b k) ∧
     gives (.vmax c t i) (fun k => if sg (a k) ≤ sg (b k) then b k else a k) ∧
     gives (.vminu c t i) (fun k => min (a k) (b k)) ∧
     gives (.vmaxu c t i) (fun k => max (a k) (b k)) ∧
     gives (.vand c t i) (fun k => a k &&& b k) ∧
     gives (.vor c t i) (fun k => a k ||| b k) ∧
     gives (.vxor c t i) (fun k => a k ^^^ b k) ∧
     gives (.vsll c t i) (fun k => a k * 2 ^ (b k % w) % 2 ^ w) ∧
     gives (.vsrl c t i) (fun k => a k / 2 ^ (b k % w)) ∧
     gives (.vsra c t i) (fun k => (sg (a k) / 2 ^ (b k % w) % 2 ^ w).toNat) ∧
     gives (.vidx c t i) (fun k => ((x.rd i.va.toNat).toNat + k) % 2 ^ w)) ∧
  (∀ (c : BitVec 8) (t : BitVec 3) (i : VFmt) (s : State), IssuesV s c t i →
     (i.ew.toNat = 4 ∨ i.ew.toNat = 5) →
     let s1 := s.issued c.toNat t.toNat i.fetch
     let x := s.thr c.toNat t.toNat
     let w := ewWidth i.ew.toNat
     let f := if i.ew.toNat = 4 then fp64 else fp32
     let a := fun k => vElem w (x.rdV i.va.toNat) k
     let b := fun k => vOpB s1 x i k
     let d := fun k => vElem w (x.rdV i.vd.toNat) k
     let gives := fun (n : Instr) (v : Nat → Nat × Nat) => Completes n s (fun s' => VectorResult s1 s' c.toNat t.toNat i (active x i)
       (fun k => (v k).1 % 2 ^ w) ((List.range (vlMax i.ew.toNat)).foldl (fun fl k => if active x i k then fl ||| (v k).2 else fl) 0))
     gives (.vfadd c t i) (fun k => fpAdd f x.mode (a k) (b k)) ∧
     gives (.vfsub c t i) (fun k => fpSub f x.mode (a k) (b k)) ∧
     gives (.vfmul c t i) (fun k => fpMul f x.mode (a k) (b k)) ∧
     gives (.vfma c t i) (fun k => fpFma f x.mode (a k) (b k) (d k)) ∧
     gives (.vfdiv c t i) (fun k => fpDiv f x.mode (a k) (b k)) ∧
     gives (.vfsqrt c t i) (fun k => fpSqrt f x.mode (a k)) ∧
     gives (.vfmin c t i) (fun k => fpMin f (a k) (b k)) ∧
     gives (.vfmax c t i) (fun k => fpMax f (a k) (b k)) ∧
     gives (.vfabs c t i) (fun k => (a k % 2 ^ (w - 1), 0)) ∧
     gives (.vfneg c t i) (fun k => (if a k < 2 ^ (w - 1) then a k + 2 ^ (w - 1) else a k - 2 ^ (w - 1), 0))) ∧
  (∀ (c : BitVec 8) (t : BitVec 3) (i : VFmt) (s : State), IssuesV s c t i →
     let s1 := s.issued c.toNat t.toNat i.fetch
     let x := s.thr c.toNat t.toNat
     let ew := i.ew.toNat
     let w := ewWidth ew
     let a := fun k => vElem w (x.rdV i.va.toNat) k
     let b := fun k => vOpB s1 x i k
     let sg := fun (v : Nat) => (BitVec.ofNat w v).toInt
     let f := if ew = 4 then fp64 else fp32
     let bits := fun (n : Instr) (v : Nat → Bool × Nat) => Completes n s (fun s' => PredicateResult s1 s' c.toNat t.toNat i
       (fun k => active x i k && (v k).1) ((List.range 256).foldl (fun fl k => if active x i k then fl ||| (v k).2 else fl) 0))
     let logic := fun (n : Instr) (v : Nat → Bool) => Completes n s (fun s' => PredicateResult s1 s' c.toNat t.toNat i v 0)
     let p := fun k => (x.rdP i.va.toNat).testBit k
     let q := fun k => (x.rdP i.vb.toNat).testBit k
     (i.vd.toNat < 8 →
       (ew < 4 →
         bits (.vcmpeq c t i) (fun k => (decide (a k = b k), 0)) ∧ bits (.vcmpne c t i) (fun k => (decide (a k ≠ b k), 0)) ∧
         bits (.vcmplt c t i) (fun k => (decide (sg (a k) < sg (b k)), 0)) ∧ bits (.vcmple c t i) (fun k => (decide (sg (a k) ≤ sg (b k)), 0)) ∧
         bits (.vcmpltu c t i) (fun k => (decide (a k < b k), 0)) ∧ bits (.vcmpleu c t i) (fun k => (decide (a k ≤ b k), 0))) ∧
       ((ew = 4 ∨ ew = 5) →
         bits (.vcmpeq c t i) (fun k => fpEq f (a k) (b k)) ∧ bits (.vcmpne c t i) (fun k => (!(fpEq f (a k) (b k)).1, (fpEq f (a k) (b k)).2)) ∧
         bits (.vcmplt c t i) (fun k => fpLt f (a k) (b k)) ∧ bits (.vcmple c t i) (fun k => fpLe f (a k) (b k)) ∧
         bits (.vcmpun c t i) (fun k => fpUn f (a k) (b k)))) ∧
     (ew < 6 → logic (.pand c t i) (fun k => p k && q k) ∧ logic (.por c t i) (fun k => p k || q k) ∧
     logic (.pxor c t i) (fun k => p k != q k) ∧ logic (.pnot c t i) (fun k => !p k)))

/-- R67 to R70, R73, R76, Table 03-2, OPC 0x23 and 0x27: what the permutes write: compress and expand along the active elements, the select, the slides,
the splat, an insertion and an extraction, the count of active elements, and the vector length. An immediate of BF16 or FP16 and an extraction beyond
the register take values the spec leaves open (log 25, log 26). R80, R81, Table 03-4: a reduction combines the VLMAX elements of va in the fixed
binary tree, an inactive element entering as its identity, and writes the result to s(VD). The sum of integers is the sum of the active elements,
sign-extended, modulo 2^64, in whatever order; FP sums round to nearest at every node; VRSUMA adds the tree sum to s(VD) with one more rounding. -/
def Obligations.PermuteAndReduction : Prop :=
  (∀ (c : BitVec 8) (t : BitVec 3) (i : VFmt) (s : State), IssuesV s c t i →
     let s1 := s.issued c.toNat t.toNat i.fetch
     let x := s.thr c.toNat t.toNat
     let ew := i.ew.toNat
     let w := ewWidth ew
     let n := vlMax ew
     let va := fun k => vElem w (x.rdV i.va.toNat) k
     let on := (List.range n).filter (active x i)
     let gives := fun (k : Instr) (act : Nat → Bool) (v : Nat → Nat) => Completes k s (fun s' => VectorResult s1 s' c.toNat t.toNat i act v 0)
     let draws := fun (k : Instr) (act : Nat → Bool) (v : Nat → Nat) => Completes k s (fun s' =>
       VectorResult s1 { s' with fresh := s1.fresh } c.toNat t.toNat i act v 0)
     let scalar := fun (k : Instr) (v : Nat) =>
       exec k s = .next (s1.setThr c.toNat t.toNat { x.wr i.vd.toNat (BitVec.ofNat 64 v) with pc := (x.pc + vWords i) % 32768 })
     gives (.vcompress c t i) (fun k => decide (k < on.length)) (fun k => va ((on[k]?).getD 0)) ∧
     gives (.vexpand c t i) (active x i) (fun k => va (on.filter (· < k)).length) ∧
     gives (.vslidedn c t i) (active x i) (fun k => if 0 ≤ (k : Int) + (vImm i).toInt ∧ (k : Int) + (vImm i).toInt < n then va ((k : Int) + (vImm i).toInt).toNat else 0) ∧
     gives (.vslideup c t i) (active x i) (fun k => if 0 ≤ (k : Int) - (vImm i).toInt ∧ (k : Int) - (vImm i).toInt < n then va ((k : Int) - (vImm i).toInt).toNat else 0) ∧
     ((vImm i).toNat < n → gives (.vins c t i) (fun k => decide (k = (vImm i).toNat)) (fun _ => (x.rd i.va.toNat).toNat % 2 ^ w)) ∧
     (n ≤ (vImm i).toNat → ∃ v, exec (.vins c t i) s =
       .next ({ s1 with fresh := s1.fresh + 32 }.setThr c.toNat t.toNat { x.wrV i.vd.toNat v with pc := (x.pc + vWords i) % 32768 })) ∧
     draws (.vsplat c t i) (active x i) (fun k => vOpB s1 x i k % 2 ^ w) ∧
     draws (.vsel c t i) (fun k => decide (k < min x.vl n)) (fun k => if predBit x i k then va k else vOpB s1 x i k % 2 ^ w) ∧
     ((vImm i).toNat < n → scalar (.vext c t i) (va (vImm i).toNat)) ∧
     (n ≤ (vImm i).toNat → ∃ v, exec (.vext c t i) s =
       .next ({ s1 with fresh := s1.fresh + 1 }.setThr c.toNat t.toNat { x.wr i.vd.toNat v with pc := (x.pc + vWords i) % 32768 })) ∧
     scalar (.vpcnt c t i) on.length ∧
     (let q := if i.ims then (vImm i).toNat else (x.rd i.va.toNat).toNat
      exec (.setvl c t i) s = .next (s1.setThr c.toNat t.toNat
        { x.wr i.vd.toNat (BitVec.ofNat 64 (min q n)) with vl := min q n, pc := (x.pc + vWords i) % 32768 }))) ∧
  (∀ (c : BitVec 8) (t : BitVec 3) (i : VFmt) (s : State), IssuesV s c t i → i.ew.toNat < 6 →
     let s1 := s.issued c.toNat t.toNat i.fetch
     let x := s.thr c.toNat t.toNat
     let ew := i.ew.toNat
     let w := ewWidth ew
     let a := fun k => vElem w (x.rdV i.va.toNat) k
     let sg := fun (v : Nat) => (BitVec.ofNat w v).toInt
     let f := if ew = 4 then fp64 else fp32
     let on := (List.range (vlMax ew)).filter (active x i)
     let all := fun (ident : Nat) => (List.range (vlMax ew)).map (fun k => if active x i k then a k else ident)
     let old := (x.rd i.vd.toNat).toNat
     let writes := fun (k : Instr) (v : Word) (fl : Nat) => exec k s = .next (s1.setThr c.toNat t.toNat
       { x.wr i.vd.toNat v with flags := x.flags ||| fl, pc := (x.pc + vWords i) % 32768 })
     (ew < 4 →
       writes (.vrsum c t i) (BitVec.ofInt 64 (on.map (fun k => sg (a k))).sum) 0 ∧
       writes (.vrsuma c t i) (BitVec.ofInt 64 (old + (on.map (fun k => sg (a k))).sum)) 0 ∧
       writes (.vrmin c t i) (BitVec.ofInt 64 ((on.map (fun k => sg (a k))).foldl min (2 ^ (w - 1) - 1))) 0 ∧
       writes (.vrmax c t i) (BitVec.ofInt 64 ((on.map (fun k => sg (a k))).foldl max (-(2 ^ (w - 1))))) 0 ∧
       writes (.vrminu c t i) (BitVec.ofNat 64 ((on.map a).foldl min (2 ^ w - 1))) 0 ∧
       writes (.vrmaxu c t i) (BitVec.ofNat 64 ((on.map a).foldl max 0)) 0) ∧
     (4 ≤ ew →
       (let r := treeReduce (fpAdd f .rne) 8 (all f.signBit)
        let q := fpAdd f .rne (old % 2 ^ w) r.1
        writes (.vrsum c t i) (BitVec.ofNat 64 r.1) r.2 ∧ writes (.vrsuma c t i) (BitVec.ofNat 64 q.1) (r.2 ||| q.2)) ∧
       (let r := treeReduce (fpMin f) 8 (all f.infBits)
        writes (.vrmin c t i) (BitVec.ofNat 64 r.1) r.2) ∧
       (let r := treeReduce (fpMax f) 8 (all (f.infBits + f.signBit))
        writes (.vrmax c t i) (BitVec.ofNat 64 r.1) r.2)))

/-- R77 to R79, R101 to R103, Table 03-3: VCVT converts each active element to the target code of IMM24[3:0], to nearest or with one draw for every
position below the effective length; element i of the source becomes element i at the target's width. For an MX target it writes the whole register:
the elements packed from bit 0, the block scales at bytes 248 and 249, and zeros. R74, R75, R109: VLD puts the bytes at A + k · w / 8 into each active
element k of VD and changes no memory; VST stores each active element there and changes no other byte; VSEAL writes the checksum of one tile; an
access with no active element has no effect. R74, R35, R37, R255: a VLDG whose lines all lie at the package's own rank, in windows onto HBM that is
not fenced, leaves the thread in WAIT_REMOTE with the bytes of every line on their way to the active elements of VD, and changes no memory. A VSTG to
such windows leaves the thread ready and its registers as they were; HBM changes only at the targets of its runs of active bytes. -/
def Obligations.ConversionAndVectorMemory : Prop :=
  (∀ (c : BitVec 8) (t : BitVec 3) (i : VFmt) (s : State), IssuesV s c t i →
     let s1 := s.issued c.toNat t.toNat i.fetch
     let x := s.thr c.toNat t.toNat
     let ew := i.ew.toNat
     let imm := (vImm i).toNat
     let dst := imm % 16
     let dw := codeWidth dst
     let val := fun k => codeVal (ewCode ew) (vElem (ewWidth ew) (x.rdV i.va.toNat) k)
     let el := min (effLen x ew) (if isMx dst then 64 else 2048 / dw)
     let on := fun k => decide (k < el) && predBit x i k
     let stochastic := imm.testBit 4
     let first := if s1.stepOf c.toNat = x.drawStep then x.drawIdx else 0
     let rnd := fun k => if stochastic then Rnd.draw (s1.drawFor c.toNat (bitsOf imm 23 8) t.toNat (first + k)) else .mode .rne
     bitsOf imm 7 5 = 0 → convPair (ewCode ew) dst = true →
     Completes (.vcvt c t i) s (fun s' =>
       let y := s'.thr c.toNat t.toNat
       s' = s1.setThr c.toNat t.toNat y ∧ y.pc = (x.pc + vWords i) % 32768 ∧ y.sr = x.sr ∧ y.pr = x.pr ∧ y.vl = x.vl ∧
       (∀ r, r ≠ i.vd.toNat → y.rdV r = x.rdV r) ∧
       (if stochastic ∧ 0 < el then y.drawIdx = (first + el) % 2 ^ 32 ∧ y.drawStep = s1.stepOf c.toNat
        else y.drawIdx = x.drawIdx ∧ y.drawStep = x.drawStep) ∧
       (isMx dst = false → ∀ k, k < 2048 / dw → vElem dw (y.rdV i.vd.toNat) k =
         if on k then (convTo dst (rnd k) (val k)).1 % 2 ^ dw else vElem dw (x.rdV i.vd.toNat) k) ∧
       (isMx dst = true →
         let block := fun b => mxBlock dst (fun k => rnd (32 * b + k))
           ((List.range 32).map (fun k => if on (32 * b + k) then val (32 * b + k) else .fin false 0 0))
         y.rdV i.vd.toNat = (List.range (if ew = 4 then 1 else 2)).foldl (fun v b =>
           v + packBits dw (block b).2.1 * 2 ^ (32 * b * dw) + (block b).1 * 2 ^ (8 * (248 + b))) 0))) ∧
  (∀ (c : BitVec 8) (t : BitVec 3) (i : VFmt) (s : State), IssuesV s c t i →
     let s1 := s.issued c.toNat t.toNat i.fetch
     let x := s.thr c.toNat t.toNat
     let w := ewWidth i.ew.toNat
     let at_ := fun k => ((x.rd i.va.toNat + vImm i).toNat + k * (w / 8)) % 2 ^ 64
     let on := (List.range (vlMax i.ew.toNat)).filter (active x i)
     let moved := { x with pc := (x.pc + vWords i) % 32768 }
     let counted := fun e => if on = [] then s1 else s1.spadEcc c.toNat ((x.rd i.va.toNat + vImm i).toNat % 0x400000) e
     ((∀ k ∈ on, at_ k + w / 8 ≤ 0x400000) →
       ∀ e, e ≠ .uncorrectable → Completes (.vld c t i e) s (fun s' => VectorResult (counted e) s' c.toNat t.toNat i (active x i)
         (fun k => readLe s.spad (0x400000 * c.toNat + at_ k) (w / 8)) 0)) ∧
     ((∀ k ∈ on, at_ k + w / 8 ≤ 0x400000) → (∀ k ∈ on, s1.spadReserved c.toNat (at_ k) (w / 8) = false) →
       Completes (.vst c t i) s (fun s' =>
         (∀ k ∈ on, readLe s'.spad (0x400000 * c.toNat + at_ k) (w / 8) = vElem w (x.rdV i.vd.toNat) k) ∧
         (∀ m, (∀ k ∈ on, m < 0x400000 * c.toNat + at_ k ∨ 0x400000 * c.toNat + at_ k + w / 8 ≤ m) → readByte s'.spad m = readByte s.spad m) ∧
         { s' with spad := s1.spad, threads := s1.threads } = s1 ∧
         { s'.thr c.toNat t.toNat with wait := x.wait } = moved)) ∧
     (on = [] → exec (.vld c t i .uncorrectable) s = .next (s1.setThr c.toNat t.toNat moved) ∧
       exec (.vst c t i) s = .next (s1.setThr c.toNat t.toNat moved) ∧
       (i.ims = false → exec (.vldg c t i) s = .next (s1.setThr c.toNat t.toNat moved))) ∧
     ((x.rd i.va.toNat).toNat % 4096 = 0 → (x.rd i.va.toNat).toNat < 0x400000 →
       (let sums := spPut 0 s.spadSum (1024 * c.toNat + (x.rd i.va.toNat).toNat / 4096)
          (crc64 (readBytes s.spad (0x400000 * c.toNat + (x.rd i.va.toNat).toNat) 4096))
        exec (.vseal c t i) s = .next ({ s1 with spadSum := sums }.setThr c.toNat t.toNat moved)))) ∧
  (∀ (c : BitVec 8) (t : BitVec 3) (i : VFmt) (s : State), IssuesV s c t i → i.ims = false →
     let s1 := s.issued c.toNat t.toNat i.fetch
     let x := s.thr c.toNat t.toNat
     let w := ewWidth i.ew.toNat
     let a := (x.rd i.va.toNat + vImm i).toNat
     let on := (List.range (vlMax i.ew.toNat)).filter (active x i)
     let lines := ((on.flatMap (fun k => [elemAddr a w k / 64, (elemAddr a w k + w / 8 - 1) / 64])).eraseDups).map (· * 64)
     let runs := lineRuns (on.flatMap (fun k =>
       (List.range (w / 8)).map (fun b => (elemAddr a w k + b, BitVec.ofNat 8 (vElem w (x.rdV i.vd.toNat) k >>> (8 * b))))))
     let next := (x.pc + vWords i) % 32768
     let own := fun (adr len : Nat) (acc : Access1) (slot win : Nat) (wd : Window) =>
       s1.checkSend (s1.partOfCluster c.toNat) adr len acc = some (slot, win, wd) ∧ addrRank adr = s1.myRank slot ∧ wd.kind = 0 ∧
       s1.fencedAt (wd.base + (addrOff adr - wd.offBase)) = false
     (on ≠ [] → (∀ l ∈ lines, ∃ slot win wd, own l 64 .load slot win wd) →
       Completes (.vldg c t i) s (fun s' =>
         (s'.thr c.toNat t.toNat).st = .waitRemote ∧ (s'.thr c.toNat t.toNat).pc = next ∧
         (s'.thr c.toNat t.toNat).vr = x.vr ∧ (s'.thr c.toNat t.toNat).sr = x.sr ∧
         (∃ r, (s'.thr c.toNat t.toNat).remote = some r ∧ r.vec = true ∧ r.reg = i.vd.toNat ∧ r.act = on ∧ r.parts.length = lines.length) ∧
         s'.hbm = s.hbm ∧ s'.spad = s.spad)) ∧
     ((∀ r ∈ runs, ∃ slot win wd, own r.1 r.2.length (.store r.2) slot win wd) →
       Completes (.vstg c t i) s (fun s' =>
         (s'.thr c.toNat t.toNat).st = x.st ∧ (s'.thr c.toNat t.toNat).pc = next ∧
         (s'.thr c.toNat t.toNat).vr = x.vr ∧ (s'.thr c.toNat t.toNat).sr = x.sr ∧ (s'.thr c.toNat t.toNat).stores = x.stores ∧
         (∀ m, (∀ r ∈ runs, ∀ slot win wd, own r.1 r.2.length (.store r.2) slot win wd →
             m < wd.base + (addrOff r.1 - wd.offBase) ∨ wd.base + (addrOff r.1 - wd.offBase) + r.2.length ≤ m) →
           readByte s'.hbm m = readByte s.hbm m) ∧ s'.spad = s.spad)))

/-- R117, R118, R120, R54: a matrix instruction of the thread that holds the matrix claim is handed to the engine, which runs it later, and the thread
goes on; MZERO and MLDA set the held format at once, in issue order. MFENCE goes on when nothing of the thread is unfinished. Another thread's halts
with ENG_OWNER, and a VD above 7 is illegal. R55: the oldest finished tile enters a tile queue of fewer than 16 entries with the cluster's next
sequence number. -/
def Obligations.MatrixInstructions : Prop :=
  (∀ (c : BitVec 8) (t : BitVec 3) (i : VFmt) (s : State), IssuesV s c t i →
     let s1 := s.issued c.toNat t.toNat i.fetch
     let x := s.thr c.toNat t.toNat
     let k := s1.clu c.toNat
     let d := i.vd.toNat
     let pair := (vImm i).toNat.testBit 0
     let a := (x.rd i.va.toNat).toNat
     let stride := (x.rd i.vb.toNat).toNat
     let fits := fun (bytes : Nat) => a % 8 = 0 ∧ stride % 8 = 0 ∧ a + 15 * stride + 24 * bytes ≤ 0x400000
     let handsIn := fun (u : State) (m : Instr) (fmts : Sparse AccFmt) (o : MtxOp) => exec m s = .next ((u.setClu c.toNat
       { k with accFmt := fmts, mops := k.mops ++ [(t.toNat, o)] }).setThr c.toNat t.toNat { x with pc := (x.pc + vWords i) % 32768 })
     let hands := handsIn s1
     let traps := fun (cause : Nat) => ∀ m ∈ [Instr.mzero c t i, .mlda c t i, .msta c t i, .mpush c t i, .mfence c t i, .mma c t i .clean],
       exec m s = .next (s1.haltError c.toNat t.toNat cause)
     (d < 8 → k.mtxOwner = some t.toNat →
       (i.ew.toNat = 4 → pair = false →
         hands (.mzero c t i) (spPut .fp64 k.accFmt d .fp64) (.zero d 0) ∧
         (fits 8 → hands (.mlda c t i) (spPut .fp64 k.accFmt d .fp64) (.load d 0 a stride))) ∧
       (i.ew.toNat = 5 → pair = false →
         hands (.mzero c t i) (spPut .fp64 k.accFmt d .fp32) (.zero d 1) ∧
         (fits 4 → hands (.mlda c t i) (spPut .fp64 k.accFmt d .fp32) (.load d 1 a stride))) ∧
       (i.ew.toNat = 4 → pair = true → d % 2 = 0 →
         let fmts := spPut .fp64 (spPut .fp64 k.accFmt d .hi) (d + 1) .lo
         hands (.mzero c t i) fmts (.zero d 2) ∧ (fits 16 → hands (.mlda c t i) fmts (.load d 2 a stride))) ∧
       ((∀ r < 16, s1.spadReserved c.toNat (a + r * stride) 384 = false) →
         (pair = true → d % 2 = 0 → k.fmtOf d = .hi → k.fmtOf (d + 1) = .lo → fits 16 → hands (.msta c t i) k.accFmt (.store d 2 a stride)) ∧
         (pair = false → k.fmtOf d = .fp32 → fits 4 → hands (.msta c t i) k.accFmt (.store d 1 a stride)) ∧
         (pair = false → k.fmtOf d ≠ .fp32 → fits 8 → hands (.msta c t i) k.accFmt (.store d 0 a stride))) ∧
       hands (.mpush c t i) k.accFmt (.push d (a % 65536) (if k.fmtOf d = .fp32 then 2 else 1)) ∧
       ((∀ o ∈ k.mops, o.1 ≠ t.toNat) → (∀ o ∈ k.pushPend, o.1 ≠ t.toNat) →
         exec (.mfence c t i) s = .next (s1.setThr c.toNat t.toNat { x with pc := (x.pc + vWords i) % 32768 })) ∧
       (let w := fun j => readLe s.spad (0x400000 * c.toNat + a + 8 * j) 8
        let m := mmaDesc (w 0) (w 1) (w 2) (w 3)
        a % 32 = 0 → a + 32 ≤ 0x400000 → m.legal k d = true → m.aAddr % 8 = 0 → m.bAddr % 8 = 0 → m.aStride % 8 = 0 → m.bStride % 8 = 0 →
         m.fits = true → ∀ e, e ≠ .uncorrectable →
         handsIn (s1.spadEcc c.toNat a e) (.mma c t i e) k.accFmt (.mma d (w 0) (w 1) (w 2) (w 3) (s1.mmaReads c.toNat m))) ∧
       (a % 32 = 0 → a + 32 ≤ 0x400000 →
         exec (.mma c t i .uncorrectable) s = .next (s1.mtxFaultOf c.toNat ((List.range 8).filter (fun q => d ≤ q)) .eccUe))) ∧
     (d < 8 → k.mtxOwner ≠ some t.toNat → traps 0x07) ∧ (8 ≤ d → traps 0x03)) ∧
  (∀ (c : BitVec 8) (s : State) (u : Nat) (p : TqEntry) (rest : List (Nat × TqEntry)),
     (s.clu c.toNat).pushPend = (u, p) :: rest → (s.clu c.toNat).tq.length < 16 →
     Completes (.tileQueuePush c) s (fun s' =>
       (s'.clu c.toNat).tq = (s.clu c.toNat).tq ++ [{ p with seq := (s.clu c.toNat).pushSeq }] ∧ (s'.clu c.toNat).pushPend = rest ∧
       (s'.clu c.toNat).pushSeq = ((s.clu c.toNat).pushSeq + 1) % 16777216 ∧ (s'.clu c.toNat).acc = (s.clu c.toNat).acc ∧
       s'.spad = s.spad ∧ s'.hbm = s.hbm ∧ s'.regs = s.regs))

/-- R197, R198, R199, R207, R208, Table 08-5: a legal narrow request, its addresses aligned and in HBM, its engines with room and no lane of it in a
fenced stack or read with an uncorrectable error, applies its lanes in lane order, each to what the lanes before it left, and is answered with the old
values where it fetches; no other byte of HBM changes. Any other request of the code, and every illegal one, is answered as refused and sets OP_BAD.
R191, R193, R194, R195, R207, R208, R212: a line read answers the bytes of HBM and a write stores them, at a ready and unfenced stack; a line that
DRAM gives with an uncorrectable error, or that lies in a fenced stack, answers poison and no write takes place. LR reserves its line for 10 µs; SC
stores only while the reservation stands, and drops it; any other write to the line takes the reservation away. -/
def Obligations.LichenOperations : Prop :=
  (∀ (r : NarrowReq) (s : State),
     let n := if r.w32 then 4 else 8
     let w := 8 * n
     let adr := fun i => ((r.addr[i]?).getD 0).toNat
     let dat := fun i => ((r.data[i]?).getD 0).toNat % 2 ^ w
     let sgn := fun (v : Nat) => (BitVec.ofNat w v).toInt
     let usable := fun (op : Nat) => (List.range 8).filter (fun i => (r.lanes.toNat.testBit i) && (op ≠ 7 || i = 0))
     let forms := fun (op : Nat) => (r.w32 = true → 2 ≤ op ∧ op ≤ 7) ∧ (op = 0 ∨ op = 7 → r.fetch = true) ∧ (op = 1 → r.fetch = false)
     let legal := fun (op fn : Nat) => r.fn.toNat = fn ∧ forms op ∧ ∀ i ∈ usable op, adr i % n = 0 ∧ adr i < 0x5C00000000
     let runs := fun (k : Instr) (op fn : Nat) (value : Nat → Nat → Nat) =>
       (legal op fn → s.narrowRoom r op = true → (∀ i ∈ usable op, s.fencedAt (adr i) = false ∧ eccBad (laneEcc r i) = false) →
         Completes k s (fun s' =>
           let step := fun (q : Memory × List (Nat × Nat)) i =>
             (if op = 0 then q.1 else writeLe q.1 (adr i) n (value (readLe q.1 (adr i) n) i), q.2 ++ [(i, readLe q.1 (adr i) n)])
           let res := (usable op).foldl step (s.hbm, [])
           s'.hbm = res.1 ∧ s'.spad = s.spad ∧ s'.hbmSum = s.hbmSum ∧
           ∃ o, s'.out = .narrow ((List.range 8).map (fun i => if r.fetch then BitVec.ofNat 64
             (((res.2.find? (fun e => e.1 = i)).map Prod.snd).getD 0) else 0)) 0 :: o)) ∧
       (¬ legal op fn → exec k s = .next ((s.setErr F.LCH_ERR_OP_BAD (narrowHome r)).emit .narrowRefused))
     runs (.narrowGather r) 0 0 (fun m _ => m) ∧ runs (.narrowScatter r) 1 0 (fun _ i => dat i) ∧
     runs (.narrowAdd r) 2 0 (fun m i => (m + dat i) % 2 ^ w) ∧
     runs (.narrowMin r) 3 0 (fun m i => if sgn m ≤ sgn (dat i) then m else dat i) ∧
     runs (.narrowMax r) 3 1 (fun m i => if sgn (dat i) ≤ sgn m then m else dat i) ∧
     runs (.narrowMinu r) 4 0 (fun m i => min m (dat i)) ∧ runs (.narrowMaxu r) 4 1 (fun m i => max m (dat i)) ∧
     runs (.narrowAnd r) 5 0 (fun m i => m &&& dat i) ∧ runs (.narrowOr r) 5 1 (fun m i => m ||| dat i) ∧
     runs (.narrowXor r) 5 2 (fun m i => m ^^^ dat i) ∧ runs (.narrowSwap r) 6 0 (fun _ i => dat i) ∧
     runs (.narrowCas r) 7 0 (fun m _ => if m = dat 0 then dat 1 else m) ∧
     runs (.narrowFmin r) 8 0 (fun m i => (fpMin fp64 m (dat i)).1) ∧ runs (.narrowFmax r) 8 1 (fun m i => (fpMax fp64 m (dat i)).1) ∧
     runs (.narrowFadd r) 9 0 (fun m i => (fpAdd fp64 .rne m (dat i)).1) ∧
     (∀ op : BitVec 4, ¬ (forms op.toNat ∧ (op.toNat, r.fn.toNat) ∈
         [(0, 0), (1, 0), (2, 0), (3, 0), (3, 1), (4, 0), (4, 1), (5, 0), (5, 1), (5, 2), (6, 0), (7, 0), (8, 0), (8, 1), (9, 0)]) →
       exec (.narrowIllegal op r) s = .next ((s.setErr F.LCH_ERR_OP_BAD (narrowHome r)).emit .narrowRefused))) ∧
  (∀ (s : State),
     (∀ r : LineReq,
       let a := r.addr.toNat
       let at_ := a + r.off.toNat
       a < 0x5C00000000 → s.lichReady (stackOf a) = true → (∀ h, r.who = .ovusk h → s.ovuskUnit a = true) →
       (s.fencedAt a = true → exec (.lineAccess r) s = .next (s.emit (.line [] true))) ∧
       (s.fencedAt a = false →
         let dram := ¬ (r.hit = true ∧ s.cacheState (a / 64) ≠ 0) ∧ ¬ (r.write.isSome = true ∧ r.off = 0 ∧ r.len = 64)
         (dram → r.ecc = .uncorrectable → exec (.lineAccess r) s = .next ((s.hbmUe a).emit (.line [] true))) ∧
         (¬ (dram ∧ r.ecc = .uncorrectable) →
           (r.write = none → Completes (.lineAccess r) s (fun s' => s'.hbm = s.hbm ∧ s'.resv = s.resv ∧
             ∃ o o', s'.out = o ++ .line (readBytes s.hbm at_ r.len.toNat) false :: o')) ∧
           (∀ bs, r.write = some bs → Completes (.lineAccess r) s (fun s' => s'.hbm = writeBytes s.hbm at_ bs ∧ s'.hbmSum = s.hbmSum ∧
             (∀ v ∈ s'.resv, v ∈ s.resv) ∧
             (r.who = .other → ∀ v ∈ s'.resv, v.line < at_ / 64 ∨ (at_ + bs.length - 1) / 64 < v.line)))))) ∧
     (∀ (hart : BitVec 7) (adr : BitVec 39) (e : Ecc), s.ovuskUnit adr.toNat = true → s.lichReady (stackOf adr.toNat) = true →
       s.fencedAt adr.toNat = false → (s.cacheState (adr.toNat / 64) ≠ 0 ∨ e ≠ .uncorrectable) →
       Completes (.lr hart ⟨adr, e⟩) s (fun s' => s'.reserved hart.toNat (adr.toNat / 64) = true ∧ s'.hbm = s.hbm ∧
         (∃ o, s'.out = .line (readBytes s.hbm (adr.toNat / 8 * 8) 8) false :: o) ∧
         ∀ v ∈ s'.resv, v.hart = hart.toNat → stackOf (64 * v.line) = stackOf adr.toNat → v.line = adr.toNat / 64) ∧
       ∀ (w32 : Bool) (v : BitVec 64),
         let n := if w32 then 4 else 8
         let ok := s.reserved hart.toNat (adr.toNat / 64)
         adr.toNat % n = 0 →
         Completes (.sc hart ⟨adr, e⟩ w32 v) s (fun s' => (∃ o, s'.out = .scResult hart.toNat ok :: o) ∧
           s'.hbm = (if ok then writeLe s.hbm adr.toNat n v.toNat else s.hbm) ∧
           s'.reserved hart.toNat (adr.toNat / 64) = false)) ∧
     (∀ (st : BitVec 4) (hart : BitVec 7), Completes (.reservationLapse st hart) s (fun s' => { s' with resv := s.resv } = s ∧
       ∀ v, v ∈ s'.resv ↔ v ∈ s.resv ∧ ¬ (v.hart = hart.toNat ∧ stackOf (64 * v.line) = st.toNat ∧ v.at_ + 10000 ≤ s.now))))

/-- R82, R83, R85, R86: EPI of the thread that holds the tile queue claim hands its 32-byte descriptor to the idle epilogue unit, or waits in WAIT_LOCAL
for it; the epilogue starts on the head entry and frees it; at its end the output is written and its tiles are sealed, the unit's completion count,
one more, is written at DONE_ADDR, and the unit is idle. R83, R84: each element of an epilogue's input is scaled, biased, activated and added to the
residual, in that order and only where enabled, each step rounded to nearest in the entry's format; relu keeps a NaN and makes every negative value
+0. -/
def Obligations.EpilogueUnit : Prop :=
  (∀ (c : BitVec 8) (t : BitVec 3) (i : VFmt) (s : State),
     (IssuesV s c t i →
       let s1 := s.issued c.toNat t.toNat i.fetch
       let x := s.thr c.toNat t.toNat
       let k := s1.clu c.toNat
       let a := (x.rd i.va.toNat).toNat
       let bs := readBytes s.spad (0x400000 * c.toNat + a) 32
       k.tqOwner = some t.toNat → a % 32 = 0 → a + 32 ≤ 0x400000 → (epiDesc bs).error = none →
         ∀ e, e ≠ .uncorrectable →
         (k.epi = .idle → exec (.epi c t ⟨i, e⟩) s = .next (((s1.spadEcc c.toNat a e).setClu c.toNat { k with epi := .waiting t.toNat bs }).setThr
           c.toNat t.toNat { x with pc := (x.pc + vWords i) % 32768 })) ∧
         (k.epi ≠ .idle → exec (.epi c t ⟨i, e⟩) s = .next (((s1.spadEcc c.toNat a e).setThr c.toNat t.toNat
           { x with st := .waitLocal, wait := .epi bs, adv := vWords i }).setClu c.toNat
           { k with waiters := k.waiters.filter (· ≠ t.toNat) ++ [t.toNat] }))) ∧
     (∀ u bs q rest tq sp,
       let k := s.clu c.toNat
       let d := epiDesc bs
       let step := s.stepOf c.toNat
       let base := if step = k.epiStep then k.epiDraw else 0
       let o := s.epiOutput c.toNat d q (fun n => if d.stoch then .draw (s.drawFor c.toNat d.stream 8 (base + n)) else .mode .rne)
       k.epi = .waiting u bs → k.tq = q :: rest → tq ≠ .uncorrectable → sp ≠ .uncorrectable →
       (isMx d.out = true → d.dst % 8 = 0 ∧ (q.rows ≤ 1 ∨ d.dstStride % 8 = 0)) →
       (∀ r ∈ epiReads d q, r.1 + r.2 ≤ 0x400000 ∧ s.spadVerify c.toNat r.1 r.2 = true) →
       (∀ w ∈ o.1, w.1 + w.2.length ≤ 0x400000 ∧ s.spadReserved c.toNat w.1 w.2.length = false) →
       s.spadReserved c.toNat d.done_ 8 = false →
       exec (.epilogueStart ⟨c, tq, sp⟩) s = .next { (s.epiCe c.toNat ((((epiReads d q).map Prod.fst)[0]?).getD d.pwl) tq sp).setClu c.toNat
         { k with epi := .running u o.1 d.done_ o.2, tq := rest
                  epiDraw := if d.stoch then (base + q.rows * epiRowDraws d q.cols) % 2 ^ 32 else k.epiDraw
                  epiStep := if d.stoch then step else k.epiStep } with fresh := s.fresh + q.rows * q.cols }) ∧
     (∀ u ws doneAddr fl,
       let k := s.clu c.toNat
       let key := fun a => 0x400000 * c.toNat + a
       k.epi = .running u ws doneAddr fl →
       ∀ e, e ≠ .uncorrectable → Completes (.epilogueDone ⟨c, e⟩) s (fun s' =>
         (s'.clu c.toNat).epiCount = (k.epiCount + 1) % 2 ^ 64 ∧ readLe s'.spad (key doneAddr) 8 = (k.epiCount + 1) % 2 ^ 64 ∧
         (∀ m, (m < key doneAddr ∨ key doneAddr + 8 ≤ m) →
           readByte s'.spad m = readByte (ws.foldl (fun mem w => writeBytes mem (key w.1) w.2) s.spad) m) ∧
         (∀ w ∈ ws, ∀ tile ∈ tilesOf w.1 w.2.length, (∀ b < 8, (doneAddr + b) / 4096 ≠ tile) →
           spGet 0 s'.spadSum (1024 * c.toNat + tile) = tileSum s'.spad (1024 * c.toNat + tile)) ∧
         (s'.clu c.toNat).tq = k.tq ∧ s'.hbm = s.hbm ∧ s'.regs = s.regs))) ∧
  (∀ (d : EpiDesc) (f : Fmt) (bias res : Nat) (w : Nat → Nat) (free acc : Nat),
     let scaled := if d.scaleEn then (fpMul f .rne acc (widen32 f d.scale)).1 else acc
     let biased := if d.biasEn then (fpAdd f .rne scaled bias).1 else scaled
     let value := (epiElem d f bias res w free acc).1
     let out := fun v => if d.resEn then (fpAdd f .rne v res).1 else v
     (d.act = 0 → value = out biased) ∧
     (d.act = 1 → ((fpVal f biased).isNan = true → value = out biased) ∧
       ((fpVal f biased).isNan = false → (fpVal f biased).isNeg = true → value = out 0) ∧
       ((fpVal f biased).isNan = false → (fpVal f biased).isNeg = false → value = out biased)) ∧
     (d.act = 2 → (fpVal f biased).isNan = false →
       let u := (fpMul f .rne (fpSub f .rne biased (widen32 f (w 0))).1 (widen32 f (w 1))).1
       let seg := fun k => value = out (fpFma f .rne (widen32 f (w (4 + 2 * k))) biased (widen32 f (w (5 + 2 * k)))).1
       ((fpVal f u).isNan = false → (fpVal f u).isNeg = true → seg 0) ∧
       (∀ m e, fpVal f u = .fin false m e → seg (min 63 (roundAt .rtz false m e 0).1)) ∧
       (fpVal f u = .inf false → seg 63) ∧
       ((fpVal f u).isNan = true → ∃ k, k < 64 ∧ seg k)))

/-- R37, R41, R59, R64: a remote result whose bytes are in is written to its register and the thread is READY, or halts with cause STOP where a STOP
waited; a written WAITM word that has reached its value lets its thread go on, and one that has not leaves it waiting; a cluster whose wipe ends
starts the threads whose START was written during it. R42, Table 02-9: a started RUN command whose fields are legal and whose threads may start starts
each at its START with ARG in s1, and no other thread; else it ends DESC_BAD. Once all have halted it commits with the number that did not halt by
HALT; at its deadline those left are halted as by STOP, and once they are it commits DEADLINE_MISS with their number. -/
def Obligations.ThreadsAndRuns : Prop :=
  (∀ (c : BitVec 8) (t : BitVec 3) (s : State),
     let x := s.thr c.toNat t.toNat
     (∀ r bs, x.st = .waitRemote → x.remote = some r → r.bytes = some bs →
       let y := if r.vec then x.wrV r.reg (r.vector (x.rdV r.reg)) else x.wr r.reg (BitVec.ofNat 64 (leNat bs))
       (x.stopPend = false → exec (.remoteResult c t) s = .next (s.setThr c.toNat t.toNat { y with st := .ready, remote := none })) ∧
       (x.stopPend = true → Completes (.remoteResult c t) s (fun s' => (s'.thr c.toNat t.toNat).st = .halted ∧
         (s'.thr c.toNat t.toNat).cause = 0x02 ∧ (s'.thr c.toNat t.toNat).sr = y.sr ∧ (s'.thr c.toNat t.toNat).vr = y.vr ∧
         (s'.thr c.toNat t.toNat).pc = x.pc ∧ s'.hbm = s.hbm ∧ s'.spad = s.spad))) ∧
     (∀ a v, x.wait = .word a v true →
       (v ≤ readLe s.spad (0x400000 * c.toNat + a) 8 → Completes (.waitmWake c t) s (fun s' =>
         s'.thr c.toNat t.toNat = { x with st := .ready, wait := .none, adv := 0, pc := (x.pc + x.adv) % 32768 } ∧ s'.spad = s.spad ∧ s'.hbm = s.hbm)) ∧
       (readLe s.spad (0x400000 * c.toNat + a) 8 < v →
         exec (.waitmWake c t) s = .next (s.setThr c.toNat t.toNat { x with wait := .word a v false }))) ∧
     (s.powered = true → (s.clu c.toNat).wiping = true → Completes (.clusterWipeDone c) s (fun s' =>
       s'.clu c.toNat = { s.clu c.toNat with wiping := false, removed := false, startPend := 0 } ∧
       (∀ u, u < 8 →
         let y := s.thr c.toNat u
         let starts := (s.clu c.toNat).startPend.testBit u = true ∧ (y.st = .off ∨ y.st = .halted) ∧ s.boundThread c.toNat u = false
         (starts → s'.thr c.toNat u = { y with st := .ready, pc := s.getF (thrPcFld u) c.toNat, cause := 0, vl := 0, flags := 0, wait := .none, adv := 0, remote := none, stopPend := false }) ∧ (¬ starts → s'.thr c.toNat u = y)) ∧
       s'.regs = s.regs ∧ s'.spad = s.spad ∧ s'.hbm = s.hbm))) ∧
  (∀ (id : Nat) (s : State) (c : Cmd), s.cmd? id = some c → c.opc = 0x6A → s.heldQueue c.queue = false →
     let named := fun (k t : Nat) => k < 256 ∧ t < 8 ∧ (c.num 24 4).testBit (k / 8) = true ∧ (c.byte 28).testBit t = true
     (c.phase = .started → s.runOk c = false → exec (.run id) s = .next (s.setCmd { c with phase := .ended, status := 0x10 })) ∧
     (c.phase = .started → s.runOk c = true → Completes (.run id) s (fun s' =>
       s'.cmds = (s.setCmd { c with phase := .running }).cmds ∧
       (∀ k t, named k t →
         let x := s'.thr k t
         x.st = .ready ∧ x.pc = c.num 30 2 ∧ x.rd 1 = BitVec.ofNat 64 (c.num 32 8) ∧ x.cause = 0 ∧ x.vl = 0 ∧ x.flags = 0 ∧
         s'.getF (thrPcFld t) k = c.num 30 2 ∧ (∀ r, r ≠ 1 → x.rd r = (s.thr k t).rd r) ∧ x.vr = (s.thr k t).vr ∧ x.pr = (s.thr k t).pr) ∧
       (∀ k t, t < 8 → ¬ named k t → s'.thr k t = s.thr k t) ∧ s'.spad = s.spad ∧ s'.hbm = s.hbm ∧ s'.clus = s.clus)) ∧
     (c.phase = .running → (∀ p ∈ runTargets c, (s.thr p.1 p.2).st = .halted) →
       let n := ((runTargets c).filter (fun p => (s.thr p.1 p.2).cause ≠ 0x01)).length
       exec (.runCommit id) s = .next (if c.late then s.commitCmd c 0x20 c.aux 0 0 else s.commitCmd c (if n = 0 then 0 else 0x10) n 0 0)) ∧
     (c.phase = .running → c.deadline ≠ 0 → c.deadline ≤ s.cad → c.late = false → (∃ p ∈ runTargets c, (s.thr p.1 p.2).st ≠ .halted) →
       let n := ((runTargets c).filter (fun p => (s.thr p.1 p.2).st ≠ .halted)).length
       let c1 := { c with late := true, aux := n }
       let u := (runTargets c).foldl (fun s p => s.stopThread p.1 p.2) (s.setCmd c1)
       exec (.runDeadline id) s = .next (if (runTargets c).all u.threadHalted then u.commitCmd c1 0x20 n 0 0 else u)))

/-- R233, R235: a doorbell to an enabled queue moves its pointer to the value written where that lies no further than the free or written entries, to the
furthest legal value where it is at most half the range away, and else leaves it; a value not taken as written is counted. An SQ doorbell fetches
every entry up to the tail, in order, as commands of the queue's partition. R26, R235, R239, R317: a launch tick that is reached is remembered; a
command that its ring, its launch tick, its job and its engine let start reserves a completion slot and starts, or ends DESC_BAD where the spec
defines no such operation; ABORT takes the commit point of the oldest command of its queue and tag that has neither committed nor been ended by a
fault, or ends with status 0x02 where there is none; an aborted command whose engine has stopped commits ABORTED with its flags. -/
def Obligations.QueueCommands : Prop :=
  (∀ (d : DbSrc) (i : BitVec 20) (v : BitVec 17) (es : List EccHit) (s : State) (q p : Nat),
     s.dbQueue d i.toNat = some q → s.dbCoreOk d q = true → s.partOfQueue q = some p → s.ctxCached q = true → (s.ctx q).length = 8 →
     let x := s.ctx q
     (∀ k < 2 ^ ctxGet x cSqLog2, s.ringReach p (ctxGet x cSqBase) (64 * k) 64 = true) →
     let judged := fun (ptr room : Nat) =>
       let move := (131072 + v.toNat - ptr) % 131072
       if move ≤ room then v.toNat else if move ≤ 65536 then (ptr + room) % 131072 else ptr
     let clamps := fun (s' : State) (ptr room : Nat) => s'.getF F.QMG_DB_CLAMP_CNT_COUNT 0 p =
       if (131072 + v.toNat - ptr) % 131072 ≤ room then s.getF F.QMG_DB_CLAMP_CNT_COUNT 0 p else (s.getF F.QMG_DB_CLAMP_CNT_COUNT 0 p + 1) % 2 ^ 64
     (ctxGet x cEn = 1 →
       (let room := 2 ^ ctxGet x cSqLog2 - (131072 + ctxGet x cSqTail - ctxGet x cSqHead) % 131072
        let r := judged (ctxGet x cSqTail) room
        Completes (.sqDoorbell d i ⟨v, es⟩) s (fun s' => ctxGet (s'.ctx q) cSqTail = r ∧ ctxGet (s'.ctx q) cSqHead = r ∧
         clamps s' (ctxGet x cSqTail) room ∧
         (∃ l : List Cmd, s'.cmds = s.cmds ++ l ∧ l.length = (131072 + r - ctxGet x cSqHead) % 131072 ∧
           ∀ n e, l[n]? = some e → e.id = s.nextCmd + n ∧ e.queue = q ∧ e.part = p ∧ e.phase = .waiting ∧ e.fetched = s.cad ∧
             e.words = (List.range 8).map (fun k => BitVec.ofNat 64 (leNat (((s.ringRead p (ctxGet x cSqBase)
               (64 * ((ctxGet x cSqHead + n) % 131072 % 2 ^ ctxGet x cSqLog2)) 64).drop (8 * k)).take 8)))) ∧
         s'.hbm = s.hbm ∧ s'.hostMem = s.hostMem)) ∧
       (let room := (131072 + ctxGet x cCqTail - ctxGet x cCqHead) % 131072
        Completes (.cqDoorbell d i ⟨v, es⟩) s (fun s' => ctxGet (s'.ctx q) cCqHead = judged (ctxGet x cCqHead) room ∧
         clamps s' (ctxGet x cCqHead) room ∧ s'.cmds = s.cmds ∧ s'.hbm = s.hbm ∧ s'.hostMem = s.hostMem))) ∧
     (ctxGet x cEn = 0 → ∀ m ∈ [Instr.sqDoorbell d i ⟨v, es⟩, .cqDoorbell d i ⟨v, es⟩], exec m s = .next ((s.ctxFetch q).addF F.QMG_DB_CLAMP_CNT_COUNT 1 0 p))) ∧
  (∀ (id : Nat) (s : State) (c : Cmd), s.cmd? id = some c →
     (c.launchTick ≤ s.cad → exec (.launchTickReached id) s = .next (s.setCmd { c with launched := true })) ∧
     (s.startable c = true → s.slotFreeCq c.queue = true → s.engineAccepts c = true →
       let s1 := s.reserveSlot c.queue
       (opcDefined c.opc = false → exec (.commandStart id) s = .next (s1.setCmd { c with phase := .ended, status := 0x10 })) ∧
       (opcDefined c.opc = true → s.moveChannel c = none → exec (.commandStart id) s = .next (s1.setCmd { c with phase := .started, block := s.copyBlock c })) ∧
       (opcDefined c.opc = true → ∀ ch, s.moveChannel c = some ch → exec (.commandStart id) s =
         .next ((s1.setCmd { c with phase := .started, block := s.copyBlock c }).setBulk ch { s.bulkCh ch with cmd := some id }))) ∧
     (∀ es, c.phase = .ended → (s.ctxCached c.queue = true ∧ s.ctxCached (s.cqOf c.queue) = true ∨ es = []) →
       exec (.completionCommit ⟨id, es⟩) s = .next (s.commitCmd c c.status c.aux c.flags 0)) ∧
     (c.phase = .started → c.opc = 0x01 →
       let q := bitsOf (c.num 24 4) 19 0
       let tag := c.num 28 2
       let hit := fun (d : Cmd) => d.queue = q ∧ d.tag = tag ∧ d.id ≠ id ∧ d.byFault = false ∧ d.phase ≠ .aborted ∧ d.phase ≠ .abortedNoSlot
       (s.abortOk c = false → exec (.abort id) s = .next (s.setCmd { c with phase := .ended, status := 0x10 })) ∧
       (s.abortOk c = true →
         (∀ l d r, s.cmds = l ++ d :: r → (∀ e ∈ l, ¬ hit e) → hit d →
           exec (.abort id) s = .next (((s.takeAbort d).addF F.QMG_ABORT_WON_CNT_COUNT 1 0 c.part).setCmd { c with phase := .ended, status := 0 })) ∧
         ((∀ e ∈ s.cmds, ¬ hit e) →
           exec (.abort id) s = .next ((s.addF F.QMG_ABORT_LATE_CNT_COUNT 1 0 c.part).setCmd { c with phase := .ended, status := 0x02 })))) ∧
     (c.phase = .aborted → c.stopped = true → exec (.abortedRecord id) s = .next (s.commitCmd c 0x01 0 c.flags 0)) ∧
     (c.phase = .abortedNoSlot → s.slotFreeCq c.queue = true → exec (.abortedRecord id) s = .next ((s.reserveSlot c.queue).commitWith c 0x01 0 c.flags 0)))

/-- R197, R209, R210, R212, R215, Table 08-9: sectors whose first lane has waited 64 ns are read, 32 bytes each; a scrub pass, SCRUB_HOURS after the one
before, is counted and its outcomes recorded; a stack moves through NORMAL, REFRESH_2X, THROTTLED and FENCED by its temperature, with hysteresis, and
once fenced stays so; a stack whose wipe ends holds zeros and is READY. -/
def Obligations.StackCommands : Prop :=
  ∀ (st : BitVec 4) (s : State),
    let n := st.toNat
    let x := s.lichen n
    (let due := fun (l : Nat × Nat) => ∃ l' ∈ x.window, l'.1 = l.1 ∧ l'.2 + 64 ≤ s.now
     (∃ l ∈ x.window, l.2 + 64 ≤ s.now) →
      Completes (.coalesceTimeout st) s (fun s' => (∀ l, l ∈ (s'.lichen n).window ↔ l ∈ x.window ∧ ¬ due l) ∧ s'.hbm = s.hbm ∧
        ∃ k, 0 < k ∧ s'.getF F.LCH_SECTOR_CNT_COUNT n = (s.getF F.LCH_SECTOR_CNT_COUNT n + k) % 2 ^ 64 ∧
          s'.getF F.LCH_READ_BYTES_COUNT n = (s.getF F.LCH_READ_BYTES_COUNT n + 32 * k) % 2 ^ 64)) ∧
    (∀ hits : List (BitVec 38 × Ecc), s.powered = true → s.lichReady n = true → 3600000000000 * s.getF F.HBM_CTRL_SCRUB_HOURS n + x.scrubAt ≤ s.now →
      Completes (.scrubPass st { hits := hits }) s (fun s' => s'.getF F.HBM_SCRUB_PASS_COUNT n = (s.getF F.HBM_SCRUB_PASS_COUNT n + 1) % 2 ^ 64 ∧
        (∀ off, hits = [(off, .corrected)] →
          s'.getF F.HBM_CE_CNT_ONDIE n = min (2 ^ 32 - 1) (s.getF F.HBM_CE_CNT_ONDIE n + 1) ∧ s'.getF F.HBM_CE_ADDR_OFFSET n = off.toNat ∧
          s'.hbm = s.hbm) ∧
        (∀ off, hits = [(off, .uncorrectable)] → s'.getF F.HBM_ERR_UE n = 1 ∧ s'.getF F.LCH_ERR_ECC_UE n = 1 ∧
          s'.getF F.HBM_UE_ADDR_OFFSET n = off.toNat))) ∧
    (∀ (temp : BitVec 8) (trend : BitVec 16), s.powered = true → s.clkOff .hbm n = false →
      let t := temp.toNat
      let cur := s.getF F.HBM_STAT_TSTATE n
      Completes (.stackThermalSample st temp trend) s (fun s' =>
        s'.getF F.HBM_STAT_TEMP n = t ∧ s'.getF F.HBM_STAT_TEMP_MAX n = max (s.getF F.HBM_STAT_TEMP_MAX n) t ∧
        s'.getF F.HBM_STAT_TSTATE n = (if cur = 3 ∨ 105 ≤ t then 3 else if 95 ≤ t ∨ (cur = 2 ∧ 92 ≤ t) then 2
          else if 85 ≤ t ∨ (cur ≠ 0 ∧ 82 ≤ t) then 1 else 0) ∧
        (105 ≤ t → cur < 3 → s'.fencedAt (domainSize * (n / 4) + 4096 * (n % 4)) = true) ∧
        (t < 105 ∨ cur = 3 → s'.hbm = s.hbm) ∧ s'.spad = s.spad)) ∧
    (s.powered = true → s.lichReady n = false → n = 0 ∨ s.diesReady = true →
      Completes (.hbmWipeDone st) s (fun s' => s'.lichReady n = true ∧
        (∀ a, readByte s'.hbm a = if stackOf a = n then 0 else readByte s.hbm a) ∧
        (∀ t, spGet 0 s'.hbmSum t = if stackOf (4096 * t) = n then 0 else spGet 0 s.hbmSum t) ∧
        ((∀ m < 16, m ≠ n → s.lichReady m = true) → s'.getF F.QMG_STAT_READY = 1) ∧ s'.spad = s.spad))

/-- R246, R257 to R262, R268, R270, R274, R276, R278, R280, R283: what ends, repeats or carries on a cell: answers by their RESP, acknowledgements of
accepted jobs, floors, the timers of flows, reply caches and combining tables, transit, and the replay, loss and training of links. R269: the slot
chosen for a TC2 flow is usable, of the lowest PRI any usable slot has, and of those the lowest-numbered; another cell takes a usable slot of the
lowest PRI wherever there is one. -/
def Obligations.FlowsAndRoutes : Prop :=
  (∀ (s : State),
     (∀ (x : Cell) (k : FlowKey) (c : TxCell), x.type = 7 → x.dstEp.toNat = s.myEp → s.myEp ≠ epNone → x.crc = cellE2e x →
       s.replyTarget x = some (k, c) →
       let f := s.txFlow k
       let u := s.arrive x
       (x.resp = 0 → exec (.replyCell x) s = .next (u.completeCell k c (some (x.payload.take x.len.toNat)))) ∧
       (x.resp = 1 → exec (.replyCell x) s = .next (u.setTx k { f with cells := f.cells.map (fun d =>
         if d.seq = c.seq then { d with timeout := 20000, sentAt := s.now, tries := d.tries - 1 } else d) })) ∧
       (x.resp = 2 → exec (.replyCell x) s = .next (u.completeCell k c none)) ∧
       (x.resp = 3 → exec (.replyCell x) s = .next (u.cellUnknown ((s.slotAny x.jobTag.toNat).getD 0) k c))) ∧
     (∀ x : Cell, x.type = 8 → x.dstEp.toNat = s.myEp → s.myEp ≠ epNone → x.crc = cellE2e x → s.slotOfTag x.jobTag.toNat ≠ none →
       let k : FlowKey := { tc := x.tc, tag := x.jobTag, rank := x.srcRank, hub := none }
       let cum := leNat (x.payload.take 4)
       let map := leNat ((x.payload.drop 4).take 32)
       let acked := fun (c : TxCell) =>
         (c.cell.type = 2 ∨ c.cell.type = 10 ∨ c.cell.type = 11) ∧ (seqBelow (c.seq % 2 ^ 32) cum = true ∨
           ∃ n < 256, map.testBit n = true ∧ (c.seq % 2 ^ 32) = (cum + 1 + n) % 2 ^ 32)
       ∃ l : List TxCell, (∀ c, c ∈ l ↔ c ∈ (s.txFlow k).cells ∧ acked c) ∧
         exec (.ackCell x) s = .next (l.foldl (fun u c => u.completeCell k c (some [])) (s.arrive x))) ∧
     (∀ (x : Cell) slot, x.type = 9 → x.dstEp.toNat = s.myEp → s.myEp ≠ epNone → x.crc = cellE2e x → s.slotOfTag x.jobTag.toNat = some slot →
       Completes (.floorCell x) s (fun s' => (∀ die < 2, s'.rxFlow die (flowOf x) = (s.rxFlow die (flowOf x)).takeFloor x.seq.toNat ∧
           ∀ e ∈ s'.replyCache, e.die = die → e.key = flowOf x → seqBelow e.seq x.seq.toNat = false) ∧ s'.hbm = s.hbm ∧ s'.spad = s.spad)) ∧
     (∀ (die : BitVec 1) (k : FlowKey), (s.rxFlow die.toNat k).ackDue = true →
       let f := s.rxFlow die.toNat k
       let key := routeKey s.myEp (f.srcEp % 2 ^ 20)
       s.myEp ≠ epNone → s.selectRoute key ≠ none →
       Completes (.ackSend die k) s (fun s' => s'.rxFlow die.toNat k = { f with ackDue := false } ∧ s'.hbm = s.hbm ∧ ∃ r y o, s.anyRoute key = some r ∧
         s'.out = .cell (s.getF F.HUB_ROUTE_DATA_PORT 0 (routeBank key r)) y :: o ∧ y.type = 8 ∧ y.seq = BitVec.ofNat 32 f.base ∧ y.crc = cellE2e y)) ∧
     (∀ k : FlowKey, (s.txFlow k).carried < (s.txFlow k).floor → (s.txFlow k).advancedAt + 10000 ≤ s.now →
       exec (.floorTimer k) s = .next (s.sendFloor k)) ∧
     (∀ (k : FlowKey) (seq : BitVec 32) (c c2 : TxCell) (f2 : TxFlow) (s1 : State), s.txCell? k seq.toNat = some c → c.sentAt + c.timeout ≤ s.now → s.myEp ≠ epNone → c.tries < 8 →
       s.launchCell k (s.txFlow k) { c with tries := c.tries + 1, timeout := min (2 * c.timeout) 2000000 } = some (c2, f2, s1) →
       exec (.retransmitTimeout k seq) s = .next ((s1.setTx k { f2 with cells := (s.txFlow k).cells.map (fun d => if d.seq = c.seq then c2 else d) }).addF
         F.HUB_RETX_CNT_COUNT 1 (ownerDie c))) ∧
     (∀ (die : BitVec 1) (n : Nat) (es : List EccHit) (e : CombEntry), s.comb.find? (fun e => e.die = die.toNat && e.n = n) = some e → e.closed = false →
       e.openedAt + s.getF F.HUB_CTRL_COMB_NS die.toNat ≤ s.now → exec (.combineWindowClose die ⟨n, es⟩) s = .next (s.closeComb e es)) ∧
     (∀ (die : BitVec 1) (k : FlowKey),
       let old := fun (e : ReplyEntry) => e.die = die.toNat ∧ e.key = k ∧ e.at_ + 100000000 ≤ s.now
       Completes (.replyCacheAge die k) s (fun s' => (∀ e, e ∈ s'.replyCache ↔ e ∈ s.replyCache ∧ ¬ old e) ∧ s'.hbm = s.hbm ∧ s'.tx = s.tx ∧ s'.rx = s.rx)) ∧
     (∀ (port : BitVec 5) (x : Cell), port.toNat < 20 → s.getF F.FAB_STAT_UP port.toNat = 1 → x.dstEp.toNat ≠ s.myEp → s.slotOfTag x.jobTag.toNat = none →
       exec (.transitCell port ⟨x, .uncorrectable⟩) s = .next ((s.arrive { x with port := port }).setErr F.FAB_ERR_ECC_UE port.toNat none)) ∧
     (∀ (port : BitVec 5) (x : Cell) (e : Ecc) p, port.toNat < 20 → s.getF F.FAB_STAT_UP port.toNat = 1 → x.dstEp.toNat ≠ s.myEp → x.type ≠ 0 → x.type.toNat < 14 →
       (s.myEp ≠ epNone ∨ x.type = 12) → s.combable (port.toNat / 10) x = false → transitPort s.myEp x = some p → s.getF F.FAB_STAT_UP p = 1 → e ≠ .uncorrectable →
       Completes (.transitCell port ⟨x, e⟩) s (fun s' => (∃ y, s'.out = .cell p y :: s.out ∧ { y with linkSeq := x.linkSeq, credit := x.credit, port := x.port } = x) ∧
         s'.hbm = s.hbm ∧ s'.spad = s.spad ∧ s'.tx = s.tx ∧ s'.rx = s.rx)) ∧
     (∀ (port : BitVec 5) (ok : Bool),
       let p := port.toNat
       let times := s.now :: (s.link p).replays.filter (fun t => s.now < 60000000000 + t)
       (p < 20 → s.getF F.FAB_STAT_UP p = 1 → times.length / 60 ≤ 1000 * s.getF F.FAB_CTRL_RETRY_WARN p →
         exec (.linkReplay port ⟨ok, none⟩) s = .next (((((s.emit (.linkAsk p (s.link p).rxSeq)).setLink p
           { s.link p with fails := if ok then 0 else (s.link p).fails + 1, replays := times }).addF
           F.FAB_REPLAY_CNT_COUNT 1 p).addF F.FAB_FEC_UNCORR_COUNT 1 p).setF F.FAB_REPLAY_RATE_PER_S (times.length / 60) p)) ∧
       (∀ (n : BitVec 12) i, p < 20 → s.getF F.FAB_STAT_UP p = 1 → (s.link p).sent.findIdx? (fun c => c.linkSeq = n) = some i →
         exec (.linkReplay port ⟨ok, some n⟩) s = .next { s with out := ((s.link p).sent.take (i + 1)).map (Out.cell p) ++ s.out }) ∧
       (p < 20 → s.getF F.FAB_STAT_UP p = 1 → 16 ≤ (s.link p).fails → exec (.linkDown port) s = .next ((s.setErr F.FAB_ERR_REPLAY_FAIL p).portDown p 1)) ∧
       (∀ (peerPort : BitVec 5) (peerEp : BitVec 20), p < 20 → s.clkOff .fab p = false → s.getF F.FAB_CTRL_EN p = 1 → s.getF F.FAB_STAT_UP p = 0 →
         Completes (.linkUp port peerPort peerEp) s (fun s' => s'.getF F.FAB_STAT_UP p = 1 ∧ s'.getF F.FAB_STAT_LANES_UP p = 8 ∧
           s'.getF F.FAB_STAT_LT p = 2 ∧ s'.getF F.FAB_PEER_PORT p = peerPort.toNat ∧ s'.getF F.FAB_PEER_EP p = peerEp.toNat ∧ s'.link p = {} ∧
           s'.hbm = s.hbm ∧ s'.tx = s.tx)))) ∧
  (∀ (s : State) (key i : Nat),
     let pri := fun j => s.getF F.HUB_ROUTE_DATA_PRI 0 (routeBank key j)
     (s.selectRoute key = some i ↔
       (i < 8 ∧ s.routeUsable key i = true ∧ ∀ j, j < 8 → s.routeUsable key j = true → pri i < pri j ∨ (pri i = pri j ∧ i ≤ j))) ∧
     (s.anyRoute key = some i → i < 8 ∧ s.routeUsable key i = true ∧ ∀ j, j < 8 → s.routeUsable key j = true → pri i ≤ pri j) ∧
     ((∃ j, j < 8 ∧ s.routeUsable key j = true) → s.anyRoute key ≠ none))

/-- R291, R292, R293, R295, R297, R307, Table 11-1: a started Chain command whose communicator, fields and places are legal, and that finds a context
free, begins its collective with its input as it stands in memory and its operation digest; COMM_CREATE makes its communicator first, COMM_FREE ends
one with no collective left, and CONFIRM_WAIT waits for the collectives started before it. Any other ends DESC_BAD. -/
def Obligations.CollectiveCommands : Prop :=
  ∀ (id : Nat) (es : List EccHit) (s : State) (c : Cmd) (slot : Nat), s.cmd? id = some c → c.phase = .started → s.acceptingSlot c.part = some slot →
    s.quiesced.contains slot = false →
    (∀ d ∈ s.cmds, d.queue = c.queue → d.id < c.id → d.phase = .started → ¬ (0x70 ≤ d.opc ∧ d.opc ≤ 0x7D)) →
    let refused := fun (k : Instr) => exec k s = .next ((s.setErr F.CHN_ERR_COMM_REFUSED (c.comm % 2) (some c.part)).setCmd { c with phase := .ended, status := 0x10 })
    let digest := fun (count root : Nat) => crc32c (natLe 1 c.opc ++ natLe 1 c.dtype ++ natLe 1 c.rop ++ natLe 1 0 ++ natLe 4 count ++ natLe 4 root ++ natLe 4 0)
    let coll := fun (input : List Byte) (count root : Nat) => ({
      slot := slot, comm := c.comm, seq := 0, cmd := some id, opc := c.opc, dtype := c.dtype, rop := c.rop, count := c.count, root := c.root
      dst := c.dst, digestAddr := c.collDigest, ring := false, input := input, inDigest := if c.collDigest = 0 then [] else sha384 input
      opDigest := digest count root, arrive := 0, reason := 0 } : Coll)
    let begins := fun (k : Instr) (opc : Nat) => c.opc = opc →
      (s.comm? slot c.comm = none → refused k) ∧
      (∀ d me, s.comm? slot c.comm = some d → d.ranks.findIdx? (fun r => r = s.myRank slot) = some me →
        ((c.chainFields d.ranks.length && s.chainPlaces c d.ranks.length me) = false → refused k) ∧
        (c.chainFields d.ranks.length = true → s.chainPlaces c d.ranks.length me = true →
          (s.inflight < 64 → exec k s = .next (s.startInput c slot (coll (readBytes s.hbm c.src (c.inBytes me)) c.count c.root) es)) ∧
          (64 ≤ s.inflight → exec k s = .next (s.setErr F.CHN_ERR_INFLIGHT_OVER (c.comm % 2) (some c.part)))))
    begins (.barrier ⟨id, es⟩) 0x70 ∧ begins (.allreduce ⟨id, es⟩) 0x71 ∧ begins (.reduce ⟨id, es⟩) 0x72 ∧ begins (.broadcast ⟨id, es⟩) 0x73 ∧
    begins (.reduceScatter ⟨id, es⟩) 0x74 ∧ begins (.allgather ⟨id, es⟩) 0x75 ∧
    (c.opc = 0x7C → c.chainFields c.count = true → s.chainPlaces c c.count 0 = true →
      let list := readBytes s.hbm c.src (4 * c.count)
      let ranks := (List.range c.count).map (fun i => leNat ((list.drop (4 * i)).take 4))
      let good := s.comm? slot c.comm = none ∧ c.comm ≠ 4095 ∧ ranks.Nodup ∧ (∀ r ∈ ranks, r < s.getF F.HUB_JOB_RANKS_COUNT 0 slot) ∧
        s.myRank slot ∈ ranks ∧ s.comms.length < 4096
      (¬ good → refused (.commCreate ⟨id, es⟩)) ∧
      (good → s.inflight < 64 → exec (.commCreate ⟨id, es⟩) s = .next (State.startInput
        { s with comms := s.comms ++ [{ slot := slot, num := c.comm, ranks := ranks, staging := some c.dst }] } c slot
        (coll list (leNat ((sha384 list).take 4)) c.count) es))) ∧
    (c.opc = 0x7D → ∀ d, s.comm? slot c.comm = some d →
      let good := c.chainFields d.ranks.length = true ∧ s.chainPlaces c 0 0 = true ∧ c.comm ≠ 0 ∧ c.comm ≠ 4095 ∧ ∀ k ∈ s.colls, ¬ (k.slot = slot ∧ k.comm = c.comm)
      (¬ good → refused (.commFree id)) ∧
      (good → ∃ rest : List Comm, (∀ e ∈ rest, ¬ (e.slot = slot ∧ e.num = c.comm)) ∧
        (∀ a b, (a, b) ≠ (slot, c.comm) → State.comm? { s with comms := rest } a b = s.comm? a b) ∧
        exec (.commFree id) s = .next ((State.writeDigestRecord { s with comms := rest } c.part c.collDigest (sha384 []) []).commitCmd c
          (if c.deadline ≠ 0 ∧ c.deadline ≤ s.cad then 0x20 else 0) 0 0 c.collDigest))) ∧
    (c.opc = 0x76 → ∀ d, s.comm? slot c.comm = some d → c.chainFields d.ranks.length = true → s.chainPlaces c 1 0 = true →
      let waits := ∃ k ∈ s.colls, k.slot = slot ∧ k.comm = c.comm ∧ seqBelow k.seq d.next = true
      let u := s.setCmd { c with phase := .running, unit := d.next }
      (waits → exec (.confirmWait id) s = .next u) ∧
      (¬ waits → exec (.confirmWait id) s = .next ((u.writeDigestRecord c.part c.collDigest (sha384 []) []).commitCmd
        { c with phase := .running, unit := d.next } (if c.deadline ≠ 0 ∧ c.deadline ≤ s.cad then 0x20 else 0) 0 0 c.collDigest)))

/-- R299, R306, R309, Table 11-3: a sound CHAIN or SYNC cell of an accepting job that is new is acknowledged and given to its collective by its phase, or
staged where the communicator or the collective has not yet started here; received again it changes nothing but the receive window. A staging word
that is uncorrectable, or a residue that differs, poisons the collective first. A collective not confirmed in time is poisoned, and one that stalls is
committed poisoned. R302: in the tree over the members of a communicator each member but the first is the child of exactly its parent, whose index is
its own with its lowest base-16 digit that is not zero made zero; a member has at most 15 children at each level. R303, R304, Table 03-4: one
combination of two elements is the operation in the element's format, to nearest; the identity of an integer operation leaves the other element. -/
def Obligations.CollectiveCells : Prop :=
  ((∀ (x : Cell) (w : ChainWords) (s s1 : State) (a : Arrival) (k : Instr) (phase : Nat),
     (k, phase) ∈ [(Instr.chainUp ⟨x, w⟩, 0), (.chainDown ⟨x, w⟩, 1), (.ringRs ⟨x, w⟩, 2), (.ringAg ⟨x, w⟩, 3), (.chunk ⟨x, w⟩, 4), (.chainReady ⟨x, w⟩, 5), (.confirmUp ⟨x, w⟩, 6),
       (.confirmDown ⟨x, w⟩, 7), (.chainEnd ⟨x, w⟩, 8)] →
     (x.type = 10 ∨ x.type = 11) → x.op.toNat = phase → s.receive x = (some a, s1) →
     let num := x.offset.toNat / 2 ^ 28
     let s2 := s1.markApplied a.die (flowOf x) x.seq.toNat true
     (a.dup = true → exec k s = .next (s2.addF F.HUB_DUP_CNT_COUNT 1 a.die)) ∧
     (a.dup = false →
       (s2.comm? a.slot num = none → exec k s = .next (State.addF { s2 with early := s2.early ++ [(a.slot, num, x)] } F.CHN_EARLY_CNT_COUNT 1 (num % 2))) ∧
       (∀ d, s2.comm? a.slot num = some d →
         ((∀ q ∈ s2.colls, ¬ (q.slot = a.slot ∧ q.comm = num ∧ q.seq % 256 = x.win.toNat)) → d.next % 256 = x.win.toNat →
           ∀ s3, (d.staging = none ∧ s3 = s2) ∨ (∃ b, d.staging = some b ∧ s2.fencedIn b ((Config.staged s2.fresh).take 1048576).length = false ∧
               s3 = State.hbmWrite { s2 with fresh := s2.fresh + 1 } b ((Config.staged s2.fresh).take 1048576)) →
             exec k s = .next (State.addF { s3 with early := s3.early ++ [(a.slot, num, x)] } F.CHN_EARLY_CNT_COUNT 1 (num % 2))) ∧
         (∀ q m me, s2.colls.find? (fun q => q.slot = a.slot && q.comm = num && q.seq % 256 = x.win.toNat) = some q →
           d.ranks.findIdx? (fun r => r = x.srcRank.toNat) = some m → d.ranks.findIdx? (fun r => r = s2.myRank a.slot) = some me →
           (w.staging ≠ .uncorrectable → w.residue = false → exec k s = .next (s2.collCell q m d.ranks me x)) ∧
           (∀ s3 q1, (w.residue = true ∧ w.staging ≠ .uncorrectable ∧ s3 = (s2.setErr F.CHN_ERR_RESIDUE q.die (s2.slotPart q.slot)).poison q) ∨
               (w.residue = false ∧ w.staging = .uncorrectable ∧
                 s3 = ((s2.setErr F.CHN_ERR_ECC_UE q.die (s2.slotPart q.slot)).jobFault q.slot .eccUe).poison q) →
             s3.colls.find? (fun q => q.slot = a.slot && q.comm = num && q.seq % 256 = x.win.toNat) = some q1 →
             exec k s = .next (s3.collCell q1 m d.ranks me x)))))) ∧
   (∀ (slot : BitVec 3) (comm : BitVec 12) (seq : BitVec 32) (s : State) (k : Coll) (d : Comm),
     s.coll? slot.toNat comm.toNat seq.toNat = some k → s.comm? slot.toNat comm.toNat = some d →
     (k.committed = true → 50000 + k.commitAt + (if k.ring then 0 else (treeLevels d.ranks.length).length * k.m / 133) ≤ s.now →
       exec (.confirmTimeout slot comm seq) s = .next (s.poison k)) ∧
     (k.committed = false → k.progress + 1000000 * s.getF F.CHN_CTRL_STALL_MS ≤ s.now → k.cmd = none →
       exec (.collectiveStall slot comm seq) s = .next (((s.poison k).setColl { k with committed := true, commitAt := s.now, poison := true }).collPump
         slot.toNat comm.toNat seq.toNat)))) ∧
  (∀ p : Nat, p ≤ 1048576 →
     (∀ i c, i < p → (c ∈ treeKids i p ↔ 0 < c ∧ c < p ∧ treeParent c = i)) ∧
     (∀ c, 0 < c → c < p → treeParent c < c ∧
       ∃ n, n < 5 ∧ 0 < c / 16 ^ n % 16 ∧ c % 16 ^ n = 0 ∧ treeParent c + 16 ^ n * (c / 16 ^ n % 16) = c) ∧
     (∀ i w, i < p → (treeKidsAt i p w).length ≤ 15)) ∧
  (∀ (a b : Nat), a < 2 ^ 64 → b < 2 ^ 64 →
     let sgn := fun (v : Nat) => (BitVec.ofNat 64 v).toInt
     ropNode 2 0 a b = ((a + b) % 2 ^ 64, false) ∧ ropNode 3 0 a b = ((a + b) % 2 ^ 64, false) ∧
     ropNode 2 1 a b = (if sgn a ≤ sgn b then a else b, false) ∧ ropNode 2 2 a b = (if sgn a ≤ sgn b then b else a, false) ∧
     ropNode 3 1 a b = (min a b, false) ∧ ropNode 3 2 a b = (max a b, false) ∧
     (∀ dt f, (dt, f) ∈ [(0, fp64), (1, fp32)] → (ropNode dt 0 a b).1 = (fpAdd f .rne a b).1 ∧ (ropNode dt 1 a b).1 = (fpMin f a b).1 ∧
       (ropNode dt 2 a b).1 = (fpMax f a b).1) ∧
     (∀ dt rop, 2 ≤ dt → dt ≤ 3 → rop ≤ 2 → (ropNode dt rop (ropIdent dt rop) a).1 = a ∧ (ropNode dt rop a (ropIdent dt rop)).1 = a))

/-- R339, R344 to R348: a frame, sampled value or telemetry record at an open port that a stream descriptor claims and whose header, length and check
agree is taken with its time and components; any other is dropped and counted. A port trains to LINK when enabled, and its loss is an error. R348,
R350: an accepted record is counted, and then misaligned, of no cut frame, early, late or written by where its time and its arrival lie. -/
def Obligations.FieldRecords : Prop :=
  (∀ (s : State),
     let dropped := s.addF F.FIO_DROP_CNT_COUNT 1
     let good := fun (x : FioStream) => x ∈ s.fio.streams
     (∀ (p : FieldPacket), s.portOpen p.port.toNat = true →
       let d := p.data
       let be := fun i n => beNat ((d.drop i).take n)
       let le := fun i n => leNat ((d.drop i).take n)
       let c37 := fun (x : FioStream) => x.kind = 1 && testBit x.ports p.port.toNat && x.id = be 4 2 && (x.srcIp = 0 || x.srcIp = p.srcIp.toNat)
       let tel := fun (x : FioStream) => x.kind = 3 && testBit x.ports p.port.toNat && x.sourceId = le 4 4 && (x.srcIp = 0 || x.srcIp = p.srcIp.toNat)
       (s.fioOn = false ∨ s.macOk p = false → exec (.c37DataFrame p) s = .next dropped ∧ exec (.telemetryRecord p) s = .next dropped) ∧
       (s.fioOn = true → s.macOk p = true →
         ((∀ x, good x → c37 x = false) → exec (.c37DataFrame p) s = .next dropped) ∧
         (∀ l x r, s.fio.streams = l ++ x :: r → (∀ y ∈ l, c37 y = false) → c37 x = true →
           let size := 16 + x.layout.foldl (fun a b => a + pmuBytes b) 0
           be 0 1 = 0xAA → be 1 1 = 1 ∨ be 1 1 = 2 → be 2 2 = size → d.length = size → be (size - 2) 2 = crcCcitt (d.take (size - 2)) →
           exec (.c37DataFrame p) s = .next (s.fioRecord l.length x p.port.toNat
             (1000000000 * (be 6 4 + s.getF F.CAD_UTC_OFFSET_SECONDS) + 1000000000 * (be 10 4 % 2 ^ 24) / x.timeBase) 0 (frameComps d 14 x.layout) p.ecc)) ∧
         (∀ l x r, s.fio.streams = l ++ x :: r → (∀ y ∈ l, tel y = false) → tel x = true → p.dstUdp.toNat = s.getF F.FIO_UDP_PORT_PORT →
           let c := le 20 4
           le 0 2 = 0xC5A1 → le 2 1 = 1 → 1 ≤ c → c ≤ 1024 → d.length = 36 + 8 * c → le (32 + 8 * c) 4 = crc32c (d.take (32 + 8 * c)) →
           le 16 4 + c ≤ x.comps →
           exec (.telemetryRecord p) s = .next (s.fioRecord l.length x p.port.toNat (le 8 8) (le 16 4) ((List.range c).map (fun k =>
             { val := if (fpVal fp64 (le (32 + 8 * k) 8)).isNan then none else some (le (32 + 8 * k) 8), timeBad := false, source := 0 })) p.ecc)))) ∧
     (∀ (p : SampledAsdu), s.portOpen p.port.toNat = true → s.fioOn = true →
       let sv := fun (x : FioStream) => x.kind = 2 && testBit x.ports p.port.toNat && x.id = p.appid.toNat && x.mac = p.dstMac.toNat
       let off := 1000000000 * p.smpCnt.toNat
       ((∀ x, good x → sv x = false) → exec (.sampledValueAsdu p) s = .next dropped) ∧
       (∀ l x r, s.fio.streams = l ++ x :: r → (∀ y ∈ l, sv y = false) → sv x = true → p.pairs.length = x.comps →
         exec (.sampledValueAsdu p) s = .next (s.fioRecord l.length x p.port.toNat
           (s.cad - (1000000000 + s.cad - off / x.rate % 1000000000) % 1000000000) 0 (p.pairs.map (fun e =>
             { val := if e.2.toNat % 4 = 1 then none else some (convIeee fp64 (.mode .rne) (intVal 32 e.1.toNat)).1, timeBad := p.smpSynch = 0
               source := e.2.toNat % 256 })) p.ecc))) ∧
     (∀ port : BitVec 1,
       let p := port.toNat
       let link := s.getF F.FIO_STAT_LINK
       (s.portOpen p = true → exec (.fieldFrameDrop port) s = .next dropped) ∧
       (s.powered = true → (s.getF F.FIO_CTRL_PORT_EN).testBit p = true → Completes (.fieldPortLinkUp port) s (fun s' =>
         (s'.getF F.FIO_STAT_LINK).testBit p = true ∧ (∀ b, b ≠ p → (s'.getF F.FIO_STAT_LINK).testBit b = link.testBit b) ∧ s'.hbm = s.hbm ∧ s'.fio = s.fio)) ∧
       (link.testBit p = true → Completes (.fieldPortLinkDown port) s (fun s' =>
         (s'.getF F.FIO_STAT_LINK).testBit p = false ∧ (∀ b, b ≠ p → (s'.getF F.FIO_STAT_LINK).testBit b = link.testBit b) ∧
         s'.getF F.FIO_ERR_LINK_DOWN = 1 ∧ s'.hbm = s.hbm ∧ s'.fio = s.fio)))) ∧
  (∀ (s : State) (i : Nat) (x : FioStream) (port time first : Nat) (comps : List FioComp) (es : List EccHit), s.time.frameNext ≠ none →
     let n := s.nearestFrame time
     let t := s.frameTick n
     let off := if time ≤ t then t - time else time - t
     let cut := s.fio.f0 ≤ n ∧ (n - s.fio.f0) % max 1 (s.getF F.FIO_CUT_PERIOD_P) = 0
     let s' := s.fioRecord i x port time first comps es
     let counts := fun (f : Fld) => s' = (s.addF F.FIO_RX_CNT_COUNT 1).addF f 1
     (s.getF F.FIO_ALIGN_TOL_NS < off → counts F.FIO_MISALIGN_CNT_COUNT) ∧
     (off ≤ s.getF F.FIO_ALIGN_TOL_NS →
       (¬ cut → s' = s.addF F.FIO_RX_CNT_COUNT 1) ∧
       (cut → s.cad < t → counts F.FIO_EARLY_CNT_COUNT) ∧
       (cut → t + s.getF F.FIO_WINDOW_NS ≤ s.cad → s' = (s.addF F.FIO_RX_CNT_COUNT 1).fioLate time n i port comps.length) ∧
       (cut → t ≤ s.cad → s.cad < t + s.getF F.FIO_WINDOW_NS → ∀ w, s.fio.wins.find? (fun w => !w.filling && w.start = t) = some w →
         s.slotState s.fioSlot = slotAccepting → s' = (s.addF F.FIO_RX_CNT_COUNT 1).fioMap w x comps first es)))

/-- R50, R53, R54, R63, Table 02-7: an instruction that a condition forbids halts its thread with the cause of Table 02-7 and has no other effect of its
own. One instruction for each cause, and a reserved field that is not zero for both formats. R63, Table 02-7: an error halts only its own thread: the
thread is HALTED with its cause and its registers as they were, the ERR bit of the cause is set, and no memory changes; where the partition marks the
error class fatal, the fault may leave HBM unspecified. R45, R87: an uncorrectable word of the instruction store as an instruction is fetched, of a
vector register that it reads, or of the scratchpad as it loads, is the cluster's fault. -/
def Obligations.ClusterErrors : Prop :=
  (∀ (c : BitVec 8) (t : BitVec 3) (i : SFmt) (v : VFmt) (s : State), s.canIssue c.toNat t.toNat = true → i.fetch ≠ .uncorrectable →
     let s1 := s.issued c.toNat t.toNat i.fetch
     let x := s.thr c.toNat t.toNat
     let a := (sOpA x i + sImm i).toNat
     let traps := fun (k : Instr) (cause : Nat) => exec k s = .next (s1.haltError c.toNat t.toNat cause)
     (i.rsv ≠ 0 → ∀ k ∈ [Instr.add c t i, .fadd c t i, .br c t i, .ldsD c t i .clean, .stsD c t i, .ldg c t i, .fence c t i, .halt c t i, .mclaim c t i, .mvgo c t i, .tqwait c t i], traps k 0x03) ∧
     (v.rsv ≠ 0 → v.fetch = i.fetch → v.regs ≠ .uncorrectable → ∀ k ∈ [Instr.vadd c t v, .vfadd c t v, .vld c t v .clean, .mma c t v .clean, .tqld c t v .clean], traps k 0x03) ∧
     (i.rsv = 0 →
       (a % 8 ≠ 0 → traps (.ldsD c t i .clean) 0x04 ∧ traps (.stsD c t i) 0x04 ∧ traps (.ldg c t i) 0x04 ∧ traps (.stg c t i) 0x04) ∧
       (a % 8 = 0 → 0x400000 ≤ a → traps (.ldsD c t i .clean) 0x05 ∧ traps (.stsD c t i) 0x05) ∧
       (a % 8 = 0 → a < 0x400000 → s1.spadReserved c.toNat a 8 = true → traps (.stsD c t i) 0x06) ∧
       ((s1.clu c.toNat).mtxOwner ≠ some t.toNat → traps (.mrel c t i) 0x07) ∧
       ((s1.clu c.toNat).tqOwner ≠ some t.toNat → traps (.tqrel c t i) 0x07 ∧ traps (.tqwait c t i) 0x07 ∧ traps (.tqpop c t i) 0x07) ∧
       ((s1.clu c.toNat).tqOwner = some t.toNat → (s1.clu c.toNat).tq = [] → traps (.tqpop c t i) 0x03) ∧
       (a % 8 = 0 → s1.checkSend (s1.partOfCluster c.toNat) a 8 .load = none → traps (.ldg c t i) 0x08) ∧
       (3 < (sImm i).toNat % 256 → traps (.waitc c t i) 0x03))) ∧
  (∀ (s : State) (c : BitVec 8) (t : BitVec 3) (cause : Nat), 3 ≤ cause → cause ≤ 8 →
     let s' := s.haltError c.toNat t.toNat cause
     (s'.thr c.toNat t.toNat).st = .halted ∧ (s'.thr c.toNat t.toNat).cause = cause ∧
     (s'.thr c.toNat t.toNat).pc = (s.thr c.toNat t.toNat).pc ∧ (s'.thr c.toNat t.toNat).sr = (s.thr c.toNat t.toNat).sr ∧
     (s'.thr c.toNat t.toNat).vr = (s.thr c.toNat t.toNat).vr ∧
     s'.getF ⟨.clu, 0x20, cause - 3, cause - 3⟩ c.toNat = 1 ∧
     s'.spad = s.spad ∧ s'.istore = s.istore ∧ s'.hostMem = s.hostMem ∧
     ((∀ p, s.partOfCluster c.toNat = some p → testBit (s.getF F.PRT_FATAL_CLASSES p) (cause - 3) = false) → s'.hbm = s.hbm)) ∧
  (∀ (c : BitVec 8) (t : BitVec 3) (i : SFmt) (v : VFmt) (s : State), s.canIssue c.toNat t.toNat = true →
     let faults := fun (k : Instr) (u : State) => exec k s = .next (u.clusterFault c.toNat .eccUe)
     (i.fetch = .uncorrectable → ∀ k ∈ [Instr.add c t i, .fadd c t i, .br c t i, .ldsD c t i .clean, .stsD c t i, .ldg c t i, .fence c t i, .mvgo c t i], faults k s) ∧
     (v.fetch = .uncorrectable ∨ v.regs = .uncorrectable → ∀ k ∈ [Instr.vadd c t v, .vfadd c t v, .vld c t v .clean, .tqld c t v .clean], faults k s) ∧
     (Issues s c t i → (sOpA (s.thr c.toNat t.toNat) i + sImm i).toNat < 0x400000 → faults (.ldsB c t i .uncorrectable) (s.issued c.toNat t.toNat i.fetch)) ∧
     ∀ u : State, let u' := u.clusterFault c.toNat .eccUe
       u'.getF F.CLU_STAT_FAULTED c.toNat = 1 ∧ (u'.clu c.toNat).faulted = true ∧
       ∀ n, n < 8 → (u'.thr c.toNat n).st = .off ∨ (u'.thr c.toNat n).st = .halted)

/-- R91, R52: the multiplier that a magnitude m · 2^e rounds to at the power q, where q > e: to nearest with ties to even, toward zero, upward, or
downward; and it is inexact exactly when the magnitude is no multiple of 2^q. R52, R90: FMIN and FMAX give the canonical quiet NaN when either operand
is a NaN, comparisons with a NaN are false, and FCVT.I gives zero and INVALID for a NaN. R33, R36, R45, R66: issuing an instruction counts it in
ISSUE_CNT, a change of the issuing thread in SWITCH_CNT, and the corrected words that it was fetched from in ECC_STAT, and changes nothing else but
what the cluster's scheduler keeps. R36, R52, R61: a bound thread that is ready is selected; else the thread that issued last, until it made a remote
access or yielded, or spent its quantum while another is ready; else the first ready thread in cyclic order after it. R34, R49: operand B is SB, or
under IMS the immediate, sign-extended, or the extension word; s0 reads zero and ignores writes. R68, R69: an element is active when its index is
below min(VL, VLMAX) and its bit of the governing predicate, inverted under PN, is 1; p0 reads as all ones. VLMAX is 2,048 bits over the element
width. R43, R59, R109: a plain write to a scratchpad changes exactly its bytes: every other byte of every scratchpad, the checksums, and every other
piece of state but the threads is as before; a thread of the cluster changes only when it waits in WAITM for a word of a written line, and then only
by being marked. -/
def Obligations.ScalarProperties : Prop :=
  (∀ (neg : Bool) (m : Nat) (e q : Int), e < q →
     let u := 2 ^ (q - e).toNat
     let k := fun rm => (roundAt rm neg m e q).1
     (∀ rm, (roundAt rm neg m e q).2 = decide (m % u ≠ 0)) ∧
     (2 * (k .rne * u) ≤ 2 * m + u ∧ 2 * m ≤ 2 * (k .rne * u) + u ∧
       ((2 * (k .rne * u) = 2 * m + u ∨ 2 * m = 2 * (k .rne * u) + u) → k .rne % 2 = 0)) ∧
     (k .rtz * u ≤ m ∧ m < (k .rtz + 1) * u) ∧
     (neg = false → m ≤ k .rup * u ∧ k .rup * u < m + u) ∧ (neg = true → k .rup = k .rtz) ∧
     (neg = true → m ≤ k .rdn * u ∧ k .rdn * u < m + u) ∧ (neg = false → k .rdn = k .rtz)) ∧
  (∀ (a b : Nat), ((fpVal fp64 a).isNan = true ∨ (fpVal fp64 b).isNan = true) →
     (fpMin fp64 a b).1 = 0x7FF8000000000000 ∧ (fpMax fp64 a b).1 = 0x7FF8000000000000 ∧
     (fpEq fp64 a b).1 = false ∧ (fpLt fp64 a b).1 = false ∧ (fpLe fp64 a b).1 = false ∧
     (∀ rm, (fpVal fp64 a).isNan = true → convInt 64 (.mode rm) (fpVal fp64 a) = (0, 1)) ∧
     (∀ rm, (fpAdd fp64 rm a b).1 = 0x7FF8000000000000 ∧ (fpMul fp64 rm a b).1 = 0x7FF8000000000000 ∧
       (fpDiv fp64 rm a b).1 = 0x7FF8000000000000)) ∧
  (∀ (s : State) (c t : Nat) (e : Ecc) (x : Thread), c < 256 → t < 8 →
     let s1 := s.issued c t e
     ThreadFrame s (s1.setThr c t x) c t ∧ (s1.setThr c t x).thr c t = x ∧
     s1.getF F.CLU_SWITCH_CNT_COUNT c =
       (if (s.clu c).lastIssue = t then s.getF F.CLU_SWITCH_CNT_COUNT c else (s.getF F.CLU_SWITCH_CNT_COUNT c + 1) % 2 ^ 64) ∧
     s1.getF F.CLU_ECC_STAT_ISTORE_CE c =
       (if eccWords e = [] then s.getF F.CLU_ECC_STAT_ISTORE_CE c else min (s.getF F.CLU_ECC_STAT_ISTORE_CE c + (eccWords e).length) (2 ^ 32 - 1))) ∧
  (∀ (s : State) (c : Nat),
     let k := s.clu c
     let p := k.lastIssue
     let ready := s.threadReady c
     let others := ∃ t, t < 8 ∧ t ≠ p ∧ ready t = true
     let stays := ready p = true ∧ k.lastRemote = false ∧ k.yielded = false ∧ (k.runLen < s.getF F.CLU_SCHED_QUANTUM c ∨ ¬ others)
     (s.boundThread c 7 = true → ready 7 = true → s.nextThread c (fun _ => true) = some 7) ∧
     (¬ (s.boundThread c 7 = true ∧ ready 7 = true) →
       (stays → s.nextThread c (fun _ => true) = some p) ∧
       (¬ stays → s.nextThread c (fun _ => true) = ((List.range 8).map (fun n => (p + 1 + n) % 8)).find? ready))) ∧
  (∀ (x : Thread) (i : SFmt),
     (i.ims = false → sOpB x i = x.rd i.sb.toNat) ∧
     (i.ims = true → i.ext = none → (sOpB x i).toInt = i.imm.toInt) ∧
     (∀ w, i.ims = true → i.ext = some w → sOpB x i = w) ∧
     (∀ w, i.ext = some w → sImm i = w ∧ sWords i = 2) ∧ (i.ext = none → (sImm i).toInt = i.imm.toInt ∧ sWords i = 1) ∧
     x.rd 0 = 0 ∧ (∀ v, x.wr 0 v = x)) ∧
  (∀ (x : Thread) (i : VFmt) (k : Nat),
     (active x i k = true ↔ k < min x.vl (vlMax i.ew.toNat) ∧ (((x.rdP i.pg.toNat).testBit k = true) ↔ i.pn = false)) ∧
     ewWidth i.ew.toNat * vlMax i.ew.toNat = 2048 ∧ (k < 256 → (x.rdP 0).testBit k = true)) ∧
  (∀ (s : State) (c a : Nat) (bs : List Byte), a + bs.length ≤ 0x400000 →
     let s' := s.spadWrite c a bs
     readBytes s'.spad (0x400000 * c + a) bs.length = bs ∧
     (∀ k, (k < 0x400000 * c + a ∨ 0x400000 * c + a + bs.length ≤ k) → readByte s'.spad k = readByte s.spad k) ∧
     { s' with spad := s.spad, threads := s.threads } = s ∧
     (∀ c' t', c' ≠ c → t' < 8 → s'.thr c' t' = s.thr c' t') ∧
     (∀ t', t' < 8 → s'.thr c t' = s.thr c t' ∨
       ∃ w v b, (s.thr c t').wait = .word w v b ∧ a / 64 ≤ w / 64 ∧ w / 64 ≤ (a + bs.length - 1) / 64 ∧
         s'.thr c t' = { s.thr c t' with wait := .word w v true }))

/-- R116, R120, R118, R122, R55: the oldest matrix operation of a cluster, with correct operands, leaves the engine and has its effect on the
accumulators: MZERO clears the tile; MLDA fills it from its rows; MSTA writes and seals its rows; MPUSH makes the tile's entry wait for the tile
queue; MMA replaces each element of the rows and columns it covers by the defined dot product that starts from it, and leaves every other element. An
FP64X2 element is its pair. -/
def Obligations.MatrixOperationEnds : Prop :=
  ∀ (c : BitVec 8) (s : State) (t : Nat) (o : MtxOp) (rest : List (Nat × MtxOp)),
    (s.clu c.toNat).mops = (t, o) :: rest → (s.clu c.toNat).pushPend = [] → (s.clu c.toNat).faulted = false →
    let k := s.clu c.toNat
    let at_ := fun (r j : Nat) => r < 16 ∧ j < 24
    let el := fun (k : Cluster) (d r j : Nat) => spGet 0 k.acc (1024 * d + 32 * r + j)
    let same := fun (k' : Cluster) (ds : Nat → Prop) => ∀ d r j, ¬ ds d → at_ r j → el k' d r j = el k d r j
    let ends := fun (P : State → Cluster → Prop) => ∀ e, e ≠ .uncorrectable → Completes (.matrixOpComplete c e) s (fun s' =>
      (s'.clu c.toNat).mops = rest ∧ s'.hbm = s.hbm ∧ (e = .clean → s'.regs = s.regs) ∧ P s' (s'.clu c.toNat))
    let sum := fun (row : Nat) => 0x400000 * c.toNat + row
    exec (.matrixOpComplete c .uncorrectable) s = .next (s.mtxFaultOf c.toNat (mtxAccs o) .eccUe) ∧
    (∀ d code, o = .zero d code → ends (fun s' k' => s'.spad = s.spad ∧
      (∀ r j, at_ r j → el k' d r j = 0 ∧ (code = 2 → el k' (d + 1) r j = 0)) ∧ same k' (fun e => e = d ∨ (code = 2 ∧ e = d + 1)))) ∧
    (∀ d code a st, o = .load d code a st → code < 2 → (∀ r < 16, s.spadVerify c.toNat (a + r * st) (24 * accBytes code) = true) →
      ends (fun s' k' => s'.spad = s.spad ∧
        (∀ r j, at_ r j → el k' d r j = BitVec.ofNat 64 (readLe s.spad (sum (a + r * st + j * accBytes code)) (accBytes code))) ∧
        same k' (fun e => e = d))) ∧
    (∀ d a st, o = .load d 2 a st → (∀ r < 16, s.spadVerify c.toNat (a + r * st) 384 = true) →
      ends (fun s' k' => s'.spad = s.spad ∧
        (∀ r j, at_ r j →
          let p := (pairNorm (readLe s.spad (sum (a + r * st + j * 16)) 8) (readLe s.spad (sum (a + r * st + j * 16 + 8)) 8)).1
          el k' d r j = BitVec.ofNat 64 p.1 ∧ el k' (d + 1) r j = BitVec.ofNat 64 p.2) ∧
        same k' (fun e => e = d ∨ e = d + 1))) ∧
    (∀ d code a st, o = .store d code a st → code ≤ 2 → 24 * accBytes code ≤ st →
      ends (fun s' k' => k'.acc = k.acc ∧ k'.accFmt = k.accFmt ∧
        (∀ r j, at_ r j → code < 2 →
          readLe s'.spad (sum (a + r * st + j * accBytes code)) (accBytes code) = (el k d r j).toNat % 2 ^ (8 * accBytes code)) ∧
        (∀ r j, at_ r j → code = 2 → readLe s'.spad (sum (a + r * st + j * 16)) 8 = (el k d r j).toNat ∧
          readLe s'.spad (sum (a + r * st + j * 16 + 8)) 8 = (el k (d + 1) r j).toNat) ∧
        (∀ m, (∀ r < 16, m < sum (a + r * st) ∨ sum (a + r * st) + 24 * accBytes code ≤ m) → readByte s'.spad m = readByte s.spad m))) ∧
    (∀ d tag fmt, o = .push d tag fmt → ends (fun s' k' => s'.spad = s.spad ∧ k'.acc = k.acc ∧ ∃ e, k'.pushPend = [(t, e)] ∧
      e.acc = d ∧ e.tag = tag ∧ e.fmt = fmt ∧ e.rows = 16 ∧ e.cols = 24 ∧
      (∀ r j, at_ r j → fmt = 1 → leNat ((e.data.drop (8 * (24 * r + j))).take 8) = (el k d r j).toNat) ∧
      (∀ r j, at_ r j → fmt = 2 → leNat ((e.data.drop (4 * (24 * r + j))).take 4) = (el k d r j).toNat % 2 ^ 32))) ∧
    (∀ d w0 w1 w2 w3, o = .mma d w0 w1 w2 w3 (s.mmaReads c.toNat (mmaDesc w0 w1 w2 w3)) →
      let m := mmaDesc w0 w1 w2 w3
      let rowA := fun r => readLe s.spad (sum (m.aAddr + r * m.aStride)) (rowBytes m.aFmt m.k)
      let colB := fun j => readLe s.spad (sum (m.bAddr + j * m.bStride)) (rowBytes m.bFmt m.k)
      m.rows ≤ 16 → m.cols ≤ 24 → m.push = false →
      (∀ a ∈ m.aRows, s.spadVerify c.toNat a (rowBytes m.aFmt m.k) = true) → (∀ a ∈ m.bCols, s.spadVerify c.toNat a (rowBytes m.bFmt m.k) = true) →
      ends (fun s' k' => s'.spad = s.spad ∧ k'.pushPend = [] ∧ k'.accFmt = k.accFmt ∧
        (m.x2 = false → ∀ q, q < m.n → ∀ r j, r < m.rows → j < m.cols → el k' (d + q) r j = BitVec.ofNat 64
          (if isMx m.aFmt then dotMx (el k (d + q) r j).toNat (mxOperand m.aFmt m.k (rowA (16 * q + r))) (mxOperand m.bFmt m.k (colB j))
           else dotIeee (if m.aFmt = 0 then fp64 else fp32) (if m.aFmt = 2 then 16 else 4) (el k (d + q) r j).toNat
             ((ieeeOperand m.aFmt m.k (rowA (16 * q + r))).zip (ieeeOperand m.bFmt m.k (colB j)))).1) ∧
        (m.x2 = true → ∀ q, q < m.n → ∀ r j, r < m.rows → j < m.cols →
          let p := (dotPair ((el k (d + 2 * q) r j).toNat, (el k (d + 2 * q + 1) r j).toNat)
            ((ieeeOperand 0 m.k (rowA (16 * q + r))).zip (ieeeOperand 0 m.k (colB j)))).1
          el k' (d + 2 * q) r j = BitVec.ofNat 64 p.1 ∧ el k' (d + 2 * q + 1) r j = BitVec.ofNat 64 p.2) ∧
        (∀ e r j, at_ r j → (m.rows ≤ r ∨ m.cols ≤ j ∨ e < d ∨ d + m.span * m.n ≤ e) → el k' e r j = el k e r j)))

/-- R111, R219 to R222, R225, R226, R228: an idle mover whose next descriptor names the operation takes it, once the stacks it needs are ready. Where a
check of its fields, its index list or its places fails the descriptor is over and bad and nothing moves; a checksum that does not match and an
uncorrectable word are faults. A source in scratchpad or HBM, with its tiles correct, is read and written at once; one in host memory is asked for by
lines; one at a fabric address is loaded by lines. R228: however its reads come in, a tile mover keeps at most 64 of them in flight, and a bulk
channel 1,024. -/
def Obligations.MoverOperations : Prop :=
  (∀ (m : Mover) (es : List EccHit) (s : State) (ws : List Word) (addr : Nat),
     let d := mdesc ws
     let near := (∃ c t, m = .tile c t) ∨ addr.testBit 63 = true
     let own := eccOn es true [(addr, 64)]
     s.movHeld m = false → s.movRun m = none → s.movNext m = some (ws, addr) → s.movReady (s.movWho m) d = true →
     (near ∨ (s.fencedIn addr 64 = false ∧ s.hbmVerify addr 64 = true ∧ eccBad own = false)) →
     ∃ s0 : State, (near → s0 = s) ∧ (¬ near → s0 = (s.memRead .tile addr 64).eccHits own) ∧
     let w := s0.movWho m
     let run := { desc := ws, descAddr := addr, isOver := false, seq := s0.movNumber m : MovRun }
     let u := s0.movCounted m
     let v := (u.movTouch w d).eccHits (u.movHits w d es)
     let takes := fun (s' : State) => (d.op = 1 → exec (.moverCopy ⟨m, es⟩) s = .next s') ∧ (d.op = 2 → exec (.moverGather ⟨m, es⟩) s = .next s') ∧
       (d.op = 3 → exec (.moverScatter ⟨m, es⟩) s = .next s') ∧ (d.op = 4 → exec (.moverSeal ⟨m, es⟩) s = .next s') ∧
       (d.op = 0 ∨ 4 < d.op → ∀ k ∈ [Instr.moverCopy ⟨m, es⟩, .moverGather ⟨m, es⟩, .moverScatter ⟨m, es⟩, .moverSeal ⟨m, es⟩], exec k s = .next s')
     let over_ := takes (u.setMovRun m (some { run with bad := true, isOver := true }))
     let idxOk := u.anyFenced (idxSpace d) d.idxAddrs = false ∧ u.movVerify w (idxSpace d) d.idxAddrs = true
     (u.movFields w d = false → over_) ∧
     (u.movFields w d = true → u.anyFenced (idxSpace d) d.idxAddrs = false → u.movVerify w (idxSpace d) d.idxAddrs = false → takes (u.movFault m .tileCheck)) ∧
     (u.movFields w d = true → idxOk → u.movCheck w d = false → over_) ∧
     (u.movFields w d = true → idxOk → u.movCheck w d = true → u.anyFenced d.srcSpace d.srcAddrs = false → (d.op = 2 → u.anyFenced 2 (u.wordAddrs w d) = false) →
       (eccBad (u.movHits w d es) = true → takes (v.movFault m .eccUe)) ∧
       (eccBad (u.movHits w d es) = false →
         (v.movVerify w d.srcSpace d.srcAddrs = false → takes (v.movFault m .tileCheck)) ∧
         (v.movVerify w d.srcSpace d.srcAddrs = true →
           (d.srcAddrs = [] ∨ (d.srcSpace ≠ 3 ∧ d.srcSpace ≠ 5) → takes (v.movFinish m run false)) ∧
           (d.srcAddrs ≠ [] → d.srcSpace = 5 →
             let lines := linesOf d.srcAddrs
             takes (lines.foldl (fun u a => u.emit (.hostRead ((w.part.bind s.partLink).getD 0) a 64))
               (v.setMovRun m (some { run with loads := lines.map (fun a => ⟨a, 64, none⟩), hostAt := some s.now })))) ∧
           (d.srcAddrs ≠ [] → d.srcSpace = 3 → takes (v.movFeed m { run with loads := (linesOf d.srcAddrs).map (fun a => ⟨a, 64, none⟩) })))))) ∧
  (∀ (m : Mover) (n : Nat) (r r' : MovRun) (s s' : State),
     let depth := match m with | .tile _ _ => 64 | .bulk _ => 1024
     let flying := fun (r : MovRun) => ((r.loads.take r.sent).filter (fun p => p.data.isNone)).length
     flying r ≤ depth → State.movLoads m n r s = (some r', s') → flying r' ≤ depth)

/-- R109, R221, R48: what a transfer whose source is at hand leaves. COPY writes the bytes of its source at the addresses of its destination in order, a
GATHER the words its indices name, a SCATTER of stores its words at the addresses its indices name; each tile written is sealed, in HBM and in
scratchpads, and words written to an instruction store wait for IFENCE; SEAL reseals and moves nothing. -/
def Obligations.MoverTransfers : Prop :=
  ∀ (m : Mover) (s : State) (r : MovRun),
    let d := mdesc r.desc
    let w := s.movWho m
    let s' := s.movFinish m r false
    let src := if d.op = 2 then (s.wordAddrs w d).flatMap (fun a => readBytes s.hbm a 8) else d.srcAddrs.map (s.placeByte w d.srcSpace)
    let put := fun (key : Nat → Nat) (l : List (Nat × Byte)) (mem : Memory) => l.foldl (fun (u : Memory) x => writeByte u (key x.1) x.2) mem
    let sums := fun (l : List Nat) => ∀ t, spGet 0 s'.hbmSum t = if l.any (fun a => a / 4096 = t) then tileSum s'.hbm t else spGet 0 s.hbmSum t
    let ended := ∃ r', s'.movRun m = some r' ∧ r'.isOver = true ∧ r'.bad = false ∧ r'.desc = r.desc
    ((d.op = 1 ∧ d.srcSpace ≠ 3 ∧ d.srcSpace ≠ 5) ∨ d.op = 2 →
      let l := if d.conv then (d.output src).1 else d.dstAddrs.zip src
      (d.dstSpace = 2 → (∀ x ∈ l, s.fencedAt x.1 = false) →
        ended ∧ s'.hbm = put id l s.hbm ∧ s'.spad = s.spad ∧ s'.hostMem = s.hostMem ∧ sums (l.map Prod.fst)) ∧
      (∀ c, w.own = some c → d.dstSpace = 0 → ended ∧ s'.spad = put (fun a => 0x400000 * c + a) l s.spad ∧ s'.hbm = s.hbm ∧ s'.hostMem = s.hostMem ∧
        (∀ x ∈ l, spGet 0 s'.spadSum (1024 * c + x.1 / 4096) = tileSum s'.spad (1024 * c + x.1 / 4096))) ∧
      (∀ c, w.own = some c → d.dstSpace = 1 → ended ∧ (s'.clu c).stale = ((l.foldl (fun u x => u.istoreByte c x.1 x.2) s).clu c).stale ∧
        s'.istore = s.istore ∧ s'.spad = s.spad ∧ s'.hbm = s.hbm ∧ s'.hostMem = s.hostMem) ∧
      (d.dstSpace = 4 → ended ∧ s'.spad = put id l s.spad ∧ s'.hbm = s.hbm ∧ s'.hostMem = s.hostMem) ∧
      (d.dstSpace = 5 → ended ∧ s'.hostMem = put (fun a => 2 ^ 64 * ((w.part.bind s.partLink).getD 0) + a) l s.hostMem ∧ s'.hbm = s.hbm ∧ s'.spad = s.spad)) ∧
    (d.op = 3 → d.nop = 1 → d.srcSpace ≠ 3 → d.srcSpace ≠ 5 →
      let l := ((s.wordAddrs w d).zip (chunks 8 (src.length + 1) src)).filter (fun x => x.2.length = 8)
      (∀ x ∈ l, s.fencedAt x.1 = false) →
      ended ∧ s'.hbm = l.foldl (fun u x => writeBytes u x.1 x.2) s.hbm ∧ s'.hbmSum = s.hbmSum ∧ s'.spad = s.spad) ∧
    (d.op = 4 → (∀ a ∈ d.dstAddrs, s.fencedAt a = false) → ended ∧ s'.hbm = s.hbm ∧ s'.spad = s.spad ∧ sums d.dstAddrs)

/-- R59, R223, R226, R227, R229, R234, R236: a descriptor that is over, with its stores acknowledged where it is a barrier, leaves its mover: a tile mover
writes its record, counts it and takes its next; a bulk channel counts it, and reports it where it is bad. Host reads come in by lines, or time out
after 50 ms. MOVE begins its chain on the channel that accepted it; past its deadline it stops at a boundary. -/
def Obligations.MoverEnds : Prop :=
  (∀ (c : BitVec 8) (t : BitVec 2) (s : State) (r : MovRun), s.movRun (.tile c t) = some r → r.isOver = true →
    ((mdesc r.desc).barrier = false ∨ r.stores = 0) →
    let d := mdesc r.desc
    let writes := (d.rec_ = true ∨ r.bad = true) ∧ d.recAddr % 32 = 0 ∧ s.spadReserved c.toNat d.recAddr 32 = false
    Completes (.descriptorEnd (.tile c t)) s (fun s' =>
      (s'.tileMover c.toNat t.toNat).run = none ∧
      ((s.clu c.toNat).waiters = [] → (s'.tileMover c.toNat t.toNat).q = (s.tileMover c.toNat t.toNat).q.tail) ∧
      s'.getF (tmDone t.toNat) c.toNat = (s.getF (tmDone t.toNat) c.toNat + 1) % 2 ^ 32 ∧ s'.hbm = s.hbm ∧
      (writes → s'.spad = writeBytes s.spad (0x400000 * c.toNat + d.recAddr) (recordBytes (if r.bad then 0x10 else 0) 0 (recordFlags r.flags)
        d.tag (2 ^ 31 + 2 ^ 28 * t.toNat) s.cad 0 0)) ∧
      (¬ writes → s'.spad = s.spad))) ∧
  (∀ (ch : BitVec 6) (s : State) (r : MovRun), s.movRun (.bulk ch) = some r → r.isOver = true → ((mdesc r.desc).barrier = false ∨ r.stores = 0) →
    let b := s.bulkCh ch.toNat
    let s1 := s.addF F.MOV_DESC_CNT_COUNT 1 ch.toNat
    let p := (s.movWho (.bulk ch)).part
    (r.bad = false → exec (.descriptorEnd (.bulk ch)) s = .next ((s1.setBulk ch.toNat { b with run := none, idx := b.idx + 1 }).bulkBoundary ch.toNat)) ∧
    (r.bad = true → exec (.descriptorEnd (.bulk ch)) s = .next ((((((s1.addF F.MOV_BAD_CNT_COUNT 1 ch.toNat).setF F.MOV_LAST_BAD_ADDR r.descAddr
      ch.toNat).setErr F.MOV_ERR_DESC_BAD ch.toNat p).writeStatus (p.getD 0) r.descAddr).setBulk ch.toNat
      { b with run := none, idx := b.idx + 1, bad := b.bad + 1 }).bulkBoundary ch.toNat))) ∧
  (∀ (m : Mover) (s : State) (r : MovRun) (t : Nat), s.movRun m = some r → r.hostAt = some t →
    let key := fun a => 2 ^ 64 * (((s.movWho m).part.bind s.partLink).getD 0) + a
    (∀ l p q, r.loads = l ++ p :: q → (∀ e ∈ l, e.data ≠ none) → p.data = none →
      let r1 := { r with loads := l ++ { p with data := some (readBytes s.hostMem (key p.off) 64) } :: q, hostAt := some s.now }
      ((∃ e ∈ q, e.data = none) → exec (.hostCompletion m true) s = .next (s.setMovRun m (some r1))) ∧
      ((∀ e ∈ q, e.data ≠ none) → exec (.hostCompletion m true) s = .next (s.movFinish m r1 false))) ∧
    exec (.hostCompletion m false) s = .next (s.movHostErr m r) ∧
    (50000000 + t ≤ s.now → exec (.hostTimeout m) s = .next (s.movHostErr m r))) ∧
  (∀ (id : Nat) (s : State) (c : Cmd), s.cmd? id = some c → c.opc = 0x60 →
    let b := s.bulkCh c.engine
    (c.phase = .started → s.moveOk c = true → b.cmd = some id → exec (.move id) s = .next (((((s.setCmd { c with phase := .running, unit := c.engine }).setBulk
      c.engine { b with addr := c.num 24 8, idx := 0, count := c.num 40 4, bad := 0, flags := 0 }).setF F.MOV_CUR_TAG c.tag c.engine).setF
      F.MOV_CUR_QUEUE c.queue c.engine))) ∧
    (c.phase = .started → s.moveOk c = false → b.cmd ≠ some id → exec (.move id) s = .next (s.setCmd { c with phase := .ended, status := 0x10 })) ∧
    (c.phase = .running → c.deadline ≠ 0 → c.deadline ≤ s.cad →
      ((s.bulkCh c.unit).run ≠ none → exec (.moveDeadline id) s = .next (s.setCmd { c with late := true })) ∧
      ((s.bulkCh c.unit).run = none → exec (.moveDeadline id) s = .next ((s.setCmd { c with late := true }).bulkBoundary c.unit))))

/-- R138, R141, R142, R143, R162, R181: an idle channel takes the command whose turn it is; a SOLVE that holds its channel and passes its checks begins;
one that fails check 1, 2 or 3 ends DESC_BAD, or check 4 PATTERN_MISMATCH, and what it meets as it reads its areas is a fault; DIGEST writes the
pattern digest into the matrix descriptor; a command past its deadline is marked late. -/
def Obligations.SolverCommands : Prop :=
  ∀ (id : Nat) (es : List EccHit) (s : State) (c : Cmd), s.cmd? id = some c →
    let s0 := s.takeIfNext c.engine c
    let k := s0.chan c.engine
    let q := solveParams c.block
    (c.phase = .started → c.opc = 0x50 → s.heldQueue c.queue = false →
      (s.partOfSlv c.engine ≠ some c.part → exec (.solve ⟨id, es⟩) s = .next (s.solveRefuse c c.block 0x10 5)) ∧
      (s.partOfSlv c.engine = some c.part → k.holder = some id → k.stage = slvChecks →
        let fit := s0.solveCheck1 c = true ∧ s0.solveCheck2 c = true ∧ s0.solveCheck3 c = true
        (¬ fit → exec (.solve ⟨id, es⟩) s = .next (s0.solveRefuse c c.block 0x10 5)) ∧
        (fit → readBytes s0.hbm (q.sched + 8) 16 ≠ readBytes s0.hbm (q.mat + 48) 16 → exec (.solve ⟨id, es⟩) s = .next (s0.solveRefuse c c.block 0x25 5)) ∧
        (fit → readBytes s0.hbm (q.sched + 8) 16 = readBytes s0.hbm (q.mat + 48) 16 →
          let c1 := { c with outs := s0.solveOuts q }
          let s1 := s0.chanReads es (s0.solveReads q)
          let tau := if q.flags.testBit 1 then s0.getF F.SLV_TAU_TAU c.engine else q.tau
          let w := s0.warmCase q tau
          (∀ f, s0.readFault es (s0.solveReads q) = some f → exec (.solve ⟨id, es⟩) s = .next ((s1.setCmd c1).slvFault c.engine c1 f)) ∧
          (s0.readFault es (s0.solveReads q) = none → exec (.solve ⟨id, es⟩) s =
            .next ((s1.setCmd { c1 with phase := .running, unit := c.engine }).setChan c.engine
              { s1.chan c.engine with stage := slvIterating, params := c.block, warm := w.1, reuse := w.2.2, tau := tau, lateEarly := c.pastDeadline s.cad
                                      multi := (s0.schedHdr q.sched).ranks ≠ 1, areas := s0.copyAreas (s0.solveRanges q w.2.1)
                                      inDigest := if c.digestAddr = 0 then [] else sha384 (s0.solveInput c.block q w.2.1) }))))) ∧
    (c.phase = .started → c.opc = 0x51 → s.partOfSlv c.engine = some c.part → (isBatchCh c.engine = true → s.rtPriv c.engine = true) → k.holder = some id →
      s0.chanOk c.engine c.part = true → s0.matOk c.part c.param true = true →
      let m := s.matDesc c.param
      s0.readFault es [(c.param, 64), (m.rowPtr, 4 * (m.n + 1)), (m.colIdx, 4 * m.nnz)] = none →
      Completes (.digest ⟨id, es⟩) s (fun s' =>
        readBytes s'.hbm (c.param + 48) 16 = (sha384 (natLe 8 m.n ++ natLe 8 m.halo ++ natLe 8 m.nnz ++ readBytes s.hbm m.rowPtr (4 * (m.n + 1)) ++
          readBytes s.hbm m.colIdx (4 * m.nnz))).take 16 ∧
        (∀ a, (a < c.param + 48 ∨ c.param + 64 ≤ a) → readByte s'.hbm a = readByte s.hbm a) ∧
        (∀ t ∈ tilesOf (c.param + 48) 16, spGet 0 s'.hbmSum t = tileSum s'.hbm t) ∧
        s'.cmds = (s.setCmd { c with phase := .ended, status := 0 }).cmds ∧ (s'.chan c.engine).holder = none ∧
        (∀ a, (∀ b ∈ s.boundClusters c.engine, a < 0x400000 * b + s.spadLimit b ∨ 0x400000 * (b + 1) ≤ a) → readByte s'.spad a = readByte s.spad a))) ∧
    (∀ ch : BitVec 6, (s.chan ch.toNat).holder = none → s.nextForChannel ch.toNat = some c → c.isBatch = false →
      let x := s.chan ch.toNat
      let u := (s.boundClusters ch.toNat).foldl (State.launchThread7 c.opc) ((s.setChan ch.toNat
        { holder := some c.id, stage := slvChecks, start := s.cad, busyAt := if x.stage = slvIdle then s.cad else x.busyAt }).addF
        F.SLV_LAUNCH_CNT_COUNT 1 ch.toNat)
      exec (.solveStart ch) s = .next (if ch.toNat = c.engine then (u.setF F.SLV_CUR_TAG c.tag ch.toNat).setF F.SLV_CUR_ITER 0 ch.toNat else u)) ∧
    (c.isSolver = true → c.phase = .started ∨ c.phase = .running → c.deadline ≠ 0 → c.deadline ≤ s.cad →
      exec (.solveDeadline id) s = .next (s.setCmd { c with late := true }))

/-- R61, R165, R169, R170, R171, R175, R177, R180: a batch command takes its channels together once it holds every one of them; past its checks each free
slot takes the lowest system not started; a system that ends, its areas as they were, writes its solution and its status entry, counts itself and lets
its slot take the next; with no slot at work the command writes its report, frees its channels and commits the status of its first bad system. R177:
the status of a batch is ABORTED where it was aborted, else DEADLINE_MISSED where a system was cut off by the deadline, else that of the lowest-
numbered system that did not end with a solution, else success. -/
def Obligations.BatchCommands : Prop :=
  (∀ (id : Nat) (es : List EccHit) (s : State) (c : Cmd), s.cmd? id = some c →
     let q := batchParams c.block
     let waits := s.waitChannels c
     let offered := waits.foldl State.offerChannel s
     let starts := fun (k : Instr) (opc : Nat) => c.phase = .started → c.opc = opc → s.heldQueue c.queue = false →
       let mine := (s.chan c.engine).holder
       (s.batchMayWait c = false → s.partOfSlv c.engine ≠ some c.part ∨ mine = none ∨ mine = some id → exec k s = .next (s.batchRefuse c 0x10)) ∧
       (s.batchMayWait c = true → mine = some id → (s.chan c.engine).stage = slvChecks →
         let fit := s.batchCheck1 c = true ∧ s.batchCheck2 c = true ∧ s.batchCheck3 c = true
         (¬ fit → exec k s = .next (s.batchRefuse c 0x10)) ∧ (fit → s.batchCheck4 c = false → exec k s = .next (s.batchRefuse c 0x25)) ∧
         (fit → s.batchCheck4 c = true → c.pastDeadline s.cad = false →
           s.readFault es (if opc = 0x53 then [(q.sched, (s.batchHdr q.sched).total), (q.mat, 64)] else []) = none →
           Completes k s (fun s' => ∃ r, s'.batchOf id = some r ∧
             r.next = min (s.batchSlots c).length q.count ∧ r.slots.length = r.next ∧
             (∀ i u v, i < r.next → (s.batchSlots c)[i]? = some (u, v) → r.slots[i]? = some (u, v, i)) ∧
             r.free = (s.batchSlots c).drop r.next ∧ r.ends = [] ∧ r.lead = c.engine ∧
             s'.cmds = (s.setCmd { c with phase := .running, unit := c.engine, outs := batchOuts q, late := false }).cmds ∧
             (∀ ch ∈ c.channels, (s'.chan ch).stage = slvIterating) ∧ s'.hbm = s.hbm ∧ s'.spad = s.spad)))
     starts (.batchDense ⟨id, es⟩) 0x52 ∧ starts (.batchSparse ⟨id, es⟩) 0x53 ∧
     (c.phase = .started → c.isBatch = true → s.batchMayWait c = true →
       let all_ := ∀ ch ∈ waits, (offered.chan ch).holder = some id ∧ (offered.chan ch).stage = slvHeld
       (all_ → exec (.batchStart id) s = .next (waits.foldl (fun u ch => u.takeChannel ch c) offered)) ∧
       (¬ all_ → exec (.batchStart id) s = .next offered)) ∧
     (∀ (r : BatchRun) (n ch k : Nat), s.batchOf id = some r → r.slots.find? (fun x => x.2.2 = n) = some (ch, k, n) → s.heldQueue c.queue = false →
       s.systemSame r n = true →
       let b := batchParams r.params
       (c.phase = .running → c.pastDeadline s.cad = false → s.launchWaits ch = false → eccBad (eccOn es true ((s.systemRanges c b n).take 2)) = false →
         let e := s.solveSystem c b r.tau n none
         let flags := (if e.1 = 0 then 1 else 0) + (if e.2.1 = 0 then 0 else 2)
         Completes (.batchSystemEnd id ⟨n, es⟩) s (fun s' =>
           readBytes s'.hbm (b.status + 2 * n) 2 = [BitVec.ofNat 8 e.1, BitVec.ofNat 8 flags] ∧
           (∀ v, e.2.2 = some v → b.x + n * b.xStride + 8 * v.length ≤ b.status + 2 * n ∨ b.status + 2 * n + 2 ≤ b.x + n * b.xStride →
             readBytes s'.hbm (b.x + n * b.xStride) (8 * v.length) = v.flatMap (natLe 8)) ∧
           (e.2.2 = none → ∀ a, (a < b.status + 2 * n ∨ b.status + 2 * n + 2 ≤ a) → readByte s'.hbm a = readByte s.hbm a) ∧
           (∃ r', s'.batchOf id = some r' ∧ r'.ends = r.ends ++ [(n, e.1, flags, e.2.1)]) ∧ s'.cmds = (s.setCmd { c with late := false }).cmds)) ∧
       (c.phase = .running ∧ c.pastDeadline s.cad = true ∨ c.phase = .aborted →
         Completes (.batchSystemEnd id ⟨n, es⟩) s (fun s' =>
           readBytes s'.hbm (b.status + 2 * n) 2 = [if c.phase = .aborted then 0x01 else 0x20, 0] ∧
           (∀ a, (a < b.status + 2 * n ∨ b.status + 2 * n + 2 ≤ a) → readByte s'.hbm a = readByte s.hbm a)))) ∧
     (∀ r : BatchRun, s.batchOf id = some r → c.phase = .running → s.heldQueue c.queue = false → r.slots = [] → c.digestAddr = 0 →
       let b := batchParams r.params
       r.next = b.count →
         let st := batchStatus false r.ends
         let n := fun (l : List Nat) => (r.ends.filter (fun e => l.contains e.2.1)).length
         ∃ (u : State) (flags : Nat), exec (.batchCommit id) s = .next (u.commitCmd c st.1 0 flags 0) ∧
           flags = (if r.ends.any (fun e => testBit e.2.2.1 1) then 2 else 0) ∧
           readBytes u.hbm b.report 64 = batchReport st.1 st.2 b.count (n [0]) (n [0x24, 0x22]) (n [0x23]) (n [0x20, 0x01])
             (((r.ends.filter (fun e => e.2.1 ≠ 0)).map (fun e => e.1)).foldl Nat.min 0xFFFFFFFF) (r.ends.foldl (fun a e => a + e.2.2.2) 0) r.start s.cad
             (if c.opc = 0x53 then readBytes s.hbm (b.mat + 48) 16 else natLe 16 0) ∧
           u.batchOf id = none ∧ (∀ ch, ch < 64 → (u.chan ch).holder ≠ some id))) ∧
  (∀ ends : List (Nat × Nat × Nat × Nat),
     batchStatus true ends = (0x01, 9) ∧
     ((∃ e ∈ ends, e.2.1 = 0x20) → batchStatus false ends = (0x20, 8)) ∧
     ((∀ e ∈ ends, e.2.1 ≠ 0x20) →
       ((∀ e ∈ ends, e.2.1 = 0) → batchStatus false ends = (0, 0)) ∧
       (∀ e ∈ ends, e.2.1 ≠ 0 → (∀ d ∈ ends, d.2.1 ≠ 0 → d = e ∨ e.1 < d.1) → batchStatus false ends = (e.2.1, 0))))

/-- R202, R203, R205, R206, Table 08-8: a legal stream of a solve's schedule, its arrays in the channel's partition and met by no fault, that reads no
tile it writes, begins at an engine with fewer than eight and none waiting, each row's value formed from HBM as it stands then: the matrix rows times
X from +0, B minus them, that quotient by the diagonal, or the sum, minimum or maximum of the words gathered; with eight running it waits behind those
that wait; an illegal one ends the solve DESC_BAD. At its end the oldest stream's values are written and sealed at Y, and its completion word is 1
where every value is finite. -/
def Obligations.StreamCommands : Prop :=
  ∀ (st : BitVec 4) (s : State),
    (∀ (x : StreamReq) (c : Cmd),
      let ch := x.ch.toNat
      let l := s.lichen st.toNat
      let as_ := (List.range 8).map (fun i => (s.streamAddr ch (streamW x i)).getD 0)
      let a := fun i => (as_[i]?).getD 0
      let n := streamRows x
      let e0 := fun i => readLe s.hbm (a 1 + 4 * i) 4
      let es := fun i => List.range' (e0 i) (e0 (i + 1) - e0 i)
      let g := fun e => readLe s.hbm (a 4 + 8 * readLe s.hbm (a 2 + 4 * e) 4) 8
      let v := fun e => readLe s.hbm (a 3 + 8 * e) 8
      let dot := fun (c : Nat) (ts : List (Nat × Nat)) => (dotIeee fp64 4 c (ts.map (fun p => (fpVal fp64 p.1, fpVal fp64 p.2)))).1
      let minus := fun i => dot (readLe s.hbm (a 6 + 8 * i) 8) ((es i).map (fun e => (v e ^^^ 2 ^ 63, g e)))
      let begins := fun (k : Instr) (op : Nat) (value : Nat → Nat) =>
        (s.streamOk op x = true → s.streamInside c.part op n a = true → ∀ u, s.slotCluster ch (bitsOf (streamW x 0) 55 48) = some u →
          let w : WaitStream := { ch := ch, cmd := c.id, op := op, rows := n, arrays := as_, cluster := u, spad := streamDone x }
          (l.run.length < 8 → l.wait = [] → s.streamFault w x.ecc = none → s.streamSelf op n a = false →
            Completes k s (fun s' => (s'.lichen st.toNat).run = l.run ++ [{
                ch := ch, cmd := c.id, cluster := u, spad := streamDone x, y := a 5, vals := (List.range n).map value
                entries := ((List.range n).map (fun i => (es i).length)).foldl (· + ·) 0
                finite := (List.range n).all (fun i => (fpVal fp64 (value i)).isFin) }] ∧ (s'.lichen st.toNat).wait = [] ∧
              s'.hbm = s.hbm ∧ s'.spad = s.spad ∧ s'.getF F.LCH_STAT_STREAMS_ACT st.toNat = (l.run.length + 1) % 16)) ∧
          (8 ≤ l.run.length → exec k s = .next (s.setLichen st.toNat { l with wait := l.wait ++ [w] }))) ∧
        (s.streamOk op x = false ∨ s.streamInside c.part op n a = false ∨ s.slotCluster ch (bitsOf (streamW x 0) 55 48) = none →
          exec k s = .next ((s.setErr F.LCH_ERR_STREAM_BAD st.toNat (some c.part)).solveRefuse c (s.chan ch).params 0x10 5))
      (s.chan ch).holder.bind s.cmd? = some c → (s.chan ch).stage = slvIterating → s.lichReady st.toNat = true →
      s.streamListed (s.chan ch) x.words = true →
      begins (.spmv st x) 1 (fun i => dot 0 ((es i).map (fun e => (v e, g e)))) ∧ begins (.spmvSub st x) 2 minus ∧
      begins (.sweepDiv st x) 3 (fun i => (fpDiv fp64 .rne (minus i) (readLe s.hbm (a 7 + 8 * i) 8)).1) ∧
      begins (.gatherSum st x) 4 (fun i => dot 0 ((es i).map (fun e => (g e, 0x3FF0000000000000)))) ∧
      begins (.gatherMin st x) 5 (fun i => (es i).foldl (fun m e => (fpMin fp64 m (g e)).1) 0x7FF0000000000000) ∧
      begins (.gatherMax st x) 6 (fun i => (es i).foldl (fun m e => (fpMax fp64 m (g e)).1) 0xFFF0000000000000)) ∧
    (∀ (es : List EccHit) (r : LichStream) (rest : List LichStream), (s.lichen st.toNat).run = r :: rest → (s.lichen st.toNat).wait = [] →
      s.fencedIn r.y (8 * r.vals.length) = false →
      let bytes := r.vals.flatMap (natLe 8)
      Completes (.streamComplete ⟨st, es⟩) s (fun s' =>
        (s'.lichen st.toNat).run = rest ∧ (s'.lichen st.toNat).wait = [] ∧ s'.hbm = writeBytes s.hbm r.y bytes ∧
        (∀ t ∈ tilesOf r.y bytes.length, spGet 0 s'.hbmSum t = tileSum s'.hbm t) ∧
        s'.spad = writeBytes s.spad (0x400000 * r.cluster + r.spad) (natLe 8 (if r.finite then 1 else 0x8000000000000001)) ∧
        s'.getF F.LCH_STREAM_CNT_COUNT st.toNat = (s.getF F.LCH_STREAM_CNT_COUNT st.toNat + 1) % 2 ^ 64))

/-- R250, R255, R256, R259, R260, R274, R283, Table 10-11: a sound cell of an accepting job whose sequence number is new, and that no combining table
takes, is applied once at its window onto HBM: a STORE writes its bytes and owes an ACK; a LOAD is answered with the bytes; an atomic leaves OP of the
word and its operand, and a fetching one is answered with the old word, which the reply cache keeps. A STORE, LOAD or fetching atomic received again
changes no memory; the kept word answers the atomic. -/
def Obligations.ReceivedCells : Prop :=
  ∀ (x : Cell) (es : List EccHit) (s : State) (slot : Nat),
    let k := flowOf x
    let w := s.window slot x.win.toNat
    let die := s.handlingDie slot x
    let a := w.base + (x.offset.toNat - w.offBase)
    let f := (s.rxFlow die k).takeFloor ((2 ^ 32 + x.seq.toNat - x.floorGap.toNat) % 2 ^ 32)
    let old := readLe s.hbm a 8
    let word := fun i => leNat ((x.payload.drop (8 * i)).take 8)
    let sgn := fun (v : Nat) => (BitVec.ofNat 64 v).toInt
    let d := word 0
    let new := if x.op = 0 then (old + d) % 2 ^ 64 else if x.op = 1 then (if sgn old ≤ sgn d then old else d)
      else if x.op = 2 then (if sgn d ≤ sgn old then old else d) else if x.op = 3 then (if old = d then word 1 else old)
      else if x.op = 4 then (fpMin fp64 old d).1 else (fpMax fp64 old d).1
    let key := routeKey s.myEp x.srcEp.toNat
    let replies := fun (s' : State) (resp : Nat) (data : List Byte) => s.selectRoute key ≠ none → ∃ r y o, r < 8 ∧ s.routeUsable key r = true ∧
      s'.out = .cell (s.getF F.HUB_ROUTE_DATA_PORT 0 (routeBank key r)) y :: o ∧ y.type = 7 ∧ y.dstEp = x.srcEp ∧ y.jobTag = x.jobTag ∧
      y.seq = x.seq ∧ y.offset = x.offset ∧ y.resp = BitVec.ofNat 3 resp ∧ y.len = BitVec.ofNat 7 data.length ∧ y.payload = pad64 data ∧
      y.crc = cellE2e y
    let keeps := fun (s' : State) => s'.hbm = s.hbm ∧ s'.spad = s.spad
    let once := fun (s' : State) => f.applied.length < 2 ^ 30 → (s'.rxFlow die k).isDup x.seq.toNat = true
    x.dstEp.toNat = s.myEp → s.myEp ≠ epNone → s.diesReady = true → s.cellReady slot x = true → s.slotOfTag x.jobTag.toNat = some slot → x.crc = cellE2e x →
    w.kind = 0 → s.fencedAt a = false → s.combable die x = false →
    (unitBad es = true → ∀ p ∈ [(1, Instr.loadCell ⟨x, es⟩), (2, .storeCell ⟨x, es⟩), (3, .atomicCell ⟨x, es⟩), (4, .atomicFCell ⟨x, es⟩), (5, .combAtomicCell ⟨x, es⟩),
        (6, .combLoadCell ⟨x, es⟩)], x.type.toNat = p.1 → ∃ u, s.receive x = (some ⟨slot, die, f.isDup x.seq.toNat⟩, u) ∧
      exec p.2 s = .next ((u.setErr F.HUB_ERR_ECC_UE die (u.slotPart slot)).jobFault slot .eccUe)) ∧
    (unitBad es = false → x.type = 1 → f.isDup x.seq.toNat = false →
      let hs := eccOn es false [(a, x.len.toNat)]
      eccBad hs = true → ∃ u, s.receive x = (some ⟨slot, die, false⟩, u) ∧
        exec (.loadCell ⟨x, es⟩) s = .next (((u.markApplied die k x.seq.toNat false).eccHits hs).answer slot x 2 [])) ∧
    ((∀ h ∈ es, h.ecc = .clean) → f.isDup x.seq.toNat = false →
      (x.type = 2 → Completes (.storeCell ⟨x, es⟩) s (fun s' => s'.hbm = writeBytes s.hbm a (x.payload.take x.len.toNat) ∧ s'.spad = s.spad ∧
        once s' ∧ (s'.rxFlow die k).ackDue = true)) ∧
      (x.len.toNat ≤ 64 →
        (x.type = 1 → Completes (.loadCell ⟨x, es⟩) s (fun s' => keeps s' ∧ once s' ∧ replies s' 0 (readBytes s.hbm a x.len.toNat))) ∧
        (x.type = 6 → Completes (.combLoadCell ⟨x, es⟩) s (fun s' => keeps s' ∧ once s' ∧ replies s' 0 (readBytes s.hbm a x.len.toNat)))) ∧
      (x.op.toNat ≤ 5 →
        (x.type = 3 → x.op.toNat ≤ 2 → Completes (.atomicCell ⟨x, es⟩) s (fun s' => s'.hbm = writeLe s.hbm a 8 new ∧ s'.spad = s.spad ∧ once s' ∧ replies s' 0 [])) ∧
        (x.type = 4 → s.replyFree die = true → Completes (.atomicFCell ⟨x, es⟩) s (fun s' => s'.hbm = writeLe s.hbm a 8 new ∧ s'.spad = s.spad ∧ once s' ∧
          replies s' 0 (natLe 8 old) ∧ (s'.reply? die k x.seq.toNat).bind ReplyEntry.value = some (0, natLe 8 old))) ∧
        (x.type = 5 → (x.fetch = true → s.replyFree die = true) → Completes (.combAtomicCell ⟨x, es⟩) s (fun s' => s'.hbm = writeLe s.hbm a 8 new ∧
          s'.spad = s.spad ∧ once s' ∧ replies s' 0 (if x.fetch then natLe 8 old else []))))) ∧
    ((∀ h ∈ es, h.ecc = .clean) → f.isDup x.seq.toNat = true →
      (x.type = 2 → Completes (.storeCell ⟨x, es⟩) s (fun s' => keeps s' ∧ (s'.rxFlow die k).ackDue = true)) ∧
      (x.type = 3 → Completes (.atomicCell ⟨x, es⟩) s (fun s' => keeps s')) ∧
      (∀ e v, x.type = 4 → s.reply? die k x.seq.toNat = some e → e.value = some v →
        Completes (.atomicFCell ⟨x, es⟩) s (fun s' => keeps s' ∧ replies s' v.1 v.2)))

/-- R237, Table 09-5: a command that commits, with no error class that its partition marks fatal, writes its 32-byte record, with the tick of its commit
point, at the tail of its completion ring, advances the tail, gives back the slot it had reserved, is counted, and is gone; PHASE changes with each
pass of the ring. -/
def Obligations.CompletionRecords : Prop :=
  ∀ (s : State) (c : Cmd) (status aux flags digest : Nat),
    let cq := ctxGet (s.ctx c.queue) cCqQueue
    let x := s.ctx cq
    let size := 2 ^ ctxGet x cCqLog2
    let off := 32 * (ctxGet x cCqTail % size)
    let n := (s.qext cq).written
    let phase := if n / size % 2 = 0 then 1 else 0
    let bytes := natLe 1 status ++ natLe 1 (128 * phase + flags) ++ natLe 2 c.tag ++ natLe 4 c.queue ++ natLe 8 (c.at_.getD s.cad) ++ natLe 8 digest ++ natLe 4 aux ++ natLe 4 0
    let s' := s.commitWith c status aux flags digest
    s.ctxCached cq = true → x.length = 8 → s.ringReach c.part (ctxGet x cCqBase) off 32 = true →
    (∀ b, statusClass status = some b → testBit (s.getF F.PRT_FATAL_CLASSES c.part) b = false) →
    ctxGet (s'.ctx cq) cCqTail = (ctxGet x cCqTail + 1) % 131072 ∧
    s'.qext cq = { reserved := (s.qext cq).reserved - 1, written := n + 1 } ∧
    (∀ e ∈ s'.cmds, e.id ≠ c.id) ∧
    ((ctxGet x cCqBase).testBit 63 = true → ∀ l, s.partLink c.part = some l →
      readBytes s'.hostMem (2 ^ 64 * l + ctxGet x cCqBase % 2 ^ 63 + off) 32 = bytes ∧ s'.hbm = s.hbm) ∧
    ((ctxGet x cCqBase).testBit 63 = false →
      readBytes s'.hbm (ctxGet x cCqBase + off) 32 = bytes ∧ s'.hostMem = s.hostMem ∧
      ∀ a, (a < ctxGet x cCqBase + off ∨ ctxGet x cCqBase + off + 32 ≤ a) → readByte s'.hbm a = readByte s.hbm a)

/-- R318, R348, R351, R353, Table 13-5: a frame begins at its tick and is numbered, and opens the bank of a cut frame beside those in hand; the window's
end begins the close fill, whose end seals the bank and reports INGEST_CLOSED; a due publication whose gate passes sends its setpoints, and one whose
gate fails, or whose job has faulted, sends an error record. -/
def Obligations.FieldFrames : Prop :=
  ∀ (s : State),
    (∀ n, s.time.frameNext = some n → s.getF F.CAD_CTRL_FRAME_EN = 1 → s.frameTick n ≤ s.cad →
      Completes .frameStart s (fun s' => s'.getF F.CAD_FRAME_NUMBER = n % 2 ^ 32 ∧ s'.getF F.CAD_FRAME_TICK_TICK = s.frameTick n % 2 ^ 64 ∧
        s'.time.frameNext = some (n + 1) ∧ s'.cad = s.cad ∧ s'.hbm = s.hbm ∧
        (s.fioOn = true → s.fio.f0 ≤ n → (n - s.fio.f0) % max 1 (s.getF F.FIO_CUT_PERIOD_P) = 0 → s.slotState s.fioSlot = slotAccepting →
          s'.fioStage = fioOpen ∧ s'.fio.wins = s.fio.wins ++ [{ k := (n - s.fio.f0) / max 1 (s.getF F.FIO_CUT_PERIOD_P), start := s.frameTick n }]))) ∧
    (∀ w, s.fio.wins.find? (fun w => !w.filling) = some w → w.start + s.getF F.FIO_WINDOW_NS ≤ s.cad →
      Completes .ingestWindowClose s (fun s' =>
        s'.fio = { s.fio with wins := s.fio.wins.map (fun v => if v.k = w.k then { v with filling := true } else v) } ∧ s'.hbm = s.hbm ∧
        s'.fioStage = (if ∃ v ∈ s'.fio.wins, v.filling = false then fioOpen else fioFill))) ∧
    (∀ w, s.fio.wins.find? (fun w => w.filling) = some w →
     let es := (List.range s.mapCount).map ((s.memRead .line s.mapBase (16 * s.mapCount)).fillEntry w)
     let bs := es.flatMap (fun e => e.1)
     let a := s.bankAddr w.k
     let q := s.getF F.FIO_INGEST_Q_QUEUE
     s.slotState s.fioSlot = slotAccepting → s.stacksReady s.mapBase (16 * s.mapCount) = true → s.stacksReady a (16 * s.mapCount) = true →
     s.hbmVerify s.mapBase (16 * s.mapCount) = true → s.fencedIn a bs.length = false →
      ∃ u : State, u.fio = { s.fio with wins := s.fio.wins.filter (fun v => v.k ≠ w.k), closed := some w.k } ∧
        u.hbm = writeBytes s.hbm a bs ∧ (∀ t ∈ tilesOf a bs.length, spGet 0 u.hbmSum t = tileSum u.hbm t) ∧
        u.getF F.FIO_STALE_LAST_COUNT = (es.filter (fun e => e.2)).length % 2 ^ 21 ∧ u.spad = s.spad ∧ u.hostMem = s.hostMem ∧
        (s.partOfQueue q = none → exec .closeFillComplete s = .next u) ∧
        (∀ p, s.partOfQueue q = some p → s.fioPart = some p → s.slotFreeCq q = true →
          exec .closeFillComplete s = .next ((u.reserveSlot q).writeRecord p q 0 (if w.overflow then 8 else 0) 0 0 (w.k % 2 ^ 32) s.cad))) ∧
    (∀ (n : BitVec 4) (es : List EccHit) (k start : Nat) (x : FioPub), s.fio.due.find? (fun d => d.1 = n.toNat) = some (n.toNat, k, start) → s.fio.pubs[n.toNat]? = some x →
      s.fioOn = true → start + x.offset ≤ s.cad → s.stacksReady x.src (8 * x.count) = true →
      let s1 := s.setFio { s.fio with due := s.fio.due.erase (n.toNat, k, start) }
      let runs := s.slotState s.fioSlot = slotAccepting ∧ s.faulted s.fioSlot = false ∧ (s.sp s.fioSlot).restoring = false
      let gate := s.gateFail x.gate start (start + x.offset)
      (¬ runs → exec (.publicationTick ⟨n, es⟩) s = .next (s1.pubError x n.toNat k (start + x.offset) true gate)) ∧
      (runs → gate ≠ none → exec (.publicationTick ⟨n, es⟩) s = .next (s1.pubError x n.toNat k (start + x.offset) false gate)) ∧
      (runs → gate = none → let hs := eccOn es true [(x.src, 8 * x.count)]
        eccBad hs = true → exec (.publicationTick ⟨n, es⟩) s = .next ((((s1.eccHits hs).setErr F.FIO_ERR_ECC_UE).jobFault
          (s1.fioSlot) .eccUe).pubError x n.toNat k (start + x.offset) true none)) ∧
      (runs → gate = none → (∀ h ∈ es, h.ecc = .clean) → s.hbmVerify x.src (8 * x.count) = true → exec (.publicationTick ⟨n, es⟩) s = .next (s1.pubDispatch x n.toNat k (start + x.offset))))

/-- R320, R321, R322, R324: a source that gives its time is present and the best usable one is chosen; the one chosen steps the counter where no job runs
and it is off by more than 1 µs, slews it where it is off by at most 1 ms, and else asks for a step. A source lost or a reference lost is no longer
present; after 2 s with none the counter holds over. R332, Table 12-5: a STEP whose fields are legal makes STEP its slot's step, counts it, and puts
the step it ends, with the digest it names and the tick, at the head of the slot's log of 16; one that is not legal ends DESC_BAD. -/
def Obligations.TimeSourcesAndStep : Prop :=
  (∀ (s : State),
     (∀ x : PtpTime, s.powered = true → x.port.toNat = s.getF F.CAD_PTP_PORT → (s.getF F.FIO_CTRL_PORT_EN).testBit x.port.toNat = true →
       (s.getF F.FIO_STAT_LINK).testBit x.port.toNat = true → (s.getF F.CAD_CTRL_SRC_EN).testBit 0 = true →
       let d : Int := (x.time.toNat : Int) - s.cad
       Completes (.ptpMessage x) s (fun s' => (s'.getF F.CAD_STAT_PRESENT).testBit 0 = true ∧ s'.getF F.CAD_STAT_SRC = 1 ∧
         s'.getF F.CAD_UTC_OFFSET_SECONDS = min 255 x.utcOffset.toNat ∧ s'.time.lostAt = none ∧ s'.hbm = s.hbm ∧
         (s.anyAccepting = false → 1000 < d → s'.cad = (s.cad + d.toNat) % 2 ^ 64 ∧ s'.timeStat = timeLocked) ∧
         (s.anyAccepting = false → d < -1000 → s'.cad = s.cad ∧ s'.time.hold = (-d).toNat ∧ s'.timeStat = timeLocked) ∧
         (s.anyAccepting = true → d.natAbs ≤ 1000000 → s'.cad = s.cad ∧ s'.time.slew = d ∧
           s'.timeStat = (if d.natAbs ≤ 100 then timeLocked else timeAcquiring)) ∧
         (s.anyAccepting = true → 1000000 < d.natAbs → s'.cad = s.cad ∧ s'.getF F.CAD_ERR_STEP_NEEDED = 1 ∧ s'.timeStat = timeAcquiring ∧
           s'.time.pend = some d))) ∧
     (s.hasParent = true → s.getF F.FAB_STAT_UP (s.getF F.CAD_PARENT_PORT) = 1 →
       ((∀ t, s.time.exchAt = some t → t + 1000000 ≤ s.now) → exec .timeExchange s = .next ((s.setTime { s.time with exchAt := some s.now }).emit
         (.timeCell (s.getF F.CAD_PARENT_PORT) 1 { state := BitVec.ofNat 8 s.timeStat, utcOffset := BitVec.ofNat 16 (s.getF F.CAD_UTC_OFFSET_SECONDS)
                                                   t1 := BitVec.ofNat 64 s.cad, t2 := 0, t3 := 0 }))) ∧
       (∀ (port : BitVec 5) (x : TimeCell) (t4 : BitVec 64), port.toNat = s.getF F.CAD_PARENT_PORT →
         (x.state = 2 ∨ x.state = 3 → exec (.timeResponse port x t4) s =
           .next (s.measure 1 ((((x.t2.toNat : Int) - x.t1.toNat) - ((t4.toNat : Int) - x.t3.toNat)) / 2))) ∧
         (x.state ≠ 2 → x.state ≠ 3 → exec (.timeResponse port x t4) s = .next (s.loseSrc 1)))) ∧
     (∀ (port : BitVec 5) (x : TimeCell), port.toNat < 20 → s.getF F.FAB_STAT_UP port.toNat = 1 →
       exec (.timeRequest port x) s = .next (s.emit (.timeCell port.toNat 2 { state := BitVec.ofNat 8 s.timeStat
                                                                              utcOffset := BitVec.ofNat 16 (s.getF F.CAD_UTC_OFFSET_SECONDS)
                                                                              t1 := x.t1, t2 := BitVec.ofNat 64 s.cad, t3 := BitVec.ofNat 64 s.cad }))) ∧
     (∀ src : BitVec 2, src.toNat < 3 → (s.getF F.CAD_STAT_PRESENT).testBit src.toNat = true →
       Completes (.timeSourceLost src) s (fun s' => (s'.getF F.CAD_STAT_PRESENT).testBit src.toNat = false ∧ s'.getF F.CAD_STAT_SRC ≠ src.toNat + 1 ∧
         s'.cad = s.cad ∧ s'.hbm = s.hbm)) ∧
     (∀ t, s.time.lostAt = some t → t + 2000000000 ≤ s.now → s.timeStat ≠ timeFree → s.timeStat ≠ timeHoldover →
       Completes .holdoverEntry s (fun s' => s'.getF F.CAD_STAT_SRC = 0 ∧ s'.cad = s.cad ∧ s'.time.slew = 0 ∧
         (s.time.everLocked = true → s'.timeStat = timeHoldover ∧ s'.getF F.CAD_ERR_TIME_LOST = 1) ∧
         (s.time.everLocked = false → s'.timeStat = timeFree)))) ∧
  (∀ (id : Nat) (es : List EccHit) (s : State) (c : Cmd), s.cmd? id = some c → c.phase = .started → c.opc = 0x68 →
     (s.stepOk c = false → exec (.step ⟨id, es⟩) s = .next (s.setCmd { c with phase := .ended, status := 0x10 })) ∧
     (s.stepOk c = true → unitBad es = true → exec (.step ⟨id, es⟩) s =
       .next (slotNums.foldl (fun t j => if t.slotState j = slotAccepting then t.jobFault j .eccUe else t) (s.setErr F.CAD_ERR_ECC_UE))) ∧
     (s.stepOk c = true → (∀ h ∈ es, h.ecc = .clean) →
       let j := c.byte 40
       let a := c.num 32 8
       let u := (if a = 0 then s else s.memRead .line a 8).logStep j (s.getF F.CAD_STEP_STEP 0 j) (if a = 0 then 0 else readLe s.hbm a 8) s.cad
       (∀ e, e < 15 → u.getF F.CAD_LOG_STEP_STEP 0 (16 * j + e + 1) = s.getF F.CAD_LOG_STEP_STEP 0 (16 * j + e) ∧
         u.getF F.CAD_LOG_DIGEST_DIGEST 0 (16 * j + e + 1) = s.getF F.CAD_LOG_DIGEST_DIGEST 0 (16 * j + e) ∧
         u.getF F.CAD_LOG_TICK_TICK 0 (16 * j + e + 1) = s.getF F.CAD_LOG_TICK_TICK 0 (16 * j + e)) ∧
       u.getF F.CAD_LOG_STEP_STEP 0 (16 * j) = s.getF F.CAD_STEP_STEP 0 j ∧
       u.getF F.CAD_LOG_DIGEST_DIGEST 0 (16 * j) = (if a = 0 then 0 else readLe s.hbm a 8) ∧
       u.getF F.CAD_LOG_TICK_TICK 0 (16 * j) = s.cad % 2 ^ 64 ∧
       let v := (u.setF F.CAD_STEP_STEP (c.num 24 8) 0 j).addF F.CAD_STEP_CNT_COUNT 1 0 j
       let x := v.sp j
       exec (.step ⟨id, es⟩) s = .next (((if x.stepRec = none then v.setSp j { x with stepRec := some (s.getF F.CAD_STEP_STEP 0 j, if a = 0 then 0 else readLe s.hbm a 8, s.cad) }
         else v).commitCmd c 0 0 0 0).sporeStep j)))

/-- R4, R6, R16, R18, R20, R21, R438: a write to no register is ignored and audited; so is one to a page that the origin does not see or may not write. A
write that meets a stopped clock is held, or discarded where 16 are held; another has its effect at once and one audit entry, whose applied value is
the register's value after, with write-only bits as written. The held writes of a page apply in order. An access that is not a naturally aligned
8-byte unit writes nothing and reads zeros. R13, R14, R20, R368: a read of CFG_DIGEST by an origin that sees the page returns the page's digest, held
writes counted; that of a slot's GLB.CFG_DIGEST one word of the job's digest; a page the origin does not see reads as zero. Nothing else changes. -/
def Obligations.RegisterAccesses : Prop :=
  (∀ (o : Origin) (a : BitVec 28) (v : Word) (s : State),
     (s.serves o = true → pageAt a.toNat = none → exec (.registerWrite o a v) s = .next (s.auditReg o a.toNat 0 v 0 fIgnored)) ∧
     (∀ b inst off, pageAt a.toNat = some (b, inst, off) → s.serves o = true →
       let t := s.seenBy o b inst
       let old := s.regHeld o b inst off
       let page := a.toNat / 4096
       let l := spGet [] s.holds page
       (regRows b inst off = [] → exec (.registerWrite o a v) s = .next (s.auditReg o a.toNat 0 v 0 fIgnored)) ∧
       (regRows b inst off ≠ [] → s.reaches o b inst off = false ∨ t.mayWrite o b inst off v = false ∨ t.blocked o b off = true →
         exec (.registerWrite o a v) s = .next (s.auditReg o a.toNat old v old fIgnored)) ∧
       (regRows b inst off ≠ [] → s.reaches o b inst off = true → t.mayWrite o b inst off v = true → t.blocked o b off = false →
         s.mustHold b inst off = true →
         (l.length < 16 → ∃ value : Word, exec (.registerWrite o a v) s = .next { s with
           holds := spPut [] s.holds page (l ++ [{ origin := o, addr := a.toNat, place := t.regPlace o b inst off, written := v, value := value }]) }) ∧
         (16 ≤ l.length → exec (.registerWrite o a v) s = .next ((s.setErr (errHoldOvf b) inst).auditReg o a.toNat old v old fDiscarded) ∧
           (s.setErr (errHoldOvf b) inst).getF (errHoldOvf b) inst = 1)) ∧
       (regRows b inst off ≠ [] → WriteTaken s o b inst off v →
         let u := s.regWrite o b inst off v
         ∃ (applied : Word) (flags : Nat), exec (.registerWrite o a v) s = .next (u.auditReg o a.toNat (s.regValue o b inst off) v applied flags) ∧
           ∀ k, k < 64 → applied.getLsbD k =
             if (rowMask (regRows b inst off) (fun r => r.acc = .wo)).testBit k then v.getLsbD k else (u.regValue o b inst off).getLsbD k)) ∧
     (∀ (page : BitVec 16) (b : Block) (inst off : Nat), pageAt (4096 * page.toNat) = some (b, inst, off) →
       s.clkOff b inst = false → (b = .qmg → s.getF F.QMG_STAT_READY ≠ 0) →
       (spGet [] s.holds page.toNat = [] → exec (.heldWritesApply page) s = .next { s with holds := spPut [] s.holds page.toNat [] }) ∧
       (∀ h, spGet [] s.holds page.toNat = [h] → (∀ r ∈ regRows b inst (h.addr % 4096), r.acc ≠ .wo ∧ r.acc ≠ .w1c) →
         ∃ (applied : Word) (flags : Nat), exec (.heldWritesApply page) s =
           .next ((({ s with holds := spPut [] s.holds page.toNat [] } : State).regWrite h.origin b inst (h.addr % 4096) h.value).auditReg h.origin h.addr
             (({ s with holds := spPut [] s.holds page.toNat [] } : State).regValue h.origin b inst (h.addr % 4096)) h.written applied flags))) ∧
     (a.toNat % 8 = 0 → exec (.badSizeAccess o a 8 none) s = .next (s.emit (.regValue (s.busRead o a.toNat))) ∧
       exec (.badSizeAccess o a 8 (some v)) s = exec (.registerWrite o a v) s) ∧
     (∀ size : BitVec 8, s.serves o = true → (size ≠ 8 ∨ a.toNat % 8 ≠ 0) →
       (∀ b inst off, pageAt a.toNat = some (b, inst, off) → (s.setErr (errAccBad b) inst).getF (errAccBad b) inst = 1) ∧
       let s1 := match pageAt a.toNat with
         | some (b, inst, _) => if s.canSee o b inst then s.setErr (errAccBad b) inst else s
         | none => s
       let old := s.busRead o (a.toNat / 8 * 8)
       exec (.badSizeAccess o a size none) s = .next (s1.emit (.regValue 0)) ∧
       exec (.badSizeAccess o a size (some v)) s = .next (s1.auditReg o a.toNat old v old fDiscarded))) ∧
  (∀ (o : Origin) (s : State),
     (∀ (page : BitVec 16) (b : Block) (inst off : Nat), pageAt (0x38 + 4096 * page.toNat) = some (b, inst, off) → s.serves o = true →
       (s.canSee o b inst = true → exec (.cfgDigestRead o page) s = .next (s.emit (.regValue ((s.seenBy o b inst).cfgDigest b inst)))) ∧
       (s.canSee o b inst = false → exec (.cfgDigestRead o page) s = .next (s.emit (.regValue 0)))) ∧
     (∀ w : BitVec 3, s.serves o = true → s.canSee o .glb 0 = true →
       let t := s.seenBy o .glb 0
       t.ownSlot o (t.selSlot o .glb) = true →
       exec (.jobDigestRead o w) s = .next (s.emit (.regValue
         (if w.toNat < 6 then BitVec.ofNat 64 (leNat (((t.jobDigest (t.selSlot o .glb)).drop (8 * w.toNat)).take 8)) else 0)))))

/-- R40, R41, R164, R231, R242, R319, R354, R401, R405: writes of THR_RUN, of a channel's bindings and SPAD, of CTX_OP, of a mover's STOP and RESUME, of
FRAME_EN, of the field port's EN, of Spore's EN and of the power limit each have their effect, once the write is taken. -/
def Obligations.EngineRegisterWrites : Prop :=
  ∀ (o : Origin) (s : State),
    (∀ c m : BitVec 8, Written (.thrRunStart o c m) s o .clu c.toNat 0x40 (BitVec.ofNat 64 m.toNat) (fun u =>
        u.regs = s.regs ∧ u.spad = s.spad ∧ u.hbm = s.hbm ∧
        ((s.clu c.toNat).wiping = true → u.threads = s.threads ∧ (u.clu c.toNat).startPend = (s.clu c.toNat).startPend ||| m.toNat) ∧
        ((s.clu c.toNat).wiping = false → u.clus = s.clus ∧ (∀ t, t < 8 →
          let x := s.thr c.toNat t
          u.thr c.toNat t = if m.toNat.testBit t ∧ (x.st = .off ∨ x.st = .halted) ∧ s.boundThread c.toNat t = false
            then x.start (s.getF (thrPcFld t) c.toNat) else x) ∧ (∀ c' t, c' ≠ c.toNat → t < 8 → u.thr c' t = s.thr c' t))) ∧
      Written (.thrRunStop o c m) s o .clu c.toNat 0x40 (BitVec.ofNat 64 (m.toNat * 256)) (fun u =>
        u = (s.thrRunStart c.toNat 0).thrRunStop c.toNat m.toNat)) ∧
    (∀ (ch : BitVec 6) (r : BitVec 3) (v : Word),
      (r.toNat < 4 → Written (.slvBindWrite o ch r v) s o .slv ch.toNat (0x40 + 8 * r.toNat) v (fun u =>
        u = if s.locked .slv ch.toNat then s else s.bindWrite ch.toNat r.toNat v.toNat)) ∧
      (r = 4 → Written (.slvBindWrite o ch r v) s o .slv ch.toNat 0x60 v (fun u => u = if s.locked .slv ch.toNat then s else s.slvSpadWrite ch.toNat v.toNat)) ∧
      (4 < r.toNat → exec (.slvBindWrite o ch r v) s = .next s)) ∧
    (let q := s.getF F.QMG_CTX_SEL_QUEUE 0 (s.originCopy o)
     let reach := ∀ p, s.originPart o = some p → s.prtQueue p q = true
     Written (.ctxOpRead o) s o .qmg 0 0x50 1 (fun u => (reach → u = s.ctxToData (s.originCopy o) q) ∧ (¬ reach → u = s)) ∧
     Written (.ctxOpWrite o) s o .qmg 0 0x50 2 (fun u => (reach → u = s.ctxWrite (s.originCopy o) q) ∧ (¬ reach → u = s))) ∧
    (∀ ch : BitVec 6,
      let same := s.setW .mov 0x10 (s.regW .mov 0x10 ch.toNat) ch.toNat
      Written (.movStop o ch) s o .mov ch.toNat 0x10 (BitVec.ofNat 64 (setBits (s.regW .mov 0x10 ch.toNat).toNat 0 0 1)) (fun u => u = same.movStop ch.toNat) ∧
      ((s.regW .mov 0x10 ch.toNat).getLsbD 0 = false → Written (.movResume o ch) s o .mov ch.toNat 0x10
        (BitVec.ofNat 64 (setBits (s.regW .mov 0x10 ch.toNat).toNat 1 1 1)) (fun u => u = same.movResume ch.toNat))) ∧
    (∀ en : Bool,
      let was := s.getF F.CAD_CTRL_FRAME_EN
      let known := s.timeStat = timeLocked ∨ s.timeStat = timeHoldover
      Written (.frameEnWrite o en) s o .cad 0 0x10 (BitVec.ofNat 64 (setBits (s.regW .cad 0x10).toNat 0 0 (if en then 1 else 0))) (fun u =>
        (en = true → was = 0 → known → u = ((s.setF F.CAD_CTRL_FRAME_EN 1).startFrames).sourcesChanged) ∧
        (en = true → was = 0 → ¬ known → u = (s.setF F.CAD_CTRL_FRAME_EN 0).sourcesChanged) ∧
        (en = true → was = 1 → u = (s.setF F.CAD_CTRL_FRAME_EN 1).sourcesChanged) ∧
        (en = false → was = 1 → u = ((s.setF F.CAD_CTRL_FRAME_EN 0).stopFrames).sourcesChanged) ∧
        (en = false → was = 0 → u = (s.setF F.CAD_CTRL_FRAME_EN 0).sourcesChanged))) ∧
    (∀ (slot : BitVec 3) (ports : BitVec 2),
      let cur := (s.regW .fio 0x10).toNat
      let p := if s.locked .fio 0 then s.getF F.FIO_CTRL_PORT_EN else ports.toNat
      Written (.fioEnable o slot ports) s o .fio 0 0x10 (BitVec.ofNat 64 (setBits (setBits (setBits cur 10 8 slot.toNat) 5 4 ports.toNat) 0 0 1)) (fun u =>
        (s.fioOn = false → u = (s.setW .fio 0x10 (BitVec.ofNat 64 (setBits (setBits cur 10 8 slot.toNat) 5 4 p))).fioTryEnable) ∧
        (s.fioOn = true → u = s.setW .fio 0x10 (BitVec.ofNat 64 (setBits cur 5 4 p))))) ∧
    (∀ (trig : BitVec 5) (restore : Bool),
      let j := s.selSlot o .spo
      let cur := (s.regW .spo 0x48 0 j).toNat
      let r := if s.slotState j = slotLoading then (if restore then 1 else 0) else bitsOf cur 16 16
      let t := s.setW .spo 0x48 (BitVec.ofNat 64 (setBits (setBits cur 16 16 r) 12 8 trig.toNat)) 0 j
      Written (.sporeEnable o trig restore) s o .spo 0 0x48 (BitVec.ofNat 64 ((if restore then 0x10000 else 0) + 256 * trig.toNat + 1)) (fun u =>
        u = if t.sporeConfigOk j then t.setF F.SPO_SLOT_CTRL_EN 1 0 j else (t.setF F.SPO_SLOT_CTRL_EN 0 0 j).setErr F.SPO_ERR_CFG_BAD 0 (s.slotPart j))) ∧
    (∀ v : Word,
      let cur := (s.regW .pwr 0x40).toNat
      let x := v.toNat
      Written (.capWrite o v) s o .pwr 0 0x40 v (fun u =>
        u = if s.locked .pwr 0 then s
          else (s.setW .pwr 0x40 (BitVec.ofNat 64 (setBits (setBits (setBits cur 43 32 (clampTo 500 3400 (bitsOf x 43 32))) 20 16
            (clampTo 1 30 (bitsOf x 20 16))) 9 0 (clampTo 16 512 (bitsOf x 9 0))))).capWritten))

/-- R252, R360, R361, R362, R373: a taken write of JOB_CTL takes a FREE slot into LOADING, carries TAG and MY_RANK, moves LOADING into ACCEPTING where
R362 holds (held pending beside a teardown), abandons LOADING into WIPING, drains ACCEPTING, and else does nothing; fabric management names a slot's
partition. R361, R373, R374, Table 14-5: DRAINING ends once the job has no cell unacknowledged, or after 5 ms, and the wipe begins; a wipe that
completes frees the slot, counts its ticks and applies the ACCEPTING that waited for it; one that fails sets WIPE_FAIL, keeps the slot in WIPING, and
lets go of what waited. -/
def Obligations.JobSlots : Prop :=
  (∀ (s : State),
     (∀ (o : Origin) (tag : BitVec 16) (rank : BitVec 17),
       let j := s.selSlot o .hub
       let st := s.slotState j
       let w := fun (n : Nat) => BitVec.ofNat 64 (2 ^ 60 * n + 2 ^ 32 * tag.toNat + rank.toNat)
       let t := if s.tagOk j tag.toNat then s.setF F.HUB_JOB_CTL_TAG tag.toNat 0 j else s
       let t2 := t.setF F.HUB_JOB_CTL_MY_RANK rank.toNat 0 j
       Written (.jobLoad o tag rank) s o .hub 0 0x58 (w 2) (fun u =>
         (st = slotFree → s.tagOk j tag.toNat = true → u = t.jobTake o j) ∧
         (st = slotLoading → u = t2) ∧ (st ≠ slotFree → st ≠ slotLoading → u = s)) ∧
       Written (.jobAccept o tag rank) s o .hub 0 0x58 (w 3) (fun u =>
         (st = slotLoading → t2.acceptOk j = false → u = t2) ∧
         (∀ p, st = slotLoading → t2.acceptOk j = true → t2.slotPart j = some p →
           (t2.otherSlot j p isLeaveState = true → u = t2.setJobX j { t2.jobX j with pend := true }) ∧
           (t2.otherSlot j p isLeaveState = false → u = t2.jobEnter j)) ∧
         (st = slotFree → u = t) ∧ (st ≠ slotFree → st ≠ slotLoading → u = s)) ∧
       (let keep := fun (n : Nat) => BitVec.ofNat 64 (2 ^ 60 * n + 2 ^ 32 * s.slotTag j + s.myRank j)
        let k := (if s.tagOk j (s.slotTag j) then s.setF F.HUB_JOB_CTL_TAG (s.slotTag j) 0 j else s).setF F.HUB_JOB_CTL_MY_RANK (s.myRank j) 0 j
        Written (.jobAbandon o) s o .hub 0 0x58 (keep 1) (fun u =>
          (st = slotLoading → u = (k.jobStop j).jobBeginWipe j) ∧ (st ≠ slotFree → st ≠ slotLoading → u = s)) ∧
        Written (.jobDrain o) s o .hub 0 0x58 (keep 4) (fun u =>
          (st = slotAccepting → s.applying = false → u = s.jobBeginDrain j) ∧
          (st = slotAccepting → s.applying = true → u = s.holdReset 2 j) ∧ (st = slotDraining ∨ st = slotWiping → u = s)))) ∧
     (∀ p : BitVec 3,
       let j := s.selSlot .fabric .glb
       let cur := s.regW .glb 0x48 0 j
       Written (.partitionName p) s .fabric .glb 0 0x48 (BitVec.ofNat 64 (setBits cur.toNat 34 32 p.toNat)) (fun u =>
         (s.nameable j p.toNat = true → u = (s.setF F.GLB_SLOT_CFG_PARTITION p.toNat 0 j).setF F.GLB_SLOT_CFG_NAMED 1 0 j) ∧
         (s.nameable j p.toNat = false → u.getF F.GLB_SLOT_CFG_PARTITION 0 j = s.getF F.GLB_SLOT_CFG_PARTITION 0 j ∧ u.slotPart j = s.slotPart j ∧
           u.cmds = s.cmds ∧ u.hbm = s.hbm ∧ u.threads = s.threads)))) ∧
  (∀ (slot : BitVec 3) (s : State),
     let j := slot.toNat
     let x := s.jobX j
     let others := slotNums.filter (fun i => i ≠ j && (s.jobX i).pend && s.slotPart i = s.slotPart j)
     (s.slotState j = slotDraining →
       ((∀ e ∈ s.tx, e.1.tag.toNat = s.slotTag j → e.2.cells = [] ∧ e.2.queue = []) ∨ 5000000 + x.drainAt ≤ s.now) →
       exec (.drainEnd slot) s = .next (s.jobBeginWipe j)) ∧
     (s.slotState j = slotDraining → (∃ e ∈ s.tx, e.1.tag.toNat = s.slotTag j ∧ (e.2.cells ≠ [] ∨ e.2.queue ≠ [])) → s.now < 5000000 + x.drainAt →
       exec (.drainEnd slot) s = .next s) ∧
     (s.slotState j = slotWiping → x.wipeFailed = false → (∀ c ∈ s.jobClusters j, (s.clu c).wiping = false) →
       let t := ((((s.setF F.GLB_WIPE_TICKS_COUNT (s.cad - x.wipeAt) 0 j).setF F.HUB_JOB_CTL_STATE slotFree 0 j).setF F.GLB_SLOT_CFG_NAMED 0 0 j).setStage
         j stageIdle).setJobX j {}
       t.slotState j = slotFree ∧ t.slotPart j = none ∧ t.jobX j = {} ∧
       (others = [] → s.getF F.GLB_REPORT_EP_EP 0 j = epNone → exec (.wipeComplete slot true) s = .next t) ∧
       exec (.wipeComplete slot true) s = .next (others.foldl (fun s i => s.jobEnter i) (t.teardownReport j (s.slotTag j) 0))) ∧
     (s.slotState j = slotWiping → x.wipeFailed = false →
       let t := (s.setErr F.GLB_ERR_WIPE_FAIL 0 (s.slotPart j)).setJobX j { x with wipeFailed := true }
       t.slotState j = slotWiping ∧ t.getF F.GLB_ERR_WIPE_FAIL = 1 ∧
       exec (.wipeComplete slot false) s = .next (others.foldl (fun s i => s.setJobX i { s.jobX i with pend := false }) (t.teardownReport j (s.slotTag j) 1))))

/-- R363, R364, R365, R366, R367: a job in FRONDING starts its broadcast at FROND_TICK; a member that is not the root polls its source's record while it
has no segment to fetch; the lowest segment not yet verified is judged, kept and counted where its digest agrees, fetched once more from the alternate
where it does not, and faults the job the second time; the alternate takes over after 5 ms without a reply. R369, R370, R371: once every segment is
held the launch barrier starts its digest check; after it has passed, at LAUNCH_TICK, the first 256 KiB of segment 1 are checked and every cluster of
the job gets them as its program and starts thread 0 alone; a mismatch or an uncorrectable line is recorded in each of those clusters instead; a
running job checks its digest again every SWEEP_MS. -/
def Obligations.JobLaunch : Prop :=
  (∀ (slot : BitVec 3) (s : State),
     let j := slot.toNat
     let x := s.jobX j
     let n := s.held j
     let base := 4096 * s.getF F.GLB_FROND_BASE_ADDR 0 j
     let len := if n = 0 then 64 + 48 * (s.frondSegs j - 1) else 0x400000
     (s.slotState j = slotAccepting → s.stage j = stageFronding → x.started = false → s.getF F.GLB_FROND_TICK_TICK 0 j ≤ s.cad →
       Completes (.frondStart slot) s (fun s' => s'.held j = 0 ∧ s'.getF F.GLB_FROND_STAT_ON_ALT 0 j = 0 ∧ s'.getF F.GLB_FROND_STAT_REFETCH 0 j = 0 ∧
         s'.fronding j = true ∧ s'.jobX j = { x with started := true, srcHeld := 0, next := 0, fetch := [], lastReply := s.now, polling := false, again := [] } ∧
         s'.hbm = s.hbm)) ∧
     (s.fronding j = true → s.isRoot j = false → x.srcHeld ≤ x.next → x.next < s.frondSegs j →
       exec (.frondPoll slot) s = .next ((s.setJobX j { x with polling := true, lastReply := if x.polling = true ∨ x.fetch ≠ [] then x.lastReply else s.now }).frondRead j
         (s.frondSource j false) (0x400000 * s.frondSegs j) 8 none)) ∧
     (s.fronding j = true → n < s.frondSegs j → s.segLen j n = len ∧ ∀ bs es, s.segData j n = some bs →
       let hs := eccOn es false ((base, 64 + 48 * (s.frondSegs j - 1)) :: (if s.isRoot j then [(base + 0x400000 * n, len)] else []))
       (exec (.frondSegmentVerified ⟨slot, es⟩) s = .next (if eccBad hs then s.eccHits hs else (s.eccHits hs).judgeSegment j n bs)) ∧
       let good := if n = 0 then s.indexOk j bs else decide (sha384 bs = segDigest (readBytes s.hbm base (64 + 48 * (s.frondSegs j - 1))) n)
       (good = true →
         let t := s.setJobX j { x with fetch := x.fetch.filter (fun f => f.seg ≠ n) }
         let u := if s.isRoot j then t else t.hbmSealWrite (base + 0x400000 * n) bs
         exec (.frondSegmentVerified ⟨slot, []⟩) s = .next (((u.setF F.GLB_FROND_STAT_HELD (n + 1) 0 j).hbmSealWrite (base + 0x400000 * s.frondSegs j)
           (natLe 8 (n + 1) ++ List.replicate 4088 0)).frondPump j 4)) ∧
       (good = false → (n = 0 ∨ n ∈ x.again) → exec (.frondSegmentVerified ⟨slot, []⟩) s = .next
         ((s.setErr F.GLB_ERR_FROND_BAD 0 (s.slotPart j)).jobFault j .digestMismatch)) ∧
       (good = false → n ≠ 0 → n ∉ x.again →
         let t := (s.setJobX j { x with again := n :: x.again }).addSat F.GLB_FROND_STAT_REFETCH 1 0 j
         exec (.frondSegmentVerified ⟨slot, []⟩) s = .next (if s.isRoot j then t else t.frondFetch j n true))) ∧
     (s.fronding j = true → s.isRoot j = false → (x.polling = true ∨ x.fetch ≠ []) →
       (5000000 + x.lastReply ≤ s.now → exec (.frondSwitch slot) s = .next (s.frondSwitch j)) ∧
       (s.now < 5000000 + x.lastReply → exec (.frondSwitch slot) s = .next s))) ∧
  (∀ (slot : BitVec 3) (s : State),
     let j := slot.toNat
     let a := 0x400000 + s.frondBase j
     (s.fronding j = true → s.held j = s.frondSegs j → s.inflight < 64 →
       exec (.launchBarrierStart slot) s = .next ((s.setStage j stageBarrier).digestCheck j)) ∧
     (s.slotState j = slotAccepting → s.stage j = stageBarrier → (s.jobX j).passed = true → (s.sp j).restoring = false →
       s.getF F.GLB_LAUNCH_TICK_TICK 0 j ≤ s.cad →
       (∀ es, let hs := eccOn es true [(a, 0x40000)]
         exec (.threadLaunch ⟨slot, es⟩) s = .next (
           if eccBad hs then (s.jobClusters j).foldl (fun u c => u.clusterFault c .eccUe) ((s.eccHits hs).jobFault j .eccUe)
           else if s.hbmVerify a 0x40000 = false then (s.jobClusters j).foldl (fun u c => u.clusterFault c .tileCheck) ((s.eccHits hs).jobFault j .tileCheck)
           else (s.eccHits hs).launchThreads j (readWords s.hbm a 32768))) ∧
       (s.hbmVerify a 0x40000 = true → Completes (.threadLaunch ⟨slot, []⟩) s (fun s' =>
         s'.stage j = stageRunning ∧ s'.slotState j = slotAccepting ∧ s'.hbm = s.hbm ∧ s'.spad = s.spad ∧ (s'.sp j).lastResume = s.cad ∧
         (∀ c ∈ s.jobClusters j, (∀ k, k < 32768 → spGet (0 : Word) s'.istore (32768 * c + k) = BitVec.ofNat 64 (readLe s.hbm (a + 8 * k) 8)) ∧
           (∀ t, 1 ≤ t → t < 8 → s'.thr c t = s.thr c t) ∧
           ((s.clu c).wiping = false → (s.thr c 0).st = .off → s'.thr c 0 = (s.thr c 0).start (s.getF (thrPcFld 0) c))) ∧
         (∀ c k, c ∉ s.jobClusters j → k < 32768 → spGet (0 : Word) s'.istore (32768 * c + k) = spGet (0 : Word) s.istore (32768 * c + k))))) ∧
     (s.slotState j = slotAccepting → s.stage j = stageRunning → j ∉ s.quiesced → s.inflight < 64 →
       s.getF F.GLB_LAUNCH_TICK_TICK 0 j + (s.jobX j).checks * (1000000 * s.getF F.GLB_SWEEP_MS 0 j) ≤ s.cad →
       exec (.digestSweep slot) s = .next (s.digestCheck j)))

/-- R378, R379, R380, R381: SNAPSHOT, the policy's timer and a child's REQUEST raise a request: the root holds it and announces the next generation
LEAD_US ahead where it stands idle, a member passes it up once. An ANNOUNCE is forwarded and its GEN and Q taken; a message of a child is kept for the
wave in progress. R394, R395, R396, R397, R398: a restore whose part passes every check of Table 15-6 fills the job and reports it, another reports
FAIL with its cause; RESTORE_RESUME lets it run, a replay with no STEP within REPLAY.MS fails with cause 8, and the verdict names the generation
restored or rejects the restore, the job faulted. -/
def Obligations.SporeRequestsAndRestore : Prop :=
  (∀ (s : State),
     (∀ j, s.isRoot j = true → (s.setSp j { s.sp j with held := true }).canAnnounce j = true →
       (s.raiseRequest j).sp j = { s.sp j with held := false, down := some { (s.sporeMsg j 0x02) with
         gen := s.getF F.SPO_GEN_LAST_GEN 0 j + 1, tick := s.cad + 1000 * s.getF F.SPO_LEAD_US 0 j } }) ∧
     (∀ (id : Nat) (c : Cmd), s.cmd? id = some c → c.phase = .started → c.opc = 0x69 →
       let j := c.byte 24
       let legal := c.engine = 0 ∧ j < 8 ∧ c.num 25 39 = 0 ∧ s.slotPart j = some c.part ∧ s.getF F.SPO_SLOT_CTRL_EN 0 j ≠ 0
       (legal → exec (.snapshot id) s = .next ((s.raiseRequest j).commitCmd c 0 0 0 0)) ∧
       (¬ legal → exec (.snapshot id) s = .next (s.setCmd { c with phase := .ended, status := 0x10 }))) ∧
     (∀ slot : BitVec 3,
       let j := slot.toNat
       let ms := if s.getF F.SPO_INTERVAL_AUTO 0 j = 1 then s.getF F.SPO_SUGGEST_INTERVAL_MS 0 j else s.getF F.SPO_INTERVAL_MS 0 j
       s.isRoot j = true → s.sporeLive j = true → s.stage j = stageRunning → s.getF F.SPO_INTERVAL_MS 0 j ≠ 0 → (s.sp j).lastResume + 1000000 * ms ≤ s.cad →
       (s.getF F.SPO_SLOT_CTRL_EN 0 j = 1 ∧ (s.getF F.SPO_SLOT_CTRL_TRIG_EN 0 j).testBit 0 = true →
         exec (.snapshotPolicyTimer slot) s = .next (s.raiseRequest j)) ∧
       (s.getF F.SPO_SLOT_CTRL_EN 0 j ≠ 1 ∨ (s.getF F.SPO_SLOT_CTRL_TRIG_EN 0 j).testBit 0 = false → exec (.snapshotPolicyTimer slot) s = .next s)) ∧
     (∀ (slot : BitVec 3) (child : BitVec 4),
       let j := slot.toNat
       s.sporeLive j = true → readByte s.hbm (0x800 + 4096 * s.getF F.SPO_MAILBOX_ADDR 0 j + 64 * child.toNat) = 0x01 → child.toNat < (s.kids j).length →
       exec (.request slot child) s = .next (s.raiseRequest j)) ∧
     (∀ (slot : BitVec 3) (m : SporeMsg),
       let j := slot.toNat
       let t := (s.setSp j { s.sp j with down := none, upAt := none }).sendDown j m
       s.sporeLive j = true → s.downMsg j 0x02 = some m → (s.sp j).stage = 0 → (s.sp j).restoring = false →
       exec (.announce slot) s = .next (((t.setF F.SPO_GEN_LAST_GEN m.gen 0 j).setF F.SPO_Q_TICK_TICK m.tick 0 j).setSp j
         { t.sp j with stage := 1, forwarded := false, ups := [], mine := none, recorded := false })) ∧
     (∀ (slot : BitVec 3) (child : BitVec 4),
       let j := slot.toNat
       let m := SporeMsg.ofBytes (readBytes s.hbm (4096 * s.getF F.SPO_MAILBOX_ADDR 0 j + 64 * child.toNat) 64)
       let t := s.setSp j { s.sp j with ups := (child.toNat, m) :: (s.sp j).ups.filter (fun u => u.1 ≠ child.toNat) }
       ∀ p ∈ [(Instr.drained slot child, 0x03), (.captured slot child, 0x05), (.partDone slot child, 0x07), (.recorded slot child, 0x0A),
              (.filled slot child, 0x0C), (.replayResult slot child, 0x0E)],
         s.sporeLive j = true → m.kind = p.2 → m.gen = s.curGen j → child.toNat < (s.kids j).length →
           exec p.1 s = .next (t.upTry j) ∧ ((s.sp j).mine = none → exec p.1 s = .next t))) ∧
  (∀ (slot : BitVec 3) (s : State),
     let j := slot.toNat
     let x := s.sp j
     let down := fun (m : SporeMsg) => (s.setSp j { x with down := none, upAt := none }).sendDown j m
     (∀ hostOk : Bool, s.sporeLive j = true → s.stage j = stageBarrier → (s.jobX j).passed = true → x.restoring = true → x.stage = 0 →
       let at_ := s.restoreSlot j (s.getF F.SPO_RESTORE_GEN_GEN 0 j)
       let a := s.hostSlot j (at_.getD 0)
       let st := fun (cause : Nat) => s.setSp j { x with stage := 6, fillCause := cause, upAt := none, recorded := false
                                                         replay := (leNat (s.hostBytes j (4104 + a) 8), leNat (s.hostBytes j (4112 + a) 8)) }
       (at_ = none → exec (.restoreFillDone slot hostOk) s = .next ((st 1).contribute j { (st 1).sporeMsg j 0x0C with flags := 1, cause := 1 })) ∧
       (∀ i, at_ = some i → s.restoreCause j a hostOk ≠ 0 →
         let c := s.restoreCause j a hostOk
         2 ≤ c ∧ c ≤ 6 ∧ exec (.restoreFillDone slot hostOk) s = .next ((st c).contribute j { (st c).sporeMsg j 0x0C with flags := 1, cause := c })) ∧
       (∀ i, at_ = some i → s.restoreCause j a hostOk = 0 →
         let u := (st 0).restoreFill j a
         exec (.restoreFillDone slot hostOk) s = .next (u.contribute j (u.sporeMsg j 0x0C)))) ∧
     (∀ m, s.sporeLive j = true → s.downMsg j 0x0D = some m → x.stage = 6 → x.upAt ≠ none →
       let t := down m
       let u := (t.setStage j stageRunning).setSp j { t.sp j with stage := 7, stepRec := none, recorded := false, lastResume := t.cad }
       exec (.restoreResume slot) s = .next (({ u with quiesced := t.quiesced.filter (fun i => i ≠ j) } : State).settleAll)) ∧
     (s.sporeLive j = true → x.stage = 7 → x.recorded = false → x.lastResume + 1000000 * s.getF F.SPO_REPLAY_MS 0 j ≤ s.cad →
       exec (.replayTimeout slot) s = .next ((s.setSp j { x with recorded := true, fillCause := 8 }).contribute j
         { s.sporeMsg j 0x0E with flags := 1, cause := 8 })) ∧
     (∀ m, s.sporeLive j = true → s.sporeRecordOk j = true → s.downMsg j 0x0F = some m → x.restoring = true → x.stage = 6 ∨ x.stage = 7 →
       let t := down m
       (m.flags.testBit 0 = true → exec (.verdict slot) s = .next (t.restoreReject j (if (t.sp j).fillCause = 0 then 9 else (t.sp j).fillCause))) ∧
       (m.flags.testBit 0 = false → exec (.verdict slot) s = .next (((t.setF F.SPO_GEN_JOB_GEN (t.curGen j) 0 j).sporeRecord j 0 (t.curGen j)).setSp j
         { t.sp j with stage := 0, restoring := false }))))

/-- R381, R382, R383, R384, R392: at Q, with no other job paused and its cut frame closed, a member quiesces; its drain done, it writes back its contexts
and lines, sends its floors and reports DRAINED, or faults past DRAIN.MS. CAPTURE arms copy-on-write and takes the image as the job stands, CAPTURED
reports it, and RESUME lets the job issue again and the copy go on. A member that hears nothing for WAVE.MS after its report faults in a pause, and
gives a restore up. -/
def Obligations.SnapshotPause : Prop :=
  ∀ (slot : BitVec 3) (s : State),
    let j := slot.toNat
    let x := s.sp j
    let down := fun (m : SporeMsg) => (s.setSp j { x with down := none, upAt := none }).sendDown j m
    (s.sporeLive j = true → x.stage = 1 → s.getF F.SPO_Q_TICK_TICK 0 j ≤ s.cad → s.quiesced = [] →
      (s.fioOn = false ∨ s.fioSlot ≠ j ∨ ∀ w ∈ s.fio.wins, s.getF F.SPO_Q_TICK_TICK 0 j < w.start) →
      Completes (.quiesceTick slot) s (fun s' => s'.quiesced = [j] ∧ s'.sp j = { x with stage := 2 } ∧ s'.getF F.SPO_QUIESCE_TICK_TICK 0 j = s.cad % 2 ^ 64 ∧
        s'.threads = s.threads ∧ s'.hbm = s.hbm ∧ s'.spad = s.spad ∧ s'.cmds = s.cmds)) ∧
    (s.sporeLive j = true → x.stage = 2 → x.mine = none → x.upAt = none → s.drained j = true →
      ((∃ k ∈ s.colls, k.slot = j ∧ k.poison = true) → exec (.localDrainDone slot) s = .next (s.jobFault j .collPoisoned)) ∧
      ((∀ k ∈ s.colls, k.slot = j → k.poison = false) → exec (.localDrainDone slot) s = .next
        ((((s.tx.filter (fun e => e.1.tag.toNat = s.slotTag j)).map (fun e => e.1)).foldl State.sendFloor (s.writeBacks j)).contribute j (s.sporeMsg j 0x03)))) ∧
    (s.sporeLive j = true → x.stage = 2 → x.mine = none → x.upAt = none →
      s.getF F.SPO_QUIESCE_TICK_TICK 0 j + 1000000 * s.getF F.SPO_DRAIN_MS 0 j < s.cad →
      exec (.snapDrainTimeout slot) s = .next ((s.setErr F.SPO_ERR_SNAP_CONSISTENCY 0 (s.slotPart j)).jobFault j .snapConsistency)) ∧
    (∀ m, s.sporeLive j = true → s.downMsg j 0x04 = some m → x.stage = 2 → x.upAt ≠ none →
      let t := down m
      let gs := t.eligible j
      Completes (.capture slot) s (fun s' => s'.getF F.SPO_COPY_POS_DONE 0 j = 0 ∧ s'.getF F.SPO_HOLD_TICKS_COUNT 0 j = 0 ∧
        s'.hbm = t.hbm ∧ s'.spad = t.spad ∧ s'.threads = t.threads ∧ s'.quiesced = t.quiesced ∧
        (s'.sp j).stage = 3 ∧ (s'.sp j).image = some (t.captureImage j) ∧ (s'.sp j).granules = gs ∧ (s'.sp j).copying = true ∧ (s'.sp j).copied = [] ∧
        (∀ g ∈ gs, ∀ i, i < 2097152 → readByte (s'.sp j).data (2097152 * g + i) = readByte t.hbm (2097152 * g + i)))) ∧
    (s.sporeLive j = true → x.stage = 3 → x.mine = none → x.upAt = none → exec (.captureDone slot) s = .next (s.contribute j (s.sporeMsg j 0x05))) ∧
    (∀ m, s.sporeLive j = true → s.downMsg j 0x06 = some m → x.stage = 3 → x.upAt ≠ none →
      let t := down m
      let u := (t.setF F.SPO_RESUME_TICK_TICK t.cad 0 j).setSp j { t.sp j with stage := 4, stepRec := none, recorded := false }
      exec (.resume slot) s = .next (({ u with quiesced := t.quiesced.filter (fun i => i ≠ j) } : State).settleAll)) ∧
    (∀ at_, x.upAt = some at_ → s.sporeLive j = true → s.isRoot j = false →
      (at_ + 1000000 * s.getF F.SPO_WAVE_MS 0 j ≤ s.now →
        (x.stage = 2 ∨ x.stage = 3 → exec (.waveTimeout slot) s = .next ((s.setErr F.SPO_ERR_SNAP_CONSISTENCY 0 (s.slotPart j)).jobFault j .snapConsistency)) ∧
        (x.stage = 6 → exec (.waveTimeout slot) s = .next ((((s.jobClusters j).foldl State.cluStop s).setSp j
          { x with upAt := none, mine := none, recorded := true }).setErr F.SPO_ERR_RESTORE_ABANDONED 0 (s.slotPart j)))) ∧
      (s.now < at_ + 1000000 * s.getF F.SPO_WAVE_MS 0 j → exec (.waveTimeout slot) s = .next s))

/-- R385, R386, R387, R388, R389, R390, R391: a write to a granule not yet copied is held and counted; its priority copy, to the pool or to the host slot,
lets it go on. The part is written, its holds let go, and PART_DONE reported, with FAIL where the host gave out. COMMITTED writes VALID and its
record, ABANDONED ends with neither image nor VALID, and GEN_READY names the generation. -/
def Obligations.SnapshotCopies : Prop :=
  ∀ (slot : BitVec 3) (s : State),
    let j := slot.toNat
    let x := s.sp j
    let down := fun (m : SporeMsg) => (s.setSp j { x with down := none, upAt := none }).sendDown j m
    (∀ w : HeldAccess, let g := w.addr.toNat / 2097152
      x.copying = true → g ∈ x.granules → g ∉ x.copied → w.bytes ≠ [] → (w.addr.toNat + w.bytes.length - 1) / 2097152 = g →
      Completes (.cowHold slot w) s (fun s' => s'.hbm = s.hbm ∧ s'.getF F.SPO_COW_HOLD_CNT_COUNT 0 j = (s.getF F.SPO_COW_HOLD_CNT_COUNT 0 j + 1) % 2 ^ 64 ∧
        s'.sp j = { x with holds := (g, s.now, w) :: x.holds, holdStart := if x.holds = [] then s.cad else x.holdStart })) ∧
    (∀ g : BitVec 18, let k := g.toNat
      x.copying = true → k ∈ x.granules → k ∉ x.copied →
      (∀ h, x.holds = [(k, h)] →
        Completes (.priorityCopyDone slot g) s (fun s' => s'.hbm = (s.hbmWrite h.2.addr.toNat h.2.bytes).hbm ∧ (s'.sp j).holds = [] ∧
          (s'.sp j).copied = k :: x.copied ∧ s'.getF F.SPO_COPY_POS_DONE 0 j = (x.copied.length + 1) % 2 ^ 18 ∧
          ((s'.sp j).pool = x.pool → s'.hostMem = (s.hostGranule j k).hostMem) ∧ ((s'.sp j).pool ≠ x.pool → (s'.sp j).pool = k :: x.pool ∧ s'.hostMem = s.hostMem)))) ∧
    (∀ im e, s.sporeLive j = true → x.stage = 4 → x.copying = true → x.mine = none → x.upAt = none → x.image = some im →
      (∀ ok, exec (.partCopyDone slot ⟨ok, .uncorrectable⟩) s = .next ((s.setErr F.SPO_ERR_ECC_UE 0 (s.slotPart j)).jobFault j .eccUe)) ∧
      (e ≠ .uncorrectable →
      (s.partBytes j ≤ s.hostSlotSize j →
        let t := s.writePart j im
        let u := (((t.setSp j { t.sp j with copied := x.granules, pool := [] }).setF F.SPO_COPY_POS_DONE x.granules.length 0 j).setF F.SPO_POOL_OCC_ENTRIES 0 0 j).releaseHolds
          j (fun _ => true)
        exec (.partCopyDone slot ⟨true, e⟩) s = .next (u.contribute j (u.partDoneMsg j false))) ∧
      (s.hostSlotSize j < s.partBytes j →
        let u := s.copyEnd j
        exec (.partCopyDone slot ⟨true, e⟩) s = .next (u.contribute j (u.partDoneMsg j true))) ∧
      (let u := (s.setErr F.SPO_ERR_HOST_ERR 0 (s.slotPart j)).copyEnd j
       exec (.partCopyDone slot ⟨false, e⟩) s = .next (u.contribute j (u.partDoneMsg j true)) ∧ (u.partDoneMsg j true).flags = 1 ∧ (u.partDoneMsg j true).kind = 0x07))) ∧
    (∀ m, s.sporeLive j = true → s.sporeRecordOk j = true → s.downMsg j 0x08 = some m → x.stage = 4 → x.upAt ≠ none →
      let t := down m
      let g := t.curGen j
      let u := (((((t.copyEnd j).hostPut j (4088 + t.hostSlot j (t.sp j).part) (natLe 8 (g ^^^ 0xA5A5A5A5A5A5A5A5))).setF F.SPO_COMMIT_TICK_TICK t.cad 0 j).addF
        F.SPO_SNAP_CNT_COUNT 1 0 j)).setF F.SPO_SUGGEST_INTERVAL_MS m.value 0 j
      exec (.committed slot) s = .next (((u.setSp j { u.sp j with stage := 5, genWait := true, lastResume := u.getF F.SPO_RESUME_TICK_TICK 0 j }).sporeRecord
        j 0 g).sporeStep j)) ∧
    (∀ m, s.sporeLive j = true → s.sporeRecordOk j = true → s.downMsg j 0x09 = some m → x.stage = 4 → x.upAt ≠ none →
      let t := down m
      let u := ((t.copyEnd j).setErr F.SPO_ERR_ABANDONED 0 (t.slotPart j)).addF F.SPO_ABANDON_CNT_COUNT 1 0 j
      let v := (u.setSp j { u.sp j with stage := 0 }).sporeRecord j 0x01 (u.curGen j)
      (u.sp j).image = none ∧ (u.sp j).copying = false ∧ exec (.abandoned slot) s = .next (if v.isRoot j then v.rootAccept j else v)) ∧
    (∀ m, s.sporeLive j = true → s.downMsg j 0x0B = some m → x.stage = 5 → x.upAt ≠ none →
      let t := down m
      let u := (t.setF F.SPO_GEN_JOB_GEN m.gen 0 j).setSp j { t.sp j with stage := 0, genWait := false }
      exec (.genReady slot) s = .next (if u.isRoot j then u.rootAccept j else u))

/-- R402, R449, R475, R477, R479, Table 19-7: an input of 40 V starts a package that is off; its rails sample the straps and start the counter at 0; a
brown-out, an over-voltage and a package reset leave every register and memory at reset but fuses, flash, host memory and links' PERST, over-voltage
holding until the input is back; a flash write cut short tears the image. -/
def Obligations.PackageResets : Prop :=
  (∀ (s : State) (st : PowStage),
    let u := s.cold st
    u.regs = [] ∧ u.hbm = [] ∧ u.hbmSum = [] ∧ u.spad = [] ∧ u.spadSum = [] ∧ u.istore = [] ∧ u.threads = [] ∧ u.clus = [] ∧ u.cmds = [] ∧ u.jobs = [] ∧
    u.holds = [] ∧ u.fuses = s.fuses ∧ u.hostMem = s.hostMem ∧ u.aud.flash = s.aud.flash ∧ u.aud.entries = [] ∧ u.pow = { stage := st } ∧
    (∀ l, (spGet {} u.hostLinks l).up = false) ∧ (s.applying = false → u.flash = s.flash) ∧ (s.applying = true → u.flash = { s.flash with image := .torn })) ∧
  (∀ (mv : BitVec 16) (s : State),
    (s.pow.stage = .off → s.pow.overVolt = false → 40000 ≤ mv.toNat → exec (.inputPowerOn mv) s = .next { s with pow := { s.pow with stage := .soft } }) ∧
    (s.pow.stage ≠ .off → mv.toNat < 38000 → exec (.brownOut mv) s = .next (s.cold .off)) ∧
    (s.pow.stage ≠ .off → s.pow.stage ≠ .trip → 62000 < mv.toNat → Completes (.overVoltage mv) s (fun s' =>
      s' = { s.cold .off with pow := { stage := .off, overVolt := true } })) ∧
    (s.pow.stage = .off → s.pow.overVolt = true → (40000 ≤ mv.toNat ∧ mv.toNat ≤ 59500 →
        exec (.inputBackInRange mv) s = .next { s with pow := { s.pow with overVolt := false, stage := .soft } }) ∧
      (mv.toNat < 40000 ∨ 59500 < mv.toNat → exec (.inputBackInRange mv) s = .next s)) ∧
    (s.powered = true →
      let u := fun (isOut : Bool) => (s.setF F.PWR_VIN_MV mv.toNat).setGov { s.gov with vinOut := isOut }
      (mv.toNat < 42000 ∨ 58000 < mv.toNat → exec (.inputVoltageWarning mv) s = .next (if s.gov.vinOut then (u true).setErr F.PWR_ERR_VIN_WARN
        else ((u true).setErr F.PWR_ERR_VIN_WARN).regWarn)) ∧
      (42000 ≤ mv.toNat → mv.toNat ≤ 58000 → exec (.inputVoltageWarning mv) s = .next (u false)))) ∧
  (∀ (straps : BitVec 3) (s : State), s.pow.stage = .soft → Completes (.railsRegulate straps) s (fun s' => s'.powered = true ∧ s'.cad = 0 ∧
    s'.pow.split0 = straps.getLsbD 0 ∧ s'.pow.split1 = straps.getLsbD 1 ∧ s'.pow.factory = straps.getLsbD 2 ∧
    s'.getF F.LCS_REQ_STATE = s.fuses.lcs % 4 ∧ RegsBut s s' [fldKey F.LCS_REQ_STATE])) ∧
  (∀ s : State, s.powered = true →
    (s.applying = true → exec .packageReset s = .next { s with mgmt := { s.mgmt with heldResets := s.mgmt.heldResets ++ [(0, 0)] } }) ∧
    (s.applying = false → exec .packageReset s = .next (({ s with aud := { s.aud with flash := s.aud.entries.take 4096 } } : State).cold .soft))) ∧
  (∀ (up : BitVec 7) (s : State), s.powered = true → up.toNat ≤ 72 → Completes (.ovuskCoreReset up) s (fun s' =>
    s'.pow = { s.pow with coresUp := up.toNat } ∧ s'.hbm = s.hbm ∧
    (up.toNat = 0 → s.pow.coresUp ≠ 0 → ∀ p, p < 8 → s.partEn p = true → s.getF F.PRT_OWNER_KIND p = 2 → s'.getF F.PRT_ERR_OWNER_LOST p = 1) ∧
    (up.toNat ≠ 0 → s' = { s with pow := { s.pow with coresUp := up.toNat } })))

/-- R403, R404, R405, R406, R407, R409: a control period's sample is measured; the governor takes the first setting, from full down its ladder of levers,
whose prediction meets the target, or the floor with CAP_UNATTAINABLE; a peak above 4.2 kW drops every group to level 1 at once; and the points asked
for take effect. R411, R412, R413, R414: at each new period the broker's root divides what it knows and grants every member its budget, and a member
reports; the root keeps one report of each member; a GRANT not older than the last sets the budget, and an older one nothing. -/
def Obligations.PowerGovernorAndBroker : Prop :=
  ((∀ (x : PowerSample) (s : State), s.powered = true →
     let m := s.measurePower x
     m.getF F.PWR_POWER_NOW_W = x.watts.toNat ∧ m.getF F.PWR_VIN_MV = x.mv.toNat ∧ m.gov.samples.head? = (if s.getF F.PWR_LIMIT_WINDOW_S = 0 then none else some x.watts.toNat) ∧
     m.getF F.PWR_ENERGY_MJ = (s.getF F.PWR_ENERGY_MJ + x.milliJ.toNat) % 2 ^ 64 ∧ m.getF F.PWR_POWER_PEAK_W = max (s.getF F.PWR_POWER_PEAK_W) x.watts.toNat ∧
     (s.diesReady = false → exec (.governorTick x) s = .next m) ∧
     (s.diesReady = true →
       (∀ l t r, m.settings = l ++ t :: r → (∀ y ∈ l, 1000 * m.powerTarget < m.predict x y) → m.predict x t ≤ 1000 * m.powerTarget →
         Completes (.governorTick x) s (fun s' => s'.gov.op = t.op ∧ s'.gov.levels = [t.dl, t.res, t.be] ∧ s'.gov.peak = false ∧
           s'.getF F.PWR_STAT_LIMITING = (if t = fullSetting then 0 else 1) ∧ s'.getF F.PWR_STAT_CAP_UNATTAINABLE = 0 ∧ s'.hbm = s.hbm ∧ s'.threads = s.threads)) ∧
       ((∀ y ∈ m.settings, 1000 * m.powerTarget < m.predict x y) →
         Completes (.governorTick x) s (fun s' => s'.gov.op = 7 ∧ s'.gov.levels = [1, 1, 1] ∧ s'.getF F.PWR_STAT_CAP_UNATTAINABLE = 1 ∧
           s'.getF F.PWR_ERR_CAP_UNATTAINABLE = 1 ∧ s'.getF F.PWR_ISSUE0_LEVEL = 0x1111111111111111 ∧ s'.getF F.PWR_ISSUE1_LEVEL = 0x1111111111111111)))) ∧
   (∀ (w : BitVec 16) (s : State), s.powered = true →
     (w.toNat ≤ 4200 → exec (.peakHit w) s = .next (s.setF F.PWR_POWER_PEAK_W (max (s.getF F.PWR_POWER_PEAK_W) w.toNat))) ∧
     (4200 < w.toNat → Completes (.peakHit w) s (fun s' => s'.getF F.PWR_ERR_PEAK_HIT = 1 ∧ s'.gov = { s.gov with peak := true } ∧
       s'.getF F.PWR_POWER_PEAK_W = max (s.getF F.PWR_POWER_PEAK_W) w.toNat ∧ s'.getF F.PWR_ISSUE0_LEVEL = 0x1111111111111111 ∧
       s'.getF F.PWR_ISSUE1_LEVEL = 0x1111111111111111))) ∧
   (∀ s : State, s.powered = true → s.diesReady = true → (∀ k, k < 4 → max s.gov.op (spGet 0 s.gov.dieOp (1 + k)) ≤ 7) →
     Completes .operatingPointChange s (fun s' => RegsBut s s' [fldKey F.PWR_STAT_OP] ∧ s'.getF F.PWR_STAT_LIMITING = s.getF F.PWR_STAT_LIMITING ∧
       { s' with regs := s.regs } = s ∧ ∀ k, k < 4 → bitsOf (s'.getF F.PWR_STAT_OP) (3 * k + 2) (3 * k) = max s.gov.op (spGet 0 s.gov.dieOp (1 + k))))) ∧
  ((∀ s : State, s.powered = true → s.brokerOn = true → s.gov.epoch < s.cad / 10000000 → s.getF F.MGT_STAT_BOOT = 1 →
     let n := s.cad / 10000000
     let r := s.ownReport
     let u := s.setGov { s.gov with epoch := n, limited := false }
     let me := s.myRank s.brokerSlot
     ∀ root rest, s.brokerRanks = root :: rest →
       (root = me → exec .brokerPeriod s = .next ((u.setGov { u.gov with reports := r :: u.gov.reports.filter (fun x => x.rank ≠ me) }).brokerRoot (root :: rest) (n % 2 ^ 32) r)) ∧
       (root ≠ me → me ∈ rest → exec .brokerPeriod s = .next (u.sendPower root (powerPayload 1 r.flags (n % 2 ^ 32) r.measured (s.getF F.PWR_BUDGET_W) r.cap))) ∧
       (root ≠ me → me ∉ rest → exec .brokerPeriod s = .next u)) ∧
   (∀ (x : Cell) (s : State),
     (s.powerCell x 1 = true → x.srcRank.toNat ∈ s.brokerRanks → exec (.powerReport x) s = .next (s.setGov { s.gov with
       reports := { rank := x.srcRank.toNat, flags := payloadNum x 1 1, measured := payloadNum x 8 4, cap := payloadNum x 16 4 } ::
         s.gov.reports.filter (fun y => y.rank ≠ x.srcRank.toNat) })) ∧
     (s.powerCell x 2 = true →
       let epoch := payloadNum x 4 4
       ((∀ e, s.gov.grantEpoch = some e → seqBelow epoch e = false) → Completes (.powerGrant x) s (fun s' =>
         s'.getF F.PWR_BUDGET_W = payloadNum x 12 4 % 2 ^ 12 ∧ s'.getF F.PWR_GRANT_CNT_COUNT = (s.getF F.PWR_GRANT_CNT_COUNT + 1) % 2 ^ 64 ∧
         s'.gov = { s.gov with grantEpoch := some epoch } ∧ RegsBut s s' [fldKey F.PWR_BUDGET_W, fldKey F.PWR_GRANT_CNT_COUNT])) ∧
       (∀ e, s.gov.grantEpoch = some e → seqBelow epoch e = true → exec (.powerGrant x) s = .next s))))

/-- R212, R415, R416, R417, R418, R469, R470, Table 16-4: a die's sample is recorded and moves its state with hysteresis, raising HOT or LIMIT as it
enters them; 110 °C trips the package, and a failed sensor reads 105. A regulator's warning and its failure are recorded; a failure holds a die,
fences every stack and asserts FAULT_N; a trip asserts THERMTRIP_N and FAULT_N and lets the other outputs go. -/
def Obligations.DieHeatAndRails : Prop :=
  (∀ (d : BitVec 3) (s : State) (t : BitVec 8), s.powered = true → d.toNat < 7 → s.gov.badSensors.contains d.toNat = false →
    let n := d.toNat
    let cur := s.dieState n
    (t.toNat < 110 → Completes (.dieThermalSample d (some t)) s (fun s' =>
      bitsOf (s'.getF F.THM_DIE_TEMP_TEMP) (8 * n + 7) (8 * n) = t.toNat ∧
      bitsOf (s'.getF F.THM_DIE_MAX_TEMP) (8 * n + 7) (8 * n) = max t.toNat (bitsOf (s.getF F.THM_DIE_MAX_TEMP) (8 * n + 7) (8 * n)) ∧
      (∀ k, k < 7 → k ≠ n → s'.dieState k = s.dieState k) ∧ s'.pow = s.pow ∧ s'.hbm = s.hbm ∧
      (105 ≤ t.toNat → s'.dieState n = 2 ∧ (cur ≠ 2 → s'.getF F.THM_ERR_LIMIT = 1)) ∧
      (cur = 0 → t.toNat < 100 → s'.dieState n = 0) ∧
      (cur = 0 → 100 ≤ t.toNat → t.toNat < 105 → s'.dieState n = 1 ∧ s'.getF F.THM_ERR_HOT = 1) ∧
      (cur = 1 → t.toNat < 105 → s'.dieState n = if 97 ≤ t.toNat then 1 else 0) ∧
      (cur = 2 → 97 ≤ t.toNat → t.toNat < 102 → s'.getF F.THM_ERR_HOT = 1) ∧
      (cur = 2 → t.toNat < 105 → s'.dieState n = if 102 ≤ t.toNat then 2 else if 97 ≤ t.toNat then 1 else 0))) ∧
    (110 ≤ t.toNat → Completes (.dieThermalSample d (some t)) s (fun s' => s'.pow = { s.pow with stage := .trip } ∧ (∀ l, (spGet {} s'.hostLinks l).up = false) ∧
      bitsOf (s'.getF F.THM_DIE_TEMP_TEMP) (8 * n + 7) (8 * n) = t.toNat ∧ s'.hbm = s.hbm ∧
      s'.thermtripN = .low ∧ s'.faultN = .low ∧ s'.alertN = .highZ ∧ s'.pwrgd = .highZ))) ∧
  (∀ (d : BitVec 3) (s : State), s.powered = true → d.toNat < 7 → Completes (.dieThermalSample d none) s (fun s' =>
    bitsOf (s'.getF F.THM_DIE_TEMP_TEMP) (8 * d.toNat + 7) (8 * d.toNat) = 105 ∧ s'.getF F.THM_ERR_SENSOR_BAD = 1 ∧ s'.dieState d.toNat = 2 ∧
    d.toNat ∈ s'.gov.badSensors ∧ s'.pow = s.pow)) ∧
  (∀ (d : BitVec 3) (s : State) (t : BitVec 8), s.powered = true → d.toNat < 7 → d.toNat ∈ s.gov.badSensors → Completes (.dieThermalSample d (some t)) s (fun s' =>
    bitsOf (s'.getF F.THM_DIE_TEMP_TEMP) (8 * d.toNat + 7) (8 * d.toNat) = 105 ∧ s'.dieState d.toNat = 2 ∧ d.toNat ∈ s'.gov.badSensors ∧ s'.pow = s.pow)) ∧
  (∀ (s : State) (st : PowStage), (s.cold st).gov.badSensors = []) ∧
  (∀ (x : RailSample) (s : State), s.powered = true → x.rail.toNat < 48 →
    let b := x.rail.toNat
    let hot := decide (115 < x.temp.toNat)
    let reads := fun (s' : State) => s'.getF F.PWR_REG_DATA_MV 0 b = x.mv.toNat ∧ s'.getF F.PWR_REG_DATA_DECI_A 0 b = x.deciA.toNat ∧ s'.getF F.PWR_REG_DATA_TEMP 0 b = x.temp.toNat
    let old := s.getF F.PWR_REG_DATA_FLAGS 0 b
    let u := s.railReading x ((if x.phaseLost then 1 else 0) + (if hot then 2 else 0) + (if old.testBit 2 then 4 else 0) + (if x.phaseLost || hot then 8 else 0))
    reads u ∧ u.getF F.PWR_REG_DATA_FLAGS 0 b = (if x.phaseLost then 1 else 0) + (if hot then 2 else 0) + (if old.testBit 2 then 4 else 0) +
      (if x.phaseLost || hot then 8 else 0) ∧
    (x.phaseLost = false → hot = false → exec (.regulatorWarning x) s = .next u) ∧
    ((x.phaseLost = true ∨ hot = true) → exec (.regulatorWarning x) s = .next (if old.testBit 3 then u.setErr F.PWR_ERR_REG_WARN else u.regWarn)) ∧
    Completes (.railFail x) s (fun s' => reads s' ∧ s'.getF F.PWR_ERR_RAIL_FAIL = 1 ∧ (s'.getF F.PWR_REG_DATA_FLAGS 0 b).testBit 2 = true ∧
      (∃ die, die < 7 ∧ die ∈ s'.pow.heldDies) ∧ s'.faultN = .low ∧ s'.thermtripN = .highZ ∧ (∀ k, k < 16 → s'.getF F.LCH_STAT_FENCED k = 1)))

/-- R422, R425, R426, R476, R478, R479: a link trains once the core is up and PERST_N is released; one that goes down leaves its partition with OWNER_LOST
and its jobs, and PERST_N does the same, takes it down, ends a recovery fetch over it and clears its MSI-X tables. R200, R207, R208, R424, R428: an
access through BAR4 to the partition's own units reads or writes them, its AtomicOps as Lichen's with the old value returned; one to other addresses
reads zeros, writes nothing and is counted; a 128-bit CAS is an unsupported request; an uncorrectable line that is not in the cache, or a fenced
stack, answers a read with an error. -/
def Obligations.HostLinksAndBar4 : Prop :=
  (∀ (l : BitVec 2) (s : State),
     let n := l.toNat
     (s.coreUp = true → s.linkExists n = true → (s.hostLink n).perst = false →
       exec (.hostLinkTrain l) s = .next (s.setHostLink n { s.hostLink n with up := true })) ∧
     ((s.hostLink n).up = true → Completes (.hostLinkDown l) s (fun s' => (s'.hostLink n).up = false ∧ (∀ k, k ≠ n → s'.hostLink k = s.hostLink k) ∧
       s'.jobs = s.jobs ∧ s'.threads = s.threads ∧ s'.cmds = s.cmds ∧ s'.hbm = s.hbm ∧
       (∀ p, s.partOfLink n = some p → s'.getF F.PRT_ERR_OWNER_LOST p = 1))) ∧
     ((s.powered = true → s.linkExists n = true) →
       Completes (.perst l true) s (fun s' => (s'.hostLink n).up = false ∧ (s'.hostLink n).perst = true ∧ s'.jobs = s.jobs ∧ s'.hbm = s.hbm ∧
         (s.mgmt.rcv = some n → s'.mgmt.rcv = none ∧ s'.getF F.MGT_RCV_STAT_BUSY = 0 ∧ s'.getF F.MGT_RCV_STAT_CAUSE = 0x10) ∧
         (s.mgmt.rcv ≠ some n → s'.mgmt = s.mgmt) ∧
         ((s.hostLink n).up = true ∨ (s.hostLink n).perst = false → ∀ p, s.partOfLink n = some p → s'.getF F.PRT_ERR_OWNER_LOST p = 1)) ∧
       exec (.perst l false) s = .next (s.setHostLink n { s.hostLink n with perst := false }))) ∧
  (∀ (l : BitVec 2) (s : State), (s.hostLink l.toNat).up = true → s.getF F.MGT_STAT_BOOT = 1 →
     (∀ a, exec (.bar4Access l (.cas128 a)) s = .next (s.emit (.bar4 none))) ∧
     (∀ (p : Nat), s.partOfLink l.toNat = some p →
       let own := fun (a n : Nat) => (List.range' (unitOf a) (unitOf (a + n - 1) + 1 - unitOf a)).all (fun u => s.prtUnit p u)
       let ready := fun (a : Nat) => s.lichReady (stackOf a) = true ∧ s.fencedAt a = false
       let count := s.addF F.PRT_BAR4_MISS_CNT_COUNT 1 p
       let miss := fun (a n : Nat) => (linesIn a n).any (fun k => s.cacheState k = 0)
       let seen := fun (a n : Nat) (e : Ecc) => if miss a n then s.eccOff (stackOf a) (stackOffset a) e else s
       (∀ (a : BitVec 39) (n : BitVec 13) (e : Ecc),
         let t := seen a.toNat n.toNat e
         let reply := fun (v : List Byte) (bad : Bool) => Out.bar4 (some (v, bad))
         (own a.toNat n.toNat = false → exec (.bar4Access l (.read a n e)) s = .next (count.emit (reply (List.replicate n.toNat 0) false))) ∧
         (own a.toNat n.toNat = true → ready a.toNat → ¬ (miss a.toNat n.toNat = true ∧ e = .uncorrectable) →
           exec (.bar4Access l (.read a n e)) s = .next ((t.memRead .line a.toNat n.toNat).emit (reply (readBytes t.hbm a.toNat n.toNat) false))) ∧
         (own a.toNat n.toNat = true → ready a.toNat → miss a.toNat n.toNat = true → e = .uncorrectable →
           exec (.bar4Access l (.read a n e)) s = .next ((s.hbmUe a.toNat).emit (reply (List.replicate n.toNat 0xFF) true))) ∧
         (own a.toNat n.toNat = true → s.lichReady (stackOf a.toNat) = true → s.fencedAt a.toNat = true →
           exec (.bar4Access l (.read a n e)) s = .next ((s.faultUnit (unitOf a.toNat) .fenced).emit (reply (List.replicate n.toNat 0xFF) true)))) ∧
       (∀ (a : BitVec 39) (bs : List (BitVec 8)),
         (own a.toNat bs.length = false → exec (.bar4Access l (.write a bs)) s = .next count) ∧
         (own a.toNat bs.length = true → ready a.toNat →
           exec (.bar4Access l (.write a bs)) s = .next ((seen a.toNat bs.length .clean).hbmWrite a.toNat bs)) ∧
         (own a.toNat bs.length = true → s.lichReady (stackOf a.toNat) = true → s.fencedAt a.toNat = true →
           exec (.bar4Access l (.write a bs)) s = .next (s.faultUnit (unitOf a.toNat) .fenced))) ∧
       (∀ (a : BitVec 39) (w32 : Bool) (x y : BitVec 64) (e : Ecc),
         let n := if w32 then 4 else 8
         let t := seen a.toNat n e
         let old := readBytes t.hbm a.toNat n
         let put := fun (v : Nat) => ((t.addF F.LCH_ATOMIC_CNT_COUNT 1 (stackOf a.toNat)).hbmLane .atomic a.toNat (natLe n (v % 2 ^ (8 * n)))).emit
           (.bar4 (some (old, false)))
         own a.toNat n = true → ready a.toNat → ¬ (miss a.toNat n = true ∧ e = .uncorrectable) →
           exec (.bar4Access l (.fetchAdd a w32 x e)) s = .next (put (leNat old + x.toNat)) ∧
           exec (.bar4Access l (.swap a w32 x e)) s = .next (put x.toNat) ∧
           exec (.bar4Access l (.cas a w32 x y e)) s = .next (put (if leNat old = x.toNat % 2 ^ (8 * n) then y.toNat else leNat old)))))

/-- R428, R429, R430, R431, R449: a taken write of EN enables a partition whose resources are free; PRESET resets a partition that is enabled, wiping
until it is done, its ACCEPTING slots draining and its LOADING ones wiping; CLASS sets the class, RT_PRIV where it is idle, and its clamped minimum.
R435, R436: where the capacity reaches the admitted minima, a division gives each enabled partition its share: a deadline partition its admitted part
of what it asks, the reserved and the rest what remains by size. A millisecond in which a guarantee is not met counts once, and at the beginning of a
breach its resource, cause and tick are recorded. -/
def Obligations.PartitionsAndGuarantees : Prop :=
  (∀ (s : State) (p : BitVec 3),
     let n := p.toNat
     (∀ o : Origin,
       (∀ (_ : (s.regW .prt 0x10 n).getLsbD 1 = false), Written (.partitionEnable o p) s o .prt n 0x10 (BitVec.ofNat 64 (setBits (s.regW .prt 0x10 n).toNat 0 0 1)) (fun u =>
         RegsBut s u [fldKey F.PRT_CTRL_EN n] ∧ { u with regs := s.regs } = s ∧ u.partEn n = (s.partEn n || (!s.locked .prt n && s.enableOk n)))) ∧
       Written (.preset o p) s o .prt n 0x10 (BitVec.ofNat 64 (setBits (s.regW .prt 0x10 n).toNat 1 1 1)) (fun u =>
         ∃ t : State, { t with regs := s.regs } = s ∧ RegsBut s t [fldKey F.PRT_CTRL_EN n] ∧ t.regW .prt 0x10 n = s.regW .prt 0x10 n ∧ u = t.partReset n) ∧
       (∀ v : Word, Written (.classWrite o p v) s o .prt n 0x48 v (fun u =>
         let x := v.toNat
         let cls := min 2 (bitsOf x 1 0)
         (s.getF F.PRT_CLASS_RT_PRIV n = 1 → cls ≠ 0 → s.batchIdle n = false → u = s) ∧
         (s.getF F.PRT_CLASS_RT_PRIV n = 0 ∨ s.batchIdle n = true → u.getF F.PRT_CLASS_CLASS n = cls ∧
           u.getF F.PRT_CLASS_RT_PRIV n = (if cls = 0 ∧ bitsOf x 8 8 = 1 then 1 else 0) ∧ u.getF F.PRT_CLASS_ADMIT n = bitsOf x 23 16 ∧
           u.getF F.PRT_CLASS_MIN_ISSUE n = clampTo 1 8 (bitsOf x 35 32))))) ∧
     (s.partEn n = false → s.partReset n = s) ∧ (s.partEn n = true → s.applying = true → s.partReset n = s.holdReset 1 n) ∧
     (s.partEn n = true → s.applying = false → (∀ j, j < 8 → s.slotPart j ≠ some n) → s.partReset n = (s.partWipe n).setF F.PRT_STAT_WIPING 1 n) ∧
     (s.getF F.PRT_STAT_WIPING n = 1 →
       let busy := (∃ j, j < 8 ∧ s.slotPart j = some n ∧ (s.slotState j = slotDraining ∨ s.slotState j = slotWiping)) ∨
         ∃ c, c < 256 ∧ s.prtGroup n (c / 8) = true ∧ (s.clu c).wiping = true
       (¬ busy → exec (.partitionWipeDone p true) s = .next (s.setF F.PRT_STAT_WIPING 0 n)) ∧
       (busy → exec (.partitionWipeDone p true) s = .next s) ∧ exec (.partitionWipeDone p false) s = .next s)) ∧
  ((∀ (x : ArbiterDemand) (s : State), s.powered = true → x.resource.toNat < 3 →
     let key := x.resource.toNat * 16 + x.index.toNat
     (totalOf (s.division x) ≤ x.capacity → Completes (.arbiterDivide x) s (fun s' =>
       { s' with parts := s.parts } = s ∧
       (∀ p, p < 8 → s.partEn p = true → s'.part p = { s.part p with grants := (key, amountOf (s.division x) p) :: (s.part p).grants.filter (fun e => e.1 ≠ key) }) ∧
       (∀ p, p < 8 → s.partEn p = false → s'.part p = s.part p))) ∧
     (x.capacity < totalOf (s.division x) → Completes (.arbiterDivide x) s (fun s' => s'.regs = s.regs ∧ s'.hbm = s.hbm ∧
       ∀ p, p < 8 → s.partEn p = true → ∃ got, got ≤ amountOf (s.division x) p ∧ (s'.part p).grants = (key, got) :: (s.part p).grants.filter (fun e => e.1 ≠ key)))) ∧
   (∀ (p : BitVec 3) (x : BreachSample) (s : State), s.powered = true → s.partEn p.toNat = true →
     let n := p.toNat
     let key := x.resource.toNat * 16 + x.index.toNat
     let ms := s.now / 1000000
     let y := s.part n
     (s.breached n x = false → exec (.breach p x) s = .next s) ∧
     (s.breached n x = true → Completes (.breach p x) s (fun s' => s'.hbm = s.hbm ∧ s'.threads = s.threads ∧
       s'.part n = { y with lastBreach := (key, ms) :: y.lastBreach.filter (fun e => e.1 ≠ key) } ∧
       s'.getF F.PRT_BREACH_CNT_COUNT n = (s.getF F.PRT_BREACH_CNT_COUNT n + if y.lastBreach.any (fun e => e.2 = ms) then 0 else 1) % 2 ^ 64 ∧
       ((∀ e ∈ y.lastBreach, e.1 ≠ key) → s'.getF F.PRT_ERR_BREACH n = 1 ∧ s'.getF F.PRT_BREACH_TICK_TICK n = s.cad % 2 ^ 64 ∧
         bitsOf (s'.regW .prt 0xC8 n).toNat 63 60 = x.resource.toNat ∧ bitsOf (s'.regW .prt 0xC8 n).toNat 59 56 = x.cause.toNat ∧
         bitsOf (s'.regW .prt 0xC8 n).toNat 3 0 = if x.resource.toNat = 1 then x.index.toNat else 0)))))

/-- R444, R445, R446, R447, R448, R461: the ROM runs the image of the flash where every check passes, in order, and else enters recovery with the first
failing check as its cause, RETIRED where the fuses say so. GO starts a fetch over a link, whose image runs where it is valid. A restart of the core
ends its updates and boots again. -/
def Obligations.BootAndRecovery : Prop :=
  (∀ s : State, s.coreUp = true → s.boot = bootRom →
    let t := s.applyLcs
    (t.fuses.lcs = 3 → exec .romBoot s = .next (t.setF F.MGT_STAT_BOOT bootRetired)) ∧
    (t.fuses.lcs ≠ 3 → t.flash.image = .shipped → exec .romBoot s = .next (t.jump Config.shippedMessage Config.shippedVersion.toNat)) ∧
    (∀ b, t.fuses.lcs ≠ 3 → t.flash.image = .written b →
      let form := leNat (b.take 4) = 0x45574649 ∧ leNat ((b.drop 4).take 2) = 1 ∧ leNat ((b.drop 7).take 1) ≤ 1 ∧ (∀ x ∈ (b.drop 20).take 4, x = 0) ∧
        (∀ x ∈ (b.drop 120).take 8, x = 0) ∧ (∀ x ∈ (b.drop 17120).take 3360, x = 0) ∧ 1 ≤ leNat ((b.drop 16).take 4) ∧
        leNat ((b.drop 16).take 4) ≤ 0x1000000 ∧ 20480 + leNat ((b.drop 16).take 4) ≤ b.length
      let keys := sha384 ((b.drop 128).take 384) = Config.rsaKeyHash ∧ sha384 ((b.drop 72).take 48) = Config.slhKeyHash
      let rsa := Config.rsaValid ((b.drop 128).take 384) (b.take 512) ((b.drop 512).take 384) = true
      let slh := Config.slhValid ((b.drop 72).take 48) (b.take 512) ((b.drop 896).take 16224) = true
      let body := (b.drop 24).take 48 = sha384 ((b.drop 20480).take (leNat ((b.drop 16).take 4)))
      let svn := t.fuses.svn ≤ leNat ((b.drop 6).take 1)
      (form → keys → rsa → slh → body → svn → exec .romBoot s = .next (t.runImage b)) ∧
      (¬ form → exec .romBoot s = .next (t.enterRecovery 1)) ∧ (form → ¬ keys → exec .romBoot s = .next (t.enterRecovery 2)) ∧
      (form → keys → ¬ rsa → exec .romBoot s = .next (t.enterRecovery 3)) ∧ (form → keys → rsa → ¬ slh → exec .romBoot s = .next (t.enterRecovery 4)) ∧
      (form → keys → rsa → slh → ¬ body → exec .romBoot s = .next (t.enterRecovery 5)) ∧
      (form → keys → rsa → slh → body → ¬ svn → exec .romBoot s = .next (t.enterRecovery 6))) ∧
    (t.fuses.lcs ≠ 3 → t.flash.image = .torn → Completes .romBoot s (fun s' => s'.boot = bootRecovery ∧ s'.getF F.MGT_ERR_IMAGE_BAD = 1 ∧
      1 ≤ s'.getF F.MGT_BOOT_CAUSE_CAUSE ∧ s'.getF F.MGT_BOOT_CAUSE_CAUSE ≤ 6 ∧ s'.fuses = t.fuses ∧ s'.flash = t.flash))) ∧
  (∀ (s : State) (cause : Nat), let u := s.enterRecovery cause
    u.boot = bootRecovery ∧ u.getF F.MGT_BOOT_CAUSE_CAUSE = cause % 256 ∧ u.getF F.MGT_ERR_IMAGE_BAD = 1 ∧ u.fuses = s.fuses ∧ u.flash = s.flash ∧ u.hbm = s.hbm) ∧
  (∀ (s : State) (b : List Byte), let u := s.runImage b
    u.fuses = { s.fuses with svn := if leNat ((b.drop 7).take 1) = 1 then max s.fuses.svn (leNat ((b.drop 6).take 1)) else s.fuses.svn } ∧ u.boot = bootRun ∧
    u.getF F.MGT_BOOT_CAUSE_CAUSE = 0 ∧ u.getF F.MGT_FW_VER_VERSION = leNat ((b.drop 8).take 8) ∧ u.mgmt = { s.mgmt with running := b.take 512 } ∧ u.diesReady = true) ∧
  (∀ (l : BitVec 2) (s : State), Written (.recoveryGo l) s (.host l) .mgt 0 0x70 1 (fun u =>
    (s.boot = bootRecovery → s.mgmt.rcv = none → u.mgmt = { s.mgmt with rcv := some l.toNat } ∧ u.getF F.MGT_RCV_STAT_BUSY = 1 ∧ u.getF F.MGT_RCV_STAT_CAUSE = 0) ∧
    (s.boot ≠ bootRecovery ∨ s.mgmt.rcv ≠ none → u = s))) ∧
  (∀ s : State, s.mgmt.rcv ≠ none →
    let t := (s.setMgmt { s.mgmt with rcv := none }).setF F.MGT_RCV_STAT_BUSY 0
    exec (.recoveryFetchDone none) s = .next (t.setF F.MGT_RCV_STAT_CAUSE 0x10) ∧
    (∀ x : FwImage, let b := x.bytes.take (s.getF F.MGT_RCV_LEN_BYTES)
      (imageCause s.fuses.svn b ≠ 0 → exec (.recoveryFetchDone (some x)) s = .next (t.setF F.MGT_RCV_STAT_CAUSE (imageCause s.fuses.svn b))) ∧
      (imageCause s.fuses.svn b = 0 → exec (.recoveryFetchDone (some x)) s =
        .next ((({ t with flash := { s.flash with image := .written b } } : State).setF F.MGT_RCV_STAT_CAUSE 0).runImage b)))) ∧
  (∀ s : State, s.powered = true → s.boot = bootRun →
    let u : State := { s with mgmt := { s.mgmt with upd := none, applied := false, rcv := none, spdm := [], replies := [] }
                              flash := if s.applying then { s.flash with image := .torn } else s.flash }
    exec .mcRestart s = .next (((u.setF F.MGT_STAT_UPD_ACTIVE 0).setErr F.MGT_ERR_MC_RESTART).bootFlash.runHeldResets))

/-- R449, R453, R454: bytes of an update are staged at their offset, and the last begin the flash write where the image is valid; its end replaces the
image, or tears it, and lets go the resets that waited; an activation of an applied image makes it pending. REQ of the next state loads a fresh NONCE,
and CONFIRM of that NONCE makes the change pending. -/
def Obligations.UpdatesAndLifeCycle : Prop :=
  (∀ (i : BitVec 3) (x : PldmData) (s : State), s.mctpUp i.toNat = true → s.mctpEnabled i.toNat = true →
    let n := i.toNat
    (∀ u, s.mgmt.upd = some u → (u.applying = true ∨ u.iface ≠ n) → exec (.requestFirmwareData i x) s = .next (s.emit (.pldm n 0x15 [0x86]))) ∧
    (∀ u, (s.mgmt.upd = some u ∧ u.applying = false ∧ u.iface = n) ∨ (s.mgmt.upd = none ∧ u = { iface := n }) →
      (4096 < x.data.length → exec (.requestFirmwareData i x) s = .next (s.emit (.pldm n 0x15 [0x83]))) ∧
      (x.data.length ≤ 4096 → 0x1800000 < x.off.toNat + x.data.length → exec (.requestFirmwareData i x) s = .next (s.emit (.pldm n 0x15 [0x82]))) ∧
      (x.data.length ≤ 4096 → x.off.toNat + x.data.length ≤ 0x1800000 →
      let v := { u with staged := writeBytes u.staged x.off.toNat x.data, len := max u.len (x.off.toNat + x.data.length) }
      let t := fun (w : Update) => (s.setMgmt { s.mgmt with upd := some w }).setF F.MGT_STAT_UPD_ACTIVE 1
      (x.last = false → exec (.requestFirmwareData i x) s = .next ((t v).emit (.pldm n 0x15 [0]))) ∧
      (x.last = true → imageCause s.fuses.svn (readBytes v.staged 0 v.len) = 0 → Completes (.requestFirmwareData i x) s (fun s' =>
        s'.mgmt.upd = some { v with applying := true } ∧ s'.applying = true ∧ s'.flash = s.flash ∧ s'.fuses = s.fuses ∧ s'.getF F.MGT_STAT_UPD_ACTIVE = 1)) ∧
      (x.last = true → imageCause s.fuses.svn (readBytes v.staged 0 v.len) ≠ 0 → Completes (.requestFirmwareData i x) s (fun s' =>
        s'.mgmt.upd = none ∧ s'.flash = s.flash ∧ s'.getF F.MGT_STAT_UPD_ACTIVE = 0 ∧ s'.getF F.MGT_ERR_UPD_FAIL = 1)))) ∧
    (exec (.activateFirmware i true) s = .next (s.emit (.pldm n 0x1A [0x8C]))) ∧
    (s.mgmt.applied = false → exec (.activateFirmware i false) s = .next (s.emit (.pldm n 0x1A [0x85]))) ∧
    (s.mgmt.applied = true → exec (.activateFirmware i false) s =
      .next (((s.setMgmt { s.mgmt with applied := false }).setF F.MGT_STAT_UPD_PENDING 1).emit (.pldm n 0x1A [0])))) ∧
  (∀ (s : State) (u : Update), s.mgmt.upd = some u → u.applying = true →
    let t := (s.setMgmt { s.mgmt with upd := none, applied := true }).setF F.MGT_STAT_UPD_ACTIVE 0
    let f := (s.setMgmt { s.mgmt with upd := none, applied := false }).setF F.MGT_STAT_UPD_ACTIVE 0
    exec (.applyComplete true) s = .next ((({ t with flash := { s.flash with image := .written (readBytes u.staged 0 u.len) } } : State).emit
      (.pldm u.iface 0x18 [0])).runHeldResets) ∧
    exec (.applyComplete false) s = .next (((({ f with flash := { s.flash with image := .torn } } : State).setErr F.MGT_ERR_UPD_FAIL).emit
      (.pldm u.iface 0x18 [1])).runHeldResets)) ∧
  (∀ s : State, s.mgmt.heldResets = [] → s.runHeldResets = s.setMgmt { s.mgmt with heldResets := [] }) ∧
  (∀ (o : Origin) (v : Word) (s : State),
    Written (.lcsReq o v) s o .lcs 0 0x40 v (fun u =>
      (v.toNat % 4 = s.fuses.lcs + 1 → u.getF F.LCS_REQ_STATE = v.toNat % 4 ∧ u.getF F.LCS_NONCE_VALUE = (Config.random s.fresh).toNat ∧ u.fresh = s.fresh + 1 ∧
        u.fuses = s.fuses) ∧
      (v.toNat % 4 ≠ s.fuses.lcs + 1 → u = s.setF F.LCS_REQ_STATE s.fuses.lcs)) ∧
    Written (.lcsConfirm o v) s o .lcs 0 0x50 v (fun u =>
      let right := s.getF F.LCS_REQ_STATE = s.fuses.lcs + 1 ∧ v.toNat = s.getF F.LCS_NONCE_VALUE ∧ (s.fuses.lcs ≠ 0 ∨ s.pow.factory = true)
      (right → u = { s with fuses := { s.fuses with pending := true } }) ∧ (¬ right → u = s.setF F.LCS_REQ_STATE s.fuses.lcs)))

/-- R450, R451, R452: an SPDM request on an interface that is up is answered as chapter 18 says, with the identity's chains, digests and signatures while
there is one; a signed answer's transcript is held for PQ_SIG until the next request, and a large answer waits for CHUNK_GET. -/
def Obligations.Attestation : Prop :=
  ∀ (i : BitVec 3) (s : State), s.powered = true → s.boot = bootRun ∨ s.boot = bootRetired → s.ifaceUp i.toNat = true →
    let n := i.toNat
    let t := s.setSpdm n { s.spdm n with m := none }
    let answers := fun (code : Nat) (b : List Byte) => Host.Outcome.next (φ := Fault) (ρ := Refusal) (t.emit (.mctp n code b))
    let signed := fun (u : State) (code : Nat) (b : List Byte) (s' : State) => ∃ m, (s'.spdm n).m = some m ∧
      s'.getF F.MGT_SPDM_CNT_COUNT = (s.getF F.MGT_SPDM_CNT_COUNT + 1) % 2 ^ 64 ∧ s'.out = .mctp n code (b ++ Config.rsaSign m) :: u.out ∧ s'.fuses = s.fuses ∧ s'.hbm = s.hbm
    let nonce := (List.range 4).flatMap (fun k => natLe 8 (Config.random (s.fresh + k)).toNat)
    let identity := s.fuses.lcs = 1 ∨ s.fuses.lcs = 2
    exec (.getVersion i) s = answers 0x04 (natLe 2 0x1300) ∧
    exec (.getCapabilities i) s = answers 0x61 (natLe 4 0x20016) ∧
    exec (.negotiateAlgorithms i) s = answers 0x63 (natLe 1 1 ++ natLe 4 4 ++ natLe 4 8 ++ natLe 4 2) ∧
    exec (.getDigests i) s = answers 0x01 (if s.flash.keys then natLe 1 1 ++ sha384 Config.rsaChain else natLe 1 0) ∧
    (∀ off len : BitVec 16, (identity → let part := (Config.rsaChain.drop off.toNat).take len.toNat
        exec (.getCertificate i off len) s = answers 0x02 (natLe 2 part.length ++ natLe 2 (Config.rsaChain.length - off.toNat - part.length) ++ part)) ∧
      (¬ identity → exec (.getCertificate i off len) s = answers 0x7F [0x07])) ∧
    (∀ x : BitVec 256, (identity → Completes (.challenge i x) s (signed t 0x03 (sha384 Config.rsaChain ++ nonce))) ∧
      (¬ identity → exec (.challenge i x) s = answers 0x7F [0x07])) ∧
    (∀ (k : BitVec 8) (x : BitVec 256),
      let all := (List.range' 1 5).flatMap (fun m => natLe 1 m ++ s.measurement m)
      let body := if k = 0 then natLe 1 5 else if k = 0xFF then all else natLe 1 k.toNat ++ s.measurement k.toNat
      (¬ (k.toNat ≤ 5 ∨ k = 0xFF) → exec (.getMeasurements i k false x) s = answers 0x7F [0x01]) ∧
      (k.toNat ≤ 5 ∨ k = 0xFF → exec (.getMeasurements i k false x) s = answers 0x60 body ∧
        (identity → Completes (.getMeasurements i k true x) s (signed t 0x60 (body ++ nonce)))) ∧
      (¬ identity → exec (.getMeasurements i k true x) s = answers 0x7F [0x07])) ∧
    (∀ k : BitVec 16, let part := ((s.spdm n).large.drop (k.toNat * Config.chunkBytes)).take Config.chunkBytes
      exec (.chunkGet i k) s = if part = [] then answers 0x7F [0x01] else answers 0x06 (natLe 2 k.toNat ++ part)) ∧
    ((s.spdm n).m = none → exec (.pqSig i) s = .next (s.emit (.mctp n 0x7F [0x04]))) ∧
    (∀ m, (s.spdm n).m = some m → exec (.pqSig i) s = .next ((s.setSpdm n { s.spdm n with large := Config.slhSign m }).emit (.mctp n 0x7F [0x0F]))) ∧
    Completes (.pqCert i) s (fun s' => (s'.spdm n).large = (if s.flash.keys then Config.slhChain else []) ∧ (s'.spdm n).m = none ∧
      s'.out = .mctp n 0x7F [0x0F] :: s.out ∧ s'.regs = s.regs)

/-- R439, R440, R455, R456, R457: an MCTP endpoint takes its ID and I3C address; sensors are read on every interface, and registers, the audit log and
resets through the Evbor messages of an enabled one, a disabled interface answering unsupported. R458, R459: fabric management's REG_READ is answered
with the register as it sees it, its REG_WRITE with what was applied, a request repeated within a second with the earlier reply; a write of anything
it may not write is audited and refused, a misaligned access sets ACC_BAD and writes nothing; requests from another endpoint are dropped and counted. -/
def Obligations.ManagementMessages : Prop :=
  (∀ (i : BitVec 3) (s : State), s.mctpUp i.toNat = true →
     let n := i.toNat
     (∀ eid : BitVec 8, (eid ≠ 0 → eid ≠ 0xFF → exec (.setEndpointId i eid) s =
         .next ((s.setMgmt { s.mgmt with eids := spPut 0 s.mgmt.eids n eid.toNat }).emit (.mctp n 0x00 [0, 0, eid]))) ∧
       (eid = 0 ∨ eid = 0xFF → exec (.setEndpointId i eid) s = .next (s.emit (.mctp n 0x00 [0x02])))) ∧
     (∀ a : BitVec 7, s.coreUp = true → exec (.entdaa a) s = .next (s.setMgmt { s.mgmt with i3c := some a.toNat })) ∧
     (∀ k : BitVec 16, let answers := fun (v : Nat) => Host.Outcome.next (φ := Fault) (ρ := Refusal) (s.emit (.pldm n 0x11 (0 :: natLe 4 v)))
       (k = 1 → exec (.pldmSensorRead i k) s = answers (s.getF F.PWR_POWER_NOW_W)) ∧ (k = 2 → exec (.pldmSensorRead i k) s = answers (s.getF F.PWR_VIN_MV)) ∧
       (3 ≤ k.toNat → k.toNat ≤ 9 → exec (.pldmSensorRead i k) s = answers (bitsOf (s.getF F.THM_DIE_TEMP_TEMP) (8 * (k.toNat - 3) + 7) (8 * (k.toNat - 3)))) ∧
       (10 ≤ k.toNat → k.toNat ≤ 25 → exec (.pldmSensorRead i k) s = answers (s.getF F.HBM_STAT_TEMP (k.toNat - 10))) ∧
       (k = 0 ∨ 25 < k.toNat → exec (.pldmSensorRead i k) s = .next (s.emit (.pldm n 0x11 [0x80])))) ∧
     (s.mctpEnabled n = false →
       (∀ off v, exec (.mctpRegRead i off) s = .next (s.emit (.mctp n 0x01 [0x05])) ∧ exec (.mctpRegWrite i off v) s = .next (s.emit (.mctp n 0x02 [0x05]))) ∧
       (∀ seq x, exec (.auditRead i seq x) s = .next (s.emit (.mctp n 0x03 [0x05])) ∧ exec (.auditAck i seq) s = .next (s.emit (.mctp n 0x04 [0x05]))) ∧
       (∀ scope index, exec (.mctpReset i scope index) s = .next (s.emit (.mctp n 0x05 [0x05])))) ∧
     (s.mctpEnabled n = true →
       (∀ (off : BitVec 32) (v : Word), off.toNat % 8 = 0 →
         exec (.mctpRegRead i off) s = .next (s.emit (.mctp n 0x01 (natLe 8 (s.busRead (.mgmt true) off.toNat).toNat))) ∧
         (∀ b inst o, pageAt off.toNat = some (b, inst, o) → regRows b inst o ≠ [] → WriteTaken s (.mgmt true) b inst o v →
           ∃ applied flags, exec (.mctpRegWrite i off v) s = .next (((s.regWrite (.mgmt true) b inst o v).auditReg (.mgmt true) off.toNat
             (s.regValue (.mgmt true) b inst o) v applied flags).emit (.mctp n 0x02 (natLe 8 applied.toNat))))) ∧
       (∀ (off : BitVec 32) (v : Word), off.toNat % 8 ≠ 0 →
         let u := match pageAt off.toNat with | some (b, inst, _) => s.setErr (errAccBad b) inst | none => s
         let old := s.busRead (.mgmt true) (off.toNat / 8 * 8)
         exec (.mctpRegRead i off) s = .next (u.emit (.mctp n 0x01 (natLe 8 0))) ∧
         exec (.mctpRegWrite i off v) s = .next ((u.auditReg (.mgmt true) off.toNat old v old fDiscarded).emit (.mctp n 0x02 (natLe 8 old.toNat)))) ∧
       (∀ (seq : Word) (k : BitVec 8) (ds : List Word),
         (1 ≤ k.toNat → k.toNat ≤ 16 → (∃ e ∈ s.aud.entries, BitVec.ofNat 64 e.seq ∈ ds ∧ seq.toNat ≤ e.seq ∧ e.seq < seq.toNat + k.toNat) →
           ∃ bs, exec (.auditRead i seq ⟨k, ds⟩) s = .next ((State.setErr { s with fresh := s.fresh + 128 } F.AUD_ERR_ECC_UE).emit (.mctp n 0x03 bs))) ∧
         (1 ≤ k.toNat → k.toNat ≤ 16 → (∀ e ∈ s.aud.entries, BitVec.ofNat 64 e.seq ∉ ds) → exec (.auditRead i seq ⟨k, ds⟩) s = .next (s.emit (.mctp n 0x03
           ((s.aud.entries.filter (fun e => decide (seq.toNat ≤ e.seq) && decide (e.seq < seq.toNat + k.toNat))).reverse.flatMap AuditEntry.bytes)))) ∧
         (k = 0 ∨ 16 < k.toNat → exec (.auditRead i seq ⟨k, ds⟩) s = .next (s.emit (.mctp n 0x03 []))) ∧
         (WriteTaken s (.mgmt true) .aud 0 0x48 seq → Completes (.auditAck i seq) s (fun s' => s'.aud.drained = clampTo s.aud.drained s.aud.next seq.toNat ∧
           s'.aud.next = s.aud.next + 1 ∧ s'.hbm = s.hbm ∧ s'.threads = s.threads))) ∧
       (∀ index : BitVec 8, let k := index.toNat
         let yes := s.emit (.mctp n 0x05 [1])
         let no := s.emit (.mctp n 0x05 [0])
         exec (.mctpReset i 0 index) s = .next yes.packageReset ∧
         exec (.mctpReset i 1 index) s = .next (if k < 8 ∧ s.partEn k = true then yes.partReset k else no) ∧
         exec (.mctpReset i 2 index) s = .next (if k < 8 ∧ s.slotState k = slotAccepting then yes.jobReset k else no) ∧
         (∀ scope : BitVec 8, 3 ≤ scope.toNat → exec (.mctpReset i scope index) s = .next no)))) ∧
  (∀ (x : Cell) (s : State),
     let off := payloadNum x 12 4
     let req := payloadNum x 8 4
     let v := BitVec.ofNat 64 (payloadNum x 16 8)
     let from_ := x.srcEp.toNat = s.getF F.MGT_FM_EP_EP
     let reply := fun (u : State) (b : List Byte) => u.sendMgmt x.srcEp.toNat b
     let bad := match pageAt off with | some (b, inst, _) => if s.canSee .fabric b inst then s.setErr (errAccBad b) inst else s | none => s
     (s.mgmtCell x 2 = true →
       (¬ from_ → exec (.mgmtRegRead x) s = .next (s.addF F.MGT_MGMT_DROP_CNT_COUNT 1)) ∧
       (from_ → off % 8 = 0 → exec (.mgmtRegRead x) s = .next (reply s (mgmtPayload 4 0 0 s.myEp req off (s.busRead .fabric off).toNat 0))) ∧
       (from_ → off % 8 ≠ 0 → exec (.mgmtRegRead x) s = .next (reply bad (mgmtPayload 4 0 0 s.myEp req off 0 0)))) ∧
     (s.mgmtCell x 3 = true →
       (¬ from_ → exec (.mgmtRegWrite x) s = .next (s.addF F.MGT_MGMT_DROP_CNT_COUNT 1)) ∧
       (∀ r, from_ → s.mgmt.replies.find? (fun (r : Nat × Nat × List Byte) => r.1 = req && decide (s.now < 1000000000 + r.2.1)) = some r →
         exec (.mgmtRegWrite x) s = .next (reply s r.2.2)) ∧
       (from_ → (∀ r ∈ s.mgmt.replies, r.1 = req → r.2.1 + 1000000000 ≤ s.now) →
         let answer := fun (u : State) (result : Nat) (applied : Word) =>
           let b := mgmtPayload 4 result 0 s.myEp req off v.toNat applied.toNat
           reply (u.setMgmt { u.mgmt with replies := ((req, s.now, b) :: u.mgmt.replies).take 64 }) b
         (fabricTarget off = false → let old := s.busRead .fabric (off / 8 * 8)
           exec (.mgmtRegWrite x) s = .next (answer (s.auditReg .fabric off old v old fIgnored) 1 old)) ∧
         (fabricTarget off = true → off % 8 ≠ 0 → let old := s.busRead .fabric (off / 8 * 8)
           exec (.mgmtRegWrite x) s = .next (answer (bad.auditReg .fabric off old v old fDiscarded) 1 old)) ∧
         (∀ b inst o, fabricTarget off = true → pageAt off = some (b, inst, o) → regRows b inst o ≠ [] → WriteTaken s .fabric b inst o v →
           ∃ applied flags, exec (.mgmtRegWrite x) s = .next (answer ((s.regWrite .fabric b inst o v).auditReg .fabric off
             (s.regValue .fabric b inst o) v applied flags) 0 applied)))))
end

