-- ==== Sys2Proof/Laws/Sparse.lean ====
section
/-! SUPPORT. The laws of sparse maps and byte memories: a read after a write, and the canonical form that every operation keeps. -/

namespace Sys2Proof.Machine

/-! ### Reads after writes -/

theorem spSorted_mono {α : Type} : ∀ (m : Sparse α) (lo lo' : Nat), lo' ≤ lo → spSorted lo m = true → spSorted lo' m = true
  | [], _, _, _, _ => rfl
  | (j, v) :: m, lo, lo', h, hs => by
    simp only [spSorted, Bool.and_eq_true, decide_eq_true_eq] at hs ⊢
    exact ⟨by omega, hs.2⟩

theorem spSorted_spDel {α : Type} : ∀ (m : Sparse α) (lo k : Nat), spSorted lo m = true → spSorted lo (spDel m k) = true
  | [], _, _, _ => rfl
  | (j, v) :: m, lo, k, h => by
    simp only [spSorted, Bool.and_eq_true, decide_eq_true_eq] at h
    unfold spDel
    split
    · exact spSorted_mono _ (j + 1) lo (by omega) (spSorted_spDel m (j + 1) k h.2)
    · simp [spSorted, h.1, spSorted_spDel m (j + 1) k h.2]

theorem spSorted_spIns {α : Type} : ∀ (m : Sparse α) (lo k : Nat) (v : α), spSorted lo m = true → lo ≤ k → spSorted lo (spIns m k v) = true
  | [], _, _, _, _, hk => by simp [spIns, spSorted, hk]
  | (j, w) :: m, lo, k, v, h, hk => by
    simp only [spSorted, Bool.and_eq_true, decide_eq_true_eq] at h
    unfold spIns
    split
    · subst_vars
      simp [spSorted, h]
    · split
      · simp [spSorted, hk]
        exact ⟨by omega, h.2⟩
      · simp [spSorted, h.1]
        exact spSorted_spIns m (j + 1) k v h.2 (by omega)

theorem spSorted_filter {α : Type} (f : Nat × α → Bool) : ∀ (m : Sparse α) (lo : Nat), spSorted lo m = true → spSorted lo (m.filter f) = true
  | [], _, _ => rfl
  | (j, v) :: m, lo, h => by
    simp only [spSorted, Bool.and_eq_true, decide_eq_true_eq] at h
    rw [List.filter_cons]
    split
    · simp [spSorted, h.1, spSorted_filter f m (j + 1) h.2]
    · exact spSorted_mono _ (j + 1) lo (by omega) (spSorted_filter f m (j + 1) h.2)

theorem mem_spDel {α : Type} (e : Nat × α) : ∀ (m : Sparse α) (k : Nat), e ∈ spDel m k → e ∈ m
  | [], _, h => h
  | (j, v) :: m, k, h => by
    unfold spDel at h
    split at h
    · exact List.mem_cons_of_mem _ (mem_spDel e m k h)
    · rcases List.mem_cons.mp h with h | h
      · exact h ▸ List.mem_cons_self
      · exact List.mem_cons_of_mem _ (mem_spDel e m k h)

theorem mem_spIns {α : Type} (e : Nat × α) (k : Nat) (v : α) : ∀ (m : Sparse α), e ∈ spIns m k v → e = (k, v) ∨ e ∈ m
  | [], h => by simpa [spIns] using h
  | (j, w) :: m, h => by
    unfold spIns at h
    split at h
    · rcases List.mem_cons.mp h with h | h
      · exact .inl h
      · exact .inr (List.mem_cons_of_mem _ h)
    · split at h
      · rcases List.mem_cons.mp h with h | h
        · exact .inl h
        · exact .inr h
      · rcases List.mem_cons.mp h with h | h
        · exact .inr (h ▸ List.mem_cons_self)
        · rcases mem_spIns e k v m h with h | h
          · exact .inl h
          · exact .inr (List.mem_cons_of_mem _ h)

/-- A write keeps the canonical form. -/
theorem spWf_spPut {α : Type} [DecidableEq α] (d : α) (m : Sparse α) (k : Nat) (v : α) (h : spWf d m = true) : spWf d (spPut d m k v) = true := by
  simp only [spWf, Bool.and_eq_true, List.all_eq_true, decide_eq_true_eq] at h ⊢
  unfold spPut
  split
  · exact ⟨spSorted_spDel m 0 k h.1, fun e he => h.2 e (mem_spDel e m k he)⟩
  · refine ⟨spSorted_spIns m 0 k v h.1 (Nat.zero_le _), fun e he => ?_⟩
    rcases mem_spIns e k v m he with he | he
    · subst he; assumption
    · exact h.2 e he

/-- A clear keeps the canonical form. -/
theorem spWf_filter {α : Type} [DecidableEq α] (d : α) (f : Nat × α → Bool) (m : Sparse α) (h : spWf d m = true) : spWf d (m.filter f) = true := by
  simp only [spWf, Bool.and_eq_true, List.all_eq_true, decide_eq_true_eq] at h ⊢
  exact ⟨spSorted_filter f m 0 h.1, fun e he => h.2 e (List.mem_filter.mp he).1⟩

theorem spWf_spClear {α : Type} [DecidableEq α] (d : α) (m : Sparse α) (lo n : Nat) (h : spWf d m = true) : spWf d (spClear m lo n) = true :=
  spWf_filter d _ m h

theorem spWf_nil {α : Type} [DecidableEq α] (d : α) : spWf d ([] : Sparse α) = true := rfl

theorem spGet_spIns_same {α : Type} (d : α) (k : Nat) (v : α) : ∀ (m : Sparse α), spGet d (spIns m k v) k = v
  | [] => by simp [spIns, spGet]
  | (j, w) :: m => by
    unfold spIns
    split
    · simp [spGet]
    · split
      · simp [spGet]
      · simp only [spGet]
        rw [if_neg (by assumption)]
        exact spGet_spIns_same d k v m

theorem spGet_spIns_other {α : Type} (d : α) (k k' : Nat) (v : α) (hk : k ≠ k') : ∀ (m : Sparse α), spGet d (spIns m k v) k' = spGet d m k'
  | [] => by simp [spIns, spGet, hk]
  | (j, w) :: m => by
    unfold spIns
    split
    · subst_vars
      simp only [spGet, if_neg hk]
    · split
      · simp only [spGet, if_neg hk]
      · simp only [spGet]
        rw [spGet_spIns_other d k k' v hk m]

theorem spGet_spDel_same {α : Type} (d : α) (k : Nat) : ∀ (m : Sparse α), spGet d (spDel m k) k = d
  | [] => rfl
  | (j, w) :: m => by
    unfold spDel
    split
    · exact spGet_spDel_same d k m
    · simp only [spGet]
      rw [if_neg (by assumption)]
      exact spGet_spDel_same d k m

theorem spGet_spDel_other {α : Type} (d : α) (k k' : Nat) (hk : k ≠ k') : ∀ (m : Sparse α), spGet d (spDel m k) k' = spGet d m k'
  | [] => rfl
  | (j, w) :: m => by
    unfold spDel
    split
    · subst_vars
      simp only [spGet, if_neg hk]
      exact spGet_spDel_other d _ k' hk m
    · simp only [spGet]
      rw [spGet_spDel_other d k k' hk m]

/-- A read of the key written gives the value written. -/
@[simp] theorem spGet_spPut_same {α : Type} [DecidableEq α] (d : α) (m : Sparse α) (k : Nat) (v : α) : spGet d (spPut d m k v) k = v := by
  unfold spPut
  split
  · subst_vars; exact spGet_spDel_same _ k m
  · exact spGet_spIns_same d k v m

/-- A read of another key is as before, whichever default the two use. -/
theorem spGet_spPut_other {α : Type} [DecidableEq α] (d d' : α) (m : Sparse α) (k k' : Nat) (v : α) (hk : k ≠ k') :
    spGet d' (spPut d m k v) k' = spGet d' m k' := by
  unfold spPut
  split
  · exact spGet_spDel_other d' k k' hk m
  · exact spGet_spIns_other d' k k' v hk m

/-! ### Byte memories -/

theorem wf_writeByte (m : Memory) (a : Nat) (b : Byte) (h : Memory.wf m = true) : Memory.wf (writeByte m a b) = true := spWf_spPut _ _ _ _ h

theorem wf_writeBytes : ∀ (bs : List Byte) (m : Memory) (a : Nat), Memory.wf m = true → Memory.wf (writeBytes m a bs) = true
  | [], _, _, h => h
  | b :: bs, m, a, h => wf_writeBytes bs _ _ (wf_writeByte m a b h)

theorem wf_writeLe (m : Memory) (a n v : Nat) (h : Memory.wf m = true) : Memory.wf (writeLe m a n v) = true := wf_writeBytes _ _ _ h

theorem wf_spClear (m : Memory) (a n : Nat) (h : Memory.wf m = true) : Memory.wf (spClear m a n) = true := spWf_spClear _ _ _ _ h

theorem readByte_writeByte (m : Memory) (a a' : Nat) (b : Byte) :
    readByte (writeByte m a b) a' = if a = a' then b else readByte m a' := by
  unfold readByte writeByte
  split
  · subst_vars; exact spGet_spPut_same _ _ _ _
  · exact spGet_spPut_other _ _ _ _ _ _ (by assumption)

/-- A byte outside those written reads as before. -/
theorem readByte_writeBytes_other : ∀ (bs : List Byte) (m : Memory) (a a' : Nat), (a' < a ∨ a + bs.length ≤ a') →
    readByte (writeBytes m a bs) a' = readByte m a'
  | [], _, _, _, _ => rfl
  | b :: bs, m, a, a', ha => by
    simp only [List.length_cons] at ha
    simp only [writeBytes]
    rw [readByte_writeBytes_other bs _ (a + 1) a' (by omega), readByte_writeByte m a a' b, if_neg (by omega)]

/-- The bytes written read back. -/
theorem readByte_writeBytes_same : ∀ (bs : List Byte) (m : Memory) (a i : Nat) (hi : i < bs.length),
    readByte (writeBytes m a bs) (a + i) = bs[i]
  | [], _, _, _, hi => by simp at hi
  | b :: bs, m, a, 0, _ => by
    simp only [writeBytes]
    rw [readByte_writeBytes_other bs _ (a + 1) (a + 0) (by omega), readByte_writeByte m a _ b]
    simp
  | b :: bs, m, a, i + 1, hi => by
    simp only [List.length_cons] at hi
    simp only [writeBytes]
    have := readByte_writeBytes_same bs (writeByte m a b) (a + 1) i (by omega)
    rw [show a + (i + 1) = a + 1 + i by omega, this]
    simp

theorem readBytes_writeBytes : ∀ (n : Nat) (bs : List Byte) (m : Memory) (a i : Nat), n = bs.length - i → i ≤ bs.length →
    readBytes (writeBytes m a bs) (a + i) n = bs.drop i
  | 0, bs, m, a, i, hn, hi => by
    have : bs.length ≤ i := by omega
    simp [readBytes, List.drop_eq_nil_of_le this]
  | n + 1, bs, m, a, i, hn, hi => by
    simp only [readBytes]
    have hlt : i < bs.length := by omega
    rw [readByte_writeBytes_same bs m a i hlt]
    have := readBytes_writeBytes n bs m a (i + 1) (by omega) (by omega)
    rw [show a + i + 1 = a + (i + 1) by omega, this]
    exact (List.drop_eq_getElem_cons hlt).symm

/-- A read of exactly the bytes written gives them. -/
theorem readBytes_writeBytes_self (bs : List Byte) (m : Memory) (a : Nat) : readBytes (writeBytes m a bs) a bs.length = bs := by
  have := readBytes_writeBytes bs.length bs m a 0 (by simp) (by simp)
  simpa using this

end Sys2Proof.Machine
end

