-- ==== Sys2Proof/Laws/State.lean ====
section
/-! SUPPORT. One lemma per field for each update of the state: what the update leaves as it was. -/

namespace Sys2Proof.Machine

/-! ### setW -/

@[simp] theorem State.setW_pending (s : State) (b : Block) (o : Nat) (v : Word) (i k : Nat) : (s.setW b o v i k).pending = s.pending := rfl
@[simp] theorem State.setW_now (s : State) (b : Block) (o : Nat) (v : Word) (i k : Nat) : (s.setW b o v i k).now = s.now := rfl
@[simp] theorem State.setW_cad (s : State) (b : Block) (o : Nat) (v : Word) (i k : Nat) : (s.setW b o v i k).cad = s.cad := rfl
@[simp] theorem State.setW_fresh (s : State) (b : Block) (o : Nat) (v : Word) (i k : Nat) : (s.setW b o v i k).fresh = s.fresh := rfl
@[simp] theorem State.setW_pow (s : State) (b : Block) (o : Nat) (v : Word) (i k : Nat) : (s.setW b o v i k).pow = s.pow := rfl
@[simp] theorem State.setW_errFor (s : State) (b : Block) (o : Nat) (v : Word) (i k : Nat) : (s.setW b o v i k).errFor = s.errFor := rfl
@[simp] theorem State.setW_holds (s : State) (b : Block) (o : Nat) (v : Word) (i k : Nat) : (s.setW b o v i k).holds = s.holds := rfl
@[simp] theorem State.setW_aud (s : State) (b : Block) (o : Nat) (v : Word) (i k : Nat) : (s.setW b o v i k).aud = s.aud := rfl
@[simp] theorem State.setW_hbm (s : State) (b : Block) (o : Nat) (v : Word) (i k : Nat) : (s.setW b o v i k).hbm = s.hbm := rfl
@[simp] theorem State.setW_hbmSum (s : State) (b : Block) (o : Nat) (v : Word) (i k : Nat) : (s.setW b o v i k).hbmSum = s.hbmSum := rfl
@[simp] theorem State.setW_hostMem (s : State) (b : Block) (o : Nat) (v : Word) (i k : Nat) : (s.setW b o v i k).hostMem = s.hostMem := rfl
@[simp] theorem State.setW_spad (s : State) (b : Block) (o : Nat) (v : Word) (i k : Nat) : (s.setW b o v i k).spad = s.spad := rfl
@[simp] theorem State.setW_spadSum (s : State) (b : Block) (o : Nat) (v : Word) (i k : Nat) : (s.setW b o v i k).spadSum = s.spadSum := rfl
@[simp] theorem State.setW_istore (s : State) (b : Block) (o : Nat) (v : Word) (i k : Nat) : (s.setW b o v i k).istore = s.istore := rfl
@[simp] theorem State.setW_threads (s : State) (b : Block) (o : Nat) (v : Word) (i k : Nat) : (s.setW b o v i k).threads = s.threads := rfl
@[simp] theorem State.setW_clus (s : State) (b : Block) (o : Nat) (v : Word) (i k : Nat) : (s.setW b o v i k).clus = s.clus := rfl
@[simp] theorem State.setW_cmds (s : State) (b : Block) (o : Nat) (v : Word) (i k : Nat) : (s.setW b o v i k).cmds = s.cmds := rfl
@[simp] theorem State.setW_nextCmd (s : State) (b : Block) (o : Nat) (v : Word) (i k : Nat) : (s.setW b o v i k).nextCmd = s.nextCmd := rfl
@[simp] theorem State.setW_jobEp (s : State) (b : Block) (o : Nat) (v : Word) (i k : Nat) : (s.setW b o v i k).jobEp = s.jobEp := rfl
@[simp] theorem State.setW_resv (s : State) (b : Block) (o : Nat) (v : Word) (i k : Nat) : (s.setW b o v i k).resv = s.resv := rfl
@[simp] theorem State.setW_dir (s : State) (b : Block) (o : Nat) (v : Word) (i k : Nat) : (s.setW b o v i k).dir = s.dir := rfl
@[simp] theorem State.setW_qctx (s : State) (b : Block) (o : Nat) (v : Word) (i k : Nat) : (s.setW b o v i k).qctx = s.qctx := rfl
@[simp] theorem State.setW_qlru (s : State) (b : Block) (o : Nat) (v : Word) (i k : Nat) : (s.setW b o v i k).qlru = s.qlru := rfl
@[simp] theorem State.setW_qx (s : State) (b : Block) (o : Nat) (v : Word) (i k : Nat) : (s.setW b o v i k).qx = s.qx := rfl
@[simp] theorem State.setW_quiesced (s : State) (b : Block) (o : Nat) (v : Word) (i k : Nat) : (s.setW b o v i k).quiesced = s.quiesced := rfl
@[simp] theorem State.setW_tx (s : State) (b : Block) (o : Nat) (v : Word) (i k : Nat) : (s.setW b o v i k).tx = s.tx := rfl
@[simp] theorem State.setW_rx (s : State) (b : Block) (o : Nat) (v : Word) (i k : Nat) : (s.setW b o v i k).rx = s.rx := rfl
@[simp] theorem State.setW_replyCache (s : State) (b : Block) (o : Nat) (v : Word) (i k : Nat) : (s.setW b o v i k).replyCache = s.replyCache := rfl
@[simp] theorem State.setW_comb (s : State) (b : Block) (o : Nat) (v : Word) (i k : Nat) : (s.setW b o v i k).comb = s.comb := rfl
@[simp] theorem State.setW_nextComb (s : State) (b : Block) (o : Nat) (v : Word) (i k : Nat) : (s.setW b o v i k).nextComb = s.nextComb := rfl
@[simp] theorem State.setW_links (s : State) (b : Block) (o : Nat) (v : Word) (i k : Nat) : (s.setW b o v i k).links = s.links := rfl
@[simp] theorem State.setW_flowLru (s : State) (b : Block) (o : Nat) (v : Word) (i k : Nat) : (s.setW b o v i k).flowLru = s.flowLru := rfl
@[simp] theorem State.setW_tms (s : State) (b : Block) (o : Nat) (v : Word) (i k : Nat) : (s.setW b o v i k).tms = s.tms := rfl
@[simp] theorem State.setW_bulk (s : State) (b : Block) (o : Nat) (v : Word) (i k : Nat) : (s.setW b o v i k).bulk = s.bulk := rfl
@[simp] theorem State.setW_slv (s : State) (b : Block) (o : Nat) (v : Word) (i k : Nat) : (s.setW b o v i k).slv = s.slv := rfl
@[simp] theorem State.setW_batch (s : State) (b : Block) (o : Nat) (v : Word) (i k : Nat) : (s.setW b o v i k).batch = s.batch := rfl
@[simp] theorem State.setW_pcAreas (s : State) (b : Block) (o : Nat) (v : Word) (i k : Nat) : (s.setW b o v i k).pcAreas = s.pcAreas := rfl
@[simp] theorem State.setW_comms (s : State) (b : Block) (o : Nat) (v : Word) (i k : Nat) : (s.setW b o v i k).comms = s.comms := rfl
@[simp] theorem State.setW_colls (s : State) (b : Block) (o : Nat) (v : Word) (i k : Nat) : (s.setW b o v i k).colls = s.colls := rfl
@[simp] theorem State.setW_early (s : State) (b : Block) (o : Nat) (v : Word) (i k : Nat) : (s.setW b o v i k).early = s.early := rfl
@[simp] theorem State.setW_hotAt (s : State) (b : Block) (o : Nat) (v : Word) (i k : Nat) : (s.setW b o v i k).hotAt = s.hotAt := rfl
@[simp] theorem State.setW_capAt (s : State) (b : Block) (o : Nat) (v : Word) (i k : Nat) : (s.setW b o v i k).capAt = s.capAt := rfl
@[simp] theorem State.setW_lich (s : State) (b : Block) (o : Nat) (v : Word) (i k : Nat) : (s.setW b o v i k).lich = s.lich := rfl
@[simp] theorem State.setW_ceLog (s : State) (b : Block) (o : Nat) (v : Word) (i k : Nat) : (s.setW b o v i k).ceLog = s.ceLog := rfl
@[simp] theorem State.setW_ceTimes (s : State) (b : Block) (o : Nat) (v : Word) (i k : Nat) : (s.setW b o v i k).ceTimes = s.ceTimes := rfl
@[simp] theorem State.setW_repairs (s : State) (b : Block) (o : Nat) (v : Word) (i k : Nat) : (s.setW b o v i k).repairs = s.repairs := rfl
@[simp] theorem State.setW_jobs (s : State) (b : Block) (o : Nat) (v : Word) (i k : Nat) : (s.setW b o v i k).jobs = s.jobs := rfl
@[simp] theorem State.setW_spore (s : State) (b : Block) (o : Nat) (v : Word) (i k : Nat) : (s.setW b o v i k).spore = s.spore := rfl
@[simp] theorem State.setW_warnings (s : State) (b : Block) (o : Nat) (v : Word) (i k : Nat) : (s.setW b o v i k).warnings = s.warnings := rfl
@[simp] theorem State.setW_time (s : State) (b : Block) (o : Nat) (v : Word) (i k : Nat) : (s.setW b o v i k).time = s.time := rfl
@[simp] theorem State.setW_fio (s : State) (b : Block) (o : Nat) (v : Word) (i k : Nat) : (s.setW b o v i k).fio = s.fio := rfl
@[simp] theorem State.setW_records (s : State) (b : Block) (o : Nat) (v : Word) (i k : Nat) : (s.setW b o v i k).records = s.records := rfl
@[simp] theorem State.setW_images (s : State) (b : Block) (o : Nat) (v : Word) (i k : Nat) : (s.setW b o v i k).images = s.images := rfl
@[simp] theorem State.setW_gov (s : State) (b : Block) (o : Nat) (v : Word) (i k : Nat) : (s.setW b o v i k).gov = s.gov := rfl
@[simp] theorem State.setW_fuses (s : State) (b : Block) (o : Nat) (v : Word) (i k : Nat) : (s.setW b o v i k).fuses = s.fuses := rfl
@[simp] theorem State.setW_flash (s : State) (b : Block) (o : Nat) (v : Word) (i k : Nat) : (s.setW b o v i k).flash = s.flash := rfl
@[simp] theorem State.setW_mgmt (s : State) (b : Block) (o : Nat) (v : Word) (i k : Nat) : (s.setW b o v i k).mgmt = s.mgmt := rfl
@[simp] theorem State.setW_hostLinks (s : State) (b : Block) (o : Nat) (v : Word) (i k : Nat) : (s.setW b o v i k).hostLinks = s.hostLinks := rfl
@[simp] theorem State.setW_msix (s : State) (b : Block) (o : Nat) (v : Word) (i k : Nat) : (s.setW b o v i k).msix = s.msix := rfl
@[simp] theorem State.setW_parts (s : State) (b : Block) (o : Nat) (v : Word) (i k : Nat) : (s.setW b o v i k).parts = s.parts := rfl
@[simp] theorem State.setW_out (s : State) (b : Block) (o : Nat) (v : Word) (i k : Nat) : (s.setW b o v i k).out = s.out := rfl

/-! ### setF -/

@[simp] theorem State.setF_pending (s : State) (f : Fld) (v i k : Nat) : (s.setF f v i k).pending = s.pending := rfl
@[simp] theorem State.setF_now (s : State) (f : Fld) (v i k : Nat) : (s.setF f v i k).now = s.now := rfl
@[simp] theorem State.setF_cad (s : State) (f : Fld) (v i k : Nat) : (s.setF f v i k).cad = s.cad := rfl
@[simp] theorem State.setF_fresh (s : State) (f : Fld) (v i k : Nat) : (s.setF f v i k).fresh = s.fresh := rfl
@[simp] theorem State.setF_pow (s : State) (f : Fld) (v i k : Nat) : (s.setF f v i k).pow = s.pow := rfl
@[simp] theorem State.setF_errFor (s : State) (f : Fld) (v i k : Nat) : (s.setF f v i k).errFor = s.errFor := rfl
@[simp] theorem State.setF_holds (s : State) (f : Fld) (v i k : Nat) : (s.setF f v i k).holds = s.holds := rfl
@[simp] theorem State.setF_aud (s : State) (f : Fld) (v i k : Nat) : (s.setF f v i k).aud = s.aud := rfl
@[simp] theorem State.setF_hbm (s : State) (f : Fld) (v i k : Nat) : (s.setF f v i k).hbm = s.hbm := rfl
@[simp] theorem State.setF_hbmSum (s : State) (f : Fld) (v i k : Nat) : (s.setF f v i k).hbmSum = s.hbmSum := rfl
@[simp] theorem State.setF_hostMem (s : State) (f : Fld) (v i k : Nat) : (s.setF f v i k).hostMem = s.hostMem := rfl
@[simp] theorem State.setF_spad (s : State) (f : Fld) (v i k : Nat) : (s.setF f v i k).spad = s.spad := rfl
@[simp] theorem State.setF_spadSum (s : State) (f : Fld) (v i k : Nat) : (s.setF f v i k).spadSum = s.spadSum := rfl
@[simp] theorem State.setF_istore (s : State) (f : Fld) (v i k : Nat) : (s.setF f v i k).istore = s.istore := rfl
@[simp] theorem State.setF_threads (s : State) (f : Fld) (v i k : Nat) : (s.setF f v i k).threads = s.threads := rfl
@[simp] theorem State.setF_clus (s : State) (f : Fld) (v i k : Nat) : (s.setF f v i k).clus = s.clus := rfl
@[simp] theorem State.setF_cmds (s : State) (f : Fld) (v i k : Nat) : (s.setF f v i k).cmds = s.cmds := rfl
@[simp] theorem State.setF_nextCmd (s : State) (f : Fld) (v i k : Nat) : (s.setF f v i k).nextCmd = s.nextCmd := rfl
@[simp] theorem State.setF_jobEp (s : State) (f : Fld) (v i k : Nat) : (s.setF f v i k).jobEp = s.jobEp := rfl
@[simp] theorem State.setF_resv (s : State) (f : Fld) (v i k : Nat) : (s.setF f v i k).resv = s.resv := rfl
@[simp] theorem State.setF_dir (s : State) (f : Fld) (v i k : Nat) : (s.setF f v i k).dir = s.dir := rfl
@[simp] theorem State.setF_qctx (s : State) (f : Fld) (v i k : Nat) : (s.setF f v i k).qctx = s.qctx := rfl
@[simp] theorem State.setF_qlru (s : State) (f : Fld) (v i k : Nat) : (s.setF f v i k).qlru = s.qlru := rfl
@[simp] theorem State.setF_qx (s : State) (f : Fld) (v i k : Nat) : (s.setF f v i k).qx = s.qx := rfl
@[simp] theorem State.setF_quiesced (s : State) (f : Fld) (v i k : Nat) : (s.setF f v i k).quiesced = s.quiesced := rfl
@[simp] theorem State.setF_tx (s : State) (f : Fld) (v i k : Nat) : (s.setF f v i k).tx = s.tx := rfl
@[simp] theorem State.setF_rx (s : State) (f : Fld) (v i k : Nat) : (s.setF f v i k).rx = s.rx := rfl
@[simp] theorem State.setF_replyCache (s : State) (f : Fld) (v i k : Nat) : (s.setF f v i k).replyCache = s.replyCache := rfl
@[simp] theorem State.setF_comb (s : State) (f : Fld) (v i k : Nat) : (s.setF f v i k).comb = s.comb := rfl
@[simp] theorem State.setF_nextComb (s : State) (f : Fld) (v i k : Nat) : (s.setF f v i k).nextComb = s.nextComb := rfl
@[simp] theorem State.setF_links (s : State) (f : Fld) (v i k : Nat) : (s.setF f v i k).links = s.links := rfl
@[simp] theorem State.setF_flowLru (s : State) (f : Fld) (v i k : Nat) : (s.setF f v i k).flowLru = s.flowLru := rfl
@[simp] theorem State.setF_tms (s : State) (f : Fld) (v i k : Nat) : (s.setF f v i k).tms = s.tms := rfl
@[simp] theorem State.setF_bulk (s : State) (f : Fld) (v i k : Nat) : (s.setF f v i k).bulk = s.bulk := rfl
@[simp] theorem State.setF_slv (s : State) (f : Fld) (v i k : Nat) : (s.setF f v i k).slv = s.slv := rfl
@[simp] theorem State.setF_batch (s : State) (f : Fld) (v i k : Nat) : (s.setF f v i k).batch = s.batch := rfl
@[simp] theorem State.setF_pcAreas (s : State) (f : Fld) (v i k : Nat) : (s.setF f v i k).pcAreas = s.pcAreas := rfl
@[simp] theorem State.setF_comms (s : State) (f : Fld) (v i k : Nat) : (s.setF f v i k).comms = s.comms := rfl
@[simp] theorem State.setF_colls (s : State) (f : Fld) (v i k : Nat) : (s.setF f v i k).colls = s.colls := rfl
@[simp] theorem State.setF_early (s : State) (f : Fld) (v i k : Nat) : (s.setF f v i k).early = s.early := rfl
@[simp] theorem State.setF_hotAt (s : State) (f : Fld) (v i k : Nat) : (s.setF f v i k).hotAt = s.hotAt := rfl
@[simp] theorem State.setF_capAt (s : State) (f : Fld) (v i k : Nat) : (s.setF f v i k).capAt = s.capAt := rfl
@[simp] theorem State.setF_lich (s : State) (f : Fld) (v i k : Nat) : (s.setF f v i k).lich = s.lich := rfl
@[simp] theorem State.setF_ceLog (s : State) (f : Fld) (v i k : Nat) : (s.setF f v i k).ceLog = s.ceLog := rfl
@[simp] theorem State.setF_ceTimes (s : State) (f : Fld) (v i k : Nat) : (s.setF f v i k).ceTimes = s.ceTimes := rfl
@[simp] theorem State.setF_repairs (s : State) (f : Fld) (v i k : Nat) : (s.setF f v i k).repairs = s.repairs := rfl
@[simp] theorem State.setF_jobs (s : State) (f : Fld) (v i k : Nat) : (s.setF f v i k).jobs = s.jobs := rfl
@[simp] theorem State.setF_spore (s : State) (f : Fld) (v i k : Nat) : (s.setF f v i k).spore = s.spore := rfl
@[simp] theorem State.setF_warnings (s : State) (f : Fld) (v i k : Nat) : (s.setF f v i k).warnings = s.warnings := rfl
@[simp] theorem State.setF_time (s : State) (f : Fld) (v i k : Nat) : (s.setF f v i k).time = s.time := rfl
@[simp] theorem State.setF_fio (s : State) (f : Fld) (v i k : Nat) : (s.setF f v i k).fio = s.fio := rfl
@[simp] theorem State.setF_records (s : State) (f : Fld) (v i k : Nat) : (s.setF f v i k).records = s.records := rfl
@[simp] theorem State.setF_images (s : State) (f : Fld) (v i k : Nat) : (s.setF f v i k).images = s.images := rfl
@[simp] theorem State.setF_gov (s : State) (f : Fld) (v i k : Nat) : (s.setF f v i k).gov = s.gov := rfl
@[simp] theorem State.setF_fuses (s : State) (f : Fld) (v i k : Nat) : (s.setF f v i k).fuses = s.fuses := rfl
@[simp] theorem State.setF_flash (s : State) (f : Fld) (v i k : Nat) : (s.setF f v i k).flash = s.flash := rfl
@[simp] theorem State.setF_mgmt (s : State) (f : Fld) (v i k : Nat) : (s.setF f v i k).mgmt = s.mgmt := rfl
@[simp] theorem State.setF_hostLinks (s : State) (f : Fld) (v i k : Nat) : (s.setF f v i k).hostLinks = s.hostLinks := rfl
@[simp] theorem State.setF_msix (s : State) (f : Fld) (v i k : Nat) : (s.setF f v i k).msix = s.msix := rfl
@[simp] theorem State.setF_parts (s : State) (f : Fld) (v i k : Nat) : (s.setF f v i k).parts = s.parts := rfl
@[simp] theorem State.setF_out (s : State) (f : Fld) (v i k : Nat) : (s.setF f v i k).out = s.out := rfl

/-! ### addF -/

@[simp] theorem State.addF_pending (s : State) (f : Fld) (v i k : Nat) : (s.addF f v i k).pending = s.pending := rfl
@[simp] theorem State.addF_now (s : State) (f : Fld) (v i k : Nat) : (s.addF f v i k).now = s.now := rfl
@[simp] theorem State.addF_cad (s : State) (f : Fld) (v i k : Nat) : (s.addF f v i k).cad = s.cad := rfl
@[simp] theorem State.addF_fresh (s : State) (f : Fld) (v i k : Nat) : (s.addF f v i k).fresh = s.fresh := rfl
@[simp] theorem State.addF_pow (s : State) (f : Fld) (v i k : Nat) : (s.addF f v i k).pow = s.pow := rfl
@[simp] theorem State.addF_errFor (s : State) (f : Fld) (v i k : Nat) : (s.addF f v i k).errFor = s.errFor := rfl
@[simp] theorem State.addF_holds (s : State) (f : Fld) (v i k : Nat) : (s.addF f v i k).holds = s.holds := rfl
@[simp] theorem State.addF_aud (s : State) (f : Fld) (v i k : Nat) : (s.addF f v i k).aud = s.aud := rfl
@[simp] theorem State.addF_hbm (s : State) (f : Fld) (v i k : Nat) : (s.addF f v i k).hbm = s.hbm := rfl
@[simp] theorem State.addF_hbmSum (s : State) (f : Fld) (v i k : Nat) : (s.addF f v i k).hbmSum = s.hbmSum := rfl
@[simp] theorem State.addF_hostMem (s : State) (f : Fld) (v i k : Nat) : (s.addF f v i k).hostMem = s.hostMem := rfl
@[simp] theorem State.addF_spad (s : State) (f : Fld) (v i k : Nat) : (s.addF f v i k).spad = s.spad := rfl
@[simp] theorem State.addF_spadSum (s : State) (f : Fld) (v i k : Nat) : (s.addF f v i k).spadSum = s.spadSum := rfl
@[simp] theorem State.addF_istore (s : State) (f : Fld) (v i k : Nat) : (s.addF f v i k).istore = s.istore := rfl
@[simp] theorem State.addF_threads (s : State) (f : Fld) (v i k : Nat) : (s.addF f v i k).threads = s.threads := rfl
@[simp] theorem State.addF_clus (s : State) (f : Fld) (v i k : Nat) : (s.addF f v i k).clus = s.clus := rfl
@[simp] theorem State.addF_cmds (s : State) (f : Fld) (v i k : Nat) : (s.addF f v i k).cmds = s.cmds := rfl
@[simp] theorem State.addF_nextCmd (s : State) (f : Fld) (v i k : Nat) : (s.addF f v i k).nextCmd = s.nextCmd := rfl
@[simp] theorem State.addF_jobEp (s : State) (f : Fld) (v i k : Nat) : (s.addF f v i k).jobEp = s.jobEp := rfl
@[simp] theorem State.addF_resv (s : State) (f : Fld) (v i k : Nat) : (s.addF f v i k).resv = s.resv := rfl
@[simp] theorem State.addF_dir (s : State) (f : Fld) (v i k : Nat) : (s.addF f v i k).dir = s.dir := rfl
@[simp] theorem State.addF_qctx (s : State) (f : Fld) (v i k : Nat) : (s.addF f v i k).qctx = s.qctx := rfl
@[simp] theorem State.addF_qlru (s : State) (f : Fld) (v i k : Nat) : (s.addF f v i k).qlru = s.qlru := rfl
@[simp] theorem State.addF_qx (s : State) (f : Fld) (v i k : Nat) : (s.addF f v i k).qx = s.qx := rfl
@[simp] theorem State.addF_quiesced (s : State) (f : Fld) (v i k : Nat) : (s.addF f v i k).quiesced = s.quiesced := rfl
@[simp] theorem State.addF_tx (s : State) (f : Fld) (v i k : Nat) : (s.addF f v i k).tx = s.tx := rfl
@[simp] theorem State.addF_rx (s : State) (f : Fld) (v i k : Nat) : (s.addF f v i k).rx = s.rx := rfl
@[simp] theorem State.addF_replyCache (s : State) (f : Fld) (v i k : Nat) : (s.addF f v i k).replyCache = s.replyCache := rfl
@[simp] theorem State.addF_comb (s : State) (f : Fld) (v i k : Nat) : (s.addF f v i k).comb = s.comb := rfl
@[simp] theorem State.addF_nextComb (s : State) (f : Fld) (v i k : Nat) : (s.addF f v i k).nextComb = s.nextComb := rfl
@[simp] theorem State.addF_links (s : State) (f : Fld) (v i k : Nat) : (s.addF f v i k).links = s.links := rfl
@[simp] theorem State.addF_flowLru (s : State) (f : Fld) (v i k : Nat) : (s.addF f v i k).flowLru = s.flowLru := rfl
@[simp] theorem State.addF_tms (s : State) (f : Fld) (v i k : Nat) : (s.addF f v i k).tms = s.tms := rfl
@[simp] theorem State.addF_bulk (s : State) (f : Fld) (v i k : Nat) : (s.addF f v i k).bulk = s.bulk := rfl
@[simp] theorem State.addF_slv (s : State) (f : Fld) (v i k : Nat) : (s.addF f v i k).slv = s.slv := rfl
@[simp] theorem State.addF_batch (s : State) (f : Fld) (v i k : Nat) : (s.addF f v i k).batch = s.batch := rfl
@[simp] theorem State.addF_pcAreas (s : State) (f : Fld) (v i k : Nat) : (s.addF f v i k).pcAreas = s.pcAreas := rfl
@[simp] theorem State.addF_comms (s : State) (f : Fld) (v i k : Nat) : (s.addF f v i k).comms = s.comms := rfl
@[simp] theorem State.addF_colls (s : State) (f : Fld) (v i k : Nat) : (s.addF f v i k).colls = s.colls := rfl
@[simp] theorem State.addF_early (s : State) (f : Fld) (v i k : Nat) : (s.addF f v i k).early = s.early := rfl
@[simp] theorem State.addF_hotAt (s : State) (f : Fld) (v i k : Nat) : (s.addF f v i k).hotAt = s.hotAt := rfl
@[simp] theorem State.addF_capAt (s : State) (f : Fld) (v i k : Nat) : (s.addF f v i k).capAt = s.capAt := rfl
@[simp] theorem State.addF_lich (s : State) (f : Fld) (v i k : Nat) : (s.addF f v i k).lich = s.lich := rfl
@[simp] theorem State.addF_ceLog (s : State) (f : Fld) (v i k : Nat) : (s.addF f v i k).ceLog = s.ceLog := rfl
@[simp] theorem State.addF_ceTimes (s : State) (f : Fld) (v i k : Nat) : (s.addF f v i k).ceTimes = s.ceTimes := rfl
@[simp] theorem State.addF_repairs (s : State) (f : Fld) (v i k : Nat) : (s.addF f v i k).repairs = s.repairs := rfl
@[simp] theorem State.addF_jobs (s : State) (f : Fld) (v i k : Nat) : (s.addF f v i k).jobs = s.jobs := rfl
@[simp] theorem State.addF_spore (s : State) (f : Fld) (v i k : Nat) : (s.addF f v i k).spore = s.spore := rfl
@[simp] theorem State.addF_warnings (s : State) (f : Fld) (v i k : Nat) : (s.addF f v i k).warnings = s.warnings := rfl
@[simp] theorem State.addF_time (s : State) (f : Fld) (v i k : Nat) : (s.addF f v i k).time = s.time := rfl
@[simp] theorem State.addF_fio (s : State) (f : Fld) (v i k : Nat) : (s.addF f v i k).fio = s.fio := rfl
@[simp] theorem State.addF_records (s : State) (f : Fld) (v i k : Nat) : (s.addF f v i k).records = s.records := rfl
@[simp] theorem State.addF_images (s : State) (f : Fld) (v i k : Nat) : (s.addF f v i k).images = s.images := rfl
@[simp] theorem State.addF_gov (s : State) (f : Fld) (v i k : Nat) : (s.addF f v i k).gov = s.gov := rfl
@[simp] theorem State.addF_fuses (s : State) (f : Fld) (v i k : Nat) : (s.addF f v i k).fuses = s.fuses := rfl
@[simp] theorem State.addF_flash (s : State) (f : Fld) (v i k : Nat) : (s.addF f v i k).flash = s.flash := rfl
@[simp] theorem State.addF_mgmt (s : State) (f : Fld) (v i k : Nat) : (s.addF f v i k).mgmt = s.mgmt := rfl
@[simp] theorem State.addF_hostLinks (s : State) (f : Fld) (v i k : Nat) : (s.addF f v i k).hostLinks = s.hostLinks := rfl
@[simp] theorem State.addF_msix (s : State) (f : Fld) (v i k : Nat) : (s.addF f v i k).msix = s.msix := rfl
@[simp] theorem State.addF_parts (s : State) (f : Fld) (v i k : Nat) : (s.addF f v i k).parts = s.parts := rfl
@[simp] theorem State.addF_out (s : State) (f : Fld) (v i k : Nat) : (s.addF f v i k).out = s.out := rfl

/-! ### addSat -/

@[simp] theorem State.addSat_pending (s : State) (f : Fld) (v i k : Nat) : (s.addSat f v i k).pending = s.pending := rfl
@[simp] theorem State.addSat_now (s : State) (f : Fld) (v i k : Nat) : (s.addSat f v i k).now = s.now := rfl
@[simp] theorem State.addSat_cad (s : State) (f : Fld) (v i k : Nat) : (s.addSat f v i k).cad = s.cad := rfl
@[simp] theorem State.addSat_fresh (s : State) (f : Fld) (v i k : Nat) : (s.addSat f v i k).fresh = s.fresh := rfl
@[simp] theorem State.addSat_pow (s : State) (f : Fld) (v i k : Nat) : (s.addSat f v i k).pow = s.pow := rfl
@[simp] theorem State.addSat_errFor (s : State) (f : Fld) (v i k : Nat) : (s.addSat f v i k).errFor = s.errFor := rfl
@[simp] theorem State.addSat_holds (s : State) (f : Fld) (v i k : Nat) : (s.addSat f v i k).holds = s.holds := rfl
@[simp] theorem State.addSat_aud (s : State) (f : Fld) (v i k : Nat) : (s.addSat f v i k).aud = s.aud := rfl
@[simp] theorem State.addSat_hbm (s : State) (f : Fld) (v i k : Nat) : (s.addSat f v i k).hbm = s.hbm := rfl
@[simp] theorem State.addSat_hbmSum (s : State) (f : Fld) (v i k : Nat) : (s.addSat f v i k).hbmSum = s.hbmSum := rfl
@[simp] theorem State.addSat_hostMem (s : State) (f : Fld) (v i k : Nat) : (s.addSat f v i k).hostMem = s.hostMem := rfl
@[simp] theorem State.addSat_spad (s : State) (f : Fld) (v i k : Nat) : (s.addSat f v i k).spad = s.spad := rfl
@[simp] theorem State.addSat_spadSum (s : State) (f : Fld) (v i k : Nat) : (s.addSat f v i k).spadSum = s.spadSum := rfl
@[simp] theorem State.addSat_istore (s : State) (f : Fld) (v i k : Nat) : (s.addSat f v i k).istore = s.istore := rfl
@[simp] theorem State.addSat_threads (s : State) (f : Fld) (v i k : Nat) : (s.addSat f v i k).threads = s.threads := rfl
@[simp] theorem State.addSat_clus (s : State) (f : Fld) (v i k : Nat) : (s.addSat f v i k).clus = s.clus := rfl
@[simp] theorem State.addSat_cmds (s : State) (f : Fld) (v i k : Nat) : (s.addSat f v i k).cmds = s.cmds := rfl
@[simp] theorem State.addSat_nextCmd (s : State) (f : Fld) (v i k : Nat) : (s.addSat f v i k).nextCmd = s.nextCmd := rfl
@[simp] theorem State.addSat_jobEp (s : State) (f : Fld) (v i k : Nat) : (s.addSat f v i k).jobEp = s.jobEp := rfl
@[simp] theorem State.addSat_resv (s : State) (f : Fld) (v i k : Nat) : (s.addSat f v i k).resv = s.resv := rfl
@[simp] theorem State.addSat_dir (s : State) (f : Fld) (v i k : Nat) : (s.addSat f v i k).dir = s.dir := rfl
@[simp] theorem State.addSat_qctx (s : State) (f : Fld) (v i k : Nat) : (s.addSat f v i k).qctx = s.qctx := rfl
@[simp] theorem State.addSat_qlru (s : State) (f : Fld) (v i k : Nat) : (s.addSat f v i k).qlru = s.qlru := rfl
@[simp] theorem State.addSat_qx (s : State) (f : Fld) (v i k : Nat) : (s.addSat f v i k).qx = s.qx := rfl
@[simp] theorem State.addSat_quiesced (s : State) (f : Fld) (v i k : Nat) : (s.addSat f v i k).quiesced = s.quiesced := rfl
@[simp] theorem State.addSat_tx (s : State) (f : Fld) (v i k : Nat) : (s.addSat f v i k).tx = s.tx := rfl
@[simp] theorem State.addSat_rx (s : State) (f : Fld) (v i k : Nat) : (s.addSat f v i k).rx = s.rx := rfl
@[simp] theorem State.addSat_replyCache (s : State) (f : Fld) (v i k : Nat) : (s.addSat f v i k).replyCache = s.replyCache := rfl
@[simp] theorem State.addSat_comb (s : State) (f : Fld) (v i k : Nat) : (s.addSat f v i k).comb = s.comb := rfl
@[simp] theorem State.addSat_nextComb (s : State) (f : Fld) (v i k : Nat) : (s.addSat f v i k).nextComb = s.nextComb := rfl
@[simp] theorem State.addSat_links (s : State) (f : Fld) (v i k : Nat) : (s.addSat f v i k).links = s.links := rfl
@[simp] theorem State.addSat_flowLru (s : State) (f : Fld) (v i k : Nat) : (s.addSat f v i k).flowLru = s.flowLru := rfl
@[simp] theorem State.addSat_tms (s : State) (f : Fld) (v i k : Nat) : (s.addSat f v i k).tms = s.tms := rfl
@[simp] theorem State.addSat_bulk (s : State) (f : Fld) (v i k : Nat) : (s.addSat f v i k).bulk = s.bulk := rfl
@[simp] theorem State.addSat_slv (s : State) (f : Fld) (v i k : Nat) : (s.addSat f v i k).slv = s.slv := rfl
@[simp] theorem State.addSat_batch (s : State) (f : Fld) (v i k : Nat) : (s.addSat f v i k).batch = s.batch := rfl
@[simp] theorem State.addSat_pcAreas (s : State) (f : Fld) (v i k : Nat) : (s.addSat f v i k).pcAreas = s.pcAreas := rfl
@[simp] theorem State.addSat_comms (s : State) (f : Fld) (v i k : Nat) : (s.addSat f v i k).comms = s.comms := rfl
@[simp] theorem State.addSat_colls (s : State) (f : Fld) (v i k : Nat) : (s.addSat f v i k).colls = s.colls := rfl
@[simp] theorem State.addSat_early (s : State) (f : Fld) (v i k : Nat) : (s.addSat f v i k).early = s.early := rfl
@[simp] theorem State.addSat_hotAt (s : State) (f : Fld) (v i k : Nat) : (s.addSat f v i k).hotAt = s.hotAt := rfl
@[simp] theorem State.addSat_capAt (s : State) (f : Fld) (v i k : Nat) : (s.addSat f v i k).capAt = s.capAt := rfl
@[simp] theorem State.addSat_lich (s : State) (f : Fld) (v i k : Nat) : (s.addSat f v i k).lich = s.lich := rfl
@[simp] theorem State.addSat_ceLog (s : State) (f : Fld) (v i k : Nat) : (s.addSat f v i k).ceLog = s.ceLog := rfl
@[simp] theorem State.addSat_ceTimes (s : State) (f : Fld) (v i k : Nat) : (s.addSat f v i k).ceTimes = s.ceTimes := rfl
@[simp] theorem State.addSat_repairs (s : State) (f : Fld) (v i k : Nat) : (s.addSat f v i k).repairs = s.repairs := rfl
@[simp] theorem State.addSat_jobs (s : State) (f : Fld) (v i k : Nat) : (s.addSat f v i k).jobs = s.jobs := rfl
@[simp] theorem State.addSat_spore (s : State) (f : Fld) (v i k : Nat) : (s.addSat f v i k).spore = s.spore := rfl
@[simp] theorem State.addSat_warnings (s : State) (f : Fld) (v i k : Nat) : (s.addSat f v i k).warnings = s.warnings := rfl
@[simp] theorem State.addSat_time (s : State) (f : Fld) (v i k : Nat) : (s.addSat f v i k).time = s.time := rfl
@[simp] theorem State.addSat_fio (s : State) (f : Fld) (v i k : Nat) : (s.addSat f v i k).fio = s.fio := rfl
@[simp] theorem State.addSat_records (s : State) (f : Fld) (v i k : Nat) : (s.addSat f v i k).records = s.records := rfl
@[simp] theorem State.addSat_images (s : State) (f : Fld) (v i k : Nat) : (s.addSat f v i k).images = s.images := rfl
@[simp] theorem State.addSat_gov (s : State) (f : Fld) (v i k : Nat) : (s.addSat f v i k).gov = s.gov := rfl
@[simp] theorem State.addSat_fuses (s : State) (f : Fld) (v i k : Nat) : (s.addSat f v i k).fuses = s.fuses := rfl
@[simp] theorem State.addSat_flash (s : State) (f : Fld) (v i k : Nat) : (s.addSat f v i k).flash = s.flash := rfl
@[simp] theorem State.addSat_mgmt (s : State) (f : Fld) (v i k : Nat) : (s.addSat f v i k).mgmt = s.mgmt := rfl
@[simp] theorem State.addSat_hostLinks (s : State) (f : Fld) (v i k : Nat) : (s.addSat f v i k).hostLinks = s.hostLinks := rfl
@[simp] theorem State.addSat_msix (s : State) (f : Fld) (v i k : Nat) : (s.addSat f v i k).msix = s.msix := rfl
@[simp] theorem State.addSat_parts (s : State) (f : Fld) (v i k : Nat) : (s.addSat f v i k).parts = s.parts := rfl
@[simp] theorem State.addSat_out (s : State) (f : Fld) (v i k : Nat) : (s.addSat f v i k).out = s.out := rfl

/-! ### emit -/

@[simp] theorem State.emit_pending (s : State) (o : Out) : (s.emit o).pending = s.pending := rfl
@[simp] theorem State.emit_now (s : State) (o : Out) : (s.emit o).now = s.now := rfl
@[simp] theorem State.emit_cad (s : State) (o : Out) : (s.emit o).cad = s.cad := rfl
@[simp] theorem State.emit_fresh (s : State) (o : Out) : (s.emit o).fresh = s.fresh := rfl
@[simp] theorem State.emit_pow (s : State) (o : Out) : (s.emit o).pow = s.pow := rfl
@[simp] theorem State.emit_regs (s : State) (o : Out) : (s.emit o).regs = s.regs := rfl
@[simp] theorem State.emit_errFor (s : State) (o : Out) : (s.emit o).errFor = s.errFor := rfl
@[simp] theorem State.emit_holds (s : State) (o : Out) : (s.emit o).holds = s.holds := rfl
@[simp] theorem State.emit_aud (s : State) (o : Out) : (s.emit o).aud = s.aud := rfl
@[simp] theorem State.emit_hbm (s : State) (o : Out) : (s.emit o).hbm = s.hbm := rfl
@[simp] theorem State.emit_hbmSum (s : State) (o : Out) : (s.emit o).hbmSum = s.hbmSum := rfl
@[simp] theorem State.emit_hostMem (s : State) (o : Out) : (s.emit o).hostMem = s.hostMem := rfl
@[simp] theorem State.emit_spad (s : State) (o : Out) : (s.emit o).spad = s.spad := rfl
@[simp] theorem State.emit_spadSum (s : State) (o : Out) : (s.emit o).spadSum = s.spadSum := rfl
@[simp] theorem State.emit_istore (s : State) (o : Out) : (s.emit o).istore = s.istore := rfl
@[simp] theorem State.emit_threads (s : State) (o : Out) : (s.emit o).threads = s.threads := rfl
@[simp] theorem State.emit_clus (s : State) (o : Out) : (s.emit o).clus = s.clus := rfl
@[simp] theorem State.emit_cmds (s : State) (o : Out) : (s.emit o).cmds = s.cmds := rfl
@[simp] theorem State.emit_nextCmd (s : State) (o : Out) : (s.emit o).nextCmd = s.nextCmd := rfl
@[simp] theorem State.emit_jobEp (s : State) (o : Out) : (s.emit o).jobEp = s.jobEp := rfl
@[simp] theorem State.emit_resv (s : State) (o : Out) : (s.emit o).resv = s.resv := rfl
@[simp] theorem State.emit_dir (s : State) (o : Out) : (s.emit o).dir = s.dir := rfl
@[simp] theorem State.emit_qctx (s : State) (o : Out) : (s.emit o).qctx = s.qctx := rfl
@[simp] theorem State.emit_qlru (s : State) (o : Out) : (s.emit o).qlru = s.qlru := rfl
@[simp] theorem State.emit_qx (s : State) (o : Out) : (s.emit o).qx = s.qx := rfl
@[simp] theorem State.emit_quiesced (s : State) (o : Out) : (s.emit o).quiesced = s.quiesced := rfl
@[simp] theorem State.emit_tx (s : State) (o : Out) : (s.emit o).tx = s.tx := rfl
@[simp] theorem State.emit_rx (s : State) (o : Out) : (s.emit o).rx = s.rx := rfl
@[simp] theorem State.emit_replyCache (s : State) (o : Out) : (s.emit o).replyCache = s.replyCache := rfl
@[simp] theorem State.emit_comb (s : State) (o : Out) : (s.emit o).comb = s.comb := rfl
@[simp] theorem State.emit_nextComb (s : State) (o : Out) : (s.emit o).nextComb = s.nextComb := rfl
@[simp] theorem State.emit_links (s : State) (o : Out) : (s.emit o).links = s.links := rfl
@[simp] theorem State.emit_flowLru (s : State) (o : Out) : (s.emit o).flowLru = s.flowLru := rfl
@[simp] theorem State.emit_tms (s : State) (o : Out) : (s.emit o).tms = s.tms := rfl
@[simp] theorem State.emit_bulk (s : State) (o : Out) : (s.emit o).bulk = s.bulk := rfl
@[simp] theorem State.emit_slv (s : State) (o : Out) : (s.emit o).slv = s.slv := rfl
@[simp] theorem State.emit_batch (s : State) (o : Out) : (s.emit o).batch = s.batch := rfl
@[simp] theorem State.emit_pcAreas (s : State) (o : Out) : (s.emit o).pcAreas = s.pcAreas := rfl
@[simp] theorem State.emit_comms (s : State) (o : Out) : (s.emit o).comms = s.comms := rfl
@[simp] theorem State.emit_colls (s : State) (o : Out) : (s.emit o).colls = s.colls := rfl
@[simp] theorem State.emit_early (s : State) (o : Out) : (s.emit o).early = s.early := rfl
@[simp] theorem State.emit_hotAt (s : State) (o : Out) : (s.emit o).hotAt = s.hotAt := rfl
@[simp] theorem State.emit_capAt (s : State) (o : Out) : (s.emit o).capAt = s.capAt := rfl
@[simp] theorem State.emit_lich (s : State) (o : Out) : (s.emit o).lich = s.lich := rfl
@[simp] theorem State.emit_ceLog (s : State) (o : Out) : (s.emit o).ceLog = s.ceLog := rfl
@[simp] theorem State.emit_ceTimes (s : State) (o : Out) : (s.emit o).ceTimes = s.ceTimes := rfl
@[simp] theorem State.emit_repairs (s : State) (o : Out) : (s.emit o).repairs = s.repairs := rfl
@[simp] theorem State.emit_jobs (s : State) (o : Out) : (s.emit o).jobs = s.jobs := rfl
@[simp] theorem State.emit_spore (s : State) (o : Out) : (s.emit o).spore = s.spore := rfl
@[simp] theorem State.emit_warnings (s : State) (o : Out) : (s.emit o).warnings = s.warnings := rfl
@[simp] theorem State.emit_time (s : State) (o : Out) : (s.emit o).time = s.time := rfl
@[simp] theorem State.emit_fio (s : State) (o : Out) : (s.emit o).fio = s.fio := rfl
@[simp] theorem State.emit_records (s : State) (o : Out) : (s.emit o).records = s.records := rfl
@[simp] theorem State.emit_images (s : State) (o : Out) : (s.emit o).images = s.images := rfl
@[simp] theorem State.emit_gov (s : State) (o : Out) : (s.emit o).gov = s.gov := rfl
@[simp] theorem State.emit_fuses (s : State) (o : Out) : (s.emit o).fuses = s.fuses := rfl
@[simp] theorem State.emit_flash (s : State) (o : Out) : (s.emit o).flash = s.flash := rfl
@[simp] theorem State.emit_mgmt (s : State) (o : Out) : (s.emit o).mgmt = s.mgmt := rfl
@[simp] theorem State.emit_hostLinks (s : State) (o : Out) : (s.emit o).hostLinks = s.hostLinks := rfl
@[simp] theorem State.emit_msix (s : State) (o : Out) : (s.emit o).msix = s.msix := rfl
@[simp] theorem State.emit_parts (s : State) (o : Out) : (s.emit o).parts = s.parts := rfl

/-! ### setThr -/

@[simp] theorem State.setThr_pending (s : State) (c t : Nat) (x : Thread) : (s.setThr c t x).pending = s.pending := rfl
@[simp] theorem State.setThr_now (s : State) (c t : Nat) (x : Thread) : (s.setThr c t x).now = s.now := rfl
@[simp] theorem State.setThr_cad (s : State) (c t : Nat) (x : Thread) : (s.setThr c t x).cad = s.cad := rfl
@[simp] theorem State.setThr_fresh (s : State) (c t : Nat) (x : Thread) : (s.setThr c t x).fresh = s.fresh := rfl
@[simp] theorem State.setThr_pow (s : State) (c t : Nat) (x : Thread) : (s.setThr c t x).pow = s.pow := rfl
@[simp] theorem State.setThr_regs (s : State) (c t : Nat) (x : Thread) : (s.setThr c t x).regs = s.regs := rfl
@[simp] theorem State.setThr_errFor (s : State) (c t : Nat) (x : Thread) : (s.setThr c t x).errFor = s.errFor := rfl
@[simp] theorem State.setThr_holds (s : State) (c t : Nat) (x : Thread) : (s.setThr c t x).holds = s.holds := rfl
@[simp] theorem State.setThr_aud (s : State) (c t : Nat) (x : Thread) : (s.setThr c t x).aud = s.aud := rfl
@[simp] theorem State.setThr_hbm (s : State) (c t : Nat) (x : Thread) : (s.setThr c t x).hbm = s.hbm := rfl
@[simp] theorem State.setThr_hbmSum (s : State) (c t : Nat) (x : Thread) : (s.setThr c t x).hbmSum = s.hbmSum := rfl
@[simp] theorem State.setThr_hostMem (s : State) (c t : Nat) (x : Thread) : (s.setThr c t x).hostMem = s.hostMem := rfl
@[simp] theorem State.setThr_spad (s : State) (c t : Nat) (x : Thread) : (s.setThr c t x).spad = s.spad := rfl
@[simp] theorem State.setThr_spadSum (s : State) (c t : Nat) (x : Thread) : (s.setThr c t x).spadSum = s.spadSum := rfl
@[simp] theorem State.setThr_istore (s : State) (c t : Nat) (x : Thread) : (s.setThr c t x).istore = s.istore := rfl
@[simp] theorem State.setThr_clus (s : State) (c t : Nat) (x : Thread) : (s.setThr c t x).clus = s.clus := rfl
@[simp] theorem State.setThr_cmds (s : State) (c t : Nat) (x : Thread) : (s.setThr c t x).cmds = s.cmds := rfl
@[simp] theorem State.setThr_nextCmd (s : State) (c t : Nat) (x : Thread) : (s.setThr c t x).nextCmd = s.nextCmd := rfl
@[simp] theorem State.setThr_jobEp (s : State) (c t : Nat) (x : Thread) : (s.setThr c t x).jobEp = s.jobEp := rfl
@[simp] theorem State.setThr_resv (s : State) (c t : Nat) (x : Thread) : (s.setThr c t x).resv = s.resv := rfl
@[simp] theorem State.setThr_dir (s : State) (c t : Nat) (x : Thread) : (s.setThr c t x).dir = s.dir := rfl
@[simp] theorem State.setThr_qctx (s : State) (c t : Nat) (x : Thread) : (s.setThr c t x).qctx = s.qctx := rfl
@[simp] theorem State.setThr_qlru (s : State) (c t : Nat) (x : Thread) : (s.setThr c t x).qlru = s.qlru := rfl
@[simp] theorem State.setThr_qx (s : State) (c t : Nat) (x : Thread) : (s.setThr c t x).qx = s.qx := rfl
@[simp] theorem State.setThr_quiesced (s : State) (c t : Nat) (x : Thread) : (s.setThr c t x).quiesced = s.quiesced := rfl
@[simp] theorem State.setThr_tx (s : State) (c t : Nat) (x : Thread) : (s.setThr c t x).tx = s.tx := rfl
@[simp] theorem State.setThr_rx (s : State) (c t : Nat) (x : Thread) : (s.setThr c t x).rx = s.rx := rfl
@[simp] theorem State.setThr_replyCache (s : State) (c t : Nat) (x : Thread) : (s.setThr c t x).replyCache = s.replyCache := rfl
@[simp] theorem State.setThr_comb (s : State) (c t : Nat) (x : Thread) : (s.setThr c t x).comb = s.comb := rfl
@[simp] theorem State.setThr_nextComb (s : State) (c t : Nat) (x : Thread) : (s.setThr c t x).nextComb = s.nextComb := rfl
@[simp] theorem State.setThr_links (s : State) (c t : Nat) (x : Thread) : (s.setThr c t x).links = s.links := rfl
@[simp] theorem State.setThr_flowLru (s : State) (c t : Nat) (x : Thread) : (s.setThr c t x).flowLru = s.flowLru := rfl
@[simp] theorem State.setThr_tms (s : State) (c t : Nat) (x : Thread) : (s.setThr c t x).tms = s.tms := rfl
@[simp] theorem State.setThr_bulk (s : State) (c t : Nat) (x : Thread) : (s.setThr c t x).bulk = s.bulk := rfl
@[simp] theorem State.setThr_slv (s : State) (c t : Nat) (x : Thread) : (s.setThr c t x).slv = s.slv := rfl
@[simp] theorem State.setThr_batch (s : State) (c t : Nat) (x : Thread) : (s.setThr c t x).batch = s.batch := rfl
@[simp] theorem State.setThr_pcAreas (s : State) (c t : Nat) (x : Thread) : (s.setThr c t x).pcAreas = s.pcAreas := rfl
@[simp] theorem State.setThr_comms (s : State) (c t : Nat) (x : Thread) : (s.setThr c t x).comms = s.comms := rfl
@[simp] theorem State.setThr_colls (s : State) (c t : Nat) (x : Thread) : (s.setThr c t x).colls = s.colls := rfl
@[simp] theorem State.setThr_early (s : State) (c t : Nat) (x : Thread) : (s.setThr c t x).early = s.early := rfl
@[simp] theorem State.setThr_hotAt (s : State) (c t : Nat) (x : Thread) : (s.setThr c t x).hotAt = s.hotAt := rfl
@[simp] theorem State.setThr_capAt (s : State) (c t : Nat) (x : Thread) : (s.setThr c t x).capAt = s.capAt := rfl
@[simp] theorem State.setThr_lich (s : State) (c t : Nat) (x : Thread) : (s.setThr c t x).lich = s.lich := rfl
@[simp] theorem State.setThr_ceLog (s : State) (c t : Nat) (x : Thread) : (s.setThr c t x).ceLog = s.ceLog := rfl
@[simp] theorem State.setThr_ceTimes (s : State) (c t : Nat) (x : Thread) : (s.setThr c t x).ceTimes = s.ceTimes := rfl
@[simp] theorem State.setThr_repairs (s : State) (c t : Nat) (x : Thread) : (s.setThr c t x).repairs = s.repairs := rfl
@[simp] theorem State.setThr_jobs (s : State) (c t : Nat) (x : Thread) : (s.setThr c t x).jobs = s.jobs := rfl
@[simp] theorem State.setThr_spore (s : State) (c t : Nat) (x : Thread) : (s.setThr c t x).spore = s.spore := rfl
@[simp] theorem State.setThr_warnings (s : State) (c t : Nat) (x : Thread) : (s.setThr c t x).warnings = s.warnings := rfl
@[simp] theorem State.setThr_time (s : State) (c t : Nat) (x : Thread) : (s.setThr c t x).time = s.time := rfl
@[simp] theorem State.setThr_fio (s : State) (c t : Nat) (x : Thread) : (s.setThr c t x).fio = s.fio := rfl
@[simp] theorem State.setThr_records (s : State) (c t : Nat) (x : Thread) : (s.setThr c t x).records = s.records := rfl
@[simp] theorem State.setThr_images (s : State) (c t : Nat) (x : Thread) : (s.setThr c t x).images = s.images := rfl
@[simp] theorem State.setThr_gov (s : State) (c t : Nat) (x : Thread) : (s.setThr c t x).gov = s.gov := rfl
@[simp] theorem State.setThr_fuses (s : State) (c t : Nat) (x : Thread) : (s.setThr c t x).fuses = s.fuses := rfl
@[simp] theorem State.setThr_flash (s : State) (c t : Nat) (x : Thread) : (s.setThr c t x).flash = s.flash := rfl
@[simp] theorem State.setThr_mgmt (s : State) (c t : Nat) (x : Thread) : (s.setThr c t x).mgmt = s.mgmt := rfl
@[simp] theorem State.setThr_hostLinks (s : State) (c t : Nat) (x : Thread) : (s.setThr c t x).hostLinks = s.hostLinks := rfl
@[simp] theorem State.setThr_msix (s : State) (c t : Nat) (x : Thread) : (s.setThr c t x).msix = s.msix := rfl
@[simp] theorem State.setThr_parts (s : State) (c t : Nat) (x : Thread) : (s.setThr c t x).parts = s.parts := rfl
@[simp] theorem State.setThr_out (s : State) (c t : Nat) (x : Thread) : (s.setThr c t x).out = s.out := rfl

/-! ### setClu -/

@[simp] theorem State.setClu_pending (s : State) (c : Nat) (x : Cluster) : (s.setClu c x).pending = s.pending := rfl
@[simp] theorem State.setClu_now (s : State) (c : Nat) (x : Cluster) : (s.setClu c x).now = s.now := rfl
@[simp] theorem State.setClu_cad (s : State) (c : Nat) (x : Cluster) : (s.setClu c x).cad = s.cad := rfl
@[simp] theorem State.setClu_fresh (s : State) (c : Nat) (x : Cluster) : (s.setClu c x).fresh = s.fresh := rfl
@[simp] theorem State.setClu_pow (s : State) (c : Nat) (x : Cluster) : (s.setClu c x).pow = s.pow := rfl
@[simp] theorem State.setClu_regs (s : State) (c : Nat) (x : Cluster) : (s.setClu c x).regs = s.regs := rfl
@[simp] theorem State.setClu_errFor (s : State) (c : Nat) (x : Cluster) : (s.setClu c x).errFor = s.errFor := rfl
@[simp] theorem State.setClu_holds (s : State) (c : Nat) (x : Cluster) : (s.setClu c x).holds = s.holds := rfl
@[simp] theorem State.setClu_aud (s : State) (c : Nat) (x : Cluster) : (s.setClu c x).aud = s.aud := rfl
@[simp] theorem State.setClu_hbm (s : State) (c : Nat) (x : Cluster) : (s.setClu c x).hbm = s.hbm := rfl
@[simp] theorem State.setClu_hbmSum (s : State) (c : Nat) (x : Cluster) : (s.setClu c x).hbmSum = s.hbmSum := rfl
@[simp] theorem State.setClu_hostMem (s : State) (c : Nat) (x : Cluster) : (s.setClu c x).hostMem = s.hostMem := rfl
@[simp] theorem State.setClu_spad (s : State) (c : Nat) (x : Cluster) : (s.setClu c x).spad = s.spad := rfl
@[simp] theorem State.setClu_spadSum (s : State) (c : Nat) (x : Cluster) : (s.setClu c x).spadSum = s.spadSum := rfl
@[simp] theorem State.setClu_istore (s : State) (c : Nat) (x : Cluster) : (s.setClu c x).istore = s.istore := rfl
@[simp] theorem State.setClu_threads (s : State) (c : Nat) (x : Cluster) : (s.setClu c x).threads = s.threads := rfl
@[simp] theorem State.setClu_cmds (s : State) (c : Nat) (x : Cluster) : (s.setClu c x).cmds = s.cmds := rfl
@[simp] theorem State.setClu_nextCmd (s : State) (c : Nat) (x : Cluster) : (s.setClu c x).nextCmd = s.nextCmd := rfl
@[simp] theorem State.setClu_jobEp (s : State) (c : Nat) (x : Cluster) : (s.setClu c x).jobEp = s.jobEp := rfl
@[simp] theorem State.setClu_resv (s : State) (c : Nat) (x : Cluster) : (s.setClu c x).resv = s.resv := rfl
@[simp] theorem State.setClu_dir (s : State) (c : Nat) (x : Cluster) : (s.setClu c x).dir = s.dir := rfl
@[simp] theorem State.setClu_qctx (s : State) (c : Nat) (x : Cluster) : (s.setClu c x).qctx = s.qctx := rfl
@[simp] theorem State.setClu_qlru (s : State) (c : Nat) (x : Cluster) : (s.setClu c x).qlru = s.qlru := rfl
@[simp] theorem State.setClu_qx (s : State) (c : Nat) (x : Cluster) : (s.setClu c x).qx = s.qx := rfl
@[simp] theorem State.setClu_quiesced (s : State) (c : Nat) (x : Cluster) : (s.setClu c x).quiesced = s.quiesced := rfl
@[simp] theorem State.setClu_tx (s : State) (c : Nat) (x : Cluster) : (s.setClu c x).tx = s.tx := rfl
@[simp] theorem State.setClu_rx (s : State) (c : Nat) (x : Cluster) : (s.setClu c x).rx = s.rx := rfl
@[simp] theorem State.setClu_replyCache (s : State) (c : Nat) (x : Cluster) : (s.setClu c x).replyCache = s.replyCache := rfl
@[simp] theorem State.setClu_comb (s : State) (c : Nat) (x : Cluster) : (s.setClu c x).comb = s.comb := rfl
@[simp] theorem State.setClu_nextComb (s : State) (c : Nat) (x : Cluster) : (s.setClu c x).nextComb = s.nextComb := rfl
@[simp] theorem State.setClu_links (s : State) (c : Nat) (x : Cluster) : (s.setClu c x).links = s.links := rfl
@[simp] theorem State.setClu_flowLru (s : State) (c : Nat) (x : Cluster) : (s.setClu c x).flowLru = s.flowLru := rfl
@[simp] theorem State.setClu_tms (s : State) (c : Nat) (x : Cluster) : (s.setClu c x).tms = s.tms := rfl
@[simp] theorem State.setClu_bulk (s : State) (c : Nat) (x : Cluster) : (s.setClu c x).bulk = s.bulk := rfl
@[simp] theorem State.setClu_slv (s : State) (c : Nat) (x : Cluster) : (s.setClu c x).slv = s.slv := rfl
@[simp] theorem State.setClu_batch (s : State) (c : Nat) (x : Cluster) : (s.setClu c x).batch = s.batch := rfl
@[simp] theorem State.setClu_pcAreas (s : State) (c : Nat) (x : Cluster) : (s.setClu c x).pcAreas = s.pcAreas := rfl
@[simp] theorem State.setClu_comms (s : State) (c : Nat) (x : Cluster) : (s.setClu c x).comms = s.comms := rfl
@[simp] theorem State.setClu_colls (s : State) (c : Nat) (x : Cluster) : (s.setClu c x).colls = s.colls := rfl
@[simp] theorem State.setClu_early (s : State) (c : Nat) (x : Cluster) : (s.setClu c x).early = s.early := rfl
@[simp] theorem State.setClu_hotAt (s : State) (c : Nat) (x : Cluster) : (s.setClu c x).hotAt = s.hotAt := rfl
@[simp] theorem State.setClu_capAt (s : State) (c : Nat) (x : Cluster) : (s.setClu c x).capAt = s.capAt := rfl
@[simp] theorem State.setClu_lich (s : State) (c : Nat) (x : Cluster) : (s.setClu c x).lich = s.lich := rfl
@[simp] theorem State.setClu_ceLog (s : State) (c : Nat) (x : Cluster) : (s.setClu c x).ceLog = s.ceLog := rfl
@[simp] theorem State.setClu_ceTimes (s : State) (c : Nat) (x : Cluster) : (s.setClu c x).ceTimes = s.ceTimes := rfl
@[simp] theorem State.setClu_repairs (s : State) (c : Nat) (x : Cluster) : (s.setClu c x).repairs = s.repairs := rfl
@[simp] theorem State.setClu_jobs (s : State) (c : Nat) (x : Cluster) : (s.setClu c x).jobs = s.jobs := rfl
@[simp] theorem State.setClu_spore (s : State) (c : Nat) (x : Cluster) : (s.setClu c x).spore = s.spore := rfl
@[simp] theorem State.setClu_warnings (s : State) (c : Nat) (x : Cluster) : (s.setClu c x).warnings = s.warnings := rfl
@[simp] theorem State.setClu_time (s : State) (c : Nat) (x : Cluster) : (s.setClu c x).time = s.time := rfl
@[simp] theorem State.setClu_fio (s : State) (c : Nat) (x : Cluster) : (s.setClu c x).fio = s.fio := rfl
@[simp] theorem State.setClu_records (s : State) (c : Nat) (x : Cluster) : (s.setClu c x).records = s.records := rfl
@[simp] theorem State.setClu_images (s : State) (c : Nat) (x : Cluster) : (s.setClu c x).images = s.images := rfl
@[simp] theorem State.setClu_gov (s : State) (c : Nat) (x : Cluster) : (s.setClu c x).gov = s.gov := rfl
@[simp] theorem State.setClu_fuses (s : State) (c : Nat) (x : Cluster) : (s.setClu c x).fuses = s.fuses := rfl
@[simp] theorem State.setClu_flash (s : State) (c : Nat) (x : Cluster) : (s.setClu c x).flash = s.flash := rfl
@[simp] theorem State.setClu_mgmt (s : State) (c : Nat) (x : Cluster) : (s.setClu c x).mgmt = s.mgmt := rfl
@[simp] theorem State.setClu_hostLinks (s : State) (c : Nat) (x : Cluster) : (s.setClu c x).hostLinks = s.hostLinks := rfl
@[simp] theorem State.setClu_msix (s : State) (c : Nat) (x : Cluster) : (s.setClu c x).msix = s.msix := rfl
@[simp] theorem State.setClu_parts (s : State) (c : Nat) (x : Cluster) : (s.setClu c x).parts = s.parts := rfl
@[simp] theorem State.setClu_out (s : State) (c : Nat) (x : Cluster) : (s.setClu c x).out = s.out := rfl

/-! ### setTileMover -/

@[simp] theorem State.setTileMover_pending (s : State) (c m : Nat) (x : TileMover) : (s.setTileMover c m x).pending = s.pending := rfl
@[simp] theorem State.setTileMover_now (s : State) (c m : Nat) (x : TileMover) : (s.setTileMover c m x).now = s.now := rfl
@[simp] theorem State.setTileMover_cad (s : State) (c m : Nat) (x : TileMover) : (s.setTileMover c m x).cad = s.cad := rfl
@[simp] theorem State.setTileMover_fresh (s : State) (c m : Nat) (x : TileMover) : (s.setTileMover c m x).fresh = s.fresh := rfl
@[simp] theorem State.setTileMover_pow (s : State) (c m : Nat) (x : TileMover) : (s.setTileMover c m x).pow = s.pow := rfl
@[simp] theorem State.setTileMover_regs (s : State) (c m : Nat) (x : TileMover) : (s.setTileMover c m x).regs = s.regs := rfl
@[simp] theorem State.setTileMover_errFor (s : State) (c m : Nat) (x : TileMover) : (s.setTileMover c m x).errFor = s.errFor := rfl
@[simp] theorem State.setTileMover_holds (s : State) (c m : Nat) (x : TileMover) : (s.setTileMover c m x).holds = s.holds := rfl
@[simp] theorem State.setTileMover_aud (s : State) (c m : Nat) (x : TileMover) : (s.setTileMover c m x).aud = s.aud := rfl
@[simp] theorem State.setTileMover_hbm (s : State) (c m : Nat) (x : TileMover) : (s.setTileMover c m x).hbm = s.hbm := rfl
@[simp] theorem State.setTileMover_hbmSum (s : State) (c m : Nat) (x : TileMover) : (s.setTileMover c m x).hbmSum = s.hbmSum := rfl
@[simp] theorem State.setTileMover_hostMem (s : State) (c m : Nat) (x : TileMover) : (s.setTileMover c m x).hostMem = s.hostMem := rfl
@[simp] theorem State.setTileMover_spad (s : State) (c m : Nat) (x : TileMover) : (s.setTileMover c m x).spad = s.spad := rfl
@[simp] theorem State.setTileMover_spadSum (s : State) (c m : Nat) (x : TileMover) : (s.setTileMover c m x).spadSum = s.spadSum := rfl
@[simp] theorem State.setTileMover_istore (s : State) (c m : Nat) (x : TileMover) : (s.setTileMover c m x).istore = s.istore := rfl
@[simp] theorem State.setTileMover_threads (s : State) (c m : Nat) (x : TileMover) : (s.setTileMover c m x).threads = s.threads := rfl
@[simp] theorem State.setTileMover_clus (s : State) (c m : Nat) (x : TileMover) : (s.setTileMover c m x).clus = s.clus := rfl
@[simp] theorem State.setTileMover_cmds (s : State) (c m : Nat) (x : TileMover) : (s.setTileMover c m x).cmds = s.cmds := rfl
@[simp] theorem State.setTileMover_nextCmd (s : State) (c m : Nat) (x : TileMover) : (s.setTileMover c m x).nextCmd = s.nextCmd := rfl
@[simp] theorem State.setTileMover_jobEp (s : State) (c m : Nat) (x : TileMover) : (s.setTileMover c m x).jobEp = s.jobEp := rfl
@[simp] theorem State.setTileMover_resv (s : State) (c m : Nat) (x : TileMover) : (s.setTileMover c m x).resv = s.resv := rfl
@[simp] theorem State.setTileMover_dir (s : State) (c m : Nat) (x : TileMover) : (s.setTileMover c m x).dir = s.dir := rfl
@[simp] theorem State.setTileMover_qctx (s : State) (c m : Nat) (x : TileMover) : (s.setTileMover c m x).qctx = s.qctx := rfl
@[simp] theorem State.setTileMover_qlru (s : State) (c m : Nat) (x : TileMover) : (s.setTileMover c m x).qlru = s.qlru := rfl
@[simp] theorem State.setTileMover_qx (s : State) (c m : Nat) (x : TileMover) : (s.setTileMover c m x).qx = s.qx := rfl
@[simp] theorem State.setTileMover_quiesced (s : State) (c m : Nat) (x : TileMover) : (s.setTileMover c m x).quiesced = s.quiesced := rfl
@[simp] theorem State.setTileMover_tx (s : State) (c m : Nat) (x : TileMover) : (s.setTileMover c m x).tx = s.tx := rfl
@[simp] theorem State.setTileMover_rx (s : State) (c m : Nat) (x : TileMover) : (s.setTileMover c m x).rx = s.rx := rfl
@[simp] theorem State.setTileMover_replyCache (s : State) (c m : Nat) (x : TileMover) : (s.setTileMover c m x).replyCache = s.replyCache := rfl
@[simp] theorem State.setTileMover_comb (s : State) (c m : Nat) (x : TileMover) : (s.setTileMover c m x).comb = s.comb := rfl
@[simp] theorem State.setTileMover_nextComb (s : State) (c m : Nat) (x : TileMover) : (s.setTileMover c m x).nextComb = s.nextComb := rfl
@[simp] theorem State.setTileMover_links (s : State) (c m : Nat) (x : TileMover) : (s.setTileMover c m x).links = s.links := rfl
@[simp] theorem State.setTileMover_flowLru (s : State) (c m : Nat) (x : TileMover) : (s.setTileMover c m x).flowLru = s.flowLru := rfl
@[simp] theorem State.setTileMover_bulk (s : State) (c m : Nat) (x : TileMover) : (s.setTileMover c m x).bulk = s.bulk := rfl
@[simp] theorem State.setTileMover_slv (s : State) (c m : Nat) (x : TileMover) : (s.setTileMover c m x).slv = s.slv := rfl
@[simp] theorem State.setTileMover_batch (s : State) (c m : Nat) (x : TileMover) : (s.setTileMover c m x).batch = s.batch := rfl
@[simp] theorem State.setTileMover_pcAreas (s : State) (c m : Nat) (x : TileMover) : (s.setTileMover c m x).pcAreas = s.pcAreas := rfl
@[simp] theorem State.setTileMover_comms (s : State) (c m : Nat) (x : TileMover) : (s.setTileMover c m x).comms = s.comms := rfl
@[simp] theorem State.setTileMover_colls (s : State) (c m : Nat) (x : TileMover) : (s.setTileMover c m x).colls = s.colls := rfl
@[simp] theorem State.setTileMover_early (s : State) (c m : Nat) (x : TileMover) : (s.setTileMover c m x).early = s.early := rfl
@[simp] theorem State.setTileMover_hotAt (s : State) (c m : Nat) (x : TileMover) : (s.setTileMover c m x).hotAt = s.hotAt := rfl
@[simp] theorem State.setTileMover_capAt (s : State) (c m : Nat) (x : TileMover) : (s.setTileMover c m x).capAt = s.capAt := rfl
@[simp] theorem State.setTileMover_lich (s : State) (c m : Nat) (x : TileMover) : (s.setTileMover c m x).lich = s.lich := rfl
@[simp] theorem State.setTileMover_ceLog (s : State) (c m : Nat) (x : TileMover) : (s.setTileMover c m x).ceLog = s.ceLog := rfl
@[simp] theorem State.setTileMover_ceTimes (s : State) (c m : Nat) (x : TileMover) : (s.setTileMover c m x).ceTimes = s.ceTimes := rfl
@[simp] theorem State.setTileMover_repairs (s : State) (c m : Nat) (x : TileMover) : (s.setTileMover c m x).repairs = s.repairs := rfl
@[simp] theorem State.setTileMover_jobs (s : State) (c m : Nat) (x : TileMover) : (s.setTileMover c m x).jobs = s.jobs := rfl
@[simp] theorem State.setTileMover_spore (s : State) (c m : Nat) (x : TileMover) : (s.setTileMover c m x).spore = s.spore := rfl
@[simp] theorem State.setTileMover_warnings (s : State) (c m : Nat) (x : TileMover) : (s.setTileMover c m x).warnings = s.warnings := rfl
@[simp] theorem State.setTileMover_time (s : State) (c m : Nat) (x : TileMover) : (s.setTileMover c m x).time = s.time := rfl
@[simp] theorem State.setTileMover_fio (s : State) (c m : Nat) (x : TileMover) : (s.setTileMover c m x).fio = s.fio := rfl
@[simp] theorem State.setTileMover_records (s : State) (c m : Nat) (x : TileMover) : (s.setTileMover c m x).records = s.records := rfl
@[simp] theorem State.setTileMover_images (s : State) (c m : Nat) (x : TileMover) : (s.setTileMover c m x).images = s.images := rfl
@[simp] theorem State.setTileMover_gov (s : State) (c m : Nat) (x : TileMover) : (s.setTileMover c m x).gov = s.gov := rfl
@[simp] theorem State.setTileMover_fuses (s : State) (c m : Nat) (x : TileMover) : (s.setTileMover c m x).fuses = s.fuses := rfl
@[simp] theorem State.setTileMover_flash (s : State) (c m : Nat) (x : TileMover) : (s.setTileMover c m x).flash = s.flash := rfl
@[simp] theorem State.setTileMover_mgmt (s : State) (c m : Nat) (x : TileMover) : (s.setTileMover c m x).mgmt = s.mgmt := rfl
@[simp] theorem State.setTileMover_hostLinks (s : State) (c m : Nat) (x : TileMover) : (s.setTileMover c m x).hostLinks = s.hostLinks := rfl
@[simp] theorem State.setTileMover_msix (s : State) (c m : Nat) (x : TileMover) : (s.setTileMover c m x).msix = s.msix := rfl
@[simp] theorem State.setTileMover_parts (s : State) (c m : Nat) (x : TileMover) : (s.setTileMover c m x).parts = s.parts := rfl
@[simp] theorem State.setTileMover_out (s : State) (c m : Nat) (x : TileMover) : (s.setTileMover c m x).out = s.out := rfl

/-! ### setJobEpochs -/

@[simp] theorem State.setJobEpochs_pending (s : State) (j : Nat) (e : Epochs) : (s.setJobEpochs j e).pending = s.pending := rfl
@[simp] theorem State.setJobEpochs_now (s : State) (j : Nat) (e : Epochs) : (s.setJobEpochs j e).now = s.now := rfl
@[simp] theorem State.setJobEpochs_cad (s : State) (j : Nat) (e : Epochs) : (s.setJobEpochs j e).cad = s.cad := rfl
@[simp] theorem State.setJobEpochs_fresh (s : State) (j : Nat) (e : Epochs) : (s.setJobEpochs j e).fresh = s.fresh := rfl
@[simp] theorem State.setJobEpochs_pow (s : State) (j : Nat) (e : Epochs) : (s.setJobEpochs j e).pow = s.pow := rfl
@[simp] theorem State.setJobEpochs_regs (s : State) (j : Nat) (e : Epochs) : (s.setJobEpochs j e).regs = s.regs := rfl
@[simp] theorem State.setJobEpochs_errFor (s : State) (j : Nat) (e : Epochs) : (s.setJobEpochs j e).errFor = s.errFor := rfl
@[simp] theorem State.setJobEpochs_holds (s : State) (j : Nat) (e : Epochs) : (s.setJobEpochs j e).holds = s.holds := rfl
@[simp] theorem State.setJobEpochs_aud (s : State) (j : Nat) (e : Epochs) : (s.setJobEpochs j e).aud = s.aud := rfl
@[simp] theorem State.setJobEpochs_hbm (s : State) (j : Nat) (e : Epochs) : (s.setJobEpochs j e).hbm = s.hbm := rfl
@[simp] theorem State.setJobEpochs_hbmSum (s : State) (j : Nat) (e : Epochs) : (s.setJobEpochs j e).hbmSum = s.hbmSum := rfl
@[simp] theorem State.setJobEpochs_hostMem (s : State) (j : Nat) (e : Epochs) : (s.setJobEpochs j e).hostMem = s.hostMem := rfl
@[simp] theorem State.setJobEpochs_spad (s : State) (j : Nat) (e : Epochs) : (s.setJobEpochs j e).spad = s.spad := rfl
@[simp] theorem State.setJobEpochs_spadSum (s : State) (j : Nat) (e : Epochs) : (s.setJobEpochs j e).spadSum = s.spadSum := rfl
@[simp] theorem State.setJobEpochs_istore (s : State) (j : Nat) (e : Epochs) : (s.setJobEpochs j e).istore = s.istore := rfl
@[simp] theorem State.setJobEpochs_threads (s : State) (j : Nat) (e : Epochs) : (s.setJobEpochs j e).threads = s.threads := rfl
@[simp] theorem State.setJobEpochs_clus (s : State) (j : Nat) (e : Epochs) : (s.setJobEpochs j e).clus = s.clus := rfl
@[simp] theorem State.setJobEpochs_cmds (s : State) (j : Nat) (e : Epochs) : (s.setJobEpochs j e).cmds = s.cmds := rfl
@[simp] theorem State.setJobEpochs_nextCmd (s : State) (j : Nat) (e : Epochs) : (s.setJobEpochs j e).nextCmd = s.nextCmd := rfl
@[simp] theorem State.setJobEpochs_resv (s : State) (j : Nat) (e : Epochs) : (s.setJobEpochs j e).resv = s.resv := rfl
@[simp] theorem State.setJobEpochs_dir (s : State) (j : Nat) (e : Epochs) : (s.setJobEpochs j e).dir = s.dir := rfl
@[simp] theorem State.setJobEpochs_qctx (s : State) (j : Nat) (e : Epochs) : (s.setJobEpochs j e).qctx = s.qctx := rfl
@[simp] theorem State.setJobEpochs_qlru (s : State) (j : Nat) (e : Epochs) : (s.setJobEpochs j e).qlru = s.qlru := rfl
@[simp] theorem State.setJobEpochs_qx (s : State) (j : Nat) (e : Epochs) : (s.setJobEpochs j e).qx = s.qx := rfl
@[simp] theorem State.setJobEpochs_quiesced (s : State) (j : Nat) (e : Epochs) : (s.setJobEpochs j e).quiesced = s.quiesced := rfl
@[simp] theorem State.setJobEpochs_tx (s : State) (j : Nat) (e : Epochs) : (s.setJobEpochs j e).tx = s.tx := rfl
@[simp] theorem State.setJobEpochs_rx (s : State) (j : Nat) (e : Epochs) : (s.setJobEpochs j e).rx = s.rx := rfl
@[simp] theorem State.setJobEpochs_replyCache (s : State) (j : Nat) (e : Epochs) : (s.setJobEpochs j e).replyCache = s.replyCache := rfl
@[simp] theorem State.setJobEpochs_comb (s : State) (j : Nat) (e : Epochs) : (s.setJobEpochs j e).comb = s.comb := rfl
@[simp] theorem State.setJobEpochs_nextComb (s : State) (j : Nat) (e : Epochs) : (s.setJobEpochs j e).nextComb = s.nextComb := rfl
@[simp] theorem State.setJobEpochs_links (s : State) (j : Nat) (e : Epochs) : (s.setJobEpochs j e).links = s.links := rfl
@[simp] theorem State.setJobEpochs_flowLru (s : State) (j : Nat) (e : Epochs) : (s.setJobEpochs j e).flowLru = s.flowLru := rfl
@[simp] theorem State.setJobEpochs_tms (s : State) (j : Nat) (e : Epochs) : (s.setJobEpochs j e).tms = s.tms := rfl
@[simp] theorem State.setJobEpochs_bulk (s : State) (j : Nat) (e : Epochs) : (s.setJobEpochs j e).bulk = s.bulk := rfl
@[simp] theorem State.setJobEpochs_slv (s : State) (j : Nat) (e : Epochs) : (s.setJobEpochs j e).slv = s.slv := rfl
@[simp] theorem State.setJobEpochs_batch (s : State) (j : Nat) (e : Epochs) : (s.setJobEpochs j e).batch = s.batch := rfl
@[simp] theorem State.setJobEpochs_pcAreas (s : State) (j : Nat) (e : Epochs) : (s.setJobEpochs j e).pcAreas = s.pcAreas := rfl
@[simp] theorem State.setJobEpochs_comms (s : State) (j : Nat) (e : Epochs) : (s.setJobEpochs j e).comms = s.comms := rfl
@[simp] theorem State.setJobEpochs_colls (s : State) (j : Nat) (e : Epochs) : (s.setJobEpochs j e).colls = s.colls := rfl
@[simp] theorem State.setJobEpochs_early (s : State) (j : Nat) (e : Epochs) : (s.setJobEpochs j e).early = s.early := rfl
@[simp] theorem State.setJobEpochs_hotAt (s : State) (j : Nat) (e : Epochs) : (s.setJobEpochs j e).hotAt = s.hotAt := rfl
@[simp] theorem State.setJobEpochs_capAt (s : State) (j : Nat) (e : Epochs) : (s.setJobEpochs j e).capAt = s.capAt := rfl
@[simp] theorem State.setJobEpochs_lich (s : State) (j : Nat) (e : Epochs) : (s.setJobEpochs j e).lich = s.lich := rfl
@[simp] theorem State.setJobEpochs_ceLog (s : State) (j : Nat) (e : Epochs) : (s.setJobEpochs j e).ceLog = s.ceLog := rfl
@[simp] theorem State.setJobEpochs_ceTimes (s : State) (j : Nat) (e : Epochs) : (s.setJobEpochs j e).ceTimes = s.ceTimes := rfl
@[simp] theorem State.setJobEpochs_repairs (s : State) (j : Nat) (e : Epochs) : (s.setJobEpochs j e).repairs = s.repairs := rfl
@[simp] theorem State.setJobEpochs_jobs (s : State) (j : Nat) (e : Epochs) : (s.setJobEpochs j e).jobs = s.jobs := rfl
@[simp] theorem State.setJobEpochs_spore (s : State) (j : Nat) (e : Epochs) : (s.setJobEpochs j e).spore = s.spore := rfl
@[simp] theorem State.setJobEpochs_warnings (s : State) (j : Nat) (e : Epochs) : (s.setJobEpochs j e).warnings = s.warnings := rfl
@[simp] theorem State.setJobEpochs_time (s : State) (j : Nat) (e : Epochs) : (s.setJobEpochs j e).time = s.time := rfl
@[simp] theorem State.setJobEpochs_fio (s : State) (j : Nat) (e : Epochs) : (s.setJobEpochs j e).fio = s.fio := rfl
@[simp] theorem State.setJobEpochs_records (s : State) (j : Nat) (e : Epochs) : (s.setJobEpochs j e).records = s.records := rfl
@[simp] theorem State.setJobEpochs_images (s : State) (j : Nat) (e : Epochs) : (s.setJobEpochs j e).images = s.images := rfl
@[simp] theorem State.setJobEpochs_gov (s : State) (j : Nat) (e : Epochs) : (s.setJobEpochs j e).gov = s.gov := rfl
@[simp] theorem State.setJobEpochs_fuses (s : State) (j : Nat) (e : Epochs) : (s.setJobEpochs j e).fuses = s.fuses := rfl
@[simp] theorem State.setJobEpochs_flash (s : State) (j : Nat) (e : Epochs) : (s.setJobEpochs j e).flash = s.flash := rfl
@[simp] theorem State.setJobEpochs_mgmt (s : State) (j : Nat) (e : Epochs) : (s.setJobEpochs j e).mgmt = s.mgmt := rfl
@[simp] theorem State.setJobEpochs_hostLinks (s : State) (j : Nat) (e : Epochs) : (s.setJobEpochs j e).hostLinks = s.hostLinks := rfl
@[simp] theorem State.setJobEpochs_msix (s : State) (j : Nat) (e : Epochs) : (s.setJobEpochs j e).msix = s.msix := rfl
@[simp] theorem State.setJobEpochs_parts (s : State) (j : Nat) (e : Epochs) : (s.setJobEpochs j e).parts = s.parts := rfl
@[simp] theorem State.setJobEpochs_out (s : State) (j : Nat) (e : Epochs) : (s.setJobEpochs j e).out = s.out := rfl

/-! ### setTx -/

@[simp] theorem State.setTx_pending (s : State) (k : FlowKey) (f : TxFlow) : (s.setTx k f).pending = s.pending := rfl
@[simp] theorem State.setTx_now (s : State) (k : FlowKey) (f : TxFlow) : (s.setTx k f).now = s.now := rfl
@[simp] theorem State.setTx_cad (s : State) (k : FlowKey) (f : TxFlow) : (s.setTx k f).cad = s.cad := rfl
@[simp] theorem State.setTx_fresh (s : State) (k : FlowKey) (f : TxFlow) : (s.setTx k f).fresh = s.fresh := rfl
@[simp] theorem State.setTx_pow (s : State) (k : FlowKey) (f : TxFlow) : (s.setTx k f).pow = s.pow := rfl
@[simp] theorem State.setTx_regs (s : State) (k : FlowKey) (f : TxFlow) : (s.setTx k f).regs = s.regs := rfl
@[simp] theorem State.setTx_errFor (s : State) (k : FlowKey) (f : TxFlow) : (s.setTx k f).errFor = s.errFor := rfl
@[simp] theorem State.setTx_holds (s : State) (k : FlowKey) (f : TxFlow) : (s.setTx k f).holds = s.holds := rfl
@[simp] theorem State.setTx_aud (s : State) (k : FlowKey) (f : TxFlow) : (s.setTx k f).aud = s.aud := rfl
@[simp] theorem State.setTx_hbm (s : State) (k : FlowKey) (f : TxFlow) : (s.setTx k f).hbm = s.hbm := rfl
@[simp] theorem State.setTx_hbmSum (s : State) (k : FlowKey) (f : TxFlow) : (s.setTx k f).hbmSum = s.hbmSum := rfl
@[simp] theorem State.setTx_hostMem (s : State) (k : FlowKey) (f : TxFlow) : (s.setTx k f).hostMem = s.hostMem := rfl
@[simp] theorem State.setTx_spad (s : State) (k : FlowKey) (f : TxFlow) : (s.setTx k f).spad = s.spad := rfl
@[simp] theorem State.setTx_spadSum (s : State) (k : FlowKey) (f : TxFlow) : (s.setTx k f).spadSum = s.spadSum := rfl
@[simp] theorem State.setTx_istore (s : State) (k : FlowKey) (f : TxFlow) : (s.setTx k f).istore = s.istore := rfl
@[simp] theorem State.setTx_threads (s : State) (k : FlowKey) (f : TxFlow) : (s.setTx k f).threads = s.threads := rfl
@[simp] theorem State.setTx_clus (s : State) (k : FlowKey) (f : TxFlow) : (s.setTx k f).clus = s.clus := rfl
@[simp] theorem State.setTx_cmds (s : State) (k : FlowKey) (f : TxFlow) : (s.setTx k f).cmds = s.cmds := rfl
@[simp] theorem State.setTx_nextCmd (s : State) (k : FlowKey) (f : TxFlow) : (s.setTx k f).nextCmd = s.nextCmd := rfl
@[simp] theorem State.setTx_jobEp (s : State) (k : FlowKey) (f : TxFlow) : (s.setTx k f).jobEp = s.jobEp := rfl
@[simp] theorem State.setTx_resv (s : State) (k : FlowKey) (f : TxFlow) : (s.setTx k f).resv = s.resv := rfl
@[simp] theorem State.setTx_dir (s : State) (k : FlowKey) (f : TxFlow) : (s.setTx k f).dir = s.dir := rfl
@[simp] theorem State.setTx_qctx (s : State) (k : FlowKey) (f : TxFlow) : (s.setTx k f).qctx = s.qctx := rfl
@[simp] theorem State.setTx_qlru (s : State) (k : FlowKey) (f : TxFlow) : (s.setTx k f).qlru = s.qlru := rfl
@[simp] theorem State.setTx_qx (s : State) (k : FlowKey) (f : TxFlow) : (s.setTx k f).qx = s.qx := rfl
@[simp] theorem State.setTx_quiesced (s : State) (k : FlowKey) (f : TxFlow) : (s.setTx k f).quiesced = s.quiesced := rfl
@[simp] theorem State.setTx_rx (s : State) (k : FlowKey) (f : TxFlow) : (s.setTx k f).rx = s.rx := rfl
@[simp] theorem State.setTx_replyCache (s : State) (k : FlowKey) (f : TxFlow) : (s.setTx k f).replyCache = s.replyCache := rfl
@[simp] theorem State.setTx_comb (s : State) (k : FlowKey) (f : TxFlow) : (s.setTx k f).comb = s.comb := rfl
@[simp] theorem State.setTx_nextComb (s : State) (k : FlowKey) (f : TxFlow) : (s.setTx k f).nextComb = s.nextComb := rfl
@[simp] theorem State.setTx_links (s : State) (k : FlowKey) (f : TxFlow) : (s.setTx k f).links = s.links := rfl
@[simp] theorem State.setTx_flowLru (s : State) (k : FlowKey) (f : TxFlow) : (s.setTx k f).flowLru = s.flowLru := rfl
@[simp] theorem State.setTx_tms (s : State) (k : FlowKey) (f : TxFlow) : (s.setTx k f).tms = s.tms := rfl
@[simp] theorem State.setTx_bulk (s : State) (k : FlowKey) (f : TxFlow) : (s.setTx k f).bulk = s.bulk := rfl
@[simp] theorem State.setTx_slv (s : State) (k : FlowKey) (f : TxFlow) : (s.setTx k f).slv = s.slv := rfl
@[simp] theorem State.setTx_batch (s : State) (k : FlowKey) (f : TxFlow) : (s.setTx k f).batch = s.batch := rfl
@[simp] theorem State.setTx_pcAreas (s : State) (k : FlowKey) (f : TxFlow) : (s.setTx k f).pcAreas = s.pcAreas := rfl
@[simp] theorem State.setTx_comms (s : State) (k : FlowKey) (f : TxFlow) : (s.setTx k f).comms = s.comms := rfl
@[simp] theorem State.setTx_colls (s : State) (k : FlowKey) (f : TxFlow) : (s.setTx k f).colls = s.colls := rfl
@[simp] theorem State.setTx_early (s : State) (k : FlowKey) (f : TxFlow) : (s.setTx k f).early = s.early := rfl
@[simp] theorem State.setTx_hotAt (s : State) (k : FlowKey) (f : TxFlow) : (s.setTx k f).hotAt = s.hotAt := rfl
@[simp] theorem State.setTx_capAt (s : State) (k : FlowKey) (f : TxFlow) : (s.setTx k f).capAt = s.capAt := rfl
@[simp] theorem State.setTx_lich (s : State) (k : FlowKey) (f : TxFlow) : (s.setTx k f).lich = s.lich := rfl
@[simp] theorem State.setTx_ceLog (s : State) (k : FlowKey) (f : TxFlow) : (s.setTx k f).ceLog = s.ceLog := rfl
@[simp] theorem State.setTx_ceTimes (s : State) (k : FlowKey) (f : TxFlow) : (s.setTx k f).ceTimes = s.ceTimes := rfl
@[simp] theorem State.setTx_repairs (s : State) (k : FlowKey) (f : TxFlow) : (s.setTx k f).repairs = s.repairs := rfl
@[simp] theorem State.setTx_jobs (s : State) (k : FlowKey) (f : TxFlow) : (s.setTx k f).jobs = s.jobs := rfl
@[simp] theorem State.setTx_spore (s : State) (k : FlowKey) (f : TxFlow) : (s.setTx k f).spore = s.spore := rfl
@[simp] theorem State.setTx_warnings (s : State) (k : FlowKey) (f : TxFlow) : (s.setTx k f).warnings = s.warnings := rfl
@[simp] theorem State.setTx_time (s : State) (k : FlowKey) (f : TxFlow) : (s.setTx k f).time = s.time := rfl
@[simp] theorem State.setTx_fio (s : State) (k : FlowKey) (f : TxFlow) : (s.setTx k f).fio = s.fio := rfl
@[simp] theorem State.setTx_records (s : State) (k : FlowKey) (f : TxFlow) : (s.setTx k f).records = s.records := rfl
@[simp] theorem State.setTx_images (s : State) (k : FlowKey) (f : TxFlow) : (s.setTx k f).images = s.images := rfl
@[simp] theorem State.setTx_gov (s : State) (k : FlowKey) (f : TxFlow) : (s.setTx k f).gov = s.gov := rfl
@[simp] theorem State.setTx_fuses (s : State) (k : FlowKey) (f : TxFlow) : (s.setTx k f).fuses = s.fuses := rfl
@[simp] theorem State.setTx_flash (s : State) (k : FlowKey) (f : TxFlow) : (s.setTx k f).flash = s.flash := rfl
@[simp] theorem State.setTx_mgmt (s : State) (k : FlowKey) (f : TxFlow) : (s.setTx k f).mgmt = s.mgmt := rfl
@[simp] theorem State.setTx_hostLinks (s : State) (k : FlowKey) (f : TxFlow) : (s.setTx k f).hostLinks = s.hostLinks := rfl
@[simp] theorem State.setTx_msix (s : State) (k : FlowKey) (f : TxFlow) : (s.setTx k f).msix = s.msix := rfl
@[simp] theorem State.setTx_parts (s : State) (k : FlowKey) (f : TxFlow) : (s.setTx k f).parts = s.parts := rfl
@[simp] theorem State.setTx_out (s : State) (k : FlowKey) (f : TxFlow) : (s.setTx k f).out = s.out := rfl

/-! ### setLichen -/

@[simp] theorem State.setLichen_pending (s : State) (n : Nat) (x : Lichen) : (s.setLichen n x).pending = s.pending := rfl
@[simp] theorem State.setLichen_now (s : State) (n : Nat) (x : Lichen) : (s.setLichen n x).now = s.now := rfl
@[simp] theorem State.setLichen_cad (s : State) (n : Nat) (x : Lichen) : (s.setLichen n x).cad = s.cad := rfl
@[simp] theorem State.setLichen_fresh (s : State) (n : Nat) (x : Lichen) : (s.setLichen n x).fresh = s.fresh := rfl
@[simp] theorem State.setLichen_pow (s : State) (n : Nat) (x : Lichen) : (s.setLichen n x).pow = s.pow := rfl
@[simp] theorem State.setLichen_regs (s : State) (n : Nat) (x : Lichen) : (s.setLichen n x).regs = s.regs := rfl
@[simp] theorem State.setLichen_errFor (s : State) (n : Nat) (x : Lichen) : (s.setLichen n x).errFor = s.errFor := rfl
@[simp] theorem State.setLichen_holds (s : State) (n : Nat) (x : Lichen) : (s.setLichen n x).holds = s.holds := rfl
@[simp] theorem State.setLichen_aud (s : State) (n : Nat) (x : Lichen) : (s.setLichen n x).aud = s.aud := rfl
@[simp] theorem State.setLichen_hbm (s : State) (n : Nat) (x : Lichen) : (s.setLichen n x).hbm = s.hbm := rfl
@[simp] theorem State.setLichen_hbmSum (s : State) (n : Nat) (x : Lichen) : (s.setLichen n x).hbmSum = s.hbmSum := rfl
@[simp] theorem State.setLichen_hostMem (s : State) (n : Nat) (x : Lichen) : (s.setLichen n x).hostMem = s.hostMem := rfl
@[simp] theorem State.setLichen_spad (s : State) (n : Nat) (x : Lichen) : (s.setLichen n x).spad = s.spad := rfl
@[simp] theorem State.setLichen_spadSum (s : State) (n : Nat) (x : Lichen) : (s.setLichen n x).spadSum = s.spadSum := rfl
@[simp] theorem State.setLichen_istore (s : State) (n : Nat) (x : Lichen) : (s.setLichen n x).istore = s.istore := rfl
@[simp] theorem State.setLichen_threads (s : State) (n : Nat) (x : Lichen) : (s.setLichen n x).threads = s.threads := rfl
@[simp] theorem State.setLichen_clus (s : State) (n : Nat) (x : Lichen) : (s.setLichen n x).clus = s.clus := rfl
@[simp] theorem State.setLichen_cmds (s : State) (n : Nat) (x : Lichen) : (s.setLichen n x).cmds = s.cmds := rfl
@[simp] theorem State.setLichen_nextCmd (s : State) (n : Nat) (x : Lichen) : (s.setLichen n x).nextCmd = s.nextCmd := rfl
@[simp] theorem State.setLichen_jobEp (s : State) (n : Nat) (x : Lichen) : (s.setLichen n x).jobEp = s.jobEp := rfl
@[simp] theorem State.setLichen_resv (s : State) (n : Nat) (x : Lichen) : (s.setLichen n x).resv = s.resv := rfl
@[simp] theorem State.setLichen_dir (s : State) (n : Nat) (x : Lichen) : (s.setLichen n x).dir = s.dir := rfl
@[simp] theorem State.setLichen_qctx (s : State) (n : Nat) (x : Lichen) : (s.setLichen n x).qctx = s.qctx := rfl
@[simp] theorem State.setLichen_qlru (s : State) (n : Nat) (x : Lichen) : (s.setLichen n x).qlru = s.qlru := rfl
@[simp] theorem State.setLichen_qx (s : State) (n : Nat) (x : Lichen) : (s.setLichen n x).qx = s.qx := rfl
@[simp] theorem State.setLichen_quiesced (s : State) (n : Nat) (x : Lichen) : (s.setLichen n x).quiesced = s.quiesced := rfl
@[simp] theorem State.setLichen_tx (s : State) (n : Nat) (x : Lichen) : (s.setLichen n x).tx = s.tx := rfl
@[simp] theorem State.setLichen_rx (s : State) (n : Nat) (x : Lichen) : (s.setLichen n x).rx = s.rx := rfl
@[simp] theorem State.setLichen_replyCache (s : State) (n : Nat) (x : Lichen) : (s.setLichen n x).replyCache = s.replyCache := rfl
@[simp] theorem State.setLichen_comb (s : State) (n : Nat) (x : Lichen) : (s.setLichen n x).comb = s.comb := rfl
@[simp] theorem State.setLichen_nextComb (s : State) (n : Nat) (x : Lichen) : (s.setLichen n x).nextComb = s.nextComb := rfl
@[simp] theorem State.setLichen_links (s : State) (n : Nat) (x : Lichen) : (s.setLichen n x).links = s.links := rfl
@[simp] theorem State.setLichen_flowLru (s : State) (n : Nat) (x : Lichen) : (s.setLichen n x).flowLru = s.flowLru := rfl
@[simp] theorem State.setLichen_tms (s : State) (n : Nat) (x : Lichen) : (s.setLichen n x).tms = s.tms := rfl
@[simp] theorem State.setLichen_bulk (s : State) (n : Nat) (x : Lichen) : (s.setLichen n x).bulk = s.bulk := rfl
@[simp] theorem State.setLichen_slv (s : State) (n : Nat) (x : Lichen) : (s.setLichen n x).slv = s.slv := rfl
@[simp] theorem State.setLichen_batch (s : State) (n : Nat) (x : Lichen) : (s.setLichen n x).batch = s.batch := rfl
@[simp] theorem State.setLichen_pcAreas (s : State) (n : Nat) (x : Lichen) : (s.setLichen n x).pcAreas = s.pcAreas := rfl
@[simp] theorem State.setLichen_comms (s : State) (n : Nat) (x : Lichen) : (s.setLichen n x).comms = s.comms := rfl
@[simp] theorem State.setLichen_colls (s : State) (n : Nat) (x : Lichen) : (s.setLichen n x).colls = s.colls := rfl
@[simp] theorem State.setLichen_early (s : State) (n : Nat) (x : Lichen) : (s.setLichen n x).early = s.early := rfl
@[simp] theorem State.setLichen_hotAt (s : State) (n : Nat) (x : Lichen) : (s.setLichen n x).hotAt = s.hotAt := rfl
@[simp] theorem State.setLichen_capAt (s : State) (n : Nat) (x : Lichen) : (s.setLichen n x).capAt = s.capAt := rfl
@[simp] theorem State.setLichen_ceLog (s : State) (n : Nat) (x : Lichen) : (s.setLichen n x).ceLog = s.ceLog := rfl
@[simp] theorem State.setLichen_ceTimes (s : State) (n : Nat) (x : Lichen) : (s.setLichen n x).ceTimes = s.ceTimes := rfl
@[simp] theorem State.setLichen_repairs (s : State) (n : Nat) (x : Lichen) : (s.setLichen n x).repairs = s.repairs := rfl
@[simp] theorem State.setLichen_jobs (s : State) (n : Nat) (x : Lichen) : (s.setLichen n x).jobs = s.jobs := rfl
@[simp] theorem State.setLichen_spore (s : State) (n : Nat) (x : Lichen) : (s.setLichen n x).spore = s.spore := rfl
@[simp] theorem State.setLichen_warnings (s : State) (n : Nat) (x : Lichen) : (s.setLichen n x).warnings = s.warnings := rfl
@[simp] theorem State.setLichen_time (s : State) (n : Nat) (x : Lichen) : (s.setLichen n x).time = s.time := rfl
@[simp] theorem State.setLichen_fio (s : State) (n : Nat) (x : Lichen) : (s.setLichen n x).fio = s.fio := rfl
@[simp] theorem State.setLichen_records (s : State) (n : Nat) (x : Lichen) : (s.setLichen n x).records = s.records := rfl
@[simp] theorem State.setLichen_images (s : State) (n : Nat) (x : Lichen) : (s.setLichen n x).images = s.images := rfl
@[simp] theorem State.setLichen_gov (s : State) (n : Nat) (x : Lichen) : (s.setLichen n x).gov = s.gov := rfl
@[simp] theorem State.setLichen_fuses (s : State) (n : Nat) (x : Lichen) : (s.setLichen n x).fuses = s.fuses := rfl
@[simp] theorem State.setLichen_flash (s : State) (n : Nat) (x : Lichen) : (s.setLichen n x).flash = s.flash := rfl
@[simp] theorem State.setLichen_mgmt (s : State) (n : Nat) (x : Lichen) : (s.setLichen n x).mgmt = s.mgmt := rfl
@[simp] theorem State.setLichen_hostLinks (s : State) (n : Nat) (x : Lichen) : (s.setLichen n x).hostLinks = s.hostLinks := rfl
@[simp] theorem State.setLichen_msix (s : State) (n : Nat) (x : Lichen) : (s.setLichen n x).msix = s.msix := rfl
@[simp] theorem State.setLichen_parts (s : State) (n : Nat) (x : Lichen) : (s.setLichen n x).parts = s.parts := rfl
@[simp] theorem State.setLichen_out (s : State) (n : Nat) (x : Lichen) : (s.setLichen n x).out = s.out := rfl

/-! ### setBulk -/

@[simp] theorem State.setBulk_pending (s : State) (n : Nat) (x : Bulk) : (s.setBulk n x).pending = s.pending := rfl
@[simp] theorem State.setBulk_now (s : State) (n : Nat) (x : Bulk) : (s.setBulk n x).now = s.now := rfl
@[simp] theorem State.setBulk_cad (s : State) (n : Nat) (x : Bulk) : (s.setBulk n x).cad = s.cad := rfl
@[simp] theorem State.setBulk_fresh (s : State) (n : Nat) (x : Bulk) : (s.setBulk n x).fresh = s.fresh := rfl
@[simp] theorem State.setBulk_pow (s : State) (n : Nat) (x : Bulk) : (s.setBulk n x).pow = s.pow := rfl
@[simp] theorem State.setBulk_regs (s : State) (n : Nat) (x : Bulk) : (s.setBulk n x).regs = s.regs := rfl
@[simp] theorem State.setBulk_errFor (s : State) (n : Nat) (x : Bulk) : (s.setBulk n x).errFor = s.errFor := rfl
@[simp] theorem State.setBulk_holds (s : State) (n : Nat) (x : Bulk) : (s.setBulk n x).holds = s.holds := rfl
@[simp] theorem State.setBulk_aud (s : State) (n : Nat) (x : Bulk) : (s.setBulk n x).aud = s.aud := rfl
@[simp] theorem State.setBulk_hbm (s : State) (n : Nat) (x : Bulk) : (s.setBulk n x).hbm = s.hbm := rfl
@[simp] theorem State.setBulk_hbmSum (s : State) (n : Nat) (x : Bulk) : (s.setBulk n x).hbmSum = s.hbmSum := rfl
@[simp] theorem State.setBulk_hostMem (s : State) (n : Nat) (x : Bulk) : (s.setBulk n x).hostMem = s.hostMem := rfl
@[simp] theorem State.setBulk_spad (s : State) (n : Nat) (x : Bulk) : (s.setBulk n x).spad = s.spad := rfl
@[simp] theorem State.setBulk_spadSum (s : State) (n : Nat) (x : Bulk) : (s.setBulk n x).spadSum = s.spadSum := rfl
@[simp] theorem State.setBulk_istore (s : State) (n : Nat) (x : Bulk) : (s.setBulk n x).istore = s.istore := rfl
@[simp] theorem State.setBulk_threads (s : State) (n : Nat) (x : Bulk) : (s.setBulk n x).threads = s.threads := rfl
@[simp] theorem State.setBulk_clus (s : State) (n : Nat) (x : Bulk) : (s.setBulk n x).clus = s.clus := rfl
@[simp] theorem State.setBulk_cmds (s : State) (n : Nat) (x : Bulk) : (s.setBulk n x).cmds = s.cmds := rfl
@[simp] theorem State.setBulk_nextCmd (s : State) (n : Nat) (x : Bulk) : (s.setBulk n x).nextCmd = s.nextCmd := rfl
@[simp] theorem State.setBulk_jobEp (s : State) (n : Nat) (x : Bulk) : (s.setBulk n x).jobEp = s.jobEp := rfl
@[simp] theorem State.setBulk_resv (s : State) (n : Nat) (x : Bulk) : (s.setBulk n x).resv = s.resv := rfl
@[simp] theorem State.setBulk_dir (s : State) (n : Nat) (x : Bulk) : (s.setBulk n x).dir = s.dir := rfl
@[simp] theorem State.setBulk_qctx (s : State) (n : Nat) (x : Bulk) : (s.setBulk n x).qctx = s.qctx := rfl
@[simp] theorem State.setBulk_qlru (s : State) (n : Nat) (x : Bulk) : (s.setBulk n x).qlru = s.qlru := rfl
@[simp] theorem State.setBulk_qx (s : State) (n : Nat) (x : Bulk) : (s.setBulk n x).qx = s.qx := rfl
@[simp] theorem State.setBulk_quiesced (s : State) (n : Nat) (x : Bulk) : (s.setBulk n x).quiesced = s.quiesced := rfl
@[simp] theorem State.setBulk_tx (s : State) (n : Nat) (x : Bulk) : (s.setBulk n x).tx = s.tx := rfl
@[simp] theorem State.setBulk_rx (s : State) (n : Nat) (x : Bulk) : (s.setBulk n x).rx = s.rx := rfl
@[simp] theorem State.setBulk_replyCache (s : State) (n : Nat) (x : Bulk) : (s.setBulk n x).replyCache = s.replyCache := rfl
@[simp] theorem State.setBulk_comb (s : State) (n : Nat) (x : Bulk) : (s.setBulk n x).comb = s.comb := rfl
@[simp] theorem State.setBulk_nextComb (s : State) (n : Nat) (x : Bulk) : (s.setBulk n x).nextComb = s.nextComb := rfl
@[simp] theorem State.setBulk_links (s : State) (n : Nat) (x : Bulk) : (s.setBulk n x).links = s.links := rfl
@[simp] theorem State.setBulk_flowLru (s : State) (n : Nat) (x : Bulk) : (s.setBulk n x).flowLru = s.flowLru := rfl
@[simp] theorem State.setBulk_tms (s : State) (n : Nat) (x : Bulk) : (s.setBulk n x).tms = s.tms := rfl
@[simp] theorem State.setBulk_slv (s : State) (n : Nat) (x : Bulk) : (s.setBulk n x).slv = s.slv := rfl
@[simp] theorem State.setBulk_batch (s : State) (n : Nat) (x : Bulk) : (s.setBulk n x).batch = s.batch := rfl
@[simp] theorem State.setBulk_pcAreas (s : State) (n : Nat) (x : Bulk) : (s.setBulk n x).pcAreas = s.pcAreas := rfl
@[simp] theorem State.setBulk_comms (s : State) (n : Nat) (x : Bulk) : (s.setBulk n x).comms = s.comms := rfl
@[simp] theorem State.setBulk_colls (s : State) (n : Nat) (x : Bulk) : (s.setBulk n x).colls = s.colls := rfl
@[simp] theorem State.setBulk_early (s : State) (n : Nat) (x : Bulk) : (s.setBulk n x).early = s.early := rfl
@[simp] theorem State.setBulk_hotAt (s : State) (n : Nat) (x : Bulk) : (s.setBulk n x).hotAt = s.hotAt := rfl
@[simp] theorem State.setBulk_capAt (s : State) (n : Nat) (x : Bulk) : (s.setBulk n x).capAt = s.capAt := rfl
@[simp] theorem State.setBulk_lich (s : State) (n : Nat) (x : Bulk) : (s.setBulk n x).lich = s.lich := rfl
@[simp] theorem State.setBulk_ceLog (s : State) (n : Nat) (x : Bulk) : (s.setBulk n x).ceLog = s.ceLog := rfl
@[simp] theorem State.setBulk_ceTimes (s : State) (n : Nat) (x : Bulk) : (s.setBulk n x).ceTimes = s.ceTimes := rfl
@[simp] theorem State.setBulk_repairs (s : State) (n : Nat) (x : Bulk) : (s.setBulk n x).repairs = s.repairs := rfl
@[simp] theorem State.setBulk_jobs (s : State) (n : Nat) (x : Bulk) : (s.setBulk n x).jobs = s.jobs := rfl
@[simp] theorem State.setBulk_spore (s : State) (n : Nat) (x : Bulk) : (s.setBulk n x).spore = s.spore := rfl
@[simp] theorem State.setBulk_warnings (s : State) (n : Nat) (x : Bulk) : (s.setBulk n x).warnings = s.warnings := rfl
@[simp] theorem State.setBulk_time (s : State) (n : Nat) (x : Bulk) : (s.setBulk n x).time = s.time := rfl
@[simp] theorem State.setBulk_fio (s : State) (n : Nat) (x : Bulk) : (s.setBulk n x).fio = s.fio := rfl
@[simp] theorem State.setBulk_records (s : State) (n : Nat) (x : Bulk) : (s.setBulk n x).records = s.records := rfl
@[simp] theorem State.setBulk_images (s : State) (n : Nat) (x : Bulk) : (s.setBulk n x).images = s.images := rfl
@[simp] theorem State.setBulk_gov (s : State) (n : Nat) (x : Bulk) : (s.setBulk n x).gov = s.gov := rfl
@[simp] theorem State.setBulk_fuses (s : State) (n : Nat) (x : Bulk) : (s.setBulk n x).fuses = s.fuses := rfl
@[simp] theorem State.setBulk_flash (s : State) (n : Nat) (x : Bulk) : (s.setBulk n x).flash = s.flash := rfl
@[simp] theorem State.setBulk_mgmt (s : State) (n : Nat) (x : Bulk) : (s.setBulk n x).mgmt = s.mgmt := rfl
@[simp] theorem State.setBulk_hostLinks (s : State) (n : Nat) (x : Bulk) : (s.setBulk n x).hostLinks = s.hostLinks := rfl
@[simp] theorem State.setBulk_msix (s : State) (n : Nat) (x : Bulk) : (s.setBulk n x).msix = s.msix := rfl
@[simp] theorem State.setBulk_parts (s : State) (n : Nat) (x : Bulk) : (s.setBulk n x).parts = s.parts := rfl
@[simp] theorem State.setBulk_out (s : State) (n : Nat) (x : Bulk) : (s.setBulk n x).out = s.out := rfl

/-! ### setChan -/

@[simp] theorem State.setChan_pending (s : State) (n : Nat) (x : SlvChan) : (s.setChan n x).pending = s.pending := rfl
@[simp] theorem State.setChan_now (s : State) (n : Nat) (x : SlvChan) : (s.setChan n x).now = s.now := rfl
@[simp] theorem State.setChan_cad (s : State) (n : Nat) (x : SlvChan) : (s.setChan n x).cad = s.cad := rfl
@[simp] theorem State.setChan_fresh (s : State) (n : Nat) (x : SlvChan) : (s.setChan n x).fresh = s.fresh := rfl
@[simp] theorem State.setChan_pow (s : State) (n : Nat) (x : SlvChan) : (s.setChan n x).pow = s.pow := rfl
@[simp] theorem State.setChan_regs (s : State) (n : Nat) (x : SlvChan) : (s.setChan n x).regs = s.regs := rfl
@[simp] theorem State.setChan_errFor (s : State) (n : Nat) (x : SlvChan) : (s.setChan n x).errFor = s.errFor := rfl
@[simp] theorem State.setChan_holds (s : State) (n : Nat) (x : SlvChan) : (s.setChan n x).holds = s.holds := rfl
@[simp] theorem State.setChan_aud (s : State) (n : Nat) (x : SlvChan) : (s.setChan n x).aud = s.aud := rfl
@[simp] theorem State.setChan_hbm (s : State) (n : Nat) (x : SlvChan) : (s.setChan n x).hbm = s.hbm := rfl
@[simp] theorem State.setChan_hbmSum (s : State) (n : Nat) (x : SlvChan) : (s.setChan n x).hbmSum = s.hbmSum := rfl
@[simp] theorem State.setChan_hostMem (s : State) (n : Nat) (x : SlvChan) : (s.setChan n x).hostMem = s.hostMem := rfl
@[simp] theorem State.setChan_spad (s : State) (n : Nat) (x : SlvChan) : (s.setChan n x).spad = s.spad := rfl
@[simp] theorem State.setChan_spadSum (s : State) (n : Nat) (x : SlvChan) : (s.setChan n x).spadSum = s.spadSum := rfl
@[simp] theorem State.setChan_istore (s : State) (n : Nat) (x : SlvChan) : (s.setChan n x).istore = s.istore := rfl
@[simp] theorem State.setChan_threads (s : State) (n : Nat) (x : SlvChan) : (s.setChan n x).threads = s.threads := rfl
@[simp] theorem State.setChan_clus (s : State) (n : Nat) (x : SlvChan) : (s.setChan n x).clus = s.clus := rfl
@[simp] theorem State.setChan_cmds (s : State) (n : Nat) (x : SlvChan) : (s.setChan n x).cmds = s.cmds := rfl
@[simp] theorem State.setChan_nextCmd (s : State) (n : Nat) (x : SlvChan) : (s.setChan n x).nextCmd = s.nextCmd := rfl
@[simp] theorem State.setChan_jobEp (s : State) (n : Nat) (x : SlvChan) : (s.setChan n x).jobEp = s.jobEp := rfl
@[simp] theorem State.setChan_resv (s : State) (n : Nat) (x : SlvChan) : (s.setChan n x).resv = s.resv := rfl
@[simp] theorem State.setChan_dir (s : State) (n : Nat) (x : SlvChan) : (s.setChan n x).dir = s.dir := rfl
@[simp] theorem State.setChan_qctx (s : State) (n : Nat) (x : SlvChan) : (s.setChan n x).qctx = s.qctx := rfl
@[simp] theorem State.setChan_qlru (s : State) (n : Nat) (x : SlvChan) : (s.setChan n x).qlru = s.qlru := rfl
@[simp] theorem State.setChan_qx (s : State) (n : Nat) (x : SlvChan) : (s.setChan n x).qx = s.qx := rfl
@[simp] theorem State.setChan_quiesced (s : State) (n : Nat) (x : SlvChan) : (s.setChan n x).quiesced = s.quiesced := rfl
@[simp] theorem State.setChan_tx (s : State) (n : Nat) (x : SlvChan) : (s.setChan n x).tx = s.tx := rfl
@[simp] theorem State.setChan_rx (s : State) (n : Nat) (x : SlvChan) : (s.setChan n x).rx = s.rx := rfl
@[simp] theorem State.setChan_replyCache (s : State) (n : Nat) (x : SlvChan) : (s.setChan n x).replyCache = s.replyCache := rfl
@[simp] theorem State.setChan_comb (s : State) (n : Nat) (x : SlvChan) : (s.setChan n x).comb = s.comb := rfl
@[simp] theorem State.setChan_nextComb (s : State) (n : Nat) (x : SlvChan) : (s.setChan n x).nextComb = s.nextComb := rfl
@[simp] theorem State.setChan_links (s : State) (n : Nat) (x : SlvChan) : (s.setChan n x).links = s.links := rfl
@[simp] theorem State.setChan_flowLru (s : State) (n : Nat) (x : SlvChan) : (s.setChan n x).flowLru = s.flowLru := rfl
@[simp] theorem State.setChan_tms (s : State) (n : Nat) (x : SlvChan) : (s.setChan n x).tms = s.tms := rfl
@[simp] theorem State.setChan_bulk (s : State) (n : Nat) (x : SlvChan) : (s.setChan n x).bulk = s.bulk := rfl
@[simp] theorem State.setChan_batch (s : State) (n : Nat) (x : SlvChan) : (s.setChan n x).batch = s.batch := rfl
@[simp] theorem State.setChan_pcAreas (s : State) (n : Nat) (x : SlvChan) : (s.setChan n x).pcAreas = s.pcAreas := rfl
@[simp] theorem State.setChan_comms (s : State) (n : Nat) (x : SlvChan) : (s.setChan n x).comms = s.comms := rfl
@[simp] theorem State.setChan_colls (s : State) (n : Nat) (x : SlvChan) : (s.setChan n x).colls = s.colls := rfl
@[simp] theorem State.setChan_early (s : State) (n : Nat) (x : SlvChan) : (s.setChan n x).early = s.early := rfl
@[simp] theorem State.setChan_hotAt (s : State) (n : Nat) (x : SlvChan) : (s.setChan n x).hotAt = s.hotAt := rfl
@[simp] theorem State.setChan_capAt (s : State) (n : Nat) (x : SlvChan) : (s.setChan n x).capAt = s.capAt := rfl
@[simp] theorem State.setChan_lich (s : State) (n : Nat) (x : SlvChan) : (s.setChan n x).lich = s.lich := rfl
@[simp] theorem State.setChan_ceLog (s : State) (n : Nat) (x : SlvChan) : (s.setChan n x).ceLog = s.ceLog := rfl
@[simp] theorem State.setChan_ceTimes (s : State) (n : Nat) (x : SlvChan) : (s.setChan n x).ceTimes = s.ceTimes := rfl
@[simp] theorem State.setChan_repairs (s : State) (n : Nat) (x : SlvChan) : (s.setChan n x).repairs = s.repairs := rfl
@[simp] theorem State.setChan_jobs (s : State) (n : Nat) (x : SlvChan) : (s.setChan n x).jobs = s.jobs := rfl
@[simp] theorem State.setChan_spore (s : State) (n : Nat) (x : SlvChan) : (s.setChan n x).spore = s.spore := rfl
@[simp] theorem State.setChan_warnings (s : State) (n : Nat) (x : SlvChan) : (s.setChan n x).warnings = s.warnings := rfl
@[simp] theorem State.setChan_time (s : State) (n : Nat) (x : SlvChan) : (s.setChan n x).time = s.time := rfl
@[simp] theorem State.setChan_fio (s : State) (n : Nat) (x : SlvChan) : (s.setChan n x).fio = s.fio := rfl
@[simp] theorem State.setChan_records (s : State) (n : Nat) (x : SlvChan) : (s.setChan n x).records = s.records := rfl
@[simp] theorem State.setChan_images (s : State) (n : Nat) (x : SlvChan) : (s.setChan n x).images = s.images := rfl
@[simp] theorem State.setChan_gov (s : State) (n : Nat) (x : SlvChan) : (s.setChan n x).gov = s.gov := rfl
@[simp] theorem State.setChan_fuses (s : State) (n : Nat) (x : SlvChan) : (s.setChan n x).fuses = s.fuses := rfl
@[simp] theorem State.setChan_flash (s : State) (n : Nat) (x : SlvChan) : (s.setChan n x).flash = s.flash := rfl
@[simp] theorem State.setChan_mgmt (s : State) (n : Nat) (x : SlvChan) : (s.setChan n x).mgmt = s.mgmt := rfl
@[simp] theorem State.setChan_hostLinks (s : State) (n : Nat) (x : SlvChan) : (s.setChan n x).hostLinks = s.hostLinks := rfl
@[simp] theorem State.setChan_msix (s : State) (n : Nat) (x : SlvChan) : (s.setChan n x).msix = s.msix := rfl
@[simp] theorem State.setChan_parts (s : State) (n : Nat) (x : SlvChan) : (s.setChan n x).parts = s.parts := rfl
@[simp] theorem State.setChan_out (s : State) (n : Nat) (x : SlvChan) : (s.setChan n x).out = s.out := rfl

/-! ### setSp -/

@[simp] theorem State.setSp_pending (s : State) (j : Nat) (x : SporeSlot) : (s.setSp j x).pending = s.pending := rfl
@[simp] theorem State.setSp_now (s : State) (j : Nat) (x : SporeSlot) : (s.setSp j x).now = s.now := rfl
@[simp] theorem State.setSp_cad (s : State) (j : Nat) (x : SporeSlot) : (s.setSp j x).cad = s.cad := rfl
@[simp] theorem State.setSp_fresh (s : State) (j : Nat) (x : SporeSlot) : (s.setSp j x).fresh = s.fresh := rfl
@[simp] theorem State.setSp_pow (s : State) (j : Nat) (x : SporeSlot) : (s.setSp j x).pow = s.pow := rfl
@[simp] theorem State.setSp_regs (s : State) (j : Nat) (x : SporeSlot) : (s.setSp j x).regs = s.regs := rfl
@[simp] theorem State.setSp_errFor (s : State) (j : Nat) (x : SporeSlot) : (s.setSp j x).errFor = s.errFor := rfl
@[simp] theorem State.setSp_holds (s : State) (j : Nat) (x : SporeSlot) : (s.setSp j x).holds = s.holds := rfl
@[simp] theorem State.setSp_aud (s : State) (j : Nat) (x : SporeSlot) : (s.setSp j x).aud = s.aud := rfl
@[simp] theorem State.setSp_hbm (s : State) (j : Nat) (x : SporeSlot) : (s.setSp j x).hbm = s.hbm := rfl
@[simp] theorem State.setSp_hbmSum (s : State) (j : Nat) (x : SporeSlot) : (s.setSp j x).hbmSum = s.hbmSum := rfl
@[simp] theorem State.setSp_hostMem (s : State) (j : Nat) (x : SporeSlot) : (s.setSp j x).hostMem = s.hostMem := rfl
@[simp] theorem State.setSp_spad (s : State) (j : Nat) (x : SporeSlot) : (s.setSp j x).spad = s.spad := rfl
@[simp] theorem State.setSp_spadSum (s : State) (j : Nat) (x : SporeSlot) : (s.setSp j x).spadSum = s.spadSum := rfl
@[simp] theorem State.setSp_istore (s : State) (j : Nat) (x : SporeSlot) : (s.setSp j x).istore = s.istore := rfl
@[simp] theorem State.setSp_threads (s : State) (j : Nat) (x : SporeSlot) : (s.setSp j x).threads = s.threads := rfl
@[simp] theorem State.setSp_clus (s : State) (j : Nat) (x : SporeSlot) : (s.setSp j x).clus = s.clus := rfl
@[simp] theorem State.setSp_cmds (s : State) (j : Nat) (x : SporeSlot) : (s.setSp j x).cmds = s.cmds := rfl
@[simp] theorem State.setSp_nextCmd (s : State) (j : Nat) (x : SporeSlot) : (s.setSp j x).nextCmd = s.nextCmd := rfl
@[simp] theorem State.setSp_jobEp (s : State) (j : Nat) (x : SporeSlot) : (s.setSp j x).jobEp = s.jobEp := rfl
@[simp] theorem State.setSp_resv (s : State) (j : Nat) (x : SporeSlot) : (s.setSp j x).resv = s.resv := rfl
@[simp] theorem State.setSp_dir (s : State) (j : Nat) (x : SporeSlot) : (s.setSp j x).dir = s.dir := rfl
@[simp] theorem State.setSp_qctx (s : State) (j : Nat) (x : SporeSlot) : (s.setSp j x).qctx = s.qctx := rfl
@[simp] theorem State.setSp_qlru (s : State) (j : Nat) (x : SporeSlot) : (s.setSp j x).qlru = s.qlru := rfl
@[simp] theorem State.setSp_qx (s : State) (j : Nat) (x : SporeSlot) : (s.setSp j x).qx = s.qx := rfl
@[simp] theorem State.setSp_quiesced (s : State) (j : Nat) (x : SporeSlot) : (s.setSp j x).quiesced = s.quiesced := rfl
@[simp] theorem State.setSp_tx (s : State) (j : Nat) (x : SporeSlot) : (s.setSp j x).tx = s.tx := rfl
@[simp] theorem State.setSp_rx (s : State) (j : Nat) (x : SporeSlot) : (s.setSp j x).rx = s.rx := rfl
@[simp] theorem State.setSp_replyCache (s : State) (j : Nat) (x : SporeSlot) : (s.setSp j x).replyCache = s.replyCache := rfl
@[simp] theorem State.setSp_comb (s : State) (j : Nat) (x : SporeSlot) : (s.setSp j x).comb = s.comb := rfl
@[simp] theorem State.setSp_nextComb (s : State) (j : Nat) (x : SporeSlot) : (s.setSp j x).nextComb = s.nextComb := rfl
@[simp] theorem State.setSp_links (s : State) (j : Nat) (x : SporeSlot) : (s.setSp j x).links = s.links := rfl
@[simp] theorem State.setSp_flowLru (s : State) (j : Nat) (x : SporeSlot) : (s.setSp j x).flowLru = s.flowLru := rfl
@[simp] theorem State.setSp_tms (s : State) (j : Nat) (x : SporeSlot) : (s.setSp j x).tms = s.tms := rfl
@[simp] theorem State.setSp_bulk (s : State) (j : Nat) (x : SporeSlot) : (s.setSp j x).bulk = s.bulk := rfl
@[simp] theorem State.setSp_slv (s : State) (j : Nat) (x : SporeSlot) : (s.setSp j x).slv = s.slv := rfl
@[simp] theorem State.setSp_batch (s : State) (j : Nat) (x : SporeSlot) : (s.setSp j x).batch = s.batch := rfl
@[simp] theorem State.setSp_pcAreas (s : State) (j : Nat) (x : SporeSlot) : (s.setSp j x).pcAreas = s.pcAreas := rfl
@[simp] theorem State.setSp_comms (s : State) (j : Nat) (x : SporeSlot) : (s.setSp j x).comms = s.comms := rfl
@[simp] theorem State.setSp_colls (s : State) (j : Nat) (x : SporeSlot) : (s.setSp j x).colls = s.colls := rfl
@[simp] theorem State.setSp_early (s : State) (j : Nat) (x : SporeSlot) : (s.setSp j x).early = s.early := rfl
@[simp] theorem State.setSp_hotAt (s : State) (j : Nat) (x : SporeSlot) : (s.setSp j x).hotAt = s.hotAt := rfl
@[simp] theorem State.setSp_capAt (s : State) (j : Nat) (x : SporeSlot) : (s.setSp j x).capAt = s.capAt := rfl
@[simp] theorem State.setSp_lich (s : State) (j : Nat) (x : SporeSlot) : (s.setSp j x).lich = s.lich := rfl
@[simp] theorem State.setSp_ceLog (s : State) (j : Nat) (x : SporeSlot) : (s.setSp j x).ceLog = s.ceLog := rfl
@[simp] theorem State.setSp_ceTimes (s : State) (j : Nat) (x : SporeSlot) : (s.setSp j x).ceTimes = s.ceTimes := rfl
@[simp] theorem State.setSp_repairs (s : State) (j : Nat) (x : SporeSlot) : (s.setSp j x).repairs = s.repairs := rfl
@[simp] theorem State.setSp_jobs (s : State) (j : Nat) (x : SporeSlot) : (s.setSp j x).jobs = s.jobs := rfl
@[simp] theorem State.setSp_warnings (s : State) (j : Nat) (x : SporeSlot) : (s.setSp j x).warnings = s.warnings := rfl
@[simp] theorem State.setSp_time (s : State) (j : Nat) (x : SporeSlot) : (s.setSp j x).time = s.time := rfl
@[simp] theorem State.setSp_fio (s : State) (j : Nat) (x : SporeSlot) : (s.setSp j x).fio = s.fio := rfl
@[simp] theorem State.setSp_records (s : State) (j : Nat) (x : SporeSlot) : (s.setSp j x).records = s.records := rfl
@[simp] theorem State.setSp_images (s : State) (j : Nat) (x : SporeSlot) : (s.setSp j x).images = s.images := rfl
@[simp] theorem State.setSp_gov (s : State) (j : Nat) (x : SporeSlot) : (s.setSp j x).gov = s.gov := rfl
@[simp] theorem State.setSp_fuses (s : State) (j : Nat) (x : SporeSlot) : (s.setSp j x).fuses = s.fuses := rfl
@[simp] theorem State.setSp_flash (s : State) (j : Nat) (x : SporeSlot) : (s.setSp j x).flash = s.flash := rfl
@[simp] theorem State.setSp_mgmt (s : State) (j : Nat) (x : SporeSlot) : (s.setSp j x).mgmt = s.mgmt := rfl
@[simp] theorem State.setSp_hostLinks (s : State) (j : Nat) (x : SporeSlot) : (s.setSp j x).hostLinks = s.hostLinks := rfl
@[simp] theorem State.setSp_msix (s : State) (j : Nat) (x : SporeSlot) : (s.setSp j x).msix = s.msix := rfl
@[simp] theorem State.setSp_parts (s : State) (j : Nat) (x : SporeSlot) : (s.setSp j x).parts = s.parts := rfl
@[simp] theorem State.setSp_out (s : State) (j : Nat) (x : SporeSlot) : (s.setSp j x).out = s.out := rfl

/-! ### setJobX -/

@[simp] theorem State.setJobX_pending (s : State) (j : Nat) (x : JobX) : (s.setJobX j x).pending = s.pending := rfl
@[simp] theorem State.setJobX_now (s : State) (j : Nat) (x : JobX) : (s.setJobX j x).now = s.now := rfl
@[simp] theorem State.setJobX_cad (s : State) (j : Nat) (x : JobX) : (s.setJobX j x).cad = s.cad := rfl
@[simp] theorem State.setJobX_fresh (s : State) (j : Nat) (x : JobX) : (s.setJobX j x).fresh = s.fresh := rfl
@[simp] theorem State.setJobX_pow (s : State) (j : Nat) (x : JobX) : (s.setJobX j x).pow = s.pow := rfl
@[simp] theorem State.setJobX_regs (s : State) (j : Nat) (x : JobX) : (s.setJobX j x).regs = s.regs := rfl
@[simp] theorem State.setJobX_errFor (s : State) (j : Nat) (x : JobX) : (s.setJobX j x).errFor = s.errFor := rfl
@[simp] theorem State.setJobX_holds (s : State) (j : Nat) (x : JobX) : (s.setJobX j x).holds = s.holds := rfl
@[simp] theorem State.setJobX_aud (s : State) (j : Nat) (x : JobX) : (s.setJobX j x).aud = s.aud := rfl
@[simp] theorem State.setJobX_hbm (s : State) (j : Nat) (x : JobX) : (s.setJobX j x).hbm = s.hbm := rfl
@[simp] theorem State.setJobX_hbmSum (s : State) (j : Nat) (x : JobX) : (s.setJobX j x).hbmSum = s.hbmSum := rfl
@[simp] theorem State.setJobX_hostMem (s : State) (j : Nat) (x : JobX) : (s.setJobX j x).hostMem = s.hostMem := rfl
@[simp] theorem State.setJobX_spad (s : State) (j : Nat) (x : JobX) : (s.setJobX j x).spad = s.spad := rfl
@[simp] theorem State.setJobX_spadSum (s : State) (j : Nat) (x : JobX) : (s.setJobX j x).spadSum = s.spadSum := rfl
@[simp] theorem State.setJobX_istore (s : State) (j : Nat) (x : JobX) : (s.setJobX j x).istore = s.istore := rfl
@[simp] theorem State.setJobX_threads (s : State) (j : Nat) (x : JobX) : (s.setJobX j x).threads = s.threads := rfl
@[simp] theorem State.setJobX_clus (s : State) (j : Nat) (x : JobX) : (s.setJobX j x).clus = s.clus := rfl
@[simp] theorem State.setJobX_cmds (s : State) (j : Nat) (x : JobX) : (s.setJobX j x).cmds = s.cmds := rfl
@[simp] theorem State.setJobX_nextCmd (s : State) (j : Nat) (x : JobX) : (s.setJobX j x).nextCmd = s.nextCmd := rfl
@[simp] theorem State.setJobX_jobEp (s : State) (j : Nat) (x : JobX) : (s.setJobX j x).jobEp = s.jobEp := rfl
@[simp] theorem State.setJobX_resv (s : State) (j : Nat) (x : JobX) : (s.setJobX j x).resv = s.resv := rfl
@[simp] theorem State.setJobX_dir (s : State) (j : Nat) (x : JobX) : (s.setJobX j x).dir = s.dir := rfl
@[simp] theorem State.setJobX_qctx (s : State) (j : Nat) (x : JobX) : (s.setJobX j x).qctx = s.qctx := rfl
@[simp] theorem State.setJobX_qlru (s : State) (j : Nat) (x : JobX) : (s.setJobX j x).qlru = s.qlru := rfl
@[simp] theorem State.setJobX_qx (s : State) (j : Nat) (x : JobX) : (s.setJobX j x).qx = s.qx := rfl
@[simp] theorem State.setJobX_quiesced (s : State) (j : Nat) (x : JobX) : (s.setJobX j x).quiesced = s.quiesced := rfl
@[simp] theorem State.setJobX_tx (s : State) (j : Nat) (x : JobX) : (s.setJobX j x).tx = s.tx := rfl
@[simp] theorem State.setJobX_rx (s : State) (j : Nat) (x : JobX) : (s.setJobX j x).rx = s.rx := rfl
@[simp] theorem State.setJobX_replyCache (s : State) (j : Nat) (x : JobX) : (s.setJobX j x).replyCache = s.replyCache := rfl
@[simp] theorem State.setJobX_comb (s : State) (j : Nat) (x : JobX) : (s.setJobX j x).comb = s.comb := rfl
@[simp] theorem State.setJobX_nextComb (s : State) (j : Nat) (x : JobX) : (s.setJobX j x).nextComb = s.nextComb := rfl
@[simp] theorem State.setJobX_links (s : State) (j : Nat) (x : JobX) : (s.setJobX j x).links = s.links := rfl
@[simp] theorem State.setJobX_flowLru (s : State) (j : Nat) (x : JobX) : (s.setJobX j x).flowLru = s.flowLru := rfl
@[simp] theorem State.setJobX_tms (s : State) (j : Nat) (x : JobX) : (s.setJobX j x).tms = s.tms := rfl
@[simp] theorem State.setJobX_bulk (s : State) (j : Nat) (x : JobX) : (s.setJobX j x).bulk = s.bulk := rfl
@[simp] theorem State.setJobX_slv (s : State) (j : Nat) (x : JobX) : (s.setJobX j x).slv = s.slv := rfl
@[simp] theorem State.setJobX_batch (s : State) (j : Nat) (x : JobX) : (s.setJobX j x).batch = s.batch := rfl
@[simp] theorem State.setJobX_pcAreas (s : State) (j : Nat) (x : JobX) : (s.setJobX j x).pcAreas = s.pcAreas := rfl
@[simp] theorem State.setJobX_comms (s : State) (j : Nat) (x : JobX) : (s.setJobX j x).comms = s.comms := rfl
@[simp] theorem State.setJobX_colls (s : State) (j : Nat) (x : JobX) : (s.setJobX j x).colls = s.colls := rfl
@[simp] theorem State.setJobX_early (s : State) (j : Nat) (x : JobX) : (s.setJobX j x).early = s.early := rfl
@[simp] theorem State.setJobX_hotAt (s : State) (j : Nat) (x : JobX) : (s.setJobX j x).hotAt = s.hotAt := rfl
@[simp] theorem State.setJobX_capAt (s : State) (j : Nat) (x : JobX) : (s.setJobX j x).capAt = s.capAt := rfl
@[simp] theorem State.setJobX_lich (s : State) (j : Nat) (x : JobX) : (s.setJobX j x).lich = s.lich := rfl
@[simp] theorem State.setJobX_ceLog (s : State) (j : Nat) (x : JobX) : (s.setJobX j x).ceLog = s.ceLog := rfl
@[simp] theorem State.setJobX_ceTimes (s : State) (j : Nat) (x : JobX) : (s.setJobX j x).ceTimes = s.ceTimes := rfl
@[simp] theorem State.setJobX_repairs (s : State) (j : Nat) (x : JobX) : (s.setJobX j x).repairs = s.repairs := rfl
@[simp] theorem State.setJobX_spore (s : State) (j : Nat) (x : JobX) : (s.setJobX j x).spore = s.spore := rfl
@[simp] theorem State.setJobX_warnings (s : State) (j : Nat) (x : JobX) : (s.setJobX j x).warnings = s.warnings := rfl
@[simp] theorem State.setJobX_time (s : State) (j : Nat) (x : JobX) : (s.setJobX j x).time = s.time := rfl
@[simp] theorem State.setJobX_fio (s : State) (j : Nat) (x : JobX) : (s.setJobX j x).fio = s.fio := rfl
@[simp] theorem State.setJobX_records (s : State) (j : Nat) (x : JobX) : (s.setJobX j x).records = s.records := rfl
@[simp] theorem State.setJobX_images (s : State) (j : Nat) (x : JobX) : (s.setJobX j x).images = s.images := rfl
@[simp] theorem State.setJobX_gov (s : State) (j : Nat) (x : JobX) : (s.setJobX j x).gov = s.gov := rfl
@[simp] theorem State.setJobX_fuses (s : State) (j : Nat) (x : JobX) : (s.setJobX j x).fuses = s.fuses := rfl
@[simp] theorem State.setJobX_flash (s : State) (j : Nat) (x : JobX) : (s.setJobX j x).flash = s.flash := rfl
@[simp] theorem State.setJobX_mgmt (s : State) (j : Nat) (x : JobX) : (s.setJobX j x).mgmt = s.mgmt := rfl
@[simp] theorem State.setJobX_hostLinks (s : State) (j : Nat) (x : JobX) : (s.setJobX j x).hostLinks = s.hostLinks := rfl
@[simp] theorem State.setJobX_msix (s : State) (j : Nat) (x : JobX) : (s.setJobX j x).msix = s.msix := rfl
@[simp] theorem State.setJobX_parts (s : State) (j : Nat) (x : JobX) : (s.setJobX j x).parts = s.parts := rfl
@[simp] theorem State.setJobX_out (s : State) (j : Nat) (x : JobX) : (s.setJobX j x).out = s.out := rfl

/-! ### setCmd -/

@[simp] theorem State.setCmd_pending (s : State) (c : Cmd) : (s.setCmd c).pending = s.pending := rfl
@[simp] theorem State.setCmd_now (s : State) (c : Cmd) : (s.setCmd c).now = s.now := rfl
@[simp] theorem State.setCmd_cad (s : State) (c : Cmd) : (s.setCmd c).cad = s.cad := rfl
@[simp] theorem State.setCmd_fresh (s : State) (c : Cmd) : (s.setCmd c).fresh = s.fresh := rfl
@[simp] theorem State.setCmd_pow (s : State) (c : Cmd) : (s.setCmd c).pow = s.pow := rfl
@[simp] theorem State.setCmd_regs (s : State) (c : Cmd) : (s.setCmd c).regs = s.regs := rfl
@[simp] theorem State.setCmd_errFor (s : State) (c : Cmd) : (s.setCmd c).errFor = s.errFor := rfl
@[simp] theorem State.setCmd_holds (s : State) (c : Cmd) : (s.setCmd c).holds = s.holds := rfl
@[simp] theorem State.setCmd_aud (s : State) (c : Cmd) : (s.setCmd c).aud = s.aud := rfl
@[simp] theorem State.setCmd_hbm (s : State) (c : Cmd) : (s.setCmd c).hbm = s.hbm := rfl
@[simp] theorem State.setCmd_hbmSum (s : State) (c : Cmd) : (s.setCmd c).hbmSum = s.hbmSum := rfl
@[simp] theorem State.setCmd_hostMem (s : State) (c : Cmd) : (s.setCmd c).hostMem = s.hostMem := rfl
@[simp] theorem State.setCmd_spad (s : State) (c : Cmd) : (s.setCmd c).spad = s.spad := rfl
@[simp] theorem State.setCmd_spadSum (s : State) (c : Cmd) : (s.setCmd c).spadSum = s.spadSum := rfl
@[simp] theorem State.setCmd_istore (s : State) (c : Cmd) : (s.setCmd c).istore = s.istore := rfl
@[simp] theorem State.setCmd_threads (s : State) (c : Cmd) : (s.setCmd c).threads = s.threads := rfl
@[simp] theorem State.setCmd_clus (s : State) (c : Cmd) : (s.setCmd c).clus = s.clus := rfl
@[simp] theorem State.setCmd_nextCmd (s : State) (c : Cmd) : (s.setCmd c).nextCmd = s.nextCmd := rfl
@[simp] theorem State.setCmd_jobEp (s : State) (c : Cmd) : (s.setCmd c).jobEp = s.jobEp := rfl
@[simp] theorem State.setCmd_resv (s : State) (c : Cmd) : (s.setCmd c).resv = s.resv := rfl
@[simp] theorem State.setCmd_dir (s : State) (c : Cmd) : (s.setCmd c).dir = s.dir := rfl
@[simp] theorem State.setCmd_qctx (s : State) (c : Cmd) : (s.setCmd c).qctx = s.qctx := rfl
@[simp] theorem State.setCmd_qlru (s : State) (c : Cmd) : (s.setCmd c).qlru = s.qlru := rfl
@[simp] theorem State.setCmd_qx (s : State) (c : Cmd) : (s.setCmd c).qx = s.qx := rfl
@[simp] theorem State.setCmd_quiesced (s : State) (c : Cmd) : (s.setCmd c).quiesced = s.quiesced := rfl
@[simp] theorem State.setCmd_tx (s : State) (c : Cmd) : (s.setCmd c).tx = s.tx := rfl
@[simp] theorem State.setCmd_rx (s : State) (c : Cmd) : (s.setCmd c).rx = s.rx := rfl
@[simp] theorem State.setCmd_replyCache (s : State) (c : Cmd) : (s.setCmd c).replyCache = s.replyCache := rfl
@[simp] theorem State.setCmd_comb (s : State) (c : Cmd) : (s.setCmd c).comb = s.comb := rfl
@[simp] theorem State.setCmd_nextComb (s : State) (c : Cmd) : (s.setCmd c).nextComb = s.nextComb := rfl
@[simp] theorem State.setCmd_links (s : State) (c : Cmd) : (s.setCmd c).links = s.links := rfl
@[simp] theorem State.setCmd_flowLru (s : State) (c : Cmd) : (s.setCmd c).flowLru = s.flowLru := rfl
@[simp] theorem State.setCmd_tms (s : State) (c : Cmd) : (s.setCmd c).tms = s.tms := rfl
@[simp] theorem State.setCmd_bulk (s : State) (c : Cmd) : (s.setCmd c).bulk = s.bulk := rfl
@[simp] theorem State.setCmd_slv (s : State) (c : Cmd) : (s.setCmd c).slv = s.slv := rfl
@[simp] theorem State.setCmd_batch (s : State) (c : Cmd) : (s.setCmd c).batch = s.batch := rfl
@[simp] theorem State.setCmd_pcAreas (s : State) (c : Cmd) : (s.setCmd c).pcAreas = s.pcAreas := rfl
@[simp] theorem State.setCmd_comms (s : State) (c : Cmd) : (s.setCmd c).comms = s.comms := rfl
@[simp] theorem State.setCmd_colls (s : State) (c : Cmd) : (s.setCmd c).colls = s.colls := rfl
@[simp] theorem State.setCmd_early (s : State) (c : Cmd) : (s.setCmd c).early = s.early := rfl
@[simp] theorem State.setCmd_hotAt (s : State) (c : Cmd) : (s.setCmd c).hotAt = s.hotAt := rfl
@[simp] theorem State.setCmd_capAt (s : State) (c : Cmd) : (s.setCmd c).capAt = s.capAt := rfl
@[simp] theorem State.setCmd_lich (s : State) (c : Cmd) : (s.setCmd c).lich = s.lich := rfl
@[simp] theorem State.setCmd_ceLog (s : State) (c : Cmd) : (s.setCmd c).ceLog = s.ceLog := rfl
@[simp] theorem State.setCmd_ceTimes (s : State) (c : Cmd) : (s.setCmd c).ceTimes = s.ceTimes := rfl
@[simp] theorem State.setCmd_repairs (s : State) (c : Cmd) : (s.setCmd c).repairs = s.repairs := rfl
@[simp] theorem State.setCmd_jobs (s : State) (c : Cmd) : (s.setCmd c).jobs = s.jobs := rfl
@[simp] theorem State.setCmd_spore (s : State) (c : Cmd) : (s.setCmd c).spore = s.spore := rfl
@[simp] theorem State.setCmd_warnings (s : State) (c : Cmd) : (s.setCmd c).warnings = s.warnings := rfl
@[simp] theorem State.setCmd_time (s : State) (c : Cmd) : (s.setCmd c).time = s.time := rfl
@[simp] theorem State.setCmd_fio (s : State) (c : Cmd) : (s.setCmd c).fio = s.fio := rfl
@[simp] theorem State.setCmd_records (s : State) (c : Cmd) : (s.setCmd c).records = s.records := rfl
@[simp] theorem State.setCmd_images (s : State) (c : Cmd) : (s.setCmd c).images = s.images := rfl
@[simp] theorem State.setCmd_gov (s : State) (c : Cmd) : (s.setCmd c).gov = s.gov := rfl
@[simp] theorem State.setCmd_fuses (s : State) (c : Cmd) : (s.setCmd c).fuses = s.fuses := rfl
@[simp] theorem State.setCmd_flash (s : State) (c : Cmd) : (s.setCmd c).flash = s.flash := rfl
@[simp] theorem State.setCmd_mgmt (s : State) (c : Cmd) : (s.setCmd c).mgmt = s.mgmt := rfl
@[simp] theorem State.setCmd_hostLinks (s : State) (c : Cmd) : (s.setCmd c).hostLinks = s.hostLinks := rfl
@[simp] theorem State.setCmd_msix (s : State) (c : Cmd) : (s.setCmd c).msix = s.msix := rfl
@[simp] theorem State.setCmd_parts (s : State) (c : Cmd) : (s.setCmd c).parts = s.parts := rfl
@[simp] theorem State.setCmd_out (s : State) (c : Cmd) : (s.setCmd c).out = s.out := rfl

/-! ### setHostLink -/

@[simp] theorem State.setHostLink_pending (s : State) (l : Nat) (x : HostLink) : (s.setHostLink l x).pending = s.pending := rfl
@[simp] theorem State.setHostLink_now (s : State) (l : Nat) (x : HostLink) : (s.setHostLink l x).now = s.now := rfl
@[simp] theorem State.setHostLink_cad (s : State) (l : Nat) (x : HostLink) : (s.setHostLink l x).cad = s.cad := rfl
@[simp] theorem State.setHostLink_fresh (s : State) (l : Nat) (x : HostLink) : (s.setHostLink l x).fresh = s.fresh := rfl
@[simp] theorem State.setHostLink_pow (s : State) (l : Nat) (x : HostLink) : (s.setHostLink l x).pow = s.pow := rfl
@[simp] theorem State.setHostLink_regs (s : State) (l : Nat) (x : HostLink) : (s.setHostLink l x).regs = s.regs := rfl
@[simp] theorem State.setHostLink_errFor (s : State) (l : Nat) (x : HostLink) : (s.setHostLink l x).errFor = s.errFor := rfl
@[simp] theorem State.setHostLink_holds (s : State) (l : Nat) (x : HostLink) : (s.setHostLink l x).holds = s.holds := rfl
@[simp] theorem State.setHostLink_aud (s : State) (l : Nat) (x : HostLink) : (s.setHostLink l x).aud = s.aud := rfl
@[simp] theorem State.setHostLink_hbm (s : State) (l : Nat) (x : HostLink) : (s.setHostLink l x).hbm = s.hbm := rfl
@[simp] theorem State.setHostLink_hbmSum (s : State) (l : Nat) (x : HostLink) : (s.setHostLink l x).hbmSum = s.hbmSum := rfl
@[simp] theorem State.setHostLink_hostMem (s : State) (l : Nat) (x : HostLink) : (s.setHostLink l x).hostMem = s.hostMem := rfl
@[simp] theorem State.setHostLink_spad (s : State) (l : Nat) (x : HostLink) : (s.setHostLink l x).spad = s.spad := rfl
@[simp] theorem State.setHostLink_spadSum (s : State) (l : Nat) (x : HostLink) : (s.setHostLink l x).spadSum = s.spadSum := rfl
@[simp] theorem State.setHostLink_istore (s : State) (l : Nat) (x : HostLink) : (s.setHostLink l x).istore = s.istore := rfl
@[simp] theorem State.setHostLink_threads (s : State) (l : Nat) (x : HostLink) : (s.setHostLink l x).threads = s.threads := rfl
@[simp] theorem State.setHostLink_clus (s : State) (l : Nat) (x : HostLink) : (s.setHostLink l x).clus = s.clus := rfl
@[simp] theorem State.setHostLink_cmds (s : State) (l : Nat) (x : HostLink) : (s.setHostLink l x).cmds = s.cmds := rfl
@[simp] theorem State.setHostLink_nextCmd (s : State) (l : Nat) (x : HostLink) : (s.setHostLink l x).nextCmd = s.nextCmd := rfl
@[simp] theorem State.setHostLink_jobEp (s : State) (l : Nat) (x : HostLink) : (s.setHostLink l x).jobEp = s.jobEp := rfl
@[simp] theorem State.setHostLink_resv (s : State) (l : Nat) (x : HostLink) : (s.setHostLink l x).resv = s.resv := rfl
@[simp] theorem State.setHostLink_dir (s : State) (l : Nat) (x : HostLink) : (s.setHostLink l x).dir = s.dir := rfl
@[simp] theorem State.setHostLink_qctx (s : State) (l : Nat) (x : HostLink) : (s.setHostLink l x).qctx = s.qctx := rfl
@[simp] theorem State.setHostLink_qlru (s : State) (l : Nat) (x : HostLink) : (s.setHostLink l x).qlru = s.qlru := rfl
@[simp] theorem State.setHostLink_qx (s : State) (l : Nat) (x : HostLink) : (s.setHostLink l x).qx = s.qx := rfl
@[simp] theorem State.setHostLink_quiesced (s : State) (l : Nat) (x : HostLink) : (s.setHostLink l x).quiesced = s.quiesced := rfl
@[simp] theorem State.setHostLink_tx (s : State) (l : Nat) (x : HostLink) : (s.setHostLink l x).tx = s.tx := rfl
@[simp] theorem State.setHostLink_rx (s : State) (l : Nat) (x : HostLink) : (s.setHostLink l x).rx = s.rx := rfl
@[simp] theorem State.setHostLink_replyCache (s : State) (l : Nat) (x : HostLink) : (s.setHostLink l x).replyCache = s.replyCache := rfl
@[simp] theorem State.setHostLink_comb (s : State) (l : Nat) (x : HostLink) : (s.setHostLink l x).comb = s.comb := rfl
@[simp] theorem State.setHostLink_nextComb (s : State) (l : Nat) (x : HostLink) : (s.setHostLink l x).nextComb = s.nextComb := rfl
@[simp] theorem State.setHostLink_links (s : State) (l : Nat) (x : HostLink) : (s.setHostLink l x).links = s.links := rfl
@[simp] theorem State.setHostLink_flowLru (s : State) (l : Nat) (x : HostLink) : (s.setHostLink l x).flowLru = s.flowLru := rfl
@[simp] theorem State.setHostLink_tms (s : State) (l : Nat) (x : HostLink) : (s.setHostLink l x).tms = s.tms := rfl
@[simp] theorem State.setHostLink_bulk (s : State) (l : Nat) (x : HostLink) : (s.setHostLink l x).bulk = s.bulk := rfl
@[simp] theorem State.setHostLink_slv (s : State) (l : Nat) (x : HostLink) : (s.setHostLink l x).slv = s.slv := rfl
@[simp] theorem State.setHostLink_batch (s : State) (l : Nat) (x : HostLink) : (s.setHostLink l x).batch = s.batch := rfl
@[simp] theorem State.setHostLink_pcAreas (s : State) (l : Nat) (x : HostLink) : (s.setHostLink l x).pcAreas = s.pcAreas := rfl
@[simp] theorem State.setHostLink_comms (s : State) (l : Nat) (x : HostLink) : (s.setHostLink l x).comms = s.comms := rfl
@[simp] theorem State.setHostLink_colls (s : State) (l : Nat) (x : HostLink) : (s.setHostLink l x).colls = s.colls := rfl
@[simp] theorem State.setHostLink_early (s : State) (l : Nat) (x : HostLink) : (s.setHostLink l x).early = s.early := rfl
@[simp] theorem State.setHostLink_hotAt (s : State) (l : Nat) (x : HostLink) : (s.setHostLink l x).hotAt = s.hotAt := rfl
@[simp] theorem State.setHostLink_capAt (s : State) (l : Nat) (x : HostLink) : (s.setHostLink l x).capAt = s.capAt := rfl
@[simp] theorem State.setHostLink_lich (s : State) (l : Nat) (x : HostLink) : (s.setHostLink l x).lich = s.lich := rfl
@[simp] theorem State.setHostLink_ceLog (s : State) (l : Nat) (x : HostLink) : (s.setHostLink l x).ceLog = s.ceLog := rfl
@[simp] theorem State.setHostLink_ceTimes (s : State) (l : Nat) (x : HostLink) : (s.setHostLink l x).ceTimes = s.ceTimes := rfl
@[simp] theorem State.setHostLink_repairs (s : State) (l : Nat) (x : HostLink) : (s.setHostLink l x).repairs = s.repairs := rfl
@[simp] theorem State.setHostLink_jobs (s : State) (l : Nat) (x : HostLink) : (s.setHostLink l x).jobs = s.jobs := rfl
@[simp] theorem State.setHostLink_spore (s : State) (l : Nat) (x : HostLink) : (s.setHostLink l x).spore = s.spore := rfl
@[simp] theorem State.setHostLink_warnings (s : State) (l : Nat) (x : HostLink) : (s.setHostLink l x).warnings = s.warnings := rfl
@[simp] theorem State.setHostLink_time (s : State) (l : Nat) (x : HostLink) : (s.setHostLink l x).time = s.time := rfl
@[simp] theorem State.setHostLink_fio (s : State) (l : Nat) (x : HostLink) : (s.setHostLink l x).fio = s.fio := rfl
@[simp] theorem State.setHostLink_records (s : State) (l : Nat) (x : HostLink) : (s.setHostLink l x).records = s.records := rfl
@[simp] theorem State.setHostLink_images (s : State) (l : Nat) (x : HostLink) : (s.setHostLink l x).images = s.images := rfl
@[simp] theorem State.setHostLink_gov (s : State) (l : Nat) (x : HostLink) : (s.setHostLink l x).gov = s.gov := rfl
@[simp] theorem State.setHostLink_fuses (s : State) (l : Nat) (x : HostLink) : (s.setHostLink l x).fuses = s.fuses := rfl
@[simp] theorem State.setHostLink_flash (s : State) (l : Nat) (x : HostLink) : (s.setHostLink l x).flash = s.flash := rfl
@[simp] theorem State.setHostLink_mgmt (s : State) (l : Nat) (x : HostLink) : (s.setHostLink l x).mgmt = s.mgmt := rfl
@[simp] theorem State.setHostLink_msix (s : State) (l : Nat) (x : HostLink) : (s.setHostLink l x).msix = s.msix := rfl
@[simp] theorem State.setHostLink_parts (s : State) (l : Nat) (x : HostLink) : (s.setHostLink l x).parts = s.parts := rfl
@[simp] theorem State.setHostLink_out (s : State) (l : Nat) (x : HostLink) : (s.setHostLink l x).out = s.out := rfl

/-! ### setPart -/

@[simp] theorem State.setPart_pending (s : State) (p : Nat) (x : PartState) : (s.setPart p x).pending = s.pending := rfl
@[simp] theorem State.setPart_now (s : State) (p : Nat) (x : PartState) : (s.setPart p x).now = s.now := rfl
@[simp] theorem State.setPart_cad (s : State) (p : Nat) (x : PartState) : (s.setPart p x).cad = s.cad := rfl
@[simp] theorem State.setPart_fresh (s : State) (p : Nat) (x : PartState) : (s.setPart p x).fresh = s.fresh := rfl
@[simp] theorem State.setPart_pow (s : State) (p : Nat) (x : PartState) : (s.setPart p x).pow = s.pow := rfl
@[simp] theorem State.setPart_regs (s : State) (p : Nat) (x : PartState) : (s.setPart p x).regs = s.regs := rfl
@[simp] theorem State.setPart_errFor (s : State) (p : Nat) (x : PartState) : (s.setPart p x).errFor = s.errFor := rfl
@[simp] theorem State.setPart_holds (s : State) (p : Nat) (x : PartState) : (s.setPart p x).holds = s.holds := rfl
@[simp] theorem State.setPart_aud (s : State) (p : Nat) (x : PartState) : (s.setPart p x).aud = s.aud := rfl
@[simp] theorem State.setPart_hbm (s : State) (p : Nat) (x : PartState) : (s.setPart p x).hbm = s.hbm := rfl
@[simp] theorem State.setPart_hbmSum (s : State) (p : Nat) (x : PartState) : (s.setPart p x).hbmSum = s.hbmSum := rfl
@[simp] theorem State.setPart_hostMem (s : State) (p : Nat) (x : PartState) : (s.setPart p x).hostMem = s.hostMem := rfl
@[simp] theorem State.setPart_spad (s : State) (p : Nat) (x : PartState) : (s.setPart p x).spad = s.spad := rfl
@[simp] theorem State.setPart_spadSum (s : State) (p : Nat) (x : PartState) : (s.setPart p x).spadSum = s.spadSum := rfl
@[simp] theorem State.setPart_istore (s : State) (p : Nat) (x : PartState) : (s.setPart p x).istore = s.istore := rfl
@[simp] theorem State.setPart_threads (s : State) (p : Nat) (x : PartState) : (s.setPart p x).threads = s.threads := rfl
@[simp] theorem State.setPart_clus (s : State) (p : Nat) (x : PartState) : (s.setPart p x).clus = s.clus := rfl
@[simp] theorem State.setPart_cmds (s : State) (p : Nat) (x : PartState) : (s.setPart p x).cmds = s.cmds := rfl
@[simp] theorem State.setPart_nextCmd (s : State) (p : Nat) (x : PartState) : (s.setPart p x).nextCmd = s.nextCmd := rfl
@[simp] theorem State.setPart_jobEp (s : State) (p : Nat) (x : PartState) : (s.setPart p x).jobEp = s.jobEp := rfl
@[simp] theorem State.setPart_resv (s : State) (p : Nat) (x : PartState) : (s.setPart p x).resv = s.resv := rfl
@[simp] theorem State.setPart_dir (s : State) (p : Nat) (x : PartState) : (s.setPart p x).dir = s.dir := rfl
@[simp] theorem State.setPart_qctx (s : State) (p : Nat) (x : PartState) : (s.setPart p x).qctx = s.qctx := rfl
@[simp] theorem State.setPart_qlru (s : State) (p : Nat) (x : PartState) : (s.setPart p x).qlru = s.qlru := rfl
@[simp] theorem State.setPart_qx (s : State) (p : Nat) (x : PartState) : (s.setPart p x).qx = s.qx := rfl
@[simp] theorem State.setPart_quiesced (s : State) (p : Nat) (x : PartState) : (s.setPart p x).quiesced = s.quiesced := rfl
@[simp] theorem State.setPart_tx (s : State) (p : Nat) (x : PartState) : (s.setPart p x).tx = s.tx := rfl
@[simp] theorem State.setPart_rx (s : State) (p : Nat) (x : PartState) : (s.setPart p x).rx = s.rx := rfl
@[simp] theorem State.setPart_replyCache (s : State) (p : Nat) (x : PartState) : (s.setPart p x).replyCache = s.replyCache := rfl
@[simp] theorem State.setPart_comb (s : State) (p : Nat) (x : PartState) : (s.setPart p x).comb = s.comb := rfl
@[simp] theorem State.setPart_nextComb (s : State) (p : Nat) (x : PartState) : (s.setPart p x).nextComb = s.nextComb := rfl
@[simp] theorem State.setPart_links (s : State) (p : Nat) (x : PartState) : (s.setPart p x).links = s.links := rfl
@[simp] theorem State.setPart_flowLru (s : State) (p : Nat) (x : PartState) : (s.setPart p x).flowLru = s.flowLru := rfl
@[simp] theorem State.setPart_tms (s : State) (p : Nat) (x : PartState) : (s.setPart p x).tms = s.tms := rfl
@[simp] theorem State.setPart_bulk (s : State) (p : Nat) (x : PartState) : (s.setPart p x).bulk = s.bulk := rfl
@[simp] theorem State.setPart_slv (s : State) (p : Nat) (x : PartState) : (s.setPart p x).slv = s.slv := rfl
@[simp] theorem State.setPart_batch (s : State) (p : Nat) (x : PartState) : (s.setPart p x).batch = s.batch := rfl
@[simp] theorem State.setPart_pcAreas (s : State) (p : Nat) (x : PartState) : (s.setPart p x).pcAreas = s.pcAreas := rfl
@[simp] theorem State.setPart_comms (s : State) (p : Nat) (x : PartState) : (s.setPart p x).comms = s.comms := rfl
@[simp] theorem State.setPart_colls (s : State) (p : Nat) (x : PartState) : (s.setPart p x).colls = s.colls := rfl
@[simp] theorem State.setPart_early (s : State) (p : Nat) (x : PartState) : (s.setPart p x).early = s.early := rfl
@[simp] theorem State.setPart_hotAt (s : State) (p : Nat) (x : PartState) : (s.setPart p x).hotAt = s.hotAt := rfl
@[simp] theorem State.setPart_capAt (s : State) (p : Nat) (x : PartState) : (s.setPart p x).capAt = s.capAt := rfl
@[simp] theorem State.setPart_lich (s : State) (p : Nat) (x : PartState) : (s.setPart p x).lich = s.lich := rfl
@[simp] theorem State.setPart_ceLog (s : State) (p : Nat) (x : PartState) : (s.setPart p x).ceLog = s.ceLog := rfl
@[simp] theorem State.setPart_ceTimes (s : State) (p : Nat) (x : PartState) : (s.setPart p x).ceTimes = s.ceTimes := rfl
@[simp] theorem State.setPart_repairs (s : State) (p : Nat) (x : PartState) : (s.setPart p x).repairs = s.repairs := rfl
@[simp] theorem State.setPart_jobs (s : State) (p : Nat) (x : PartState) : (s.setPart p x).jobs = s.jobs := rfl
@[simp] theorem State.setPart_spore (s : State) (p : Nat) (x : PartState) : (s.setPart p x).spore = s.spore := rfl
@[simp] theorem State.setPart_warnings (s : State) (p : Nat) (x : PartState) : (s.setPart p x).warnings = s.warnings := rfl
@[simp] theorem State.setPart_time (s : State) (p : Nat) (x : PartState) : (s.setPart p x).time = s.time := rfl
@[simp] theorem State.setPart_fio (s : State) (p : Nat) (x : PartState) : (s.setPart p x).fio = s.fio := rfl
@[simp] theorem State.setPart_records (s : State) (p : Nat) (x : PartState) : (s.setPart p x).records = s.records := rfl
@[simp] theorem State.setPart_images (s : State) (p : Nat) (x : PartState) : (s.setPart p x).images = s.images := rfl
@[simp] theorem State.setPart_gov (s : State) (p : Nat) (x : PartState) : (s.setPart p x).gov = s.gov := rfl
@[simp] theorem State.setPart_fuses (s : State) (p : Nat) (x : PartState) : (s.setPart p x).fuses = s.fuses := rfl
@[simp] theorem State.setPart_flash (s : State) (p : Nat) (x : PartState) : (s.setPart p x).flash = s.flash := rfl
@[simp] theorem State.setPart_mgmt (s : State) (p : Nat) (x : PartState) : (s.setPart p x).mgmt = s.mgmt := rfl
@[simp] theorem State.setPart_hostLinks (s : State) (p : Nat) (x : PartState) : (s.setPart p x).hostLinks = s.hostLinks := rfl
@[simp] theorem State.setPart_msix (s : State) (p : Nat) (x : PartState) : (s.setPart p x).msix = s.msix := rfl
@[simp] theorem State.setPart_out (s : State) (p : Nat) (x : PartState) : (s.setPart p x).out = s.out := rfl

/-! ### setGov -/

@[simp] theorem State.setGov_pending (s : State) (g : GovState) : (s.setGov g).pending = s.pending := rfl
@[simp] theorem State.setGov_now (s : State) (g : GovState) : (s.setGov g).now = s.now := rfl
@[simp] theorem State.setGov_cad (s : State) (g : GovState) : (s.setGov g).cad = s.cad := rfl
@[simp] theorem State.setGov_fresh (s : State) (g : GovState) : (s.setGov g).fresh = s.fresh := rfl
@[simp] theorem State.setGov_pow (s : State) (g : GovState) : (s.setGov g).pow = s.pow := rfl
@[simp] theorem State.setGov_regs (s : State) (g : GovState) : (s.setGov g).regs = s.regs := rfl
@[simp] theorem State.setGov_errFor (s : State) (g : GovState) : (s.setGov g).errFor = s.errFor := rfl
@[simp] theorem State.setGov_holds (s : State) (g : GovState) : (s.setGov g).holds = s.holds := rfl
@[simp] theorem State.setGov_aud (s : State) (g : GovState) : (s.setGov g).aud = s.aud := rfl
@[simp] theorem State.setGov_hbm (s : State) (g : GovState) : (s.setGov g).hbm = s.hbm := rfl
@[simp] theorem State.setGov_hbmSum (s : State) (g : GovState) : (s.setGov g).hbmSum = s.hbmSum := rfl
@[simp] theorem State.setGov_hostMem (s : State) (g : GovState) : (s.setGov g).hostMem = s.hostMem := rfl
@[simp] theorem State.setGov_spad (s : State) (g : GovState) : (s.setGov g).spad = s.spad := rfl
@[simp] theorem State.setGov_spadSum (s : State) (g : GovState) : (s.setGov g).spadSum = s.spadSum := rfl
@[simp] theorem State.setGov_istore (s : State) (g : GovState) : (s.setGov g).istore = s.istore := rfl
@[simp] theorem State.setGov_threads (s : State) (g : GovState) : (s.setGov g).threads = s.threads := rfl
@[simp] theorem State.setGov_clus (s : State) (g : GovState) : (s.setGov g).clus = s.clus := rfl
@[simp] theorem State.setGov_cmds (s : State) (g : GovState) : (s.setGov g).cmds = s.cmds := rfl
@[simp] theorem State.setGov_nextCmd (s : State) (g : GovState) : (s.setGov g).nextCmd = s.nextCmd := rfl
@[simp] theorem State.setGov_jobEp (s : State) (g : GovState) : (s.setGov g).jobEp = s.jobEp := rfl
@[simp] theorem State.setGov_resv (s : State) (g : GovState) : (s.setGov g).resv = s.resv := rfl
@[simp] theorem State.setGov_dir (s : State) (g : GovState) : (s.setGov g).dir = s.dir := rfl
@[simp] theorem State.setGov_qctx (s : State) (g : GovState) : (s.setGov g).qctx = s.qctx := rfl
@[simp] theorem State.setGov_qlru (s : State) (g : GovState) : (s.setGov g).qlru = s.qlru := rfl
@[simp] theorem State.setGov_qx (s : State) (g : GovState) : (s.setGov g).qx = s.qx := rfl
@[simp] theorem State.setGov_quiesced (s : State) (g : GovState) : (s.setGov g).quiesced = s.quiesced := rfl
@[simp] theorem State.setGov_tx (s : State) (g : GovState) : (s.setGov g).tx = s.tx := rfl
@[simp] theorem State.setGov_rx (s : State) (g : GovState) : (s.setGov g).rx = s.rx := rfl
@[simp] theorem State.setGov_replyCache (s : State) (g : GovState) : (s.setGov g).replyCache = s.replyCache := rfl
@[simp] theorem State.setGov_comb (s : State) (g : GovState) : (s.setGov g).comb = s.comb := rfl
@[simp] theorem State.setGov_nextComb (s : State) (g : GovState) : (s.setGov g).nextComb = s.nextComb := rfl
@[simp] theorem State.setGov_links (s : State) (g : GovState) : (s.setGov g).links = s.links := rfl
@[simp] theorem State.setGov_flowLru (s : State) (g : GovState) : (s.setGov g).flowLru = s.flowLru := rfl
@[simp] theorem State.setGov_tms (s : State) (g : GovState) : (s.setGov g).tms = s.tms := rfl
@[simp] theorem State.setGov_bulk (s : State) (g : GovState) : (s.setGov g).bulk = s.bulk := rfl
@[simp] theorem State.setGov_slv (s : State) (g : GovState) : (s.setGov g).slv = s.slv := rfl
@[simp] theorem State.setGov_batch (s : State) (g : GovState) : (s.setGov g).batch = s.batch := rfl
@[simp] theorem State.setGov_pcAreas (s : State) (g : GovState) : (s.setGov g).pcAreas = s.pcAreas := rfl
@[simp] theorem State.setGov_comms (s : State) (g : GovState) : (s.setGov g).comms = s.comms := rfl
@[simp] theorem State.setGov_colls (s : State) (g : GovState) : (s.setGov g).colls = s.colls := rfl
@[simp] theorem State.setGov_early (s : State) (g : GovState) : (s.setGov g).early = s.early := rfl
@[simp] theorem State.setGov_hotAt (s : State) (g : GovState) : (s.setGov g).hotAt = s.hotAt := rfl
@[simp] theorem State.setGov_capAt (s : State) (g : GovState) : (s.setGov g).capAt = s.capAt := rfl
@[simp] theorem State.setGov_lich (s : State) (g : GovState) : (s.setGov g).lich = s.lich := rfl
@[simp] theorem State.setGov_ceLog (s : State) (g : GovState) : (s.setGov g).ceLog = s.ceLog := rfl
@[simp] theorem State.setGov_ceTimes (s : State) (g : GovState) : (s.setGov g).ceTimes = s.ceTimes := rfl
@[simp] theorem State.setGov_repairs (s : State) (g : GovState) : (s.setGov g).repairs = s.repairs := rfl
@[simp] theorem State.setGov_jobs (s : State) (g : GovState) : (s.setGov g).jobs = s.jobs := rfl
@[simp] theorem State.setGov_spore (s : State) (g : GovState) : (s.setGov g).spore = s.spore := rfl
@[simp] theorem State.setGov_warnings (s : State) (g : GovState) : (s.setGov g).warnings = s.warnings := rfl
@[simp] theorem State.setGov_time (s : State) (g : GovState) : (s.setGov g).time = s.time := rfl
@[simp] theorem State.setGov_fio (s : State) (g : GovState) : (s.setGov g).fio = s.fio := rfl
@[simp] theorem State.setGov_records (s : State) (g : GovState) : (s.setGov g).records = s.records := rfl
@[simp] theorem State.setGov_images (s : State) (g : GovState) : (s.setGov g).images = s.images := rfl
@[simp] theorem State.setGov_fuses (s : State) (g : GovState) : (s.setGov g).fuses = s.fuses := rfl
@[simp] theorem State.setGov_flash (s : State) (g : GovState) : (s.setGov g).flash = s.flash := rfl
@[simp] theorem State.setGov_mgmt (s : State) (g : GovState) : (s.setGov g).mgmt = s.mgmt := rfl
@[simp] theorem State.setGov_hostLinks (s : State) (g : GovState) : (s.setGov g).hostLinks = s.hostLinks := rfl
@[simp] theorem State.setGov_msix (s : State) (g : GovState) : (s.setGov g).msix = s.msix := rfl
@[simp] theorem State.setGov_parts (s : State) (g : GovState) : (s.setGov g).parts = s.parts := rfl
@[simp] theorem State.setGov_out (s : State) (g : GovState) : (s.setGov g).out = s.out := rfl

/-! ### setMgmt -/

@[simp] theorem State.setMgmt_pending (s : State) (m : MgmtState) : (s.setMgmt m).pending = s.pending := rfl
@[simp] theorem State.setMgmt_now (s : State) (m : MgmtState) : (s.setMgmt m).now = s.now := rfl
@[simp] theorem State.setMgmt_cad (s : State) (m : MgmtState) : (s.setMgmt m).cad = s.cad := rfl
@[simp] theorem State.setMgmt_fresh (s : State) (m : MgmtState) : (s.setMgmt m).fresh = s.fresh := rfl
@[simp] theorem State.setMgmt_pow (s : State) (m : MgmtState) : (s.setMgmt m).pow = s.pow := rfl
@[simp] theorem State.setMgmt_regs (s : State) (m : MgmtState) : (s.setMgmt m).regs = s.regs := rfl
@[simp] theorem State.setMgmt_errFor (s : State) (m : MgmtState) : (s.setMgmt m).errFor = s.errFor := rfl
@[simp] theorem State.setMgmt_holds (s : State) (m : MgmtState) : (s.setMgmt m).holds = s.holds := rfl
@[simp] theorem State.setMgmt_aud (s : State) (m : MgmtState) : (s.setMgmt m).aud = s.aud := rfl
@[simp] theorem State.setMgmt_hbm (s : State) (m : MgmtState) : (s.setMgmt m).hbm = s.hbm := rfl
@[simp] theorem State.setMgmt_hbmSum (s : State) (m : MgmtState) : (s.setMgmt m).hbmSum = s.hbmSum := rfl
@[simp] theorem State.setMgmt_hostMem (s : State) (m : MgmtState) : (s.setMgmt m).hostMem = s.hostMem := rfl
@[simp] theorem State.setMgmt_spad (s : State) (m : MgmtState) : (s.setMgmt m).spad = s.spad := rfl
@[simp] theorem State.setMgmt_spadSum (s : State) (m : MgmtState) : (s.setMgmt m).spadSum = s.spadSum := rfl
@[simp] theorem State.setMgmt_istore (s : State) (m : MgmtState) : (s.setMgmt m).istore = s.istore := rfl
@[simp] theorem State.setMgmt_threads (s : State) (m : MgmtState) : (s.setMgmt m).threads = s.threads := rfl
@[simp] theorem State.setMgmt_clus (s : State) (m : MgmtState) : (s.setMgmt m).clus = s.clus := rfl
@[simp] theorem State.setMgmt_cmds (s : State) (m : MgmtState) : (s.setMgmt m).cmds = s.cmds := rfl
@[simp] theorem State.setMgmt_nextCmd (s : State) (m : MgmtState) : (s.setMgmt m).nextCmd = s.nextCmd := rfl
@[simp] theorem State.setMgmt_jobEp (s : State) (m : MgmtState) : (s.setMgmt m).jobEp = s.jobEp := rfl
@[simp] theorem State.setMgmt_resv (s : State) (m : MgmtState) : (s.setMgmt m).resv = s.resv := rfl
@[simp] theorem State.setMgmt_dir (s : State) (m : MgmtState) : (s.setMgmt m).dir = s.dir := rfl
@[simp] theorem State.setMgmt_qctx (s : State) (m : MgmtState) : (s.setMgmt m).qctx = s.qctx := rfl
@[simp] theorem State.setMgmt_qlru (s : State) (m : MgmtState) : (s.setMgmt m).qlru = s.qlru := rfl
@[simp] theorem State.setMgmt_qx (s : State) (m : MgmtState) : (s.setMgmt m).qx = s.qx := rfl
@[simp] theorem State.setMgmt_quiesced (s : State) (m : MgmtState) : (s.setMgmt m).quiesced = s.quiesced := rfl
@[simp] theorem State.setMgmt_tx (s : State) (m : MgmtState) : (s.setMgmt m).tx = s.tx := rfl
@[simp] theorem State.setMgmt_rx (s : State) (m : MgmtState) : (s.setMgmt m).rx = s.rx := rfl
@[simp] theorem State.setMgmt_replyCache (s : State) (m : MgmtState) : (s.setMgmt m).replyCache = s.replyCache := rfl
@[simp] theorem State.setMgmt_comb (s : State) (m : MgmtState) : (s.setMgmt m).comb = s.comb := rfl
@[simp] theorem State.setMgmt_nextComb (s : State) (m : MgmtState) : (s.setMgmt m).nextComb = s.nextComb := rfl
@[simp] theorem State.setMgmt_links (s : State) (m : MgmtState) : (s.setMgmt m).links = s.links := rfl
@[simp] theorem State.setMgmt_flowLru (s : State) (m : MgmtState) : (s.setMgmt m).flowLru = s.flowLru := rfl
@[simp] theorem State.setMgmt_tms (s : State) (m : MgmtState) : (s.setMgmt m).tms = s.tms := rfl
@[simp] theorem State.setMgmt_bulk (s : State) (m : MgmtState) : (s.setMgmt m).bulk = s.bulk := rfl
@[simp] theorem State.setMgmt_slv (s : State) (m : MgmtState) : (s.setMgmt m).slv = s.slv := rfl
@[simp] theorem State.setMgmt_batch (s : State) (m : MgmtState) : (s.setMgmt m).batch = s.batch := rfl
@[simp] theorem State.setMgmt_pcAreas (s : State) (m : MgmtState) : (s.setMgmt m).pcAreas = s.pcAreas := rfl
@[simp] theorem State.setMgmt_comms (s : State) (m : MgmtState) : (s.setMgmt m).comms = s.comms := rfl
@[simp] theorem State.setMgmt_colls (s : State) (m : MgmtState) : (s.setMgmt m).colls = s.colls := rfl
@[simp] theorem State.setMgmt_early (s : State) (m : MgmtState) : (s.setMgmt m).early = s.early := rfl
@[simp] theorem State.setMgmt_hotAt (s : State) (m : MgmtState) : (s.setMgmt m).hotAt = s.hotAt := rfl
@[simp] theorem State.setMgmt_capAt (s : State) (m : MgmtState) : (s.setMgmt m).capAt = s.capAt := rfl
@[simp] theorem State.setMgmt_lich (s : State) (m : MgmtState) : (s.setMgmt m).lich = s.lich := rfl
@[simp] theorem State.setMgmt_ceLog (s : State) (m : MgmtState) : (s.setMgmt m).ceLog = s.ceLog := rfl
@[simp] theorem State.setMgmt_ceTimes (s : State) (m : MgmtState) : (s.setMgmt m).ceTimes = s.ceTimes := rfl
@[simp] theorem State.setMgmt_repairs (s : State) (m : MgmtState) : (s.setMgmt m).repairs = s.repairs := rfl
@[simp] theorem State.setMgmt_jobs (s : State) (m : MgmtState) : (s.setMgmt m).jobs = s.jobs := rfl
@[simp] theorem State.setMgmt_spore (s : State) (m : MgmtState) : (s.setMgmt m).spore = s.spore := rfl
@[simp] theorem State.setMgmt_warnings (s : State) (m : MgmtState) : (s.setMgmt m).warnings = s.warnings := rfl
@[simp] theorem State.setMgmt_time (s : State) (m : MgmtState) : (s.setMgmt m).time = s.time := rfl
@[simp] theorem State.setMgmt_fio (s : State) (m : MgmtState) : (s.setMgmt m).fio = s.fio := rfl
@[simp] theorem State.setMgmt_records (s : State) (m : MgmtState) : (s.setMgmt m).records = s.records := rfl
@[simp] theorem State.setMgmt_images (s : State) (m : MgmtState) : (s.setMgmt m).images = s.images := rfl
@[simp] theorem State.setMgmt_gov (s : State) (m : MgmtState) : (s.setMgmt m).gov = s.gov := rfl
@[simp] theorem State.setMgmt_fuses (s : State) (m : MgmtState) : (s.setMgmt m).fuses = s.fuses := rfl
@[simp] theorem State.setMgmt_flash (s : State) (m : MgmtState) : (s.setMgmt m).flash = s.flash := rfl
@[simp] theorem State.setMgmt_hostLinks (s : State) (m : MgmtState) : (s.setMgmt m).hostLinks = s.hostLinks := rfl
@[simp] theorem State.setMgmt_msix (s : State) (m : MgmtState) : (s.setMgmt m).msix = s.msix := rfl
@[simp] theorem State.setMgmt_parts (s : State) (m : MgmtState) : (s.setMgmt m).parts = s.parts := rfl
@[simp] theorem State.setMgmt_out (s : State) (m : MgmtState) : (s.setMgmt m).out = s.out := rfl

/-! ### setFio -/

@[simp] theorem State.setFio_pending (s : State) (f : FioState) : (s.setFio f).pending = s.pending := rfl
@[simp] theorem State.setFio_now (s : State) (f : FioState) : (s.setFio f).now = s.now := rfl
@[simp] theorem State.setFio_cad (s : State) (f : FioState) : (s.setFio f).cad = s.cad := rfl
@[simp] theorem State.setFio_fresh (s : State) (f : FioState) : (s.setFio f).fresh = s.fresh := rfl
@[simp] theorem State.setFio_pow (s : State) (f : FioState) : (s.setFio f).pow = s.pow := rfl
@[simp] theorem State.setFio_regs (s : State) (f : FioState) : (s.setFio f).regs = s.regs := rfl
@[simp] theorem State.setFio_errFor (s : State) (f : FioState) : (s.setFio f).errFor = s.errFor := rfl
@[simp] theorem State.setFio_holds (s : State) (f : FioState) : (s.setFio f).holds = s.holds := rfl
@[simp] theorem State.setFio_aud (s : State) (f : FioState) : (s.setFio f).aud = s.aud := rfl
@[simp] theorem State.setFio_hbm (s : State) (f : FioState) : (s.setFio f).hbm = s.hbm := rfl
@[simp] theorem State.setFio_hbmSum (s : State) (f : FioState) : (s.setFio f).hbmSum = s.hbmSum := rfl
@[simp] theorem State.setFio_hostMem (s : State) (f : FioState) : (s.setFio f).hostMem = s.hostMem := rfl
@[simp] theorem State.setFio_spad (s : State) (f : FioState) : (s.setFio f).spad = s.spad := rfl
@[simp] theorem State.setFio_spadSum (s : State) (f : FioState) : (s.setFio f).spadSum = s.spadSum := rfl
@[simp] theorem State.setFio_istore (s : State) (f : FioState) : (s.setFio f).istore = s.istore := rfl
@[simp] theorem State.setFio_threads (s : State) (f : FioState) : (s.setFio f).threads = s.threads := rfl
@[simp] theorem State.setFio_clus (s : State) (f : FioState) : (s.setFio f).clus = s.clus := rfl
@[simp] theorem State.setFio_cmds (s : State) (f : FioState) : (s.setFio f).cmds = s.cmds := rfl
@[simp] theorem State.setFio_nextCmd (s : State) (f : FioState) : (s.setFio f).nextCmd = s.nextCmd := rfl
@[simp] theorem State.setFio_jobEp (s : State) (f : FioState) : (s.setFio f).jobEp = s.jobEp := rfl
@[simp] theorem State.setFio_resv (s : State) (f : FioState) : (s.setFio f).resv = s.resv := rfl
@[simp] theorem State.setFio_dir (s : State) (f : FioState) : (s.setFio f).dir = s.dir := rfl
@[simp] theorem State.setFio_qctx (s : State) (f : FioState) : (s.setFio f).qctx = s.qctx := rfl
@[simp] theorem State.setFio_qlru (s : State) (f : FioState) : (s.setFio f).qlru = s.qlru := rfl
@[simp] theorem State.setFio_qx (s : State) (f : FioState) : (s.setFio f).qx = s.qx := rfl
@[simp] theorem State.setFio_quiesced (s : State) (f : FioState) : (s.setFio f).quiesced = s.quiesced := rfl
@[simp] theorem State.setFio_tx (s : State) (f : FioState) : (s.setFio f).tx = s.tx := rfl
@[simp] theorem State.setFio_rx (s : State) (f : FioState) : (s.setFio f).rx = s.rx := rfl
@[simp] theorem State.setFio_replyCache (s : State) (f : FioState) : (s.setFio f).replyCache = s.replyCache := rfl
@[simp] theorem State.setFio_comb (s : State) (f : FioState) : (s.setFio f).comb = s.comb := rfl
@[simp] theorem State.setFio_nextComb (s : State) (f : FioState) : (s.setFio f).nextComb = s.nextComb := rfl
@[simp] theorem State.setFio_links (s : State) (f : FioState) : (s.setFio f).links = s.links := rfl
@[simp] theorem State.setFio_flowLru (s : State) (f : FioState) : (s.setFio f).flowLru = s.flowLru := rfl
@[simp] theorem State.setFio_tms (s : State) (f : FioState) : (s.setFio f).tms = s.tms := rfl
@[simp] theorem State.setFio_bulk (s : State) (f : FioState) : (s.setFio f).bulk = s.bulk := rfl
@[simp] theorem State.setFio_slv (s : State) (f : FioState) : (s.setFio f).slv = s.slv := rfl
@[simp] theorem State.setFio_batch (s : State) (f : FioState) : (s.setFio f).batch = s.batch := rfl
@[simp] theorem State.setFio_pcAreas (s : State) (f : FioState) : (s.setFio f).pcAreas = s.pcAreas := rfl
@[simp] theorem State.setFio_comms (s : State) (f : FioState) : (s.setFio f).comms = s.comms := rfl
@[simp] theorem State.setFio_colls (s : State) (f : FioState) : (s.setFio f).colls = s.colls := rfl
@[simp] theorem State.setFio_early (s : State) (f : FioState) : (s.setFio f).early = s.early := rfl
@[simp] theorem State.setFio_hotAt (s : State) (f : FioState) : (s.setFio f).hotAt = s.hotAt := rfl
@[simp] theorem State.setFio_capAt (s : State) (f : FioState) : (s.setFio f).capAt = s.capAt := rfl
@[simp] theorem State.setFio_lich (s : State) (f : FioState) : (s.setFio f).lich = s.lich := rfl
@[simp] theorem State.setFio_ceLog (s : State) (f : FioState) : (s.setFio f).ceLog = s.ceLog := rfl
@[simp] theorem State.setFio_ceTimes (s : State) (f : FioState) : (s.setFio f).ceTimes = s.ceTimes := rfl
@[simp] theorem State.setFio_repairs (s : State) (f : FioState) : (s.setFio f).repairs = s.repairs := rfl
@[simp] theorem State.setFio_jobs (s : State) (f : FioState) : (s.setFio f).jobs = s.jobs := rfl
@[simp] theorem State.setFio_spore (s : State) (f : FioState) : (s.setFio f).spore = s.spore := rfl
@[simp] theorem State.setFio_warnings (s : State) (f : FioState) : (s.setFio f).warnings = s.warnings := rfl
@[simp] theorem State.setFio_time (s : State) (f : FioState) : (s.setFio f).time = s.time := rfl
@[simp] theorem State.setFio_records (s : State) (f : FioState) : (s.setFio f).records = s.records := rfl
@[simp] theorem State.setFio_images (s : State) (f : FioState) : (s.setFio f).images = s.images := rfl
@[simp] theorem State.setFio_gov (s : State) (f : FioState) : (s.setFio f).gov = s.gov := rfl
@[simp] theorem State.setFio_fuses (s : State) (f : FioState) : (s.setFio f).fuses = s.fuses := rfl
@[simp] theorem State.setFio_flash (s : State) (f : FioState) : (s.setFio f).flash = s.flash := rfl
@[simp] theorem State.setFio_mgmt (s : State) (f : FioState) : (s.setFio f).mgmt = s.mgmt := rfl
@[simp] theorem State.setFio_hostLinks (s : State) (f : FioState) : (s.setFio f).hostLinks = s.hostLinks := rfl
@[simp] theorem State.setFio_msix (s : State) (f : FioState) : (s.setFio f).msix = s.msix := rfl
@[simp] theorem State.setFio_parts (s : State) (f : FioState) : (s.setFio f).parts = s.parts := rfl
@[simp] theorem State.setFio_out (s : State) (f : FioState) : (s.setFio f).out = s.out := rfl

/-! ### setTime -/

@[simp] theorem State.setTime_pending (s : State) (x : TimeState) : (s.setTime x).pending = s.pending := rfl
@[simp] theorem State.setTime_now (s : State) (x : TimeState) : (s.setTime x).now = s.now := rfl
@[simp] theorem State.setTime_cad (s : State) (x : TimeState) : (s.setTime x).cad = s.cad := rfl
@[simp] theorem State.setTime_fresh (s : State) (x : TimeState) : (s.setTime x).fresh = s.fresh := rfl
@[simp] theorem State.setTime_pow (s : State) (x : TimeState) : (s.setTime x).pow = s.pow := rfl
@[simp] theorem State.setTime_regs (s : State) (x : TimeState) : (s.setTime x).regs = s.regs := rfl
@[simp] theorem State.setTime_errFor (s : State) (x : TimeState) : (s.setTime x).errFor = s.errFor := rfl
@[simp] theorem State.setTime_holds (s : State) (x : TimeState) : (s.setTime x).holds = s.holds := rfl
@[simp] theorem State.setTime_aud (s : State) (x : TimeState) : (s.setTime x).aud = s.aud := rfl
@[simp] theorem State.setTime_hbm (s : State) (x : TimeState) : (s.setTime x).hbm = s.hbm := rfl
@[simp] theorem State.setTime_hbmSum (s : State) (x : TimeState) : (s.setTime x).hbmSum = s.hbmSum := rfl
@[simp] theorem State.setTime_hostMem (s : State) (x : TimeState) : (s.setTime x).hostMem = s.hostMem := rfl
@[simp] theorem State.setTime_spad (s : State) (x : TimeState) : (s.setTime x).spad = s.spad := rfl
@[simp] theorem State.setTime_spadSum (s : State) (x : TimeState) : (s.setTime x).spadSum = s.spadSum := rfl
@[simp] theorem State.setTime_istore (s : State) (x : TimeState) : (s.setTime x).istore = s.istore := rfl
@[simp] theorem State.setTime_threads (s : State) (x : TimeState) : (s.setTime x).threads = s.threads := rfl
@[simp] theorem State.setTime_clus (s : State) (x : TimeState) : (s.setTime x).clus = s.clus := rfl
@[simp] theorem State.setTime_cmds (s : State) (x : TimeState) : (s.setTime x).cmds = s.cmds := rfl
@[simp] theorem State.setTime_nextCmd (s : State) (x : TimeState) : (s.setTime x).nextCmd = s.nextCmd := rfl
@[simp] theorem State.setTime_jobEp (s : State) (x : TimeState) : (s.setTime x).jobEp = s.jobEp := rfl
@[simp] theorem State.setTime_resv (s : State) (x : TimeState) : (s.setTime x).resv = s.resv := rfl
@[simp] theorem State.setTime_dir (s : State) (x : TimeState) : (s.setTime x).dir = s.dir := rfl
@[simp] theorem State.setTime_qctx (s : State) (x : TimeState) : (s.setTime x).qctx = s.qctx := rfl
@[simp] theorem State.setTime_qlru (s : State) (x : TimeState) : (s.setTime x).qlru = s.qlru := rfl
@[simp] theorem State.setTime_qx (s : State) (x : TimeState) : (s.setTime x).qx = s.qx := rfl
@[simp] theorem State.setTime_quiesced (s : State) (x : TimeState) : (s.setTime x).quiesced = s.quiesced := rfl
@[simp] theorem State.setTime_tx (s : State) (x : TimeState) : (s.setTime x).tx = s.tx := rfl
@[simp] theorem State.setTime_rx (s : State) (x : TimeState) : (s.setTime x).rx = s.rx := rfl
@[simp] theorem State.setTime_replyCache (s : State) (x : TimeState) : (s.setTime x).replyCache = s.replyCache := rfl
@[simp] theorem State.setTime_comb (s : State) (x : TimeState) : (s.setTime x).comb = s.comb := rfl
@[simp] theorem State.setTime_nextComb (s : State) (x : TimeState) : (s.setTime x).nextComb = s.nextComb := rfl
@[simp] theorem State.setTime_links (s : State) (x : TimeState) : (s.setTime x).links = s.links := rfl
@[simp] theorem State.setTime_flowLru (s : State) (x : TimeState) : (s.setTime x).flowLru = s.flowLru := rfl
@[simp] theorem State.setTime_tms (s : State) (x : TimeState) : (s.setTime x).tms = s.tms := rfl
@[simp] theorem State.setTime_bulk (s : State) (x : TimeState) : (s.setTime x).bulk = s.bulk := rfl
@[simp] theorem State.setTime_slv (s : State) (x : TimeState) : (s.setTime x).slv = s.slv := rfl
@[simp] theorem State.setTime_batch (s : State) (x : TimeState) : (s.setTime x).batch = s.batch := rfl
@[simp] theorem State.setTime_pcAreas (s : State) (x : TimeState) : (s.setTime x).pcAreas = s.pcAreas := rfl
@[simp] theorem State.setTime_comms (s : State) (x : TimeState) : (s.setTime x).comms = s.comms := rfl
@[simp] theorem State.setTime_colls (s : State) (x : TimeState) : (s.setTime x).colls = s.colls := rfl
@[simp] theorem State.setTime_early (s : State) (x : TimeState) : (s.setTime x).early = s.early := rfl
@[simp] theorem State.setTime_hotAt (s : State) (x : TimeState) : (s.setTime x).hotAt = s.hotAt := rfl
@[simp] theorem State.setTime_capAt (s : State) (x : TimeState) : (s.setTime x).capAt = s.capAt := rfl
@[simp] theorem State.setTime_lich (s : State) (x : TimeState) : (s.setTime x).lich = s.lich := rfl
@[simp] theorem State.setTime_ceLog (s : State) (x : TimeState) : (s.setTime x).ceLog = s.ceLog := rfl
@[simp] theorem State.setTime_ceTimes (s : State) (x : TimeState) : (s.setTime x).ceTimes = s.ceTimes := rfl
@[simp] theorem State.setTime_repairs (s : State) (x : TimeState) : (s.setTime x).repairs = s.repairs := rfl
@[simp] theorem State.setTime_jobs (s : State) (x : TimeState) : (s.setTime x).jobs = s.jobs := rfl
@[simp] theorem State.setTime_spore (s : State) (x : TimeState) : (s.setTime x).spore = s.spore := rfl
@[simp] theorem State.setTime_warnings (s : State) (x : TimeState) : (s.setTime x).warnings = s.warnings := rfl
@[simp] theorem State.setTime_fio (s : State) (x : TimeState) : (s.setTime x).fio = s.fio := rfl
@[simp] theorem State.setTime_records (s : State) (x : TimeState) : (s.setTime x).records = s.records := rfl
@[simp] theorem State.setTime_images (s : State) (x : TimeState) : (s.setTime x).images = s.images := rfl
@[simp] theorem State.setTime_gov (s : State) (x : TimeState) : (s.setTime x).gov = s.gov := rfl
@[simp] theorem State.setTime_fuses (s : State) (x : TimeState) : (s.setTime x).fuses = s.fuses := rfl
@[simp] theorem State.setTime_flash (s : State) (x : TimeState) : (s.setTime x).flash = s.flash := rfl
@[simp] theorem State.setTime_mgmt (s : State) (x : TimeState) : (s.setTime x).mgmt = s.mgmt := rfl
@[simp] theorem State.setTime_hostLinks (s : State) (x : TimeState) : (s.setTime x).hostLinks = s.hostLinks := rfl
@[simp] theorem State.setTime_msix (s : State) (x : TimeState) : (s.setTime x).msix = s.msix := rfl
@[simp] theorem State.setTime_parts (s : State) (x : TimeState) : (s.setTime x).parts = s.parts := rfl
@[simp] theorem State.setTime_out (s : State) (x : TimeState) : (s.setTime x).out = s.out := rfl

end Sys2Proof.Machine
end

