-- ==== Sys2Proof/Laws/Regs.lean ====
section
/-! SUPPORT. Register fields: a field reads as it was set, and no other field changes. -/

namespace Sys2Proof.Machine

/-! ### Bit fields of numbers -/

theorem bitsOf_lt (v hi lo : Nat) : bitsOf v hi lo < 2 ^ (hi + 1 - lo) := Nat.mod_lt _ (Nat.two_pow_pos _)

theorem testBit_bitsOf (v hi lo i : Nat) : (bitsOf v hi lo).testBit i = (decide (i < hi + 1 - lo) && v.testBit (lo + i)) := by
  simp [bitsOf, Nat.testBit_mod_two_pow, Nat.testBit_shiftRight]

theorem bitsOf_mul_le (v hi lo : Nat) : bitsOf v hi lo * 2 ^ lo ≤ v := by
  unfold bitsOf
  calc (v >>> lo) % 2 ^ (hi + 1 - lo) * 2 ^ lo ≤ (v >>> lo) * 2 ^ lo := Nat.mul_le_mul_right _ (Nat.mod_le _ _)
    _ ≤ v := by rw [Nat.shiftRight_eq_div_pow]; exact Nat.div_mul_le_self _ _

/-- A number is its part below a field, the field, and its part above. -/
theorem split_bits (v hi lo : Nat) (h : lo ≤ hi + 1) : v = v % 2 ^ lo + 2 ^ lo * bitsOf v hi lo + 2 ^ (hi + 1) * (v / 2 ^ (hi + 1)) := by
  have e : 2 ^ (hi + 1) = 2 ^ lo * 2 ^ (hi + 1 - lo) := by rw [← Nat.pow_add]; congr 1; omega
  have h1 := Nat.div_add_mod v (2 ^ lo)
  have h2 := Nat.div_add_mod (v / 2 ^ lo) (2 ^ (hi + 1 - lo))
  rw [Nat.div_div_eq_div_mul, ← e] at h2
  unfold bitsOf
  rw [Nat.shiftRight_eq_div_pow]
  calc v = 2 ^ lo * (v / 2 ^ lo) + v % 2 ^ lo := h1.symm
    _ = 2 ^ lo * (2 ^ (hi + 1 - lo) * (v / 2 ^ (hi + 1)) + v / 2 ^ lo % 2 ^ (hi + 1 - lo)) + v % 2 ^ lo := by rw [h2]
    _ = v % 2 ^ lo + 2 ^ lo * (v / 2 ^ lo % 2 ^ (hi + 1 - lo)) + 2 ^ (hi + 1) * (v / 2 ^ (hi + 1)) := by
        rw [Nat.mul_add, ← Nat.mul_assoc, ← e]; omega

theorem setBits_eq (v hi lo x : Nat) (h : lo ≤ hi + 1) :
    setBits v hi lo x = v % 2 ^ lo + 2 ^ lo * (x % 2 ^ (hi + 1 - lo)) + 2 ^ (hi + 1) * (v / 2 ^ (hi + 1)) := by
  have := split_bits v hi lo h
  unfold setBits
  rw [Nat.mul_comm (bitsOf v hi lo), Nat.mul_comm (x % _)]
  omega

theorem bitsOf_low_mid_high (a b c hi lo : Nat) (h : lo ≤ hi + 1) (ha : a < 2 ^ lo) (hb : b < 2 ^ (hi + 1 - lo)) :
    bitsOf (a + 2 ^ lo * b + 2 ^ (hi + 1) * c) hi lo = b := by
  have e : 2 ^ (hi + 1) = 2 ^ lo * 2 ^ (hi + 1 - lo) := by rw [← Nat.pow_add]; congr 1; omega
  unfold bitsOf
  rw [Nat.shiftRight_eq_div_pow, e, Nat.mul_assoc, Nat.add_assoc, ← Nat.mul_add, Nat.add_mul_div_left _ _ (Nat.two_pow_pos _),
    Nat.div_eq_of_lt ha, Nat.zero_add, Nat.add_mul_mod_self_left, Nat.mod_eq_of_lt hb]

/-- The field set. -/
theorem bitsOf_setBits_same (v hi lo x : Nat) (h : lo ≤ hi + 1) : bitsOf (setBits v hi lo x) hi lo = x % 2 ^ (hi + 1 - lo) := by
  rw [setBits_eq v hi lo x h]
  exact bitsOf_low_mid_high _ _ _ _ _ h (Nat.mod_lt _ (Nat.two_pow_pos _)) (Nat.mod_lt _ (Nat.two_pow_pos _))

/-- The bits outside the field. -/
theorem testBit_setBits (v hi lo x i : Nat) (h : lo ≤ hi + 1) :
    (setBits v hi lo x).testBit i = if lo ≤ i ∧ i ≤ hi then x.testBit (i - lo) else v.testBit i := by
  have e : 2 ^ (hi + 1) = 2 ^ lo * 2 ^ (hi + 1 - lo) := by rw [← Nat.pow_add]; congr 1; omega
  rw [setBits_eq v hi lo x h]
  have r : v % 2 ^ lo + 2 ^ lo * (x % 2 ^ (hi + 1 - lo)) + 2 ^ (hi + 1) * (v / 2 ^ (hi + 1)) =
      2 ^ lo * (2 ^ (hi + 1 - lo) * (v / 2 ^ (hi + 1)) + x % 2 ^ (hi + 1 - lo)) + v % 2 ^ lo := by
    rw [Nat.mul_add, ← Nat.mul_assoc, ← e]; omega
  rw [r, Nat.testBit_two_pow_mul_add _ (Nat.mod_lt _ (Nat.two_pow_pos _))]
  split
  · rename_i hi'
    rw [if_neg (by omega), Nat.testBit_mod_two_pow]
    simp [hi']
  · rename_i hi'
    rw [Nat.testBit_two_pow_mul_add _ (Nat.mod_lt _ (Nat.two_pow_pos _))]
    split
    · rename_i h2
      rw [if_pos (by omega), Nat.testBit_mod_two_pow]
      simp; omega
    · rename_i h2
      rw [if_neg (by omega), Nat.testBit_div_two_pow]
      congr 1; omega

theorem bitsOf_setBits_other (v hi lo x hi' lo' : Nat) (h : lo ≤ hi + 1) (hd : hi < lo' ∨ hi' < lo) :
    bitsOf (setBits v hi lo x) hi' lo' = bitsOf v hi' lo' := by
  apply Nat.eq_of_testBit_eq
  intro i
  rw [testBit_bitsOf, testBit_bitsOf, testBit_setBits v hi lo x _ h]
  by_cases c : i < hi' + 1 - lo'
  · rw [if_neg (by omega)]
  · simp [c]

theorem setBits_lt (v hi lo x : Nat) (h : lo ≤ hi + 1) (hh : hi < 64) (hv : v < 2 ^ 64) : setBits v hi lo x < 2 ^ 64 := by
  apply Nat.lt_pow_two_of_testBit
  intro i hi'
  rw [testBit_setBits v hi lo x i h, if_neg (by omega)]
  exact Nat.testBit_lt_two_pow (Nat.lt_of_lt_of_le hv (Nat.pow_le_pow_right (by omega) hi'))

/-! ### Registers -/

/-- A field that lies in its register. -/
def Fld.Ok (f : Fld) : Prop := f.lo ≤ f.hi + 1 ∧ f.hi < 64

@[simp] theorem State.regW_setW_same (s : State) (b : Block) (o : Nat) (v : Word) (i k : Nat) : (s.setW b o v i k).regW b o i k = v :=
  spGet_spPut_same _ _ _ _

theorem State.regW_setW_other (s : State) (b b' : Block) (o o' : Nat) (v : Word) (i i' k k' : Nat) (h : regKey b i o k ≠ regKey b' i' o' k') :
    (s.setW b o v i k).regW b' o' i' k' = s.regW b' o' i' k' := spGet_spPut_other _ _ _ _ _ _ h

theorem State.getF_setF_same (s : State) (f : Fld) (v i k : Nat) (h : f.Ok) : (s.setF f v i k).getF f i k = v % 2 ^ (f.hi + 1 - f.lo) := by
  unfold State.getF State.setF
  rw [State.regW_setW_same, BitVec.toNat_ofNat, Nat.mod_eq_of_lt (setBits_lt _ _ _ _ h.1 h.2 (BitVec.isLt _)), bitsOf_setBits_same _ _ _ _ h.1]

/-- Another field of the same register. -/
theorem State.getF_setF_field (s : State) (f g : Fld) (v i k : Nat) (h : f.Ok) (hb : f.blk = g.blk) (ho : f.off = g.off)
    (hd : f.hi < g.lo ∨ g.hi < f.lo) : (s.setF f v i k).getF g i k = s.getF g i k := by
  unfold State.getF State.setF
  rw [← hb, ← ho, State.regW_setW_same, BitVec.toNat_ofNat, Nat.mod_eq_of_lt (setBits_lt _ _ _ _ h.1 h.2 (BitVec.isLt _)),
    bitsOf_setBits_other _ _ _ _ _ _ h.1 hd]

/-- A field of another register. -/
theorem State.getF_setF_other (s : State) (f g : Fld) (v i k i' k' : Nat) (h : regKey f.blk i f.off k ≠ regKey g.blk i' g.off k') :
    (s.setF f v i k).getF g i' k' = s.getF g i' k' := by
  unfold State.getF State.setF
  rw [State.regW_setW_other _ _ _ _ _ _ _ _ _ _ h]

/-! ### Tables by number -/

@[simp] theorem State.thr_setThr_same (s : State) (c t : Nat) (x : Thread) : (s.setThr c t x).thr c t = x := spGet_spPut_same _ _ _ _
theorem State.thr_setThr_other (s : State) (c t c' t' : Nat) (x : Thread) (h : c * 8 + t ≠ c' * 8 + t') : (s.setThr c t x).thr c' t' = s.thr c' t' :=
  spGet_spPut_other _ _ _ _ _ _ h
@[simp] theorem State.clu_setThr (s : State) (c t c' : Nat) (x : Thread) : (s.setThr c t x).clu c' = s.clu c' := rfl
@[simp] theorem State.thr_setClu (s : State) (c c' t : Nat) (x : Cluster) : (s.setClu c x).thr c' t = s.thr c' t := rfl
@[simp] theorem State.clu_setClu_same (s : State) (c : Nat) (x : Cluster) : (s.setClu c x).clu c = x := spGet_spPut_same _ _ _ _
theorem State.clu_setClu_other (s : State) (c c' : Nat) (x : Cluster) (h : c ≠ c') : (s.setClu c x).clu c' = s.clu c' :=
  spGet_spPut_other _ _ _ _ _ _ h
@[simp] theorem State.thr_setF (s : State) (f : Fld) (v i k c t : Nat) : (s.setF f v i k).thr c t = s.thr c t := rfl
@[simp] theorem State.clu_setF (s : State) (f : Fld) (v i k c : Nat) : (s.setF f v i k).clu c = s.clu c := rfl
@[simp] theorem State.getF_setThr (s : State) (f : Fld) (i k c t : Nat) (x : Thread) : (s.setThr c t x).getF f i k = s.getF f i k := rfl
@[simp] theorem State.getF_setClu (s : State) (f : Fld) (i k c : Nat) (x : Cluster) : (s.setClu c x).getF f i k = s.getF f i k := rfl
@[simp] theorem State.getF_emit (s : State) (f : Fld) (i k : Nat) (o : Out) : (s.emit o).getF f i k = s.getF f i k := rfl

/-! ### A thread's registers -/

@[simp] theorem Thread.rd_wr_same (x : Thread) (r : Nat) (v : Word) (h : r ≠ 0) : (x.wr r v).rd r = v := by
  unfold Thread.wr Thread.rd
  rw [if_neg h, if_neg h]
  exact spGet_spPut_same _ _ _ _
theorem Thread.rd_wr_other (x : Thread) (r r' : Nat) (v : Word) (h : r ≠ r') : (x.wr r v).rd r' = x.rd r' := by
  unfold Thread.wr Thread.rd
  split
  · rfl
  · split
    · rfl
    · exact spGet_spPut_other _ _ _ _ _ _ h
/-- A write of a register changes no other part of the thread. -/
theorem Thread.wr_form (x : Thread) (r : Nat) (v : Word) : x.wr r v = { x with sr := (x.wr r v).sr } := by
  unfold Thread.wr; split <;> rfl
@[simp] theorem Thread.wr_pc (x : Thread) (r : Nat) (v : Word) : (x.wr r v).pc = x.pc := by rw [Thread.wr_form]
@[simp] theorem Thread.wr_st (x : Thread) (r : Nat) (v : Word) : (x.wr r v).st = x.st := by rw [Thread.wr_form]
@[simp] theorem Thread.wr_cause (x : Thread) (r : Nat) (v : Word) : (x.wr r v).cause = x.cause := by rw [Thread.wr_form]
@[simp] theorem Thread.wr_vr (x : Thread) (r : Nat) (v : Word) : (x.wr r v).vr = x.vr := by rw [Thread.wr_form]
@[simp] theorem Thread.wr_pr (x : Thread) (r : Nat) (v : Word) : (x.wr r v).pr = x.pr := by rw [Thread.wr_form]
@[simp] theorem Thread.wr_vl (x : Thread) (r : Nat) (v : Word) : (x.wr r v).vl = x.vl := by rw [Thread.wr_form]
@[simp] theorem Thread.wr_rm (x : Thread) (r : Nat) (v : Word) : (x.wr r v).rm = x.rm := by rw [Thread.wr_form]
@[simp] theorem Thread.wr_flags (x : Thread) (r : Nat) (v : Word) : (x.wr r v).flags = x.flags := by rw [Thread.wr_form]
@[simp] theorem Thread.wr_drawIdx (x : Thread) (r : Nat) (v : Word) : (x.wr r v).drawIdx = x.drawIdx := by rw [Thread.wr_form]
@[simp] theorem Thread.wr_drawStep (x : Thread) (r : Nat) (v : Word) : (x.wr r v).drawStep = x.drawStep := by rw [Thread.wr_form]
@[simp] theorem Thread.wr_wait (x : Thread) (r : Nat) (v : Word) : (x.wr r v).wait = x.wait := by rw [Thread.wr_form]
@[simp] theorem Thread.wr_adv (x : Thread) (r : Nat) (v : Word) : (x.wr r v).adv = x.adv := by rw [Thread.wr_form]
@[simp] theorem Thread.wr_remote (x : Thread) (r : Nat) (v : Word) : (x.wr r v).remote = x.remote := by rw [Thread.wr_form]
@[simp] theorem Thread.wr_stores (x : Thread) (r : Nat) (v : Word) : (x.wr r v).stores = x.stores := by rw [Thread.wr_form]
@[simp] theorem Thread.wr_groups (x : Thread) (r : Nat) (v : Word) : (x.wr r v).groups = x.groups := by rw [Thread.wr_form]
@[simp] theorem Thread.wr_nextGroup (x : Thread) (r : Nat) (v : Word) : (x.wr r v).nextGroup = x.nextGroup := by rw [Thread.wr_form]
@[simp] theorem Thread.wr_stopPend (x : Thread) (r : Nat) (v : Word) : (x.wr r v).stopPend = x.stopPend := by rw [Thread.wr_form]
@[simp] theorem Thread.wr_ep (x : Thread) (r : Nat) (v : Word) : (x.wr r v).ep = x.ep := by rw [Thread.wr_form]
@[simp] theorem Thread.wr_zero (x : Thread) (v : Word) : x.wr 0 v = x := rfl
@[simp] theorem Thread.rd_zero (x : Thread) : x.rd 0 = 0 := rfl

end Sys2Proof.Machine
end

