-- ==== Sys2Proof/Laws/Issue.lean ====
section
/-! SUPPORT. What issuing an instruction changes, and the frame of an instruction that changes no more than its thread. -/

namespace Sys2Proof.Machine
theorem RegsBut.refl (s : State) (ks) : RegsBut s s ks := fun _ _ _ => rfl
theorem RegsBut.setW {s s' : State} {ks} (h : RegsBut s s' ks) (b o v i k) (hk : regKey b i o k ∈ ks) : RegsBut s (s'.setW b o v i k) ks := by
  intro d k' hn
  unfold State.setW
  rw [spGet_spPut_other _ _ _ _ _ _ (by rintro rfl; exact hn hk)]
  exact h d k' hn
theorem RegsBut.setF {s s' : State} {ks} (h : RegsBut s s' ks) (f v i k) (hk : fldKey f i k ∈ ks) : RegsBut s (s'.setF f v i k) ks := h.setW _ _ _ _ _ hk
theorem RegsBut.of_regs {s s' s'' : State} {ks} (h : RegsBut s s' ks) (e : s''.regs = s'.regs) : RegsBut s s'' ks := by unfold RegsBut; rw [e]; exact h

@[simp] theorem State.addF_thr (s : State) (f : Fld) (v i k c t : Nat) : (s.addF f v i k).thr c t = s.thr c t := State.thr_setF _ _ _ _ _ _ _
@[simp] theorem State.addF_clu (s : State) (f : Fld) (v i k c : Nat) : (s.addF f v i k).clu c = s.clu c := State.clu_setF _ _ _ _ _ _

@[simp] theorem State.addSat_thr (s : State) (f : Fld) (v i k c t : Nat) : (s.addSat f v i k).thr c t = s.thr c t := State.thr_setF _ _ _ _ _ _ _
@[simp] theorem State.addSat_clu (s : State) (f : Fld) (v i k c : Nat) : (s.addSat f v i k).clu c = s.clu c := State.clu_setF _ _ _ _ _ _

/-! ### What an issue changes -/

/-- An issue changes registers and its cluster, and no more. -/
theorem State.issued_form (s : State) (c t : Nat) (e : Ecc) : ∃ r k, s.issued c t e = { s with regs := r, clus := k } := by
  unfold State.issued State.fetchCe State.countIssue
  dsimp only
  split <;> split <;> (try split) <;> exact ⟨_, _, by simp only [State.setClu, State.addF, State.addSat, State.setF, State.setW]; rfl⟩

theorem State.issued_rest (s : State) (c t : Nat) (e : Ecc) : { s.issued c t e with clus := s.clus, regs := s.regs } = s := by
  obtain ⟨r, k, h⟩ := State.issued_form s c t e
  rw [h]

theorem State.issued_thr (s : State) (c t c' t' : Nat) (e : Ecc) : (s.issued c t e).thr c' t' = s.thr c' t' := by
  obtain ⟨r, k, h⟩ := State.issued_form s c t e
  rw [h]; rfl

theorem State.fetchCe_clu (s : State) (c c' : Nat) (e : Ecc) : (s.fetchCe c e).clu c' = s.clu c' := by
  unfold State.fetchCe; split <;> simp

theorem State.issued_clu_other (s : State) (c t c' : Nat) (e : Ecc) (h : c' ≠ c) : (s.issued c t e).clu c' = s.clu c' := by
  unfold State.issued State.countIssue; dsimp only
  split <;> (try split) <;> simp [State.clu_setClu_other _ _ _ _ (Ne.symm h), State.fetchCe_clu]

theorem State.issued_clu (s : State) (c t : Nat) (e : Ecc) :
    ∃ n, (s.issued c t e).clu c = { s.clu c with lastIssue := t, runLen := n, lastRemote := false, yielded := false } := by
  unfold State.issued State.countIssue; dsimp only
  rw [State.fetchCe_clu]
  split
  · rename_i h; exact ⟨_, by rw [State.clu_setClu_same, h]⟩
  · exact ⟨_, by rw [State.clu_setClu_same]⟩

theorem State.fetchCe_getF (s : State) (c : Nat) (e : Ecc) : (s.fetchCe c e).getF F.CLU_ISSUE_CNT_COUNT c = s.getF F.CLU_ISSUE_CNT_COUNT c := by
  unfold State.fetchCe; split
  · rfl
  · exact State.getF_setF_other _ _ _ _ _ _ _ _ (by simp [regKey, regAddr])

theorem State.issued_count (s : State) (c t : Nat) (e : Ecc) :
    (s.issued c t e).getF F.CLU_ISSUE_CNT_COUNT c = (s.getF F.CLU_ISSUE_CNT_COUNT c + 1) % 2 ^ 64 := by
  have h : ((s.fetchCe c e).addF F.CLU_ISSUE_CNT_COUNT 1 c).getF F.CLU_ISSUE_CNT_COUNT c = (s.getF F.CLU_ISSUE_CNT_COUNT c + 1) % 2 ^ 64 := by
    rw [← State.fetchCe_getF s c e]; exact State.getF_setF_same _ _ _ _ _ ⟨by decide, by decide⟩
  unfold State.issued State.countIssue; dsimp only
  split
  · rw [State.getF_setClu]
    split
    · rw [← h]; exact State.getF_setF_other _ _ _ _ _ _ _ _ (by simp [regKey, regAddr])
    · rw [h]
  · rw [State.getF_setClu, ← h]
    exact State.getF_setF_other _ _ _ _ _ _ _ _ (by simp [regKey, regAddr])

theorem State.issued_regs (s : State) (c t : Nat) (e : Ecc) :
    RegsBut s (s.issued c t e) [fldKey F.CLU_ISSUE_CNT_COUNT c, fldKey F.CLU_SWITCH_CNT_COUNT c, fldKey F.CLU_IDLE_CNT_COUNT c,
      fldKey F.CLU_ECC_STAT_ISTORE_CE c] := by
  have h : RegsBut s (s.fetchCe c e) [fldKey F.CLU_ISSUE_CNT_COUNT c, fldKey F.CLU_SWITCH_CNT_COUNT c, fldKey F.CLU_IDLE_CNT_COUNT c,
      fldKey F.CLU_ECC_STAT_ISTORE_CE c] := by
    unfold State.fetchCe; split
    · exact RegsBut.refl s _
    · exact (RegsBut.refl s _).setF _ _ _ _ (by simp)
  unfold State.issued State.countIssue; dsimp only; split
  · split
    · exact ((h.setF _ _ _ _ (by simp)).setF _ _ _ _ (by simp)).of_regs (State.setClu_regs _ _ _)
    · exact (h.setF _ _ _ _ (by simp)).of_regs (State.setClu_regs _ _ _)
  · exact ((h.setF _ _ _ _ (by simp)).setF _ _ _ _ (by simp)).of_regs (State.setClu_regs _ _ _)

/-- An instruction that only writes its thread. -/
theorem issueFrame (s : State) (c t : Nat) (e : Ecc) (x : Thread) : ThreadFrame s ((s.issued c t e).setThr c t x) c t := by
  constructor
  · have := State.issued_rest s c t e
    unfold State.setThr
    have h2 := congrArg (fun s' : State => { s' with threads := s.threads }) this
    exact h2
  · intro c' t' h; rw [State.thr_setThr_other _ _ _ _ _ _ (Ne.symm h), State.issued_thr]
  · intro c' h; rw [State.clu_setThr, State.issued_clu_other _ _ _ _ _ h]
  · rw [State.clu_setThr]; exact State.issued_clu s c t e
  · rw [State.getF_setThr]; exact State.issued_count s c t e
  · exact (State.issued_regs s c t e).of_regs (State.setThr_regs _ _ _ _)

/-- An instruction that issues, its words sound and its reserved field zero, does its own effect in the state in which it issued. -/
theorem State.issue_eq (s : State) (c t : Nat) (fetch regs : Ecc) (b : Bool) (f : Thread → State → State) (h : s.canIssue c t = true)
    (hf : fetch ≠ .uncorrectable) (hv : regs ≠ .uncorrectable) (hb : b = true) :
    s.issue c t fetch regs b f = f (s.thr c t) (s.issued c t fetch) := by
  unfold State.issue
  rw [if_pos h, if_neg (by simp [hf, hv]), if_pos hb, ← State.issued_thr s c t c t fetch]
  rfl

/-- What a register-only scalar instruction leaves. -/
theorem scalarOp_completes (c : BitVec 8) (t : BitVec 3) (i : SFmt) (s : State) (f : Thread → Word × Nat) (h : s.canIssue c.toNat t.toNat = true)
    (hf : i.fetch ≠ .uncorrectable) (hr : i.rsv = 0) :
    ∃ s', scalarOp c t i s f = .next s' ∧ ScalarResult s s' c.toNat t.toNat i (f (s.thr c.toNat t.toNat)).1 (f (s.thr c.toNat t.toNat)).2 := by
  refine ⟨_, by unfold scalarOp issueS done; rw [State.issue_eq _ _ _ _ _ _ _ h hf (by simp) (by simp [hr])], ?_⟩
  constructor
  · exact issueFrame _ _ _ _ _
  · intro hsd
    rw [State.thr_setThr_same]
    exact Thread.rd_wr_same _ _ _ (by simpa using fun e => hsd (by apply BitVec.eq_of_toNat_eq; simpa using e))
  · intro r hn
    rw [State.thr_setThr_same]
    exact Thread.rd_wr_other _ _ _ _ (Ne.symm hn)
  · rw [State.thr_setThr_same]; unfold Thread.wr Thread.advance Thread.raise; split <;> rfl
  · rw [State.thr_setThr_same]; unfold Thread.wr Thread.advance Thread.raise; split <;> rfl
  · rw [State.thr_setThr_same]; unfold Thread.wr Thread.advance Thread.raise; split <;> rfl
end Sys2Proof.Machine
end

