-- ==== Sys2Proof/Laws/Mem.lean ====
section
/-! SUPPORT. What the writes of HBM and of scratchpads change. -/

namespace Sys2Proof.Machine

/-! ### Scratchpads -/

theorem foldThr_thr (f : Thread → Thread) (c : Nat) : ∀ (l : List Nat) (s : State), l.Nodup → (∀ c' t', (l.foldl (fun s t => s.setThr c t (f (s.thr c t))) s).thr c' t' = if (∃ t ∈ l, c * 8 + t = c' * 8 + t') then f (s.thr c' t') else s.thr c' t')
  | [], s, _, c', t' => by simp
  | t :: l, s, hn, c', t' => by
    rw [List.foldl_cons, foldThr_thr f c l _ (List.nodup_cons.mp hn).2]
    by_cases h : c * 8 + t = c' * 8 + t'
    · have h1 : ¬ ∃ u ∈ l, c * 8 + u = c' * 8 + t' := by rintro ⟨u, hu, hu2⟩; have : u = t := by omega
                                                         exact (List.nodup_cons.mp hn).1 (this ▸ hu)
      rw [if_neg h1, if_pos ⟨t, by simp, h⟩]
      have e : ∀ s : State, s.thr c' t' = s.thr c t := by intro s; unfold State.thr; rw [h]
      rw [e, State.thr_setThr_same, e]
    · rw [State.thr_setThr_other _ _ _ _ _ _ h]
      simp [h]

theorem foldThr_form (f : Thread → Thread) (c : Nat) : ∀ (l : List Nat) (s : State), ∃ T, l.foldl (fun s t => s.setThr c t (f (s.thr c t))) s = { s with threads := T }
  | [], s => ⟨_, rfl⟩
  | t :: l, s => by
    obtain ⟨T, h⟩ := foldThr_form f c l (s.setThr c t (f (s.thr c t)))
    exact ⟨T, by rw [List.foldl_cons, h]; rfl⟩

theorem State.spadWrite_form (s : State) (c a : Nat) (bs : List Byte) : ∃ T, s.spadWrite c a bs = { s with spad := writeBytes s.spad (spadKey c a) bs, threads := T } := by
  obtain ⟨T, h⟩ := foldThr_form (Thread.markWritten a bs.length) c thrNums { s with spad := writeBytes s.spad (spadKey c a) bs }
  exact ⟨T, by unfold State.spadWrite; rw [h]⟩

theorem State.spadWrite_thr (s : State) (c a : Nat) (bs : List Byte) (c' t' : Nat) : (s.spadWrite c a bs).thr c' t' = if (∃ t ∈ thrNums, c * 8 + t = c' * 8 + t') then (s.thr c' t').markWritten a bs.length else s.thr c' t' := by
  unfold State.spadWrite
  exact foldThr_thr (Thread.markWritten a bs.length) c thrNums { s with spad := writeBytes s.spad (spadKey c a) bs } (by decide) c' t'

@[simp] theorem State.spadWrite_spad (s : State) (c a : Nat) (bs : List Byte) : (s.spadWrite c a bs).spad = writeBytes s.spad (spadKey c a) bs := by
  obtain ⟨T, h⟩ := State.spadWrite_form s c a bs
  rw [h]

/-! ### HBM -/

/-- Two states that differ only in what the memory side keeps: counters, reservations, the directory, the caches, Spore's holds and
what is sent. -/
def MemSide (s s' : State) : Prop :=
  { s' with regs := s.regs, out := s.out, resv := s.resv, dir := s.dir, lich := s.lich, fresh := s.fresh, spore := s.spore } = s

theorem MemSide.refl (s : State) : MemSide s s := rfl
theorem MemSide.trans {a b c : State} (h : MemSide a b) (k : MemSide b c) : MemSide a c := by
  unfold MemSide at *
  exact Eq.trans (congrArg (fun x : State => { x with regs := a.regs, out := a.out, resv := a.resv, dir := a.dir, lich := a.lich, fresh := a.fresh, spore := a.spore }) k) h
theorem MemSide.setFresh (s : State) (n : Nat) : MemSide s { s with fresh := n } := rfl
theorem MemSide.setSpore (s : State) (p) : MemSide s { s with spore := p } := rfl
theorem MemSide.setDir (s : State) (d) : MemSide s { s with dir := d } := rfl
theorem MemSide.emit (s : State) (o) : MemSide s (s.emit o) := rfl
theorem MemSide.hbm {s s' : State} (h : MemSide s s') : s'.hbm = s.hbm := by
  unfold MemSide at h
  have k := congrArg State.hbm h
  exact k
theorem MemSide.setHbm {s s' : State} (h : MemSide s s') (m : Memory) : MemSide s { ({ s' with hbm := m } : State) with hbm := s.hbm } := by
  unfold MemSide at *
  have k := congrArg (fun x : State => { x with hbm := s.hbm }) h
  exact k
theorem MemSide.foldl {α} (f : State → α → State) (hf : ∀ s x, MemSide s (f s x)) : ∀ (l : List α) (s : State), MemSide s (l.foldl f s)
  | [], s => MemSide.refl s
  | x :: l, s => (hf s x).trans (MemSide.foldl f hf l (f s x))

theorem MemSide.addF (s : State) (f v i k) : MemSide s (s.addF f v i k) := rfl
theorem MemSide.setLichen (s : State) (st x) : MemSide s (s.setLichen st x) := rfl
theorem State.dropLine_side (s : State) (d : DirLine) : MemSide s (s.dropLine d) := (MemSide.addF _ _ _ _ _).trans (MemSide.emit _ _)
theorem State.dropDir_side (s : State) (a n : Nat) : MemSide s (s.dropDir a n) :=
  (MemSide.foldl _ State.dropLine_side _ s).trans (MemSide.setDir _ _)
theorem State.ownLines_side (s : State) (a n : Nat) (hart : Option Nat) : MemSide s (s.ownLines a n hart) := by
  unfold State.ownLines
  split
  · exact MemSide.refl s
  · exact MemSide.trans (b := s.clearResv a n none) (MemSide.refl s) (State.dropDir_side _ _ _)
theorem State.readLines_side (s : State) (a n : Nat) : MemSide s (s.readLines a n) :=
  (MemSide.foldl _ State.dropLine_side _ s).trans (MemSide.setDir _ _)

theorem State.cacheDrop_side (s : State) (l : Nat) : MemSide s (s.cacheDrop l) := by
  unfold State.cacheDrop; dsimp only; split
  · exact (MemSide.addF _ _ _ _ _).trans (MemSide.setLichen _ _ _)
  · exact MemSide.setLichen _ _ _
theorem State.cachePut_side (s : State) (l v : Nat) : MemSide s (s.cachePut l v) := by
  unfold State.cachePut; dsimp only; split
  · exact MemSide.setLichen _ _ _
  · exact ((State.cacheDrop_side s _).trans (MemSide.setFresh _ _)).trans (MemSide.setLichen _ _ _)
theorem State.lineWritten_side (s : State) (w : Bool) (l : Nat) : MemSide s (s.lineWritten w l) := by
  unfold State.lineWritten; dsimp only; split
  · exact (MemSide.addF _ _ _ _ _).trans (State.cachePut_side _ _ _)
  · split
    · exact (MemSide.addF _ _ _ _ _).trans (State.cachePut_side _ _ _)
    · exact ((MemSide.addF _ _ _ _ _).trans (MemSide.addF _ _ _ _ _)).trans (State.cachePut_side _ _ _)
theorem State.lineRead_side (s : State) (p : MemPath) (l : Nat) : MemSide s (s.lineRead p l) := by
  unfold State.lineRead; dsimp only; split
  · exact MemSide.addF _ _ _ _ _
  · split
    · exact ((MemSide.addF _ _ _ _ _).trans (MemSide.addF _ _ _ _ _)).trans (State.cachePut_side _ _ _)
    · exact (MemSide.addF _ _ _ _ _).trans (MemSide.addF _ _ _ _ _)
theorem State.memRead_side (s : State) (p : MemPath) (a n : Nat) : MemSide s (s.memRead p a n) :=
  (State.readLines_side s a n).trans (MemSide.foldl _ (fun s l => State.lineRead_side s p l) _ _)

theorem State.serveSector_side (s : State) (st k : Nat) : MemSide s (s.serveSector st k) :=
  ((MemSide.setLichen _ _ _).trans (MemSide.addF _ _ _ _ _)).trans (MemSide.addF _ _ _ _ _)
theorem State.narrowMiss_side (s : State) (a : Nat) : MemSide s (s.narrowMiss a) := by
  unfold State.narrowMiss; dsimp only; split
  · split
    · exact MemSide.setLichen _ _ _
    · exact (State.serveSector_side _ _ _).trans (MemSide.setLichen _ _ _)
  · exact MemSide.setLichen _ _ _
theorem State.lane_side (s : State) (k : LaneKind) (h : Bool) (a : Nat) : MemSide s (s.lane k h a) := by
  unfold State.lane; dsimp only; split
  · exact ((MemSide.addF _ _ _ _ _).trans (MemSide.addF _ _ _ _ _)).trans (State.cachePut_side _ _ _)
  · split
    · exact (((MemSide.addF _ _ _ _ _).trans (MemSide.addF _ _ _ _ _)).trans (MemSide.addF _ _ _ _ _)).trans (State.cachePut_side _ _ _)
    · exact (((MemSide.addF _ _ _ _ _).trans (MemSide.addF _ _ _ _ _)).trans (State.narrowMiss_side _ _)).trans (State.cachePut_side _ _ _)

theorem State.cowHold_side (s : State) (a n : Nat) : MemSide s (s.cowHold a n) := by
  unfold State.cowHold
  split
  · exact MemSide.refl s
  · refine MemSide.foldl _ (fun s j => ?_) _ s
    split
    · exact MemSide.refl s
    · refine MemSide.foldl _ (fun s g => ?_) _ s
      dsimp only
      split
      · exact MemSide.refl s
      · exact ((MemSide.setSpore _ _).trans (MemSide.addF _ _ _ _ _)).trans (MemSide.addF _ _ _ _ _)

/-- What a plain write to HBM does beside the bytes. -/
theorem State.hbmWrite_sides (s : State) (a : Nat) (bs : List Byte) :
    MemSide s ((linesIn a bs.length).foldl (fun s l => s.lineWritten (decide (a ≤ 64 * l) && decide (64 * l + 64 ≤ a + bs.length)) l)
      ((s.cowHold a bs.length).ownLines a bs.length none)) :=
  ((State.cowHold_side s a bs.length).trans (State.ownLines_side _ a bs.length none)).trans
    (MemSide.foldl _ (fun s l => State.lineWritten_side s (decide (a ≤ 64 * l) && decide (64 * l + 64 ≤ a + bs.length)) l) (linesIn a bs.length) _)

/-- A plain write to HBM leaves its bytes there, and beside them changes no more than the memory side. -/
theorem State.hbmWrite_side (s : State) (a : Nat) (bs : List Byte) : MemSide s { s.hbmWrite a bs with hbm := s.hbm } :=
  (State.hbmWrite_sides s a bs).setHbm _

@[simp] theorem State.hbmWrite_hbm (s : State) (a : Nat) (bs : List Byte) : (s.hbmWrite a bs).hbm = writeBytes s.hbm a bs := by
  unfold State.hbmWrite
  dsimp only
  rw [(State.hbmWrite_sides s a bs).hbm]

end Sys2Proof.Machine
end

