-- ==== Sys2Proof/Laws/Lanes.lean ====
section
/-! SUPPORT. Elements of vector registers: what `vMap` writes, element by element. -/

namespace Sys2Proof.Machine

theorem vElem_testBit (w v k i : Nat) : (vElem w v k).testBit i = (decide (i < w) && v.testBit (w * k + i)) := by
  simp [vElem, Nat.testBit_mod_two_pow, Nat.testBit_shiftRight]

/-- A number below 2^(w k) with an element appended at place k. -/
theorem vElem_append (w k a e : Nat) (ha : a < 2 ^ (w * k)) (he : e < 2 ^ w) (j : Nat) :
    vElem w (a + e * 2 ^ (w * k)) j = if j < k then vElem w a j else if j = k then e else 0 := by
  apply Nat.eq_of_testBit_eq
  intro i
  rw [vElem_testBit, Nat.add_comm, Nat.mul_comm, Nat.testBit_two_pow_mul_add _ ha]
  by_cases hi : i < w
  · by_cases hj : j < k
    · have : w * j + i < w * k := by
        have := Nat.mul_le_mul_left w hj
        rw [Nat.mul_succ] at this
        omega
      rw [if_pos this, if_pos hj, vElem_testBit]
    · have hk : w * k ≤ w * j := Nat.mul_le_mul_left w (by omega)
      rw [if_neg (by omega), if_neg hj]
      by_cases hjk : j = k
      · subst hjk
        simp [hi]
      · have h2 := Nat.mul_le_mul_left w (show k + 1 ≤ j by omega)
        rw [Nat.mul_succ] at h2
        rw [if_neg hjk, Nat.testBit_lt_two_pow (Nat.lt_of_lt_of_le he (Nat.pow_le_pow_right (by omega) (by omega)))]
        simp
  · simp only [hi, decide_false, Bool.false_and]
    split
    · rw [vElem_testBit]; simp [hi]
    · split
      · rw [Nat.testBit_lt_two_pow (Nat.lt_of_lt_of_le he (Nat.pow_le_pow_right (by omega) (by omega)))]
      · simp

theorem vElem_lt (w v k : Nat) : vElem w v k < 2 ^ w := Nat.mod_lt _ (Nat.two_pow_pos _)

/-- The elements that `vMap` leaves, and that the result has no others. -/
theorem vMap_spec (w : Nat) (act : Nat → Bool) (old : Nat) (f : Nat → Nat × Nat) : ∀ n,
    (vMap w n act old f).1 < 2 ^ (w * n) ∧
    ∀ k, k < n → vElem w (vMap w n act old f).1 k = if act k then (f k).1 % 2 ^ w else vElem w old k
  | 0 => ⟨by simp [vMap], fun k h => absurd h (by omega)⟩
  | n + 1 => by
    have ih := vMap_spec w act old f n
    have hs : (vMap w (n + 1) act old f).1 = (vMap w n act old f).1 + (if act n then (f n).1 else vElem w old n) % 2 ^ w * 2 ^ (w * n) := by
      unfold vMap
      rw [List.range_succ, List.foldl_append]
      simp only [List.foldl_cons, List.foldl_nil]
      split <;> rfl
    have he : (if act n then (f n).1 else vElem w old n) % 2 ^ w < 2 ^ w := Nat.mod_lt _ (Nat.two_pow_pos _)
    rw [hs]
    constructor
    · rw [Nat.mul_succ, Nat.pow_add]
      calc _ < 2 ^ (w * n) + (if act n then (f n).1 else vElem w old n) % 2 ^ w * 2 ^ (w * n) := by omega
        _ = 2 ^ (w * n) * ((if act n then (f n).1 else vElem w old n) % 2 ^ w + 1) := by rw [Nat.mul_add, Nat.mul_one, Nat.mul_comm (2 ^ (w * n))]; omega
        _ ≤ 2 ^ (w * n) * 2 ^ w := Nat.mul_le_mul_left _ he
    · intro k hk
      rw [vElem_append _ _ _ _ ih.1 he]
      split
      · rename_i h; exact ih.2 k h
      · have : k = n := by omega
        subst this
        rw [if_pos rfl]
        split
        · rfl
        · exact Nat.mod_eq_of_lt (vElem_lt _ _ _)

/-- The element that `vMap` leaves at place k. -/
theorem vMap_elem (w n : Nat) (act : Nat → Bool) (old : Nat) (f : Nat → Nat × Nat) (k : Nat) (h : k < n) :
    vElem w (vMap w n act old f).1 k = if act k then (f k).1 % 2 ^ w else vElem w old k := (vMap_spec w act old f n).2 k h

/-! ### A thread's vector registers and predicates -/

@[simp] theorem Thread.wrV_pc (x : Thread) (r v : Nat) : (x.wrV r v).pc = x.pc := rfl
@[simp] theorem Thread.wrV_flags (x : Thread) (r v : Nat) : (x.wrV r v).flags = x.flags := rfl
@[simp] theorem Thread.wrV_vl (x : Thread) (r v : Nat) : (x.wrV r v).vl = x.vl := rfl
@[simp] theorem Thread.rdV_wrV_same (x : Thread) (r v : Nat) : (x.wrV r v).rdV r = v := spGet_spPut_same _ _ _ _
theorem Thread.rdV_wrV_other (x : Thread) (r r' v : Nat) (h : r ≠ r') : (x.wrV r v).rdV r' = x.rdV r' := spGet_spPut_other _ _ _ _ _ _ h
theorem Thread.rdP_wrP_same (x : Thread) (r v : Nat) (h : r % 8 ≠ 0) : (x.wrP r v).rdP r = v := by
  unfold Thread.wrP Thread.rdP
  rw [if_neg h, if_neg h]
  exact spGet_spPut_same _ _ _ _
theorem Thread.rdP_wrP_other (x : Thread) (r r' v : Nat) (h : r % 8 ≠ r' % 8) : (x.wrP r v).rdP r' = x.rdP r' := by
  unfold Thread.wrP Thread.rdP
  split
  · rfl
  · split
    · rfl
    · exact spGet_spPut_other _ _ _ _ _ _ h

end Sys2Proof.Machine
end

