-- ==== Sys2Proof/Laws/Access.lean ====
section
/-! SUPPORT. Little-endian bytes, counts of accesses, plain writes to HBM, and what element-wise vector instructions leave. -/

set_option maxRecDepth 4000

namespace Sys2Proof.Machine

theorem countIssued_same (s : State) (c t slot : Nat) : let q := (s.countIssued c t slot).2
    q.regs = s.regs ∧ q.hbm = s.hbm ∧ q.spad = s.spad ∧ q.hbmSum = s.hbmSum ∧ q.spadSum = s.spadSum ∧ q.istore = s.istore ∧ q.hostMem = s.hostMem ∧
    (∀ c' t', c' * 8 + t' ≠ c * 8 + t → q.thr c' t' = s.thr c' t') ∧ ∃ e, q.thr c t = { s.thr c t with ep := e } := by
  unfold State.countIssued
  dsimp only
  refine ⟨by simp, by simp, by simp, by simp, by simp, by simp, by simp, ?_, (s.thr c t).ep.issue, ?_⟩
  · intro c' t' h; exact State.thr_setThr_other _ _ _ _ _ _ (Ne.symm h)
  · exact State.thr_setThr_same _ _ _ _

theorem countDone_same (s : State) (c t slot : Nat) (eps) : let q := s.countDone c t slot eps
    q.regs = s.regs ∧ q.hbm = s.hbm ∧ q.spad = s.spad ∧ q.hbmSum = s.hbmSum ∧ q.spadSum = s.spadSum ∧ q.istore = s.istore ∧ q.hostMem = s.hostMem ∧
    (∀ c' t', c' * 8 + t' ≠ c * 8 + t → q.thr c' t' = s.thr c' t') ∧ ∃ e, q.thr c t = { s.thr c t with ep := e } := by
  unfold State.countDone
  rcases eps with ⟨_ | a, _ | b, _ | d⟩ 
  all_goals (dsimp only; refine ⟨by simp, by simp, by simp, by simp, by simp, by simp, by simp, ?_, ?_⟩)
  all_goals first
    | exact fun _ _ _ => rfl
    | exact ⟨_, rfl⟩
    | (intro c' t' h; exact State.thr_setThr_other _ _ _ _ _ _ (Ne.symm h))
    | exact ⟨_, State.thr_setThr_same _ _ _ _⟩

/-- What a write of eight bytes to HBM leaves. -/
structure HbmDid (s s' : State) (a new : Nat) : Prop where
  val : readLe s'.hbm a 8 = new
  other : ∀ m, (m < a ∨ a + 8 ≤ m) → readByte s'.hbm m = readByte s.hbm m
  spad : s'.spad = s.spad
  hbmSum : s'.hbmSum = s.hbmSum
  spadSum : s'.spadSum = s.spadSum
  istore : s'.istore = s.istore
  hostMem : s'.hostMem = s.hostMem
  threads : s'.threads = s.threads

theorem leNat_natLe : ∀ n v, leNat (natLe n v) = v % 256 ^ n
  | 0, v => by simp [leNat, natLe, Nat.mod_one]
  | n + 1, v => by
    simp only [natLe, leNat, leNat_natLe n, BitVec.toNat_ofNat]
    rw [show 256 ^ (n + 1) = 256 * 256 ^ n from Nat.pow_succ', Nat.mod_mul]

theorem length_natLe : ∀ n v, (natLe n v).length = n
  | 0, _ => rfl
  | n + 1, v => by simp [natLe, length_natLe n]

theorem hbmWrite_did (s : State) (a v : Nat) : HbmDid s (s.hbmWrite a (natLe 8 v)) a (v % 2 ^ 64) := by
  have h := State.hbmWrite_side s a (natLe 8 v)
  unfold MemSide at h
  refine ⟨?_, ?_, (by have k := congrArg State.spad h; exact k), (by have k := congrArg State.hbmSum h; exact k), (by have k := congrArg State.spadSum h; exact k), (by have k := congrArg State.istore h; exact k), (by have k := congrArg State.hostMem h; exact k), (by have k := congrArg State.threads h; exact k)⟩
  · show leNat (readBytes (s.hbmWrite a (natLe 8 v)).hbm a 8) = _
    have := readBytes_writeBytes_self (natLe 8 v) s.hbm a
    rw [length_natLe] at this
    rw [State.hbmWrite_hbm, this, leNat_natLe, (by decide : 256 ^ 8 = 2 ^ 64)]
  · intro m hm
    rw [State.hbmWrite_hbm]
    exact readByte_writeBytes_other _ _ _ _ (by rw [length_natLe]; omega)

theorem readLe_lt (m : Memory) : ∀ n a, readLe m a n < 256 ^ n := by
  unfold readLe
  intro n
  induction n with
  | zero => intro a; simp [readBytes, leNat]
  | succ n ih => intro a; have := ih (a + 1); simp only [readBytes, leNat, Nat.pow_succ]; have := (readByte m a).isLt; omega

theorem setThr_done (s1 s' : State) (c t : Nat) (i : VFmt) (act : Nat → Bool) (v : Nat → Nat) (r fl : Nat) 
   (hs : s' = s1.setThr c t ((((s1.thr c t).wrV i.vd.toNat r).raise fl).advance (vWords i)))
   (hv : ∀ k, k < vlMax i.ew.toNat → vElem (ewWidth i.ew.toNat) r k = if act k then v k else vElem (ewWidth i.ew.toNat) ((s1.thr c t).rdV i.vd.toNat) k) :
   VectorResult s1 s' c t i act v fl := by
  subst hs
  have e : (s1.setThr c t ((((s1.thr c t).wrV i.vd.toNat r).raise fl).advance (vWords i))).thr c t = ((((s1.thr c t).wrV i.vd.toNat r).raise fl).advance (vWords i)) := State.thr_setThr_same _ _ _ _
  constructor
  · rw [e]
  · intro k hk
    rw [e]
    have : (((((s1.thr c t).wrV i.vd.toNat r).raise fl).advance (vWords i))).rdV i.vd.toNat = r := Thread.rdV_wrV_same _ _ _
    rw [this]; exact hv k hk
  · intro q hq
    rw [e]; exact Thread.rdV_wrV_other _ _ _ _ (Ne.symm hq)
  · rw [e]; rfl
  · rw [e]; rfl
  · rw [e]; rfl

theorem elem_done (c : BitVec 8) (t : BitVec 3) (i : VFmt) (s : State) (ok : Nat → Bool) (f : Thread → Nat → Nat → Nat → Nat → Nat × Nat)
  (h : s.canIssue c.toNat t.toNat = true) (he : i.fetch ≠ .uncorrectable) (hv : i.regs ≠ .uncorrectable) (hr : i.rsv = 0) (ho : ok i.ew.toNat = true) (hf : (i.ims && !ewArith i.ew.toNat) = false) :
  let s1 := s.issued c.toNat t.toNat i.fetch
  let x := s.thr c.toNat t.toNat
  let w := ewWidth i.ew.toNat
  let g := fun k => f x k (vElem w (x.rdV i.va.toNat) k) (vOpB s1 x i k) (vElem w (x.rdV i.vd.toNat) k)
  ∃ s', elemOp c t i s ok f = .next s' ∧ VectorResult s1 s' c.toNat t.toNat i (active x i) (fun k => (g k).1 % 2 ^ w) (vMap w (vlMax i.ew.toNat) (active x i) (x.rdV i.vd.toNat) g).2 := by
  dsimp only
  simp only [elemOp, vecOp, issueV, done, State.issue_eq _ _ _ _ _ _ _ h he hv (by simp [hr] : decide (i.rsv = 0) = true), if_pos ho]
  refine ⟨_, rfl, ?_⟩
  have hth := State.issued_thr s c.toNat t.toNat c.toNat t.toNat i.fetch
  refine setThr_done _ _ _ _ _ _ _ (vMap (ewWidth i.ew.toNat) (vlMax i.ew.toNat) (active (s.thr c.toNat t.toNat) i) ((s.thr c.toNat t.toNat).rdV i.vd.toNat) (fun k => f (s.thr c.toNat t.toNat) k (vElem (ewWidth i.ew.toNat) ((s.thr c.toNat t.toNat).rdV i.va.toNat) k) (vOpB (s.issued c.toNat t.toNat i.fetch) (s.thr c.toNat t.toNat) i k) (vElem (ewWidth i.ew.toNat) ((s.thr c.toNat t.toNat).rdV i.vd.toNat) k))).1 _ ?_ ?_
  · simp only [hth, hf]; rfl
  · intro k hk
    rw [hth]; exact vMap_elem _ _ _ _ _ _ hk
theorem vMap_flags (w : Nat) (act : Nat → Bool) (old : Nat) (f : Nat → Nat × Nat) : ∀ n, (vMap w n act old f).2 = (List.range n).foldl (fun fl k => if act k then fl ||| (f k).2 else fl) 0
  | 0 => rfl
  | n + 1 => by
    rw [List.range_succ, List.foldl_append]
    have : (vMap w (n + 1) act old f).2 = (vMap w n act old f).2 ||| (if act n then f n else (vElem w old n, 0)).2 := by
      unfold vMap; rw [List.range_succ, List.foldl_append]; rfl
    rw [this, vMap_flags w act old f n]
    simp only [List.foldl_cons, List.foldl_nil]
    split <;> simp

end Sys2Proof.Machine
end

