-- ==== Sys2Proof/Laws/Keeps.lean ====
section
/-! SUPPORT. What every command keeps: `b.Keeps s` says that s has the queue of b, and canonical memories where b has them. The lemmas of record updates. -/

namespace Sys2Proof.Machine

set_option linter.unusedVariables false
set_option maxRecDepth 4000

structure State.Keeps (b s : State) : Prop where
  pend : s.pending = b.pending
  canon : b.Canonical → s.Canonical
theorem State.Keeps.refl (s : State) : s.Keeps s := ⟨rfl, id⟩

theorem State.keeps_mk {b s : State} {x_now} {x_cad} {x_fresh} {x_pow} {x_regs} {x_errFor} {x_holds} {x_aud} {x_threads} {x_clus} {x_cmds} {x_nextCmd} {x_jobEp} {x_resv} {x_dir} {x_qctx} {x_qlru} {x_qx} {x_quiesced} {x_tx} {x_rx} {x_replyCache} {x_comb} {x_nextComb} {x_links} {x_flowLru} {x_tms} {x_bulk} {x_slv} {x_batch} {x_pcAreas} {x_comms} {x_colls} {x_early} {x_hotAt} {x_capAt} {x_lich} {x_ceLog} {x_ceTimes} {x_repairs} {x_jobs} {x_spore} {x_warnings} {x_time} {x_fio} {x_records} {x_images} {x_gov} {x_fuses} {x_flash} {x_mgmt} {x_hostLinks} {x_msix} {x_parts} {x_out} : b.Keeps (State.mk s.pending x_now x_cad x_fresh x_pow x_regs x_errFor x_holds x_aud s.hbm s.hbmSum s.hostMem s.spad s.spadSum s.istore x_threads x_clus x_cmds x_nextCmd x_jobEp x_resv x_dir x_qctx x_qlru x_qx x_quiesced x_tx x_rx x_replyCache x_comb x_nextComb x_links x_flowLru x_tms x_bulk x_slv x_batch x_pcAreas x_comms x_colls x_early x_hotAt x_capAt x_lich x_ceLog x_ceTimes x_repairs x_jobs x_spore x_warnings x_time x_fio x_records x_images x_gov x_fuses x_flash x_mgmt x_hostLinks x_msix x_parts x_out) = b.Keeps s := propext ⟨fun h => ⟨h.pend, fun c => ⟨(h.canon c).1, (h.canon c).2, (h.canon c).3, (h.canon c).4, (h.canon c).5, (h.canon c).6⟩⟩, fun h => ⟨h.pend, fun c => ⟨(h.canon c).1, (h.canon c).2, (h.canon c).3, (h.canon c).4, (h.canon c).5, (h.canon c).6⟩⟩⟩

theorem State.keeps_hbm {b s : State} {x_now} {x_cad} {x_fresh} {x_pow} {x_regs} {x_errFor} {x_holds} {x_aud} {x_threads} {x_clus} {x_cmds} {x_nextCmd} {x_jobEp} {x_resv} {x_dir} {x_qctx} {x_qlru} {x_qx} {x_quiesced} {x_tx} {x_rx} {x_replyCache} {x_comb} {x_nextComb} {x_links} {x_flowLru} {x_tms} {x_bulk} {x_slv} {x_batch} {x_pcAreas} {x_comms} {x_colls} {x_early} {x_hotAt} {x_capAt} {x_lich} {x_ceLog} {x_ceTimes} {x_repairs} {x_jobs} {x_spore} {x_warnings} {x_time} {x_fio} {x_records} {x_images} {x_gov} {x_fuses} {x_flash} {x_mgmt} {x_hostLinks} {x_msix} {x_parts} {x_out} {m} (h : b.Keeps s) (w : Memory.wf s.hbm = true → Memory.wf m = true) : b.Keeps (State.mk s.pending x_now x_cad x_fresh x_pow x_regs x_errFor x_holds x_aud m s.hbmSum s.hostMem s.spad s.spadSum s.istore x_threads x_clus x_cmds x_nextCmd x_jobEp x_resv x_dir x_qctx x_qlru x_qx x_quiesced x_tx x_rx x_replyCache x_comb x_nextComb x_links x_flowLru x_tms x_bulk x_slv x_batch x_pcAreas x_comms x_colls x_early x_hotAt x_capAt x_lich x_ceLog x_ceTimes x_repairs x_jobs x_spore x_warnings x_time x_fio x_records x_images x_gov x_fuses x_flash x_mgmt x_hostLinks x_msix x_parts x_out) := ⟨h.pend, fun c => ⟨w (h.canon c).1, (h.canon c).2, (h.canon c).3, (h.canon c).4, (h.canon c).5, (h.canon c).6⟩⟩

theorem State.keeps_hbmSum {b s : State} {x_now} {x_cad} {x_fresh} {x_pow} {x_regs} {x_errFor} {x_holds} {x_aud} {x_threads} {x_clus} {x_cmds} {x_nextCmd} {x_jobEp} {x_resv} {x_dir} {x_qctx} {x_qlru} {x_qx} {x_quiesced} {x_tx} {x_rx} {x_replyCache} {x_comb} {x_nextComb} {x_links} {x_flowLru} {x_tms} {x_bulk} {x_slv} {x_batch} {x_pcAreas} {x_comms} {x_colls} {x_early} {x_hotAt} {x_capAt} {x_lich} {x_ceLog} {x_ceTimes} {x_repairs} {x_jobs} {x_spore} {x_warnings} {x_time} {x_fio} {x_records} {x_images} {x_gov} {x_fuses} {x_flash} {x_mgmt} {x_hostLinks} {x_msix} {x_parts} {x_out} {m} (h : b.Keeps s) (w : spWf (0 : Word) s.hbmSum = true → spWf (0 : Word) m = true) : b.Keeps (State.mk s.pending x_now x_cad x_fresh x_pow x_regs x_errFor x_holds x_aud s.hbm m s.hostMem s.spad s.spadSum s.istore x_threads x_clus x_cmds x_nextCmd x_jobEp x_resv x_dir x_qctx x_qlru x_qx x_quiesced x_tx x_rx x_replyCache x_comb x_nextComb x_links x_flowLru x_tms x_bulk x_slv x_batch x_pcAreas x_comms x_colls x_early x_hotAt x_capAt x_lich x_ceLog x_ceTimes x_repairs x_jobs x_spore x_warnings x_time x_fio x_records x_images x_gov x_fuses x_flash x_mgmt x_hostLinks x_msix x_parts x_out) := ⟨h.pend, fun c => ⟨(h.canon c).1, w (h.canon c).2, (h.canon c).3, (h.canon c).4, (h.canon c).5, (h.canon c).6⟩⟩

theorem State.keeps_spad {b s : State} {x_now} {x_cad} {x_fresh} {x_pow} {x_regs} {x_errFor} {x_holds} {x_aud} {x_threads} {x_clus} {x_cmds} {x_nextCmd} {x_jobEp} {x_resv} {x_dir} {x_qctx} {x_qlru} {x_qx} {x_quiesced} {x_tx} {x_rx} {x_replyCache} {x_comb} {x_nextComb} {x_links} {x_flowLru} {x_tms} {x_bulk} {x_slv} {x_batch} {x_pcAreas} {x_comms} {x_colls} {x_early} {x_hotAt} {x_capAt} {x_lich} {x_ceLog} {x_ceTimes} {x_repairs} {x_jobs} {x_spore} {x_warnings} {x_time} {x_fio} {x_records} {x_images} {x_gov} {x_fuses} {x_flash} {x_mgmt} {x_hostLinks} {x_msix} {x_parts} {x_out} {m} (h : b.Keeps s) (w : Memory.wf s.spad = true → Memory.wf m = true) : b.Keeps (State.mk s.pending x_now x_cad x_fresh x_pow x_regs x_errFor x_holds x_aud s.hbm s.hbmSum s.hostMem m s.spadSum s.istore x_threads x_clus x_cmds x_nextCmd x_jobEp x_resv x_dir x_qctx x_qlru x_qx x_quiesced x_tx x_rx x_replyCache x_comb x_nextComb x_links x_flowLru x_tms x_bulk x_slv x_batch x_pcAreas x_comms x_colls x_early x_hotAt x_capAt x_lich x_ceLog x_ceTimes x_repairs x_jobs x_spore x_warnings x_time x_fio x_records x_images x_gov x_fuses x_flash x_mgmt x_hostLinks x_msix x_parts x_out) := ⟨h.pend, fun c => ⟨(h.canon c).1, (h.canon c).2, w (h.canon c).3, (h.canon c).4, (h.canon c).5, (h.canon c).6⟩⟩

theorem State.keeps_spadSum {b s : State} {x_now} {x_cad} {x_fresh} {x_pow} {x_regs} {x_errFor} {x_holds} {x_aud} {x_threads} {x_clus} {x_cmds} {x_nextCmd} {x_jobEp} {x_resv} {x_dir} {x_qctx} {x_qlru} {x_qx} {x_quiesced} {x_tx} {x_rx} {x_replyCache} {x_comb} {x_nextComb} {x_links} {x_flowLru} {x_tms} {x_bulk} {x_slv} {x_batch} {x_pcAreas} {x_comms} {x_colls} {x_early} {x_hotAt} {x_capAt} {x_lich} {x_ceLog} {x_ceTimes} {x_repairs} {x_jobs} {x_spore} {x_warnings} {x_time} {x_fio} {x_records} {x_images} {x_gov} {x_fuses} {x_flash} {x_mgmt} {x_hostLinks} {x_msix} {x_parts} {x_out} {m} (h : b.Keeps s) (w : spWf (0 : Word) s.spadSum = true → spWf (0 : Word) m = true) : b.Keeps (State.mk s.pending x_now x_cad x_fresh x_pow x_regs x_errFor x_holds x_aud s.hbm s.hbmSum s.hostMem s.spad m s.istore x_threads x_clus x_cmds x_nextCmd x_jobEp x_resv x_dir x_qctx x_qlru x_qx x_quiesced x_tx x_rx x_replyCache x_comb x_nextComb x_links x_flowLru x_tms x_bulk x_slv x_batch x_pcAreas x_comms x_colls x_early x_hotAt x_capAt x_lich x_ceLog x_ceTimes x_repairs x_jobs x_spore x_warnings x_time x_fio x_records x_images x_gov x_fuses x_flash x_mgmt x_hostLinks x_msix x_parts x_out) := ⟨h.pend, fun c => ⟨(h.canon c).1, (h.canon c).2, (h.canon c).3, w (h.canon c).4, (h.canon c).5, (h.canon c).6⟩⟩

theorem State.keeps_hostMem {b s : State} {x_now} {x_cad} {x_fresh} {x_pow} {x_regs} {x_errFor} {x_holds} {x_aud} {x_threads} {x_clus} {x_cmds} {x_nextCmd} {x_jobEp} {x_resv} {x_dir} {x_qctx} {x_qlru} {x_qx} {x_quiesced} {x_tx} {x_rx} {x_replyCache} {x_comb} {x_nextComb} {x_links} {x_flowLru} {x_tms} {x_bulk} {x_slv} {x_batch} {x_pcAreas} {x_comms} {x_colls} {x_early} {x_hotAt} {x_capAt} {x_lich} {x_ceLog} {x_ceTimes} {x_repairs} {x_jobs} {x_spore} {x_warnings} {x_time} {x_fio} {x_records} {x_images} {x_gov} {x_fuses} {x_flash} {x_mgmt} {x_hostLinks} {x_msix} {x_parts} {x_out} {m} (h : b.Keeps s) (w : Memory.wf s.hostMem = true → Memory.wf m = true) : b.Keeps (State.mk s.pending x_now x_cad x_fresh x_pow x_regs x_errFor x_holds x_aud s.hbm s.hbmSum m s.spad s.spadSum s.istore x_threads x_clus x_cmds x_nextCmd x_jobEp x_resv x_dir x_qctx x_qlru x_qx x_quiesced x_tx x_rx x_replyCache x_comb x_nextComb x_links x_flowLru x_tms x_bulk x_slv x_batch x_pcAreas x_comms x_colls x_early x_hotAt x_capAt x_lich x_ceLog x_ceTimes x_repairs x_jobs x_spore x_warnings x_time x_fio x_records x_images x_gov x_fuses x_flash x_mgmt x_hostLinks x_msix x_parts x_out) := ⟨h.pend, fun c => ⟨(h.canon c).1, (h.canon c).2, (h.canon c).3, (h.canon c).4, w (h.canon c).5, (h.canon c).6⟩⟩

theorem State.keeps_istore {b s : State} {x_now} {x_cad} {x_fresh} {x_pow} {x_regs} {x_errFor} {x_holds} {x_aud} {x_threads} {x_clus} {x_cmds} {x_nextCmd} {x_jobEp} {x_resv} {x_dir} {x_qctx} {x_qlru} {x_qx} {x_quiesced} {x_tx} {x_rx} {x_replyCache} {x_comb} {x_nextComb} {x_links} {x_flowLru} {x_tms} {x_bulk} {x_slv} {x_batch} {x_pcAreas} {x_comms} {x_colls} {x_early} {x_hotAt} {x_capAt} {x_lich} {x_ceLog} {x_ceTimes} {x_repairs} {x_jobs} {x_spore} {x_warnings} {x_time} {x_fio} {x_records} {x_images} {x_gov} {x_fuses} {x_flash} {x_mgmt} {x_hostLinks} {x_msix} {x_parts} {x_out} {m} (h : b.Keeps s) (w : spWf (0 : Word) s.istore = true → spWf (0 : Word) m = true) : b.Keeps (State.mk s.pending x_now x_cad x_fresh x_pow x_regs x_errFor x_holds x_aud s.hbm s.hbmSum s.hostMem s.spad s.spadSum m x_threads x_clus x_cmds x_nextCmd x_jobEp x_resv x_dir x_qctx x_qlru x_qx x_quiesced x_tx x_rx x_replyCache x_comb x_nextComb x_links x_flowLru x_tms x_bulk x_slv x_batch x_pcAreas x_comms x_colls x_early x_hotAt x_capAt x_lich x_ceLog x_ceTimes x_repairs x_jobs x_spore x_warnings x_time x_fio x_records x_images x_gov x_fuses x_flash x_mgmt x_hostLinks x_msix x_parts x_out) := ⟨h.pend, fun c => ⟨(h.canon c).1, (h.canon c).2, (h.canon c).3, (h.canon c).4, (h.canon c).5, w (h.canon c).6⟩⟩

def State.OKeeps (b : State) (o : Host.Outcome State Fault Refusal) : Prop := ∀ t, o = .next t → b.Keeps t
theorem done_keeps {b s : State} (h : b.Keeps s) : b.OKeeps (done s) := fun t e => by cases e; exact h
theorem State.keeps_foldl {α : Type} {b : State} (f : State → α → State) (hf : ∀ s a, b.Keeps s → b.Keeps (f s a)) : ∀ (l : List α) (s : State), b.Keeps s → b.Keeps (l.foldl f s)
  | [], _, h => h
  | a :: l, s, h => State.keeps_foldl f hf l (f s a) (hf s a h)
theorem State.keeps_snd {α : Type} {b t : State} {x : α × State} {w : α} (e : x = (w, t)) (h : b.Keeps x.2) : b.Keeps t := by subst e; exact h
theorem State.keeps_fst {α : Type} {b t : State} {x : State × α} {w : α} (e : x = (t, w)) (h : b.Keeps x.1) : b.Keeps t := by subst e; exact h
theorem State.keeps_withP {b s : State} (h : b.Keeps s) : b.Keeps s := h
theorem State.keeps_foldlP {α β : Type} {b : State} (f : State × β → α → State × β) (hf : ∀ s a, b.Keeps s.1 → b.Keeps (f s a).1) : ∀ (l : List α) (s : State × β), b.Keeps s.1 → b.Keeps (l.foldl f s).1
  | [], _, h => h
  | a :: l, s, h => State.keeps_foldlP f hf l (f s a) (hf s a h)
theorem State.keeps_foldlQ {α β : Type} {b : State} (f : β × State → α → β × State) (hf : ∀ s a, b.Keeps s.2 → b.Keeps (f s a).2) : ∀ (l : List α) (s : β × State), b.Keeps s.2 → b.Keeps (l.foldl f s).2
  | [], _, h => h
  | a :: l, s, h => State.keeps_foldlQ f hf l (f s a) (hf s a h)

end Sys2Proof.Machine
end

