-- ==== Sys2Proof/Laws/KeepsOps.lean ====
section
/-! SUPPORT. What the named operations, memory, commands, queues and fabric accesses keep. -/

namespace Sys2Proof.Machine

set_option linter.unusedVariables false
set_option linter.unusedSimpArgs false
set_option maxRecDepth 4000

/-! ### Ops -/

theorem State.setW_keeps {b0 : State} {s : State} (b : Block) (off : Nat) (v : Word) (inst : Nat) (bank : Nat) (h_s : b0.Keeps s) : b0.Keeps (State.setW s b off v inst bank) := by
  unfold State.setW
  with_reducible repeat' (first | assumption | simp only [State.keeps_mk] | dsimp only)

theorem State.setF_keeps {b0 : State} {s : State} (f : Fld) (v : Nat) (inst : Nat) (bank : Nat) (h_s : b0.Keeps s) : b0.Keeps (State.setF s f v inst bank) := by
  unfold State.setF
  with_reducible repeat' (first | assumption | apply State.setW_keeps | dsimp only)

theorem State.addF_keeps {b0 : State} {s : State} (f : Fld) (n : Nat) (inst : Nat) (bank : Nat) (h_s : b0.Keeps s) : b0.Keeps (State.addF s f n inst bank) := by
  unfold State.addF
  with_reducible repeat' (first | assumption | apply State.setF_keeps | dsimp only)

theorem State.addSat_keeps {b0 : State} {s : State} (f : Fld) (n : Nat) (inst : Nat) (bank : Nat) (h_s : b0.Keeps s) : b0.Keeps (State.addSat s f n inst bank) := by
  unfold State.addSat
  with_reducible repeat' (first | assumption | apply State.setF_keeps | dsimp only)

theorem State.emit_keeps {b0 : State} {s : State} (o : Out) (h_s : b0.Keeps s) : b0.Keeps (State.emit s o) := by
  unfold State.emit
  with_reducible repeat' (first | assumption | simp only [State.keeps_mk] | dsimp only)

theorem State.free_keeps {b0 : State} {s : State} (h_s : b0.Keeps s) : b0.Keeps (State.free s).2 := by
  unfold State.free
  with_reducible repeat' (first | assumption | simp only [State.keeps_mk] | dsimp only)

theorem State.rand_keeps {b0 : State} {s : State} (h_s : b0.Keeps s) : b0.Keeps (State.rand s).2 := by
  unfold State.rand
  with_reducible repeat' (first | assumption | simp only [State.keeps_mk] | dsimp only)

theorem State.setStage_keeps {b0 : State} {s : State} (j : Nat) (v : Nat) (h_s : b0.Keeps s) : b0.Keeps (State.setStage s j v) := by
  unfold State.setStage
  with_reducible repeat' (first | assumption | apply State.setF_keeps | dsimp only)

theorem State.irqPart_keeps {b0 : State} {s : State} (p : Nat) (h_s : b0.Keeps s) : b0.Keeps (State.irqPart s p) := by
  unfold State.irqPart
  with_reducible repeat' (first | assumption | apply State.emit_keeps | split | dsimp only)

theorem State.irqPage_keeps {b0 : State} {s : State} (b : Block) (inst : Nat) (concern : Nat) (h_s : b0.Keeps s) : b0.Keeps (State.irqPage s b inst concern) := by
  unfold State.irqPage
  with_reducible repeat' (first | assumption | apply State.emit_keeps | apply State.irqPart_keeps | refine State.keeps_foldl _ (fun _ _ _ => ?_) _ _ ?_ | split | dsimp only | refine State.keeps_snd (by assumption) ?_ | refine State.keeps_fst (by assumption) ?_ | exact True.intro | intro _)

theorem State.irqSince_keeps {b0 : State} {s0 : State} {s : State} (b : Block) (inst : Nat) (h_s0 : b0.Keeps s0) (h_s : b0.Keeps s) : b0.Keeps (State.irqSince s0 s b inst) := by
  unfold State.irqSince
  with_reducible repeat' (first | assumption | apply State.irqPage_keeps | split | dsimp only)

theorem State.errConcerns_keeps {b0 : State} {s : State} (f : Fld) (inst : Nat) (concern : Option Nat) (h_s : b0.Keeps s) : b0.Keeps (State.errConcerns s f inst concern) := by
  unfold State.errConcerns
  with_reducible repeat' (first | assumption | split | simp only [State.keeps_mk] | dsimp only | refine State.keeps_snd (by assumption) ?_ | refine State.keeps_fst (by assumption) ?_)

theorem State.errForget_keeps {b0 : State} {s : State} (b : Block) (inst : Nat) (h_s : b0.Keeps s) : b0.Keeps (State.errForget s b inst) := by
  unfold State.errForget
  with_reducible repeat' (first | assumption | split | simp only [State.keeps_mk] | dsimp only | exact True.intro | intro _)

theorem State.setErr_keeps {b0 : State} {s : State} (f : Fld) (inst : Nat) (concern : Option Nat) (h_s : b0.Keeps s) : b0.Keeps (State.setErr s f inst concern) := by
  unfold State.setErr
  with_reducible repeat' (first | assumption | apply State.setF_keeps | apply State.irqSince_keeps | apply State.errConcerns_keeps | dsimp only)

theorem State.audit_keeps {b0 : State} {s : State} (origin : Nat) (page : Nat) (offset : Nat) (old : Word) (written : Word) (applied : Word) (flags : Nat) (h_s : b0.Keeps s) : b0.Keeps (State.audit s origin page offset old written applied flags) := by
  unfold State.audit
  with_reducible repeat' (first | assumption | apply State.setErr_keeps | split | simp only [State.keeps_mk] | dsimp only | refine State.keeps_snd (by assumption) ?_ | refine State.keeps_fst (by assumption) ?_)

theorem State.auditReg_keeps {b0 : State} {s : State} (o : Origin) (addr : Nat) (old : Word) (written : Word) (applied : Word) (flags : Nat) (h_s : b0.Keeps s) : b0.Keeps (State.auditReg s o addr old written applied flags) := by
  unfold State.auditReg
  with_reducible repeat' (first | assumption | apply State.audit_keeps | dsimp only)

/-! ### Engines -/

theorem State.setThr_keeps {b0 : State} {s : State} (c : Nat) (t : Nat) (x : Thread) (h_s : b0.Keeps s) : b0.Keeps (State.setThr s c t x) := by
  unfold State.setThr
  with_reducible repeat' (first | assumption | simp only [State.keeps_mk] | dsimp only)

theorem State.setClu_keeps {b0 : State} {s : State} (c : Nat) (x : Cluster) (h_s : b0.Keeps s) : b0.Keeps (State.setClu s c x) := by
  unfold State.setClu
  with_reducible repeat' (first | assumption | simp only [State.keeps_mk] | dsimp only)

theorem State.releaseMtx_keeps {b0 : State} {s : State} (c : Nat) (t : Nat) (h_s : b0.Keeps s) : b0.Keeps (State.releaseMtx s c t) := by
  unfold State.releaseMtx
  with_reducible repeat' (first | assumption | apply State.setThr_keeps | apply State.setClu_keeps | split | simp only [State.keeps_mk] | dsimp only | refine State.keeps_snd (by assumption) ?_ | refine State.keeps_fst (by assumption) ?_ | exact True.intro | intro _)

theorem State.releaseTq_keeps {b0 : State} {s : State} (c : Nat) (t : Nat) (h_s : b0.Keeps s) : b0.Keeps (State.releaseTq s c t) := by
  unfold State.releaseTq
  with_reducible repeat' (first | assumption | apply State.setThr_keeps | apply State.setClu_keeps | split | simp only [State.keeps_mk] | dsimp only | refine State.keeps_snd (by assumption) ?_ | refine State.keeps_fst (by assumption) ?_ | exact True.intro | intro _)

theorem State.setCmd_keeps {b0 : State} {s : State} (c : Cmd) (h_s : b0.Keeps s) : b0.Keeps (State.setCmd s c) := by
  unfold State.setCmd
  with_reducible repeat' (first | assumption | split | simp only [State.keeps_mk] | dsimp only | exact True.intro | intro _)

theorem State.dropCmd_keeps {b0 : State} {s : State} (id : Nat) (h_s : b0.Keeps s) : b0.Keeps (State.dropCmd s id) := by
  unfold State.dropCmd
  with_reducible repeat' (first | assumption | simp only [State.keeps_mk] | dsimp only | exact True.intro | intro _)

theorem State.setChan_keeps {b0 : State} {s : State} (ch : Nat) (x : SlvChan) (h_s : b0.Keeps s) : b0.Keeps (State.setChan s ch x) := by
  unfold State.setChan
  with_reducible repeat' (first | assumption | simp only [State.keeps_mk] | dsimp only)

theorem State.restThread7_keeps {b0 : State} {s : State} (c : Nat) (h_s : b0.Keeps s) : b0.Keeps (State.restThread7 s c) := by
  unfold State.restThread7
  with_reducible repeat' (first | assumption | apply State.setThr_keeps | apply State.releaseMtx_keeps | apply State.releaseTq_keeps | split | simp only [State.keeps_mk] | dsimp only)

theorem State.slvLast_keeps {b0 : State} {s : State} (ch : Nat) (tag : Nat) (status : Nat) (cause : Nat) (h_s : b0.Keeps s) : b0.Keeps (State.slvLast s ch tag status cause) := by
  unfold State.slvLast
  with_reducible repeat' (first | assumption | apply State.setF_keeps | dsimp only)

theorem State.leaveChannel_keeps {b0 : State} {s : State} (ch : Nat) (h_s : b0.Keeps s) : b0.Keeps (State.leaveChannel s ch) := by
  unfold State.leaveChannel
  with_reducible repeat' (first | assumption | apply State.setF_keeps | apply State.addF_keeps | apply State.setChan_keeps | apply State.restThread7_keeps | refine State.keeps_foldl _ (fun _ _ _ => ?_) _ _ ?_ | split | dsimp only)

theorem State.setBulk_keeps {b0 : State} {s : State} (ch : Nat) (b : Bulk) (h_s : b0.Keeps s) : b0.Keeps (State.setBulk s ch b) := by
  unfold State.setBulk
  with_reducible repeat' (first | assumption | simp only [State.keeps_mk] | dsimp only)

theorem State.bulkRelease_keeps {b0 : State} {s : State} (ch : Nat) (h_s : b0.Keeps s) : b0.Keeps (State.bulkRelease s ch) := by
  unfold State.bulkRelease
  with_reducible repeat' (first | assumption | apply State.setBulk_keeps | split | simp only [State.keeps_mk] | dsimp only)

theorem State.stopFor_keeps {b0 : State} {s : State} (c : Cmd) (st : Nat) (h_s : b0.Keeps s) : b0.Keeps (State.stopFor s c st) := by
  unfold State.stopFor
  with_reducible repeat' (first | assumption | apply State.free_keeps | apply State.slvLast_keeps | apply State.leaveChannel_keeps | apply State.bulkRelease_keeps | refine State.keeps_foldl _ (fun _ _ _ => ?_) _ _ ?_ | split | simp only [State.keeps_mk] | dsimp only | refine State.keeps_snd (by assumption) ?_ | refine State.keeps_fst (by assumption) ?_ | exact True.intro | intro _)

/-! ### Mem -/

theorem spWf_foldl_put {α : Type} (f : α → Nat) (g : α → Word) : ∀ (l : List α) (m : Sparse Word), spWf (0 : Word) m = true → spWf (0 : Word) (l.foldl (fun m x => spPut 0 m (f x) (g x)) m) = true
  | [], _, h => h
  | _ :: l, _, h => spWf_foldl_put f g l _ (spWf_spPut _ _ _ _ h)

theorem State.hbmLoose_keeps {b0 s : State} (a n : Nat) (h_s : b0.Keeps s) : b0.Keeps (State.hbmLoose s a n) := by
  unfold State.hbmLoose
  exact ⟨h_s.pend, fun c => ⟨wf_writeBytes _ _ _ (h_s.canon c).1, spWf_foldl_put _ _ _ _ (h_s.canon c).2, (h_s.canon c).3, (h_s.canon c).4, (h_s.canon c).5, (h_s.canon c).6⟩⟩

theorem State.faultCmds_keeps {b0 : State} {s : State} (q : Cmd → Bool) (st : Nat) (h_s : b0.Keeps s) : b0.Keeps (State.faultCmds s q st) := by
  unfold State.faultCmds
  with_reducible repeat' (first | assumption | apply State.stopFor_keeps | apply State.hbmLoose_keeps | refine State.keeps_foldl _ (fun _ _ _ => ?_) _ _ ?_ | refine State.keeps_foldlP _ (fun _ _ _ => ?_) _ _ ?_ | refine State.keeps_foldlQ _ (fun _ _ _ => ?_) _ _ ?_ | simp only [State.keeps_mk] | dsimp only | exact True.intro | intro _)

theorem State.endFaulted_keeps {b0 : State} {s : State} (id : Option Nat) (f : JobFault) (h_s : b0.Keeps s) : b0.Keeps (State.endFaulted s id f) := by
  unfold State.endFaulted
  with_reducible repeat' (first | assumption | apply State.free_keeps | apply State.setCmd_keeps | apply State.stopFor_keeps | apply State.faultCmds_keeps | split | simp only [State.keeps_mk] | dsimp only | refine State.keeps_snd (by assumption) ?_ | refine State.keeps_fst (by assumption) ?_ | exact True.intro | intro _)

theorem State.jobFault_keeps {b0 : State} {s : State} (j : Nat) (f : JobFault) (h_s : b0.Keeps s) : b0.Keeps (State.jobFault s j f) := by
  unfold State.jobFault
  with_reducible repeat' (first | assumption | apply State.free_keeps | apply State.setStage_keeps | apply State.setErr_keeps | apply State.faultCmds_keeps | split | dsimp only | refine State.keeps_snd (by assumption) ?_ | refine State.keeps_fst (by assumption) ?_ | exact True.intro | intro _)

theorem State.faultJobs_keeps {b0 : State} {s : State} (f : JobFault) (test : Nat → Bool) (h_s : b0.Keeps s) : b0.Keeps (State.faultJobs s f test) := by
  unfold State.faultJobs
  with_reducible repeat' (first | assumption | apply State.jobFault_keeps | refine State.keeps_foldl _ (fun _ _ _ => ?_) _ _ ?_ | split | dsimp only | exact True.intro | intro _)

theorem State.faultOpt_keeps {b0 : State} {s : State} (j : Option Nat) (f : JobFault) (h_s : b0.Keeps s) : b0.Keeps (State.faultOpt s j f) := by
  unfold State.faultOpt
  with_reducible repeat' (first | assumption | apply State.jobFault_keeps | split | dsimp only | refine State.keeps_snd (by assumption) ?_ | refine State.keeps_fst (by assumption) ?_)

theorem State.errorClass_keeps {b0 : State} {s : State} (p : Option Nat) (bit : Nat) (h_s : b0.Keeps s) : b0.Keeps (State.errorClass s p bit) := by
  unfold State.errorClass
  with_reducible repeat' (first | assumption | apply State.addF_keeps | apply State.setErr_keeps | apply State.faultOpt_keeps | split | dsimp only | refine State.keeps_snd (by assumption) ?_ | refine State.keeps_fst (by assumption) ?_)

theorem State.clearResv_keeps {b0 : State} {s : State} (a : Nat) (n : Nat) (hart : Option Nat) (h_s : b0.Keeps s) : b0.Keeps (State.clearResv s a n hart) := by
  unfold State.clearResv
  with_reducible repeat' (first | assumption | simp only [State.keeps_mk] | dsimp only | exact True.intro | intro _)

theorem State.dropLine_keeps {b0 : State} {s : State} (d : DirLine) (h_s : b0.Keeps s) : b0.Keeps (State.dropLine s d) := by
  unfold State.dropLine
  with_reducible repeat' (first | assumption | apply State.addF_keeps | apply State.emit_keeps | split | dsimp only)

theorem State.dropDir_keeps {b0 : State} {s : State} (a : Nat) (n : Nat) (h_s : b0.Keeps s) : b0.Keeps (State.dropDir s a n) := by
  unfold State.dropDir
  with_reducible repeat' (first | assumption | apply State.dropLine_keeps | refine State.keeps_foldl _ (fun _ _ _ => ?_) _ _ ?_ | simp only [State.keeps_mk] | dsimp only | exact True.intro | intro _)

theorem State.ownLines_keeps {b0 : State} {s : State} (a : Nat) (n : Nat) (hart : Option Nat) (h_s : b0.Keeps s) : b0.Keeps (State.ownLines s a n hart) := by
  unfold State.ownLines
  with_reducible repeat' (first | assumption | apply State.clearResv_keeps | apply State.dropDir_keeps | split | dsimp only | refine State.keeps_snd (by assumption) ?_ | refine State.keeps_fst (by assumption) ?_)

theorem State.readLines_keeps {b0 : State} {s : State} (a : Nat) (n : Nat) (h_s : b0.Keeps s) : b0.Keeps (State.readLines s a n) := by
  unfold State.readLines
  with_reducible repeat' (first | assumption | apply State.dropLine_keeps | refine State.keeps_foldl _ (fun _ _ _ => ?_) _ _ ?_ | split | simp only [State.keeps_mk] | dsimp only | exact True.intro | intro _)

theorem State.setLichen_keeps {b0 : State} {s : State} (st : Nat) (x : Lichen) (h_s : b0.Keeps s) : b0.Keeps (State.setLichen s st x) := by
  unfold State.setLichen
  with_reducible repeat' (first | assumption | simp only [State.keeps_mk] | dsimp only)

theorem State.cacheDrop_keeps {b0 : State} {s : State} (l : Nat) (h_s : b0.Keeps s) : b0.Keeps (State.cacheDrop s l) := by
  unfold State.cacheDrop
  with_reducible repeat' (first | assumption | apply State.addF_keeps | apply State.setLichen_keeps | split | simp only [State.keeps_mk] | dsimp only)

theorem State.cacheClean_keeps {b0 : State} {s : State} (st : Nat) (h_s : b0.Keeps s) : b0.Keeps (State.cacheClean s st) := by
  unfold State.cacheClean
  with_reducible repeat' (first | assumption | apply State.addF_keeps | apply State.setLichen_keeps | simp only [State.keeps_mk] | dsimp only | exact True.intro | intro _)

theorem State.cachePut_keeps {b0 : State} {s : State} (l : Nat) (v : Nat) (h_s : b0.Keeps s) : b0.Keeps (State.cachePut s l v) := by
  unfold State.cachePut
  with_reducible repeat' (first | assumption | apply State.setLichen_keeps | apply State.cacheDrop_keeps | split | simp only [State.keeps_mk] | dsimp only)

theorem State.lineRead_keeps {b0 : State} {s : State} (p : MemPath) (l : Nat) (h_s : b0.Keeps s) : b0.Keeps (State.lineRead s p l) := by
  unfold State.lineRead
  with_reducible repeat' (first | assumption | apply State.addF_keeps | apply State.cachePut_keeps | split | dsimp only)

theorem State.lineWritten_keeps {b0 : State} {s : State} (whole : Bool) (l : Nat) (h_s : b0.Keeps s) : b0.Keeps (State.lineWritten s whole l) := by
  unfold State.lineWritten
  with_reducible repeat' (first | assumption | apply State.addF_keeps | apply State.cachePut_keeps | split | dsimp only)

theorem State.memRead_keeps {b0 : State} {s : State} (p : MemPath) (a : Nat) (n : Nat) (h_s : b0.Keeps s) : b0.Keeps (State.memRead s p a n) := by
  unfold State.memRead
  with_reducible repeat' (first | assumption | apply State.readLines_keeps | apply State.lineRead_keeps | refine State.keeps_foldl _ (fun _ _ _ => ?_) _ _ ?_ | dsimp only | exact True.intro | intro _)

theorem State.memReads_keeps {b0 : State} {s : State} (p : MemPath) (rs : List (Nat × Nat)) (h_s : b0.Keeps s) : b0.Keeps (State.memReads s p rs) := by
  unfold State.memReads
  with_reducible repeat' (first | assumption | apply State.memRead_keeps | refine State.keeps_foldl _ (fun _ _ _ => ?_) _ _ ?_ | refine State.keeps_foldlP _ (fun _ _ _ => ?_) _ _ ?_ | refine State.keeps_foldlQ _ (fun _ _ _ => ?_) _ _ ?_ | dsimp only | exact True.intro | intro _)

theorem State.serveSector_keeps {b0 : State} {s : State} (st : Nat) (k : Nat) (h_s : b0.Keeps s) : b0.Keeps (State.serveSector s st k) := by
  unfold State.serveSector
  with_reducible repeat' (first | assumption | apply State.addF_keeps | apply State.setLichen_keeps | simp only [State.keeps_mk] | dsimp only | exact True.intro | intro _)

theorem State.narrowMiss_keeps {b0 : State} {s : State} (a : Nat) (h_s : b0.Keeps s) : b0.Keeps (State.narrowMiss s a) := by
  unfold State.narrowMiss
  with_reducible repeat' (first | assumption | apply State.setLichen_keeps | apply State.serveSector_keeps | split | simp only [State.keeps_mk] | dsimp only | refine State.keeps_snd (by assumption) ?_ | refine State.keeps_fst (by assumption) ?_)

theorem State.lane_keeps {b0 : State} {s : State} (k : LaneKind) (hit : Bool) (a : Nat) (h_s : b0.Keeps s) : b0.Keeps (State.lane s k hit a) := by
  unfold State.lane
  with_reducible repeat' (first | assumption | apply State.addF_keeps | apply State.cachePut_keeps | apply State.narrowMiss_keeps | split | dsimp only)

theorem State.laneAt_keeps {b0 : State} {s : State} (k : LaneKind) (a : Nat) (h_s : b0.Keeps s) : b0.Keeps (State.laneAt s k a) := by
  unfold State.laneAt
  with_reducible repeat' (first | assumption | apply State.lane_keeps | dsimp only)

theorem State.narrowRead_keeps {b0 : State} {s : State} (a : Nat) (n : Nat) (h_s : b0.Keeps s) : b0.Keeps (State.narrowRead s a n) := by
  unfold State.narrowRead
  with_reducible repeat' (first | assumption | apply State.readLines_keeps | apply State.laneAt_keeps | dsimp only)

theorem State.cowHold_keeps {b0 : State} {s : State} (a : Nat) (n : Nat) (h_s : b0.Keeps s) : b0.Keeps (State.cowHold s a n) := by
  unfold State.cowHold
  with_reducible repeat' (first | assumption | apply State.addF_keeps | refine State.keeps_foldl _ (fun _ _ _ => ?_) _ _ ?_ | split | simp only [State.keeps_mk] | dsimp only | exact True.intro | intro _)

theorem State.hbmWrite_keeps {b0 s : State} (a : Nat) (bs : List Byte) (h_s : b0.Keeps s) : b0.Keeps (State.hbmWrite s a bs) := by
  unfold State.hbmWrite; dsimp only
  refine State.keeps_hbm ?_ (wf_writeBytes _ _ _)
  exact State.keeps_foldl _ (fun _ _ h => State.lineWritten_keeps _ _ h) _ _ (State.ownLines_keeps _ _ _ (State.cowHold_keeps _ _ h_s))

theorem State.hbmLane_keeps {b0 s : State} (k : LaneKind) (a : Nat) (bs : List Byte) (h_s : b0.Keeps s) : b0.Keeps (State.hbmLane s k a bs) := by
  unfold State.hbmLane; dsimp only
  refine State.keeps_hbm ?_ (wf_writeBytes _ _ _)
  exact State.laneAt_keeps _ _ (State.ownLines_keeps _ _ _ (State.cowHold_keeps _ _ h_s))

theorem State.hbmSealTile_keeps {b0 s : State} (t : Nat) (h_s : b0.Keeps s) : b0.Keeps (State.hbmSealTile s t) := by
  unfold State.hbmSealTile
  exact State.keeps_hbmSum h_s (spWf_spPut _ _ _ _)

theorem State.hbmSeal_keeps {b0 : State} {s : State} (a : Nat) (n : Nat) (h_s : b0.Keeps s) : b0.Keeps (State.hbmSeal s a n) := by
  unfold State.hbmSeal
  with_reducible repeat' (first | assumption | apply State.hbmSealTile_keeps | refine State.keeps_foldl _ (fun _ _ _ => ?_) _ _ ?_ | dsimp only)

theorem State.hbmSealWrite_keeps {b0 : State} {s : State} (a : Nat) (bs : List Byte) (h_s : b0.Keeps s) : b0.Keeps (State.hbmSealWrite s a bs) := by
  unfold State.hbmSealWrite
  with_reducible repeat' (first | assumption | apply State.hbmWrite_keeps | apply State.hbmSeal_keeps | dsimp only)

theorem State.faultUnit_keeps {b0 : State} {s : State} (u : Nat) (f : JobFault) (h_s : b0.Keeps s) : b0.Keeps (State.faultUnit s u f) := by
  unfold State.faultUnit
  with_reducible repeat' (first | assumption | apply State.faultJobs_keeps | dsimp only | exact True.intro | intro _)

theorem State.recordRow_keeps {b0 : State} {s : State} (st : Nat) (row : Nat) (h_s : b0.Keeps s) : b0.Keeps (State.recordRow s st row) := by
  unfold State.recordRow
  with_reducible repeat' (first | assumption | split | simp only [State.keeps_mk] | dsimp only)

theorem State.hbmUeAt_keeps {b0 : State} {s : State} (st : Nat) (off : Nat) (h_s : b0.Keeps s) : b0.Keeps (State.hbmUeAt s st off) := by
  unfold State.hbmUeAt
  with_reducible repeat' (first | assumption | apply State.setF_keeps | apply State.setErr_keeps | apply State.recordRow_keeps | dsimp only)

theorem State.hbmUe_keeps {b0 : State} {s : State} (a : Nat) (h_s : b0.Keeps s) : b0.Keeps (State.hbmUe s a) := by
  unfold State.hbmUe
  with_reducible repeat' (first | assumption | apply State.faultUnit_keeps | apply State.hbmUeAt_keeps | dsimp only)

theorem State.hbmWipe_keeps {b0 s : State} (a : Nat) (n : Nat) (h_s : b0.Keeps s) : b0.Keeps (State.hbmWipe s a n) := by
  unfold State.hbmWipe
  exact ⟨h_s.pend, fun c => ⟨wf_spClear _ _ _ (h_s.canon c).1, spWf_spClear _ _ _ _ (h_s.canon c).2, (h_s.canon c).3, (h_s.canon c).4, (h_s.canon c).5, (h_s.canon c).6⟩⟩

theorem State.spadWrite_keeps {b0 s : State} (c a : Nat) (bs : List Byte) (h_s : b0.Keeps s) : b0.Keeps (State.spadWrite s c a bs) := by
  unfold State.spadWrite; dsimp only
  refine State.keeps_foldl _ (fun _ _ h => State.setThr_keeps _ _ _ h) _ _ ?_
  exact State.keeps_spad h_s (wf_writeBytes _ _ _)

theorem State.spadSealTile_keeps {b0 s : State} (c t : Nat) (h_s : b0.Keeps s) : b0.Keeps (State.spadSealTile s c t) := by
  unfold State.spadSealTile
  exact State.keeps_spadSum h_s (spWf_spPut _ _ _ _)

theorem State.spadSeal_keeps {b0 : State} {s : State} (c : Nat) (a : Nat) (n : Nat) (h_s : b0.Keeps s) : b0.Keeps (State.spadSeal s c a n) := by
  unfold State.spadSeal
  with_reducible repeat' (first | assumption | apply State.spadSealTile_keeps | refine State.keeps_foldl _ (fun _ _ _ => ?_) _ _ ?_ | dsimp only | exact True.intro | intro _)

theorem State.spadSealWrite_keeps {b0 : State} {s : State} (c : Nat) (a : Nat) (bs : List Byte) (h_s : b0.Keeps s) : b0.Keeps (State.spadSealWrite s c a bs) := by
  unfold State.spadSealWrite
  with_reducible repeat' (first | assumption | apply State.spadWrite_keeps | apply State.spadSeal_keeps | dsimp only)

theorem State.clusterFault_keeps {b0 : State} {s : State} (c : Nat) (f : JobFault) (h_s : b0.Keeps s) : b0.Keeps (State.clusterFault s c f) := by
  unfold State.clusterFault
  with_reducible repeat' (first | assumption | apply State.setF_keeps | apply State.setErr_keeps | apply State.setThr_keeps | apply State.setClu_keeps | apply State.faultOpt_keeps | refine State.keeps_foldl _ (fun _ _ _ => ?_) _ _ ?_ | split | simp only [State.keeps_mk] | dsimp only | exact True.intro | intro _)

/-! ### QueueCore -/

theorem State.ctxWriteBack_keeps {b0 : State} {s : State} (q : Nat) (h_s : b0.Keeps s) : b0.Keeps (State.ctxWriteBack s q) := by
  unfold State.ctxWriteBack
  with_reducible repeat' (first | assumption | apply State.hbmWrite_keeps | split | dsimp only | refine State.keeps_snd (by assumption) ?_ | refine State.keeps_fst (by assumption) ?_ | exact True.intro | intro _)

theorem State.ctxFlush_keeps {b0 : State} {s : State} (p : Nat) (h_s : b0.Keeps s) : b0.Keeps (State.ctxFlush s p) := by
  unfold State.ctxFlush
  with_reducible repeat' (first | assumption | apply State.ctxWriteBack_keeps | refine State.keeps_foldl _ (fun _ _ _ => ?_) _ _ ?_ | refine State.keeps_foldlP _ (fun _ _ _ => ?_) _ _ ?_ | refine State.keeps_foldlQ _ (fun _ _ _ => ?_) _ _ ?_ | split | dsimp only | exact True.intro | intro _)

theorem State.ctxMakeRoom_keeps {b0 : State} {s : State} (h_s : b0.Keeps s) : b0.Keeps (State.ctxMakeRoom s) := by
  unfold State.ctxMakeRoom
  with_reducible repeat' (first | assumption | apply State.ctxWriteBack_keeps | split | simp only [State.keeps_mk] | dsimp only | refine State.keeps_snd (by assumption) ?_ | refine State.keeps_fst (by assumption) ?_ | exact True.intro | intro _)

theorem State.ctxFetch_keeps {b0 : State} {s : State} (q : Nat) (h_s : b0.Keeps s) : b0.Keeps (State.ctxFetch s q) := by
  unfold State.ctxFetch
  with_reducible repeat' (first | assumption | apply State.addF_keeps | apply State.memRead_keeps | apply State.ctxMakeRoom_keeps | split | simp only [State.keeps_mk] | dsimp only | refine State.keeps_snd (by assumption) ?_ | refine State.keeps_fst (by assumption) ?_)

theorem State.setCtx_keeps {b0 : State} {s : State} (q : Nat) (x : List Word) (h_s : b0.Keeps s) : b0.Keeps (State.setCtx s q x) := by
  unfold State.setCtx
  with_reducible repeat' (first | assumption | apply State.ctxFetch_keeps | simp only [State.keeps_mk] | dsimp only)

theorem State.ringWrite_keeps {b0 s : State} (p base off : Nat) (bs : List Byte) (h_s : b0.Keeps s) : b0.Keeps (State.ringWrite s p base off bs) := by
  unfold State.ringWrite
  split
  · exact h_s
  split
  · exact State.keeps_hostMem h_s (wf_writeBytes _ _ _)
  · exact State.hbmWrite_keeps _ _ h_s

theorem State.fetchEntries_keeps {b0 : State} (p q : Nat) : ∀ (n : Nat) {s : State}, b0.Keeps s → b0.Keeps (State.fetchEntries s p q n)
  | 0, _, h => h
  | n + 1, s, h => by
    unfold State.fetchEntries; dsimp only
    split
    · exact h
    split
    · exact h
    apply State.fetchEntries_keeps p q n; simp only [State.keeps_mk]; apply State.setCtx_keeps
    split
    · exact h
    · exact State.memRead_keeps _ _ _ h

theorem State.doorbell_keeps {b0 : State} {s : State} (q : Nat) (cqHead : Bool) (v : Nat) (h_s : b0.Keeps s) : b0.Keeps (State.doorbell s q cqHead v) := by
  unfold State.doorbell
  with_reducible repeat' (first | assumption | apply State.addF_keeps | apply State.ctxFetch_keeps | apply State.setCtx_keeps | apply State.fetchEntries_keeps | split | dsimp only | refine State.keeps_snd (by assumption) ?_ | refine State.keeps_fst (by assumption) ?_)

theorem State.setQext_keeps {b0 : State} {s : State} (q : Nat) (x : QueueExtra) (h_s : b0.Keeps s) : b0.Keeps (State.setQext s q x) := by
  unfold State.setQext
  with_reducible repeat' (first | assumption | simp only [State.keeps_mk] | dsimp only)

theorem State.reserveSlot_keeps {b0 : State} {s : State} (q : Nat) (h_s : b0.Keeps s) : b0.Keeps (State.reserveSlot s q) := by
  unfold State.reserveSlot
  with_reducible repeat' (first | assumption | apply State.setQext_keeps | simp only [State.keeps_mk] | dsimp only)

theorem State.irqQueue_keeps {b0 : State} {s : State} (p : Nat) (q : Nat) (vec : Nat) (h_s : b0.Keeps s) : b0.Keeps (State.irqQueue s p q vec) := by
  unfold State.irqQueue
  with_reducible repeat' (first | assumption | apply State.emit_keeps | split | dsimp only)

theorem State.writeRecord_keeps {b0 : State} {s : State} (p : Nat) (q : Nat) (status : Nat) (flags : Nat) (tag : Nat) (digest : Nat) (aux : Nat) (tick : Nat) (h_s : b0.Keeps s) : b0.Keeps (State.writeRecord s p q status flags tag digest aux tick) := by
  unfold State.writeRecord
  with_reducible repeat' (first | assumption | apply State.ctxFetch_keeps | apply State.setCtx_keeps | apply State.ringWrite_keeps | apply State.setQext_keeps | apply State.irqQueue_keeps | split | simp only [State.keeps_mk] | dsimp only)

theorem State.commitWith_keeps {b0 : State} {s : State} (c : Cmd) (status : Nat) (aux : Nat) (flags : Nat) (digest : Nat) (h_s : b0.Keeps s) : b0.Keeps (State.commitWith s c status aux flags digest) := by
  unfold State.commitWith
  with_reducible repeat' (first | assumption | apply State.addF_keeps | apply State.dropCmd_keeps | apply State.errorClass_keeps | apply State.writeRecord_keeps | split | simp only [State.keeps_mk] | dsimp only | refine State.keeps_snd (by assumption) ?_ | refine State.keeps_fst (by assumption) ?_ | exact True.intro | intro _)

theorem State.commitCmd_keeps {b0 : State} {s : State} (c : Cmd) (status : Nat) (aux : Nat) (flags : Nat) (digest : Nat) (h_s : b0.Keeps s) : b0.Keeps (State.commitCmd s c status aux flags digest) := by
  unfold State.commitCmd
  with_reducible repeat' (first | assumption | apply State.commitWith_keeps | split | dsimp only)

theorem State.withStarted_keeps {b0 s : State} (id : Nat) {f : Cmd → State} (h_s : b0.Keeps s) (h_f : ∀ c, b0.Keeps (f c)) : b0.Keeps (State.withStarted s id f) := by
  unfold State.withStarted
  repeat' (first | with_reducible assumption | apply h_f | split)

/-! ### FabCore -/

theorem State.hbmAtomic_keeps {b0 : State} {s : State} (a : Nat) (op : Nat) (fn : Nat) (d : Word) (d1 : Word) (h_s : b0.Keeps s) : b0.Keeps (State.hbmAtomic s a op fn d d1).2 := by
  unfold State.hbmAtomic
  with_reducible repeat' (first | assumption | apply State.addF_keeps | apply State.hbmLane_keeps | split | dsimp only | refine State.keeps_snd (by assumption) ?_ | refine State.keeps_fst (by assumption) ?_)

theorem State.applyAt_keeps {b0 : State} {s : State} (w : Window) (off : Nat) (len : Nat) (x : Access1) (h_s : b0.Keeps s) : b0.Keeps (State.applyAt s w off len x).2 := by
  unfold State.applyAt
  with_reducible repeat' (first | assumption | apply State.memRead_keeps | apply State.narrowRead_keeps | apply State.hbmWrite_keeps | apply State.hbmLane_keeps | apply State.spadWrite_keeps | apply State.doorbell_keeps | apply State.hbmAtomic_keeps | split | dsimp only | refine State.keeps_snd (by assumption) ?_ | refine State.keeps_fst (by assumption) ?_)

theorem State.setJobEpochs_keeps {b0 : State} {s : State} (j : Nat) (e : Epochs) (h_s : b0.Keeps s) : b0.Keeps (State.setJobEpochs s j e) := by
  unfold State.setJobEpochs
  with_reducible repeat' (first | assumption | simp only [State.keeps_mk] | dsimp only)

theorem State.setLink_keeps {b0 : State} {s : State} (p : Nat) (x : Link) (h_s : b0.Keeps s) : b0.Keeps (State.setLink s p x) := by
  unfold State.setLink
  with_reducible repeat' (first | assumption | simp only [State.keeps_mk] | dsimp only)

theorem State.sendCell_keeps {b0 : State} {s : State} (port : Nat) (x : Cell) (h_s : b0.Keeps s) : b0.Keeps (State.sendCell s port x) := by
  unfold State.sendCell
  with_reducible repeat' (first | assumption | apply State.addF_keeps | apply State.emit_keeps | apply State.setLink_keeps | simp only [State.keeps_mk] | dsimp only)

theorem State.arrive_keeps {b0 : State} {s : State} (x : Cell) (h_s : b0.Keeps s) : b0.Keeps (State.arrive s x) := by
  unfold State.arrive
  with_reducible repeat' (first | assumption | apply State.addF_keeps | apply State.setLink_keeps | split | simp only [State.keeps_mk] | dsimp only)

theorem State.setTx_keeps {b0 : State} {s : State} (k : FlowKey) (f : TxFlow) (h_s : b0.Keeps s) : b0.Keeps (State.setTx s k f) := by
  unfold State.setTx
  with_reducible repeat' (first | assumption | simp only [State.keeps_mk] | dsimp only | exact True.intro | intro _)

theorem State.flowTouch_keeps {b0 : State} {s : State} (die : Nat) (source : Bool) (k : FlowKey) (h_s : b0.Keeps s) : b0.Keeps (State.flowTouch s die source k) := by
  unfold State.flowTouch
  with_reducible repeat' (first | assumption | apply State.addF_keeps | split | simp only [State.keeps_mk] | dsimp only | refine State.keeps_snd (by assumption) ?_ | refine State.keeps_fst (by assumption) ?_ | exact True.intro | intro _)

theorem State.routeFault_keeps {b0 : State} {s : State} (slot : Nat) (die : Nat) (anyAtomic : Bool) (h_s : b0.Keeps s) : b0.Keeps (State.routeFault s slot die anyAtomic) := by
  unfold State.routeFault
  with_reducible repeat' (first | assumption | apply State.setErr_keeps | apply State.jobFault_keeps | split | dsimp only)

theorem State.launchCell_keeps {b0 s t : State} {k : FlowKey} {f f2 : TxFlow} {c c1 : TxCell} (e : s.launchCell k f c = some (c1, f2, t)) (h : b0.Keeps s) : b0.Keeps t := by
  unfold State.launchCell at e; dsimp only at e
  split at e
  · contradiction
  · cases e; refine State.sendCell_keeps _ _ (State.flowTouch_keeps _ _ _ ?_); simp only [State.keeps_mk]; exact h

theorem State.enqueueCell_keeps {b0 : State} {s : State} (slot : Nat) (die : Nat) (k : FlowKey) (c0 : TxCell) (h_s : b0.Keeps s) : b0.Keeps (State.enqueueCell s slot die k c0) := by
  unfold State.enqueueCell
  with_reducible repeat' (first | assumption | apply State.setTx_keeps | apply State.routeFault_keeps | split | simp only [State.keeps_mk] | dsimp only | refine State.keeps_snd (by assumption) ?_ | refine State.keeps_fst (by assumption) ?_ | exact True.intro | intro _ | refine State.launchCell_keeps (by assumption) ?_)

theorem State.sendAccess_keeps {b0 : State} {s : State} (slot : Nat) (die : Nat) (tc : Nat) (win : Nat) (w : Window) (a : Nat) (len : Nat) (x : Access1) (owner : Owner) (eps : Option Nat × Option Nat × Option Nat) (h_s : b0.Keeps s) : b0.Keeps (State.sendAccess s slot die tc win w a len x owner eps) := by
  unfold State.sendAccess
  with_reducible repeat' (first | assumption | apply State.enqueueCell_keeps | split | simp only [State.keeps_mk] | dsimp only | refine State.keeps_snd (by assumption) ?_ | refine State.keeps_fst (by assumption) ?_)

end Sys2Proof.Machine
end

