-- ==== Sys2Proof/Laws/KeepsScalar.lean ====
section
/-! SUPPORT. What threads and scalar instructions keep. -/

namespace Sys2Proof.Machine

set_option linter.unusedVariables false
set_option linter.unusedSimpArgs false
set_option maxRecDepth 4000

/-! ### ClusterCore -/

theorem State.setTileMover_keeps {b0 : State} {s : State} (c : Nat) (m : Nat) (x : TileMover) (h_s : b0.Keeps s) : b0.Keeps (State.setTileMover s c m x) := by
  unfold State.setTileMover
  with_reducible repeat' (first | assumption | simp only [State.keeps_mk] | dsimp only)

theorem State.beginWait_keeps {b0 : State} {s : State} (c : Nat) (t : Nat) (x : Thread) (st : ThrState) (w : Waiting) (adv : Nat) (h_s : b0.Keeps s) : b0.Keeps (State.beginWait s c t x st w adv) := by
  unfold State.beginWait
  with_reducible repeat' (first | assumption | apply State.setThr_keeps | apply State.setClu_keeps | simp only [State.keeps_mk] | dsimp only)

theorem State.setScopeEpochs_keeps {b0 : State} {s : State} (c : Nat) (t : Nat) (scope : Nat) (e : Epochs) (h_s : b0.Keeps s) : b0.Keeps (State.setScopeEpochs s c t scope e) := by
  unfold State.setScopeEpochs
  with_reducible repeat' (first | assumption | apply State.setThr_keeps | apply State.setClu_keeps | apply State.setJobEpochs_keeps | split | simp only [State.keeps_mk] | dsimp only | refine State.keeps_snd (by assumption) ?_ | refine State.keeps_fst (by assumption) ?_)

theorem State.closeEpoch_keeps {b0 : State} {s : State} (c : Nat) (t : Nat) (scope : Nat) (adv : Nat) (h_s : b0.Keeps s) : b0.Keeps (State.closeEpoch s c t scope adv) := by
  unfold State.closeEpoch
  with_reducible repeat' (first | assumption | refine done_keeps ?_ | apply State.setThr_keeps | apply State.beginWait_keeps | apply State.setScopeEpochs_keeps | split | simp only [State.keeps_mk] | dsimp only)

theorem State.pushMover_keeps {b0 : State} {s : State} (c : Nat) (m : Nat) (d : List Word) (h_s : b0.Keeps s) : b0.Keeps (State.pushMover s c m d) := by
  unfold State.pushMover
  with_reducible repeat' (first | assumption | apply State.setTileMover_keeps | simp only [State.keeps_mk] | dsimp only)

theorem State.tryWake_keeps {b0 : State} (c : Nat) {s : State} (t : Nat) (h_s : b0.Keeps s) : b0.Keeps (State.tryWake c s t) := by
  unfold State.tryWake
  with_reducible repeat' (first | assumption | refine done_keeps ?_ | apply State.setThr_keeps | apply State.setClu_keeps | apply State.releaseMtx_keeps | apply State.closeEpoch_keeps | apply State.pushMover_keeps | split | simp only [State.keeps_mk] | dsimp only | refine State.keeps_snd (by assumption) ?_ | refine State.keeps_fst (by assumption) ?_ | exact True.intro | intro _)

theorem State.releaseHalted_keeps {b0 : State} {s : State} (c : Nat) (h_s : b0.Keeps s) : b0.Keeps (State.releaseHalted s c) := by
  unfold State.releaseHalted
  with_reducible repeat' (first | assumption | apply State.releaseMtx_keeps | apply State.releaseTq_keeps | split | dsimp only | refine State.keeps_snd (by assumption) ?_ | refine State.keeps_fst (by assumption) ?_)

theorem State.settle_keeps {b0 : State} {s : State} (c : Nat) (h_s : b0.Keeps s) : b0.Keeps (State.settle s c) := by
  unfold State.settle
  with_reducible repeat' (first | assumption | apply State.setClu_keeps | apply State.tryWake_keeps | apply State.releaseHalted_keeps | refine State.keeps_foldl _ (fun _ _ _ => ?_) _ _ ?_ | simp only [State.keeps_mk] | dsimp only | exact True.intro | intro _)

theorem State.settleAll_keeps {b0 : State} {s : State} (h_s : b0.Keeps s) : b0.Keeps (State.settleAll s) := by
  unfold State.settleAll
  with_reducible repeat' (first | assumption | apply State.settle_keeps | refine State.keeps_foldl _ (fun _ _ _ => ?_) _ _ ?_ | refine State.keeps_foldlP _ (fun _ _ _ => ?_) _ _ ?_ | refine State.keeps_foldlQ _ (fun _ _ _ => ?_) _ _ ?_ | dsimp only | exact True.intro | intro _)

theorem State.haltThread_keeps {b0 : State} {s : State} (c : Nat) (t : Nat) (cause : Nat) (h_s : b0.Keeps s) : b0.Keeps (State.haltThread s c t cause) := by
  unfold State.haltThread
  with_reducible repeat' (first | assumption | apply State.setThr_keeps | apply State.setClu_keeps | apply State.settle_keeps | split | simp only [State.keeps_mk] | dsimp only)

theorem State.haltError_keeps {b0 : State} {s : State} (c : Nat) (t : Nat) (cause : Nat) (h_s : b0.Keeps s) : b0.Keeps (State.haltError s c t cause) := by
  unfold State.haltError
  with_reducible repeat' (first | assumption | apply State.setErr_keeps | apply State.errorClass_keeps | apply State.haltThread_keeps | dsimp only)

theorem State.countIssue_keeps {b0 : State} {s : State} (c : Nat) (t : Nat) (h_s : b0.Keeps s) : b0.Keeps (State.countIssue s c t) := by
  unfold State.countIssue
  with_reducible repeat' (first | assumption | apply State.addF_keeps | apply State.setClu_keeps | split | simp only [State.keeps_mk] | dsimp only | exact True.intro | intro _)

theorem State.madeRemote_keeps {b0 : State} {s : State} (c : Nat) (h_s : b0.Keeps s) : b0.Keeps (State.madeRemote s c) := by
  unfold State.madeRemote
  with_reducible repeat' (first | assumption | apply State.setClu_keeps | simp only [State.keeps_mk] | dsimp only)

theorem State.fetchCe_keeps {b0 : State} {s : State} (c : Nat) (e : Ecc) (h_s : b0.Keeps s) : b0.Keeps (State.fetchCe s c e) := by
  unfold State.fetchCe
  with_reducible repeat' (first | assumption | apply State.addSat_keeps | split | dsimp only)

theorem State.issue_keeps {b0 : State} {s : State} (c : Nat) (t : Nat) (fetch : Ecc) (regs : Ecc) (clean : Bool) {f : Thread → State → State} (h_s : b0.Keeps s) (h_f : ∀ (y0 : Thread) (y1 : State), b0.Keeps y1 → b0.Keeps (f y0 y1)) : b0.Keeps (State.issue s c t fetch regs clean f) := by
  unfold State.issue
  with_reducible repeat' (first | assumption | apply h_f | apply State.clusterFault_keeps | apply State.haltError_keeps | apply State.countIssue_keeps | apply State.fetchCe_keeps | split | dsimp only | exact True.intro | intro _)

theorem issueS_keeps {b0 : State} (c : BitVec 8) (t : BitVec 3) (i : SFmt) {s : State} {f : Thread → State → State} (h_s : b0.Keeps s) (h_f : ∀ (y0 : Thread) (y1 : State), b0.Keeps y1 → b0.Keeps (f y0 y1)) : b0.OKeeps (issueS c t i s f) := by
  unfold issueS
  with_reducible repeat' (first | assumption | refine done_keeps ?_ | apply h_f | apply State.issue_keeps | dsimp only | exact True.intro | intro _)

theorem issueV_keeps {b0 : State} (c : BitVec 8) (t : BitVec 3) (i : VFmt) {s : State} {f : Thread → State → State} (h_s : b0.Keeps s) (h_f : ∀ (y0 : Thread) (y1 : State), b0.Keeps y1 → b0.Keeps (f y0 y1)) : b0.OKeeps (issueV c t i s f) := by
  unfold issueV
  with_reducible repeat' (first | assumption | refine done_keeps ?_ | apply h_f | apply State.issue_keeps | dsimp only | exact True.intro | intro _)

theorem scalarOp_keeps {b0 : State} (c : BitVec 8) (t : BitVec 3) (i : SFmt) {s : State} (f : Thread → Word × Nat) (h_s : b0.Keeps s) : b0.OKeeps (scalarOp c t i s f) := by
  unfold scalarOp
  with_reducible repeat' (first | assumption | apply State.setThr_keeps | apply issueS_keeps | dsimp only | exact True.intro | intro _)

theorem State.countIssued_keeps {b0 : State} {s : State} (c : Nat) (t : Nat) (slot : Nat) (h_s : b0.Keeps s) : b0.Keeps (State.countIssued s c t slot).2 := by
  unfold State.countIssued
  with_reducible repeat' (first | assumption | apply State.setThr_keeps | apply State.setClu_keeps | apply State.setJobEpochs_keeps | apply State.issue_keeps | simp only [State.keeps_mk] | dsimp only)

theorem State.countDone_keeps {b0 : State} {s : State} (c : Nat) (t : Nat) (slot : Nat) (eps : Option Nat × Option Nat × Option Nat) (h_s : b0.Keeps s) : b0.Keeps (State.countDone s c t slot eps) := by
  unfold State.countDone
  with_reducible repeat' (first | assumption | apply State.setThr_keeps | apply State.setClu_keeps | apply State.setJobEpochs_keeps | split | simp only [State.keeps_mk] | dsimp only | refine State.keeps_snd (by assumption) ?_ | refine State.keeps_fst (by assumption) ?_)

theorem State.threadAccess_keeps {b0 : State} {s : State} (c : Nat) (t : Nat) (slot : Nat) (win : Nat) (w : Window) (a : Nat) (len : Nat) (x : Access1) (part : Option Nat) (h_s : b0.Keeps s) : b0.Keeps (State.threadAccess s c t slot win w a len x part).2 := by
  unfold State.threadAccess
  with_reducible repeat' (first | assumption | apply State.clusterFault_keeps | apply State.applyAt_keeps | apply State.sendAccess_keeps | apply State.countIssued_keeps | apply State.countDone_keeps | split | dsimp only | refine State.keeps_snd (by assumption) ?_ | refine State.keeps_fst (by assumption) ?_)

theorem State.scalarRemote_keeps {b0 : State} {s : State} (c : Nat) (t : Nat) (a : Nat) (x : Access1) (sd : Option Nat) (adv : Nat) (h_s : b0.Keeps s) : b0.Keeps (State.scalarRemote s c t a x sd adv) := by
  unfold State.scalarRemote
  with_reducible repeat' (first | assumption | apply State.setThr_keeps | apply State.beginWait_keeps | apply State.haltError_keeps | apply State.madeRemote_keeps | apply State.threadAccess_keeps | split | simp only [State.keeps_mk] | dsimp only | refine State.keeps_snd (by assumption) ?_ | refine State.keeps_fst (by assumption) ?_ | exact True.intro | intro _)

theorem State.startThread_keeps {b0 : State} {s : State} (c : Nat) (t : Nat) (pc : Nat) (h_s : b0.Keeps s) : b0.Keeps (State.startThread s c t pc) := by
  unfold State.startThread
  with_reducible repeat' (first | assumption | apply State.setThr_keeps | dsimp only)

theorem State.stopThread_keeps {b0 : State} {s : State} (c : Nat) (t : Nat) (h_s : b0.Keeps s) : b0.Keeps (State.stopThread s c t) := by
  unfold State.stopThread
  with_reducible repeat' (first | assumption | apply State.setThr_keeps | apply State.haltThread_keeps | split | simp only [State.keeps_mk] | dsimp only)

/-! ### Scalar -/

theorem intOp_keeps {b0 : State} (c : BitVec 8) (t : BitVec 3) (i : SFmt) {s : State} (f : Word → Word → Word) (h_s : b0.Keeps s) : b0.OKeeps (intOp c t i s f) := by
  unfold intOp
  with_reducible repeat' (first | assumption | apply scalarOp_keeps | dsimp only | exact True.intro | intro _)

theorem execAdd_keeps {b0 : State} (c : BitVec 8) (t : BitVec 3) (i : SFmt) {s : State} (h_s : b0.Keeps s) : b0.OKeeps (execAdd c t i s) := by
  unfold execAdd
  with_reducible repeat' (first | assumption | apply intOp_keeps | dsimp only | exact True.intro | intro _)

theorem execSub_keeps {b0 : State} (c : BitVec 8) (t : BitVec 3) (i : SFmt) {s : State} (h_s : b0.Keeps s) : b0.OKeeps (execSub c t i s) := by
  unfold execSub
  with_reducible repeat' (first | assumption | apply intOp_keeps | dsimp only | exact True.intro | intro _)

theorem execMul_keeps {b0 : State} (c : BitVec 8) (t : BitVec 3) (i : SFmt) {s : State} (h_s : b0.Keeps s) : b0.OKeeps (execMul c t i s) := by
  unfold execMul
  with_reducible repeat' (first | assumption | apply intOp_keeps | dsimp only | exact True.intro | intro _)

theorem execMulhu_keeps {b0 : State} (c : BitVec 8) (t : BitVec 3) (i : SFmt) {s : State} (h_s : b0.Keeps s) : b0.OKeeps (execMulhu c t i s) := by
  unfold execMulhu
  with_reducible repeat' (first | assumption | apply intOp_keeps | dsimp only | exact True.intro | intro _)

theorem execMulhs_keeps {b0 : State} (c : BitVec 8) (t : BitVec 3) (i : SFmt) {s : State} (h_s : b0.Keeps s) : b0.OKeeps (execMulhs c t i s) := by
  unfold execMulhs
  with_reducible repeat' (first | assumption | apply intOp_keeps | dsimp only | exact True.intro | intro _)

theorem execAndI_keeps {b0 : State} (c : BitVec 8) (t : BitVec 3) (i : SFmt) {s : State} (h_s : b0.Keeps s) : b0.OKeeps (execAndI c t i s) := by
  unfold execAndI
  with_reducible repeat' (first | assumption | apply intOp_keeps | dsimp only | exact True.intro | intro _)

theorem execOrI_keeps {b0 : State} (c : BitVec 8) (t : BitVec 3) (i : SFmt) {s : State} (h_s : b0.Keeps s) : b0.OKeeps (execOrI c t i s) := by
  unfold execOrI
  with_reducible repeat' (first | assumption | apply intOp_keeps | split | dsimp only | exact True.intro | intro _)

theorem execXor_keeps {b0 : State} (c : BitVec 8) (t : BitVec 3) (i : SFmt) {s : State} (h_s : b0.Keeps s) : b0.OKeeps (execXor c t i s) := by
  unfold execXor
  with_reducible repeat' (first | assumption | apply intOp_keeps | dsimp only | exact True.intro | intro _)

theorem execSll_keeps {b0 : State} (c : BitVec 8) (t : BitVec 3) (i : SFmt) {s : State} (h_s : b0.Keeps s) : b0.OKeeps (execSll c t i s) := by
  unfold execSll
  with_reducible repeat' (first | assumption | apply intOp_keeps | dsimp only | exact True.intro | intro _)

theorem execSrl_keeps {b0 : State} (c : BitVec 8) (t : BitVec 3) (i : SFmt) {s : State} (h_s : b0.Keeps s) : b0.OKeeps (execSrl c t i s) := by
  unfold execSrl
  with_reducible repeat' (first | assumption | apply intOp_keeps | dsimp only | exact True.intro | intro _)

theorem execSra_keeps {b0 : State} (c : BitVec 8) (t : BitVec 3) (i : SFmt) {s : State} (h_s : b0.Keeps s) : b0.OKeeps (execSra c t i s) := by
  unfold execSra
  with_reducible repeat' (first | assumption | apply intOp_keeps | dsimp only | exact True.intro | intro _)

theorem execMin_keeps {b0 : State} (c : BitVec 8) (t : BitVec 3) (i : SFmt) {s : State} (h_s : b0.Keeps s) : b0.OKeeps (execMin c t i s) := by
  unfold execMin
  with_reducible repeat' (first | assumption | apply intOp_keeps | split | dsimp only | exact True.intro | intro _)

theorem execMax_keeps {b0 : State} (c : BitVec 8) (t : BitVec 3) (i : SFmt) {s : State} (h_s : b0.Keeps s) : b0.OKeeps (execMax c t i s) := by
  unfold execMax
  with_reducible repeat' (first | assumption | apply intOp_keeps | split | dsimp only | exact True.intro | intro _)

theorem execMinu_keeps {b0 : State} (c : BitVec 8) (t : BitVec 3) (i : SFmt) {s : State} (h_s : b0.Keeps s) : b0.OKeeps (execMinu c t i s) := by
  unfold execMinu
  with_reducible repeat' (first | assumption | apply intOp_keeps | split | dsimp only | exact True.intro | intro _)

theorem execMaxu_keeps {b0 : State} (c : BitVec 8) (t : BitVec 3) (i : SFmt) {s : State} (h_s : b0.Keeps s) : b0.OKeeps (execMaxu c t i s) := by
  unfold execMaxu
  with_reducible repeat' (first | assumption | apply intOp_keeps | split | dsimp only | exact True.intro | intro _)

theorem execSeq_keeps {b0 : State} (c : BitVec 8) (t : BitVec 3) (i : SFmt) {s : State} (h_s : b0.Keeps s) : b0.OKeeps (execSeq c t i s) := by
  unfold execSeq
  with_reducible repeat' (first | assumption | apply intOp_keeps | split | dsimp only | exact True.intro | intro _)

theorem execSlt_keeps {b0 : State} (c : BitVec 8) (t : BitVec 3) (i : SFmt) {s : State} (h_s : b0.Keeps s) : b0.OKeeps (execSlt c t i s) := by
  unfold execSlt
  with_reducible repeat' (first | assumption | apply intOp_keeps | split | dsimp only | exact True.intro | intro _)

theorem execSltu_keeps {b0 : State} (c : BitVec 8) (t : BitVec 3) (i : SFmt) {s : State} (h_s : b0.Keeps s) : b0.OKeeps (execSltu c t i s) := by
  unfold execSltu
  with_reducible repeat' (first | assumption | apply intOp_keeps | split | dsimp only | exact True.intro | intro _)

theorem execDivu_keeps {b0 : State} (c : BitVec 8) (t : BitVec 3) (i : SFmt) {s : State} (h_s : b0.Keeps s) : b0.OKeeps (execDivu c t i s) := by
  unfold execDivu
  with_reducible repeat' (first | assumption | apply intOp_keeps | split | dsimp only | exact True.intro | intro _)

theorem execRemu_keeps {b0 : State} (c : BitVec 8) (t : BitVec 3) (i : SFmt) {s : State} (h_s : b0.Keeps s) : b0.OKeeps (execRemu c t i s) := by
  unfold execRemu
  with_reducible repeat' (first | assumption | apply intOp_keeps | split | dsimp only | exact True.intro | intro _)

theorem fpOp_keeps {b0 : State} (c : BitVec 8) (t : BitVec 3) (i : SFmt) {s : State} (f : Rm → Nat → Nat → Nat × Nat) (h_s : b0.Keeps s) : b0.OKeeps (fpOp c t i s f) := by
  unfold fpOp
  with_reducible repeat' (first | assumption | apply scalarOp_keeps | dsimp only | exact True.intro | intro _)

theorem execFadd_keeps {b0 : State} (c : BitVec 8) (t : BitVec 3) (i : SFmt) {s : State} (h_s : b0.Keeps s) : b0.OKeeps (execFadd c t i s) := by
  unfold execFadd
  with_reducible repeat' (first | assumption | apply fpOp_keeps | dsimp only | exact True.intro | intro _)

theorem execFsub_keeps {b0 : State} (c : BitVec 8) (t : BitVec 3) (i : SFmt) {s : State} (h_s : b0.Keeps s) : b0.OKeeps (execFsub c t i s) := by
  unfold execFsub
  with_reducible repeat' (first | assumption | apply fpOp_keeps | dsimp only | exact True.intro | intro _)

theorem execFmul_keeps {b0 : State} (c : BitVec 8) (t : BitVec 3) (i : SFmt) {s : State} (h_s : b0.Keeps s) : b0.OKeeps (execFmul c t i s) := by
  unfold execFmul
  with_reducible repeat' (first | assumption | apply fpOp_keeps | dsimp only | exact True.intro | intro _)

theorem execFma_keeps {b0 : State} (c : BitVec 8) (t : BitVec 3) (i : SFmt) {s : State} (h_s : b0.Keeps s) : b0.OKeeps (execFma c t i s) := by
  unfold execFma
  with_reducible repeat' (first | assumption | apply scalarOp_keeps | dsimp only | exact True.intro | intro _)

theorem execFdiv_keeps {b0 : State} (c : BitVec 8) (t : BitVec 3) (i : SFmt) {s : State} (h_s : b0.Keeps s) : b0.OKeeps (execFdiv c t i s) := by
  unfold execFdiv
  with_reducible repeat' (first | assumption | apply fpOp_keeps | dsimp only | exact True.intro | intro _)

theorem execFsqrt_keeps {b0 : State} (c : BitVec 8) (t : BitVec 3) (i : SFmt) {s : State} (h_s : b0.Keeps s) : b0.OKeeps (execFsqrt c t i s) := by
  unfold execFsqrt
  with_reducible repeat' (first | assumption | apply fpOp_keeps | dsimp only | exact True.intro | intro _)

theorem execFmin_keeps {b0 : State} (c : BitVec 8) (t : BitVec 3) (i : SFmt) {s : State} (h_s : b0.Keeps s) : b0.OKeeps (execFmin c t i s) := by
  unfold execFmin
  with_reducible repeat' (first | assumption | apply fpOp_keeps | dsimp only | exact True.intro | intro _)

theorem execFmax_keeps {b0 : State} (c : BitVec 8) (t : BitVec 3) (i : SFmt) {s : State} (h_s : b0.Keeps s) : b0.OKeeps (execFmax c t i s) := by
  unfold execFmax
  with_reducible repeat' (first | assumption | apply fpOp_keeps | dsimp only | exact True.intro | intro _)

theorem execFeq_keeps {b0 : State} (c : BitVec 8) (t : BitVec 3) (i : SFmt) {s : State} (h_s : b0.Keeps s) : b0.OKeeps (execFeq c t i s) := by
  unfold execFeq
  with_reducible repeat' (first | assumption | apply scalarOp_keeps | dsimp only | exact True.intro | intro _)

theorem execFlt_keeps {b0 : State} (c : BitVec 8) (t : BitVec 3) (i : SFmt) {s : State} (h_s : b0.Keeps s) : b0.OKeeps (execFlt c t i s) := by
  unfold execFlt
  with_reducible repeat' (first | assumption | apply scalarOp_keeps | dsimp only | exact True.intro | intro _)

theorem execFle_keeps {b0 : State} (c : BitVec 8) (t : BitVec 3) (i : SFmt) {s : State} (h_s : b0.Keeps s) : b0.OKeeps (execFle c t i s) := by
  unfold execFle
  with_reducible repeat' (first | assumption | apply scalarOp_keeps | dsimp only | exact True.intro | intro _)

theorem execFcvtI_keeps {b0 : State} (c : BitVec 8) (t : BitVec 3) (i : SFmt) {s : State} (h_s : b0.Keeps s) : b0.OKeeps (execFcvtI c t i s) := by
  unfold execFcvtI
  with_reducible repeat' (first | assumption | apply scalarOp_keeps | dsimp only | exact True.intro | intro _)

theorem execFcvtF_keeps {b0 : State} (c : BitVec 8) (t : BitVec 3) (i : SFmt) {s : State} (h_s : b0.Keeps s) : b0.OKeeps (execFcvtF c t i s) := by
  unfold execFcvtF
  with_reducible repeat' (first | assumption | apply scalarOp_keeps | dsimp only | exact True.intro | intro _)

theorem execFabs_keeps {b0 : State} (c : BitVec 8) (t : BitVec 3) (i : SFmt) {s : State} (h_s : b0.Keeps s) : b0.OKeeps (execFabs c t i s) := by
  unfold execFabs
  with_reducible repeat' (first | assumption | apply scalarOp_keeps | dsimp only | exact True.intro | intro _)

theorem execFneg_keeps {b0 : State} (c : BitVec 8) (t : BitVec 3) (i : SFmt) {s : State} (h_s : b0.Keeps s) : b0.OKeeps (execFneg c t i s) := by
  unfold execFneg
  with_reducible repeat' (first | assumption | apply scalarOp_keeps | dsimp only | exact True.intro | intro _)

theorem execFrm_keeps {b0 : State} (c : BitVec 8) (t : BitVec 3) (i : SFmt) {s : State} (h_s : b0.Keeps s) : b0.OKeeps (execFrm c t i s) := by
  unfold execFrm
  with_reducible repeat' (first | assumption | apply State.setThr_keeps | apply issueS_keeps | simp only [State.keeps_mk] | dsimp only | exact True.intro | intro _)

theorem branchOp_keeps {b0 : State} (c : BitVec 8) (t : BitVec 3) (i : SFmt) {s : State} (f : Word → Word → Bool) (h_s : b0.Keeps s) : b0.OKeeps (branchOp c t i s f) := by
  unfold branchOp
  with_reducible repeat' (first | assumption | apply State.setThr_keeps | apply issueS_keeps | simp only [State.keeps_mk] | dsimp only | exact True.intro | intro _)

theorem execBr_keeps {b0 : State} (c : BitVec 8) (t : BitVec 3) (i : SFmt) {s : State} (h_s : b0.Keeps s) : b0.OKeeps (execBr c t i s) := by
  unfold execBr
  with_reducible repeat' (first | assumption | apply branchOp_keeps | dsimp only | exact True.intro | intro _)

theorem execBz_keeps {b0 : State} (c : BitVec 8) (t : BitVec 3) (i : SFmt) {s : State} (h_s : b0.Keeps s) : b0.OKeeps (execBz c t i s) := by
  unfold execBz
  with_reducible repeat' (first | assumption | apply branchOp_keeps | dsimp only | exact True.intro | intro _)

theorem execBnz_keeps {b0 : State} (c : BitVec 8) (t : BitVec 3) (i : SFmt) {s : State} (h_s : b0.Keeps s) : b0.OKeeps (execBnz c t i s) := by
  unfold execBnz
  with_reducible repeat' (first | assumption | apply branchOp_keeps | dsimp only | exact True.intro | intro _)

theorem execBlt_keeps {b0 : State} (c : BitVec 8) (t : BitVec 3) (i : SFmt) {s : State} (h_s : b0.Keeps s) : b0.OKeeps (execBlt c t i s) := by
  unfold execBlt
  with_reducible repeat' (first | assumption | apply branchOp_keeps | dsimp only | exact True.intro | intro _)

theorem execBge_keeps {b0 : State} (c : BitVec 8) (t : BitVec 3) (i : SFmt) {s : State} (h_s : b0.Keeps s) : b0.OKeeps (execBge c t i s) := by
  unfold execBge
  with_reducible repeat' (first | assumption | apply branchOp_keeps | dsimp only | exact True.intro | intro _)

theorem execCall_keeps {b0 : State} (c : BitVec 8) (t : BitVec 3) (i : SFmt) {s : State} (h_s : b0.Keeps s) : b0.OKeeps (execCall c t i s) := by
  unfold execCall
  with_reducible repeat' (first | assumption | apply State.setThr_keeps | apply issueS_keeps | simp only [State.keeps_mk] | dsimp only | exact True.intro | intro _)

theorem execJr_keeps {b0 : State} (c : BitVec 8) (t : BitVec 3) (i : SFmt) {s : State} (h_s : b0.Keeps s) : b0.OKeeps (execJr c t i s) := by
  unfold execJr
  with_reducible repeat' (first | assumption | apply State.setThr_keeps | apply issueS_keeps | simp only [State.keeps_mk] | dsimp only | exact True.intro | intro _)

theorem State.spadCe_keeps {b0 : State} {s : State} (c : Nat) (a : Nat) (h_s : b0.Keeps s) : b0.Keeps (State.spadCe s c a) := by
  unfold State.spadCe
  with_reducible repeat' (first | assumption | apply State.setF_keeps | apply State.addSat_keeps | dsimp only)

theorem State.spadEcc_keeps {b0 : State} {s : State} (c : Nat) (a : Nat) (e : Ecc) (h_s : b0.Keeps s) : b0.Keeps (State.spadEcc s c a e) := by
  unfold State.spadEcc
  with_reducible repeat' (first | assumption | apply State.spadCe_keeps | refine State.keeps_foldl _ (fun _ _ _ => ?_) _ _ ?_ | dsimp only | exact True.intro | intro _)

theorem ldsOp_keeps {b0 : State} (c : BitVec 8) (t : BitVec 3) (i : SFmt) (e : Ecc) (n : Nat) (sgn : Bool) {s : State} (h_s : b0.Keeps s) : b0.OKeeps (ldsOp c t i e n sgn s) := by
  unfold ldsOp
  with_reducible repeat' (first | assumption | apply State.setThr_keeps | apply State.clusterFault_keeps | apply State.haltError_keeps | apply issueS_keeps | apply State.spadEcc_keeps | split | dsimp only | exact True.intro | intro _)

theorem execLdsB_keeps {b0 : State} (c : BitVec 8) (t : BitVec 3) (i : SFmt) (e : Ecc) {s : State} (h_s : b0.Keeps s) : b0.OKeeps (execLdsB c t i e s) := by
  unfold execLdsB
  with_reducible repeat' (first | assumption | apply ldsOp_keeps | dsimp only)

theorem execLdsH_keeps {b0 : State} (c : BitVec 8) (t : BitVec 3) (i : SFmt) (e : Ecc) {s : State} (h_s : b0.Keeps s) : b0.OKeeps (execLdsH c t i e s) := by
  unfold execLdsH
  with_reducible repeat' (first | assumption | apply ldsOp_keeps | dsimp only)

theorem execLdsW_keeps {b0 : State} (c : BitVec 8) (t : BitVec 3) (i : SFmt) (e : Ecc) {s : State} (h_s : b0.Keeps s) : b0.OKeeps (execLdsW c t i e s) := by
  unfold execLdsW
  with_reducible repeat' (first | assumption | apply ldsOp_keeps | dsimp only)

theorem execLdsD_keeps {b0 : State} (c : BitVec 8) (t : BitVec 3) (i : SFmt) (e : Ecc) {s : State} (h_s : b0.Keeps s) : b0.OKeeps (execLdsD c t i e s) := by
  unfold execLdsD
  with_reducible repeat' (first | assumption | apply ldsOp_keeps | dsimp only)

theorem execLdsBs_keeps {b0 : State} (c : BitVec 8) (t : BitVec 3) (i : SFmt) (e : Ecc) {s : State} (h_s : b0.Keeps s) : b0.OKeeps (execLdsBs c t i e s) := by
  unfold execLdsBs
  with_reducible repeat' (first | assumption | apply ldsOp_keeps | dsimp only)

theorem execLdsHs_keeps {b0 : State} (c : BitVec 8) (t : BitVec 3) (i : SFmt) (e : Ecc) {s : State} (h_s : b0.Keeps s) : b0.OKeeps (execLdsHs c t i e s) := by
  unfold execLdsHs
  with_reducible repeat' (first | assumption | apply ldsOp_keeps | dsimp only)

theorem execLdsWs_keeps {b0 : State} (c : BitVec 8) (t : BitVec 3) (i : SFmt) (e : Ecc) {s : State} (h_s : b0.Keeps s) : b0.OKeeps (execLdsWs c t i e s) := by
  unfold execLdsWs
  with_reducible repeat' (first | assumption | apply ldsOp_keeps | dsimp only)

theorem stsOp_keeps {b0 : State} (c : BitVec 8) (t : BitVec 3) (i : SFmt) (n : Nat) {s : State} (h_s : b0.Keeps s) : b0.OKeeps (stsOp c t i n s) := by
  unfold stsOp
  with_reducible repeat' (first | assumption | apply State.setThr_keeps | apply State.spadWrite_keeps | apply State.haltError_keeps | apply issueS_keeps | split | dsimp only | exact True.intro | intro _)

theorem execStsB_keeps {b0 : State} (c : BitVec 8) (t : BitVec 3) (i : SFmt) {s : State} (h_s : b0.Keeps s) : b0.OKeeps (execStsB c t i s) := by
  unfold execStsB
  with_reducible repeat' (first | assumption | apply stsOp_keeps | dsimp only)

theorem execStsH_keeps {b0 : State} (c : BitVec 8) (t : BitVec 3) (i : SFmt) {s : State} (h_s : b0.Keeps s) : b0.OKeeps (execStsH c t i s) := by
  unfold execStsH
  with_reducible repeat' (first | assumption | apply stsOp_keeps | dsimp only)

theorem execStsW_keeps {b0 : State} (c : BitVec 8) (t : BitVec 3) (i : SFmt) {s : State} (h_s : b0.Keeps s) : b0.OKeeps (execStsW c t i s) := by
  unfold execStsW
  with_reducible repeat' (first | assumption | apply stsOp_keeps | dsimp only)

theorem execStsD_keeps {b0 : State} (c : BitVec 8) (t : BitVec 3) (i : SFmt) {s : State} (h_s : b0.Keeps s) : b0.OKeeps (execStsD c t i s) := by
  unfold execStsD
  with_reducible repeat' (first | assumption | apply stsOp_keeps | dsimp only)

theorem remoteOp_keeps {b0 : State} (c : BitVec 8) (t : BitVec 3) (i : SFmt) {s : State} (f : Thread → Access1) (fetch : Bool) (h_s : b0.Keeps s) : b0.OKeeps (remoteOp c t i s f fetch) := by
  unfold remoteOp
  with_reducible repeat' (first | assumption | apply issueS_keeps | apply State.scalarRemote_keeps | split | dsimp only | exact True.intro | intro _)

theorem execLdg_keeps {b0 : State} (c : BitVec 8) (t : BitVec 3) (i : SFmt) {s : State} (h_s : b0.Keeps s) : b0.OKeeps (execLdg c t i s) := by
  unfold execLdg
  with_reducible repeat' (first | assumption | apply remoteOp_keeps | dsimp only | exact True.intro | intro _)

theorem execStg_keeps {b0 : State} (c : BitVec 8) (t : BitVec 3) (i : SFmt) {s : State} (h_s : b0.Keeps s) : b0.OKeeps (execStg c t i s) := by
  unfold execStg
  with_reducible repeat' (first | assumption | apply remoteOp_keeps | dsimp only | exact True.intro | intro _)

theorem atomicOp_keeps {b0 : State} (c : BitVec 8) (t : BitVec 3) (i : SFmt) {s : State} (op : Nat) (fetch : Bool) (h_s : b0.Keeps s) : b0.OKeeps (atomicOp c t i s op fetch) := by
  unfold atomicOp
  with_reducible repeat' (first | assumption | apply remoteOp_keeps | dsimp only | exact True.intro | intro _)

theorem execAadd_keeps {b0 : State} (c : BitVec 8) (t : BitVec 3) (i : SFmt) {s : State} (h_s : b0.Keeps s) : b0.OKeeps (execAadd c t i s) := by
  unfold execAadd
  with_reducible repeat' (first | assumption | apply atomicOp_keeps | dsimp only)

theorem execAaddn_keeps {b0 : State} (c : BitVec 8) (t : BitVec 3) (i : SFmt) {s : State} (h_s : b0.Keeps s) : b0.OKeeps (execAaddn c t i s) := by
  unfold execAaddn
  with_reducible repeat' (first | assumption | apply atomicOp_keeps | dsimp only)

theorem execAmin_keeps {b0 : State} (c : BitVec 8) (t : BitVec 3) (i : SFmt) {s : State} (h_s : b0.Keeps s) : b0.OKeeps (execAmin c t i s) := by
  unfold execAmin
  with_reducible repeat' (first | assumption | apply atomicOp_keeps | dsimp only)

theorem execAminn_keeps {b0 : State} (c : BitVec 8) (t : BitVec 3) (i : SFmt) {s : State} (h_s : b0.Keeps s) : b0.OKeeps (execAminn c t i s) := by
  unfold execAminn
  with_reducible repeat' (first | assumption | apply atomicOp_keeps | dsimp only)

theorem execAmax_keeps {b0 : State} (c : BitVec 8) (t : BitVec 3) (i : SFmt) {s : State} (h_s : b0.Keeps s) : b0.OKeeps (execAmax c t i s) := by
  unfold execAmax
  with_reducible repeat' (first | assumption | apply atomicOp_keeps | dsimp only)

theorem execAmaxn_keeps {b0 : State} (c : BitVec 8) (t : BitVec 3) (i : SFmt) {s : State} (h_s : b0.Keeps s) : b0.OKeeps (execAmaxn c t i s) := by
  unfold execAmaxn
  with_reducible repeat' (first | assumption | apply atomicOp_keeps | dsimp only)

theorem execAcas_keeps {b0 : State} (c : BitVec 8) (t : BitVec 3) (i : SFmt) {s : State} (h_s : b0.Keeps s) : b0.OKeeps (execAcas c t i s) := by
  unfold execAcas
  with_reducible repeat' (first | assumption | apply remoteOp_keeps | dsimp only | exact True.intro | intro _)

theorem execAfmin_keeps {b0 : State} (c : BitVec 8) (t : BitVec 3) (i : SFmt) {s : State} (h_s : b0.Keeps s) : b0.OKeeps (execAfmin c t i s) := by
  unfold execAfmin
  with_reducible repeat' (first | assumption | apply atomicOp_keeps | dsimp only)

theorem execAfmax_keeps {b0 : State} (c : BitVec 8) (t : BitVec 3) (i : SFmt) {s : State} (h_s : b0.Keeps s) : b0.OKeeps (execAfmax c t i s) := by
  unfold execAfmax
  with_reducible repeat' (first | assumption | apply atomicOp_keeps | dsimp only)

theorem execAfadd_keeps {b0 : State} (c : BitVec 8) (t : BitVec 3) (i : SFmt) {s : State} (h_s : b0.Keeps s) : b0.OKeeps (execAfadd c t i s) := by
  unfold execAfadd
  with_reducible repeat' (first | assumption | apply remoteOp_keeps | dsimp only | exact True.intro | intro _)

theorem execFence_keeps {b0 : State} (c : BitVec 8) (t : BitVec 3) (i : SFmt) {s : State} (h_s : b0.Keeps s) : b0.OKeeps (execFence c t i s) := by
  unfold execFence
  with_reducible repeat' (first | assumption | apply State.beginWait_keeps | apply State.closeEpoch_keeps | apply State.haltError_keeps | apply issueS_keeps | split | dsimp only | exact True.intro | intro _)

theorem State.mergeIstore_keeps {b0 s : State} (c : Nat) (h_s : b0.Keeps s) : b0.Keeps (State.mergeIstore s c) := by
  unfold State.mergeIstore
  exact State.keeps_istore (State.setClu_keeps _ _ h_s) (fun w => spWf_foldl_put _ _ _ _ w)

theorem execIfence_keeps {b0 : State} (c : BitVec 8) (t : BitVec 3) (i : SFmt) {s : State} (h_s : b0.Keeps s) : b0.OKeeps (execIfence c t i s) := by
  unfold execIfence
  with_reducible repeat' (first | assumption | apply State.setThr_keeps | apply issueS_keeps | apply State.mergeIstore_keeps | dsimp only | exact True.intro | intro _)

theorem execYield_keeps {b0 : State} (c : BitVec 8) (t : BitVec 3) (i : SFmt) {s : State} (h_s : b0.Keeps s) : b0.OKeeps (execYield c t i s) := by
  unfold execYield
  with_reducible repeat' (first | assumption | apply State.setThr_keeps | apply State.setClu_keeps | apply issueS_keeps | simp only [State.keeps_mk] | dsimp only | exact True.intro | intro _)

theorem execWaitc_keeps {b0 : State} (c : BitVec 8) (t : BitVec 3) (i : SFmt) {s : State} (h_s : b0.Keeps s) : b0.OKeeps (execWaitc c t i s) := by
  unfold execWaitc
  with_reducible repeat' (first | assumption | apply State.setThr_keeps | apply State.beginWait_keeps | apply State.haltError_keeps | apply issueS_keeps | split | dsimp only | exact True.intro | intro _)

theorem execWaitm_keeps {b0 : State} (c : BitVec 8) (t : BitVec 3) (i : SFmt) {s : State} (h_s : b0.Keeps s) : b0.OKeeps (execWaitm c t i s) := by
  unfold execWaitm
  with_reducible repeat' (first | assumption | apply State.setThr_keeps | apply State.beginWait_keeps | apply State.haltError_keeps | apply issueS_keeps | split | dsimp only | exact True.intro | intro _)

theorem execTstart_keeps {b0 : State} (c : BitVec 8) (t : BitVec 3) (i : SFmt) {s : State} (h_s : b0.Keeps s) : b0.OKeeps (execTstart c t i s) := by
  unfold execTstart
  with_reducible repeat' (first | assumption | apply State.setThr_keeps | apply issueS_keeps | apply State.startThread_keeps | split | dsimp only | exact True.intro | intro _)

theorem execHalt_keeps {b0 : State} (c : BitVec 8) (t : BitVec 3) (i : SFmt) {s : State} (h_s : b0.Keeps s) : b0.OKeeps (execHalt c t i s) := by
  unfold execHalt
  with_reducible repeat' (first | assumption | apply State.haltThread_keeps | apply issueS_keeps | dsimp only | exact True.intro | intro _)

theorem execCsrr_keeps {b0 : State} (c : BitVec 8) (t : BitVec 3) (i : SFmt) {s : State} (h_s : b0.Keeps s) : b0.OKeeps (execCsrr c t i s) := by
  unfold execCsrr
  with_reducible repeat' (first | assumption | apply State.setErr_keeps | apply State.setThr_keeps | apply issueS_keeps | split | dsimp only | exact True.intro | intro _)

theorem execTick_keeps {b0 : State} (c : BitVec 8) (t : BitVec 3) (i : SFmt) {s : State} (h_s : b0.Keeps s) : b0.OKeeps (execTick c t i s) := by
  unfold execTick
  with_reducible repeat' (first | assumption | apply State.setThr_keeps | apply issueS_keeps | dsimp only | exact True.intro | intro _)

theorem execFlags_keeps {b0 : State} (c : BitVec 8) (t : BitVec 3) (i : SFmt) {s : State} (h_s : b0.Keeps s) : b0.OKeeps (execFlags c t i s) := by
  unfold execFlags
  with_reducible repeat' (first | assumption | apply State.setThr_keeps | apply issueS_keeps | dsimp only | exact True.intro | intro _)

theorem execMclaim_keeps {b0 : State} (c : BitVec 8) (t : BitVec 3) (i : SFmt) {s : State} (h_s : b0.Keeps s) : b0.OKeeps (execMclaim c t i s) := by
  unfold execMclaim
  with_reducible repeat' (first | assumption | apply State.setThr_keeps | apply State.setClu_keeps | apply State.beginWait_keeps | apply issueS_keeps | split | simp only [State.keeps_mk] | dsimp only | refine State.keeps_snd (by assumption) ?_ | refine State.keeps_fst (by assumption) ?_ | exact True.intro | intro _)

theorem execMrel_keeps {b0 : State} (c : BitVec 8) (t : BitVec 3) (i : SFmt) {s : State} (h_s : b0.Keeps s) : b0.OKeeps (execMrel c t i s) := by
  unfold execMrel
  with_reducible repeat' (first | assumption | apply State.setThr_keeps | apply State.releaseMtx_keeps | apply State.beginWait_keeps | apply State.haltError_keeps | apply issueS_keeps | split | dsimp only | exact True.intro | intro _)

theorem execTqclaim_keeps {b0 : State} (c : BitVec 8) (t : BitVec 3) (i : SFmt) {s : State} (h_s : b0.Keeps s) : b0.OKeeps (execTqclaim c t i s) := by
  unfold execTqclaim
  with_reducible repeat' (first | assumption | apply State.setThr_keeps | apply State.setClu_keeps | apply State.beginWait_keeps | apply issueS_keeps | split | simp only [State.keeps_mk] | dsimp only | refine State.keeps_snd (by assumption) ?_ | refine State.keeps_fst (by assumption) ?_ | exact True.intro | intro _)

theorem execTqrel_keeps {b0 : State} (c : BitVec 8) (t : BitVec 3) (i : SFmt) {s : State} (h_s : b0.Keeps s) : b0.OKeeps (execTqrel c t i s) := by
  unfold execTqrel
  with_reducible repeat' (first | assumption | apply State.setThr_keeps | apply State.releaseTq_keeps | apply State.haltError_keeps | apply issueS_keeps | split | dsimp only | exact True.intro | intro _)

theorem execMvgo_keeps {b0 : State} (c : BitVec 8) (t : BitVec 3) (i : SFmt) {s : State} (h_s : b0.Keeps s) : b0.OKeeps (execMvgo c t i s) := by
  unfold execMvgo
  with_reducible repeat' (first | assumption | apply State.setThr_keeps | apply State.beginWait_keeps | apply State.pushMover_keeps | apply State.haltError_keeps | apply issueS_keeps | split | dsimp only | exact True.intro | intro _)

theorem State.withTq_keeps {b0 : State} {s : State} (c : Nat) (t : Nat) {f : Cluster → State} (h_s : b0.Keeps s) (h_f : ∀ (y0 : Cluster), True → b0.Keeps (f y0)) : b0.Keeps (State.withTq s c t f) := by
  unfold State.withTq
  with_reducible repeat' (first | assumption | apply h_f | apply State.haltError_keeps | split | dsimp only | exact True.intro | intro _)

theorem execTqwait_keeps {b0 : State} (c : BitVec 8) (t : BitVec 3) (i : SFmt) {s : State} (h_s : b0.Keeps s) : b0.OKeeps (execTqwait c t i s) := by
  unfold execTqwait
  with_reducible repeat' (first | assumption | apply State.setThr_keeps | apply State.beginWait_keeps | apply issueS_keeps | apply State.withTq_keeps | split | dsimp only | refine State.keeps_snd (by assumption) ?_ | refine State.keeps_fst (by assumption) ?_ | exact True.intro | intro _)

theorem execTqpop_keeps {b0 : State} (c : BitVec 8) (t : BitVec 3) (i : SFmt) {s : State} (h_s : b0.Keeps s) : b0.OKeeps (execTqpop c t i s) := by
  unfold execTqpop
  with_reducible repeat' (first | assumption | apply State.setThr_keeps | apply State.setClu_keeps | apply State.haltError_keeps | apply issueS_keeps | apply State.withTq_keeps | split | simp only [State.keeps_mk] | dsimp only | refine State.keeps_snd (by assumption) ?_ | refine State.keeps_fst (by assumption) ?_ | exact True.intro | intro _)

theorem execTqld_keeps {b0 : State} (c : BitVec 8) (t : BitVec 3) (i : VFmt) (e : Ecc) {s : State} (h_s : b0.Keeps s) : b0.OKeeps (execTqld c t i e s) := by
  unfold execTqld
  with_reducible repeat' (first | assumption | apply State.addSat_keeps | apply State.setThr_keeps | apply State.clusterFault_keeps | apply State.haltError_keeps | apply issueV_keeps | apply State.withTq_keeps | refine State.keeps_foldl _ (fun _ _ _ => ?_) _ _ ?_ | split | simp only [State.keeps_mk] | dsimp only | refine State.keeps_snd (by assumption) ?_ | refine State.keeps_fst (by assumption) ?_ | exact True.intro | intro _)

end Sys2Proof.Machine
end

