-- ==== Sys2Proof/Laws/KeepsVector.lean ====
section
/-! SUPPORT. What ECC outcomes, digests and vector instructions keep. -/

namespace Sys2Proof.Machine

set_option linter.unusedVariables false
set_option linter.unusedSimpArgs false
set_option maxRecDepth 4000

/-! ### SporeCore -/

theorem State.setSp_keeps {b0 : State} {s : State} (j : Nat) (x : SporeSlot) (h_s : b0.Keeps s) : b0.Keeps (State.setSp s j x) := by
  unfold State.setSp
  with_reducible repeat' (first | assumption | simp only [State.keeps_mk] | dsimp only)

theorem State.setJobX_keeps {b0 : State} {s : State} (j : Nat) (x : JobX) (h_s : b0.Keeps s) : b0.Keeps (State.setJobX s j x) := by
  unfold State.setJobX
  with_reducible repeat' (first | assumption | simp only [State.keeps_mk] | dsimp only)

theorem State.sporeCell_keeps {b0 : State} {s : State} (j : Nat) (rank : Nat) (off : Nat) (bs : List Byte) (h_s : b0.Keeps s) : b0.Keeps (State.sporeCell s j rank off bs) := by
  unfold State.sporeCell
  with_reducible repeat' (first | assumption | apply State.sendAccess_keeps | split | dsimp only | refine State.keeps_snd (by assumption) ?_ | refine State.keeps_fst (by assumption) ?_)

theorem State.sporeNext_keeps {b0 s t : State} {j : Nat} (e : s.sporeNext j = some t) (h : b0.Keeps s) : b0.Keeps t := by
  unfold State.sporeNext at e; dsimp only at e
  repeat' (first | contradiction | split at e)
  all_goals cases e
  all_goals repeat' (first | with_reducible assumption | with_reducible apply State.sporeCell_keeps | with_reducible apply State.setSp_keeps)

theorem State.sporeFlush_keeps {b0 : State} (j : Nat) : ∀ (n : Nat) {s : State}, b0.Keeps s → b0.Keeps (State.sporeFlush s j n)
  | 0, _, h => h
  | n + 1, s, h => by
    unfold State.sporeFlush
    split
    · exact h
    · exact State.sporeFlush_keeps j n (State.sporeNext_keeps (by assumption) h)

theorem State.sporeSend_keeps {b0 : State} {s : State} (j : Nat) (rank : Nat) (off : Nat) (m : SporeMsg) (h_s : b0.Keeps s) : b0.Keeps (State.sporeSend s j rank off m) := by
  unfold State.sporeSend
  with_reducible repeat' (first | assumption | apply State.setSp_keeps | apply State.sporeFlush_keeps | simp only [State.keeps_mk] | dsimp only)

theorem State.sendUp_keeps {b0 : State} {s : State} (j : Nat) (m : SporeMsg) (h_s : b0.Keeps s) : b0.Keeps (State.sendUp s j m) := by
  unfold State.sendUp
  with_reducible repeat' (first | assumption | apply State.sporeSend_keeps | split | dsimp only)

theorem State.sendDown_keeps {b0 : State} {s : State} (j : Nat) (m : SporeMsg) (h_s : b0.Keeps s) : b0.Keeps (State.sendDown s j m) := by
  unfold State.sendDown
  with_reducible repeat' (first | assumption | apply State.sporeSend_keeps | refine State.keeps_foldl _ (fun _ _ _ => ?_) _ _ ?_ | dsimp only | exact True.intro | intro _)

theorem State.rootAccept_keeps {b0 : State} {s : State} (j : Nat) (h_s : b0.Keeps s) : b0.Keeps (State.rootAccept s j) := by
  unfold State.rootAccept
  with_reducible repeat' (first | assumption | apply State.setSp_keeps | split | simp only [State.keeps_mk] | dsimp only)

theorem State.raiseRequest_keeps {b0 : State} {s : State} (j : Nat) (h_s : b0.Keeps s) : b0.Keeps (State.raiseRequest s j) := by
  unfold State.raiseRequest
  with_reducible repeat' (first | assumption | apply State.setSp_keeps | apply State.sendUp_keeps | apply State.rootAccept_keeps | split | simp only [State.keeps_mk] | dsimp only)

theorem State.triggerSlot_keeps {b0 : State} {s : State} (j : Nat) (bit : Nat) (h_s : b0.Keeps s) : b0.Keeps (State.triggerSlot s j bit) := by
  unfold State.triggerSlot
  with_reducible repeat' (first | assumption | apply State.raiseRequest_keeps | split | dsimp only)

theorem State.tempWarn_keeps {b0 : State} {s : State} (old : Int) (new : Int) (h_s : b0.Keeps s) : b0.Keeps (State.tempWarn s old new) := by
  unfold State.tempWarn
  with_reducible repeat' (first | assumption | apply State.triggerSlot_keeps | refine State.keeps_foldl _ (fun _ _ _ => ?_) _ _ ?_ | split | simp only [State.keeps_mk] | dsimp only | exact True.intro | intro _)

theorem State.sporeWarn_keeps {b0 : State} {s : State} (bit : Nat) (h_s : b0.Keeps s) : b0.Keeps (State.sporeWarn s bit) := by
  unfold State.sporeWarn
  with_reducible repeat' (first | assumption | apply State.triggerSlot_keeps | refine State.keeps_foldl _ (fun _ _ _ => ?_) _ _ ?_ | refine State.keeps_foldlP _ (fun _ _ _ => ?_) _ _ ?_ | refine State.keeps_foldlQ _ (fun _ _ _ => ?_) _ _ ?_ | simp only [State.keeps_mk] | dsimp only | exact True.intro | intro _)

/-! ### Ecc -/

theorem State.countCe_keeps {b0 : State} {s : State} (st : Nat) (h_s : b0.Keeps s) : b0.Keeps (State.countCe s st) := by
  unfold State.countCe
  with_reducible repeat' (first | assumption | apply State.setF_keeps | apply State.setErr_keeps | apply State.sporeWarn_keeps | split | simp only [State.keeps_mk] | dsimp only | exact True.intro | intro _)

theorem State.hbmCeAt_keeps {b0 : State} {s : State} (st : Nat) (off : Nat) (symbol : Bool) (h_s : b0.Keeps s) : b0.Keeps (State.hbmCeAt s st off symbol) := by
  unfold State.hbmCeAt
  with_reducible repeat' (first | assumption | apply State.setF_keeps | apply State.addSat_keeps | apply State.recordRow_keeps | apply State.countCe_keeps | split | simp only [State.keeps_mk] | dsimp only | exact True.intro | intro _)

theorem State.hbmCe_keeps {b0 : State} {s : State} (a : Nat) (symbol : Bool) (h_s : b0.Keeps s) : b0.Keeps (State.hbmCe s a symbol) := by
  unfold State.hbmCe
  with_reducible repeat' (first | assumption | apply State.hbmCeAt_keeps | dsimp only)

theorem State.hbmUeOff_keeps {b0 : State} {s : State} (st : Nat) (off : Nat) (h_s : b0.Keeps s) : b0.Keeps (State.hbmUeOff s st off) := by
  unfold State.hbmUeOff
  with_reducible repeat' (first | assumption | apply State.faultUnit_keeps | apply State.hbmUeAt_keeps | split | dsimp only | refine State.keeps_snd (by assumption) ?_ | refine State.keeps_fst (by assumption) ?_)

theorem State.eccOff_keeps {b0 : State} {s : State} (st : Nat) (off : Nat) (e : Ecc) (h_s : b0.Keeps s) : b0.Keeps (State.eccOff s st off e) := by
  unfold State.eccOff
  with_reducible repeat' (first | assumption | apply State.hbmCeAt_keeps | apply State.hbmUeOff_keeps | split | dsimp only | refine State.keeps_snd (by assumption) ?_ | refine State.keeps_fst (by assumption) ?_)

theorem State.eccHit_keeps {b0 : State} {s : State} (h : EccHit) (h_s : b0.Keeps s) : b0.Keeps (State.eccHit s h) := by
  unfold State.eccHit
  with_reducible repeat' (first | assumption | apply State.clusterFault_keeps | apply State.spadCe_keeps | apply State.eccOff_keeps | split | dsimp only | refine State.keeps_snd (by assumption) ?_ | refine State.keeps_fst (by assumption) ?_)

theorem State.eccHits_keeps {b0 : State} {s : State} (es : List EccHit) (h_s : b0.Keeps s) : b0.Keeps (State.eccHits s es) := by
  unfold State.eccHits
  with_reducible repeat' (first | assumption | apply State.eccHit_keeps | refine State.keeps_foldl _ (fun _ _ _ => ?_) _ _ ?_ | dsimp only)

/-! ### Vector -/

theorem vecOp_keeps {b0 : State} (c : BitVec 8) (t : BitVec 3) (i : VFmt) {s : State} (ok : Nat → Bool) {f : Thread → State → State} (h_s : b0.Keeps s) (h_f : ∀ (y0 : Thread) (y1 : State), b0.Keeps y1 → b0.Keeps (f y0 y1)) : b0.OKeeps (vecOp c t i s ok f) := by
  unfold vecOp
  with_reducible repeat' (first | assumption | apply h_f | apply State.haltError_keeps | apply issueV_keeps | split | dsimp only | exact True.intro | intro _)

theorem elemOp_keeps {b0 : State} (c : BitVec 8) (t : BitVec 3) (i : VFmt) {s : State} (ok : Nat → Bool) (f : Thread → Nat → Nat → Nat → Nat → Nat × Nat) (h_s : b0.Keeps s) : b0.OKeeps (elemOp c t i s ok f) := by
  unfold elemOp
  with_reducible repeat' (first | assumption | apply State.setThr_keeps | apply vecOp_keeps | split | simp only [State.keeps_mk] | dsimp only | exact True.intro | intro _)

theorem vIntOp_keeps {b0 : State} (c : BitVec 8) (t : BitVec 3) (i : VFmt) {s : State} (f : Nat → Nat → Nat → Nat) (h_s : b0.Keeps s) : b0.OKeeps (vIntOp c t i s f) := by
  unfold vIntOp
  with_reducible repeat' (first | assumption | apply elemOp_keeps | dsimp only | exact True.intro | intro _)

theorem execVadd_keeps {b0 : State} (c : BitVec 8) (t : BitVec 3) (i : VFmt) {s : State} (h_s : b0.Keeps s) : b0.OKeeps (execVadd c t i s) := by
  unfold execVadd
  with_reducible repeat' (first | assumption | apply vIntOp_keeps | dsimp only | exact True.intro | intro _)

theorem execVsub_keeps {b0 : State} (c : BitVec 8) (t : BitVec 3) (i : VFmt) {s : State} (h_s : b0.Keeps s) : b0.OKeeps (execVsub c t i s) := by
  unfold execVsub
  with_reducible repeat' (first | assumption | apply vIntOp_keeps | dsimp only | exact True.intro | intro _)

theorem execVmul_keeps {b0 : State} (c : BitVec 8) (t : BitVec 3) (i : VFmt) {s : State} (h_s : b0.Keeps s) : b0.OKeeps (execVmul c t i s) := by
  unfold execVmul
  with_reducible repeat' (first | assumption | apply vIntOp_keeps | dsimp only | exact True.intro | intro _)

theorem execVmin_keeps {b0 : State} (c : BitVec 8) (t : BitVec 3) (i : VFmt) {s : State} (h_s : b0.Keeps s) : b0.OKeeps (execVmin c t i s) := by
  unfold execVmin
  with_reducible repeat' (first | assumption | apply vIntOp_keeps | split | dsimp only | exact True.intro | intro _)

theorem execVmax_keeps {b0 : State} (c : BitVec 8) (t : BitVec 3) (i : VFmt) {s : State} (h_s : b0.Keeps s) : b0.OKeeps (execVmax c t i s) := by
  unfold execVmax
  with_reducible repeat' (first | assumption | apply vIntOp_keeps | split | dsimp only | exact True.intro | intro _)

theorem execVminu_keeps {b0 : State} (c : BitVec 8) (t : BitVec 3) (i : VFmt) {s : State} (h_s : b0.Keeps s) : b0.OKeeps (execVminu c t i s) := by
  unfold execVminu
  with_reducible repeat' (first | assumption | apply vIntOp_keeps | split | dsimp only | exact True.intro | intro _)

theorem execVmaxu_keeps {b0 : State} (c : BitVec 8) (t : BitVec 3) (i : VFmt) {s : State} (h_s : b0.Keeps s) : b0.OKeeps (execVmaxu c t i s) := by
  unfold execVmaxu
  with_reducible repeat' (first | assumption | apply vIntOp_keeps | split | dsimp only | exact True.intro | intro _)

theorem execVand_keeps {b0 : State} (c : BitVec 8) (t : BitVec 3) (i : VFmt) {s : State} (h_s : b0.Keeps s) : b0.OKeeps (execVand c t i s) := by
  unfold execVand
  with_reducible repeat' (first | assumption | apply vIntOp_keeps | dsimp only | exact True.intro | intro _)

theorem execVor_keeps {b0 : State} (c : BitVec 8) (t : BitVec 3) (i : VFmt) {s : State} (h_s : b0.Keeps s) : b0.OKeeps (execVor c t i s) := by
  unfold execVor
  with_reducible repeat' (first | assumption | apply vIntOp_keeps | split | dsimp only | exact True.intro | intro _)

theorem execVxor_keeps {b0 : State} (c : BitVec 8) (t : BitVec 3) (i : VFmt) {s : State} (h_s : b0.Keeps s) : b0.OKeeps (execVxor c t i s) := by
  unfold execVxor
  with_reducible repeat' (first | assumption | apply vIntOp_keeps | dsimp only | exact True.intro | intro _)

theorem execVsll_keeps {b0 : State} (c : BitVec 8) (t : BitVec 3) (i : VFmt) {s : State} (h_s : b0.Keeps s) : b0.OKeeps (execVsll c t i s) := by
  unfold execVsll
  with_reducible repeat' (first | assumption | apply vIntOp_keeps | dsimp only | exact True.intro | intro _)

theorem execVsrl_keeps {b0 : State} (c : BitVec 8) (t : BitVec 3) (i : VFmt) {s : State} (h_s : b0.Keeps s) : b0.OKeeps (execVsrl c t i s) := by
  unfold execVsrl
  with_reducible repeat' (first | assumption | apply vIntOp_keeps | dsimp only | exact True.intro | intro _)

theorem execVsra_keeps {b0 : State} (c : BitVec 8) (t : BitVec 3) (i : VFmt) {s : State} (h_s : b0.Keeps s) : b0.OKeeps (execVsra c t i s) := by
  unfold execVsra
  with_reducible repeat' (first | assumption | apply vIntOp_keeps | dsimp only | exact True.intro | intro _)

theorem execVidx_keeps {b0 : State} (c : BitVec 8) (t : BitVec 3) (i : VFmt) {s : State} (h_s : b0.Keeps s) : b0.OKeeps (execVidx c t i s) := by
  unfold execVidx
  with_reducible repeat' (first | assumption | apply elemOp_keeps | dsimp only | exact True.intro | intro _)

theorem vFpOp_keeps {b0 : State} (c : BitVec 8) (t : BitVec 3) (i : VFmt) {s : State} (f : Fmt → Rm → Nat → Nat → Nat → Nat × Nat) (h_s : b0.Keeps s) : b0.OKeeps (vFpOp c t i s f) := by
  unfold vFpOp
  with_reducible repeat' (first | assumption | apply elemOp_keeps | dsimp only | exact True.intro | intro _)

theorem execVfadd_keeps {b0 : State} (c : BitVec 8) (t : BitVec 3) (i : VFmt) {s : State} (h_s : b0.Keeps s) : b0.OKeeps (execVfadd c t i s) := by
  unfold execVfadd
  with_reducible repeat' (first | assumption | apply vFpOp_keeps | dsimp only | exact True.intro | intro _)

theorem execVfsub_keeps {b0 : State} (c : BitVec 8) (t : BitVec 3) (i : VFmt) {s : State} (h_s : b0.Keeps s) : b0.OKeeps (execVfsub c t i s) := by
  unfold execVfsub
  with_reducible repeat' (first | assumption | apply vFpOp_keeps | dsimp only | exact True.intro | intro _)

theorem execVfmul_keeps {b0 : State} (c : BitVec 8) (t : BitVec 3) (i : VFmt) {s : State} (h_s : b0.Keeps s) : b0.OKeeps (execVfmul c t i s) := by
  unfold execVfmul
  with_reducible repeat' (first | assumption | apply vFpOp_keeps | dsimp only | exact True.intro | intro _)

theorem execVfma_keeps {b0 : State} (c : BitVec 8) (t : BitVec 3) (i : VFmt) {s : State} (h_s : b0.Keeps s) : b0.OKeeps (execVfma c t i s) := by
  unfold execVfma
  with_reducible repeat' (first | assumption | apply vFpOp_keeps | dsimp only | exact True.intro | intro _)

theorem execVfdiv_keeps {b0 : State} (c : BitVec 8) (t : BitVec 3) (i : VFmt) {s : State} (h_s : b0.Keeps s) : b0.OKeeps (execVfdiv c t i s) := by
  unfold execVfdiv
  with_reducible repeat' (first | assumption | apply vFpOp_keeps | dsimp only | exact True.intro | intro _)

theorem execVfsqrt_keeps {b0 : State} (c : BitVec 8) (t : BitVec 3) (i : VFmt) {s : State} (h_s : b0.Keeps s) : b0.OKeeps (execVfsqrt c t i s) := by
  unfold execVfsqrt
  with_reducible repeat' (first | assumption | apply vFpOp_keeps | dsimp only | exact True.intro | intro _)

theorem execVfmin_keeps {b0 : State} (c : BitVec 8) (t : BitVec 3) (i : VFmt) {s : State} (h_s : b0.Keeps s) : b0.OKeeps (execVfmin c t i s) := by
  unfold execVfmin
  with_reducible repeat' (first | assumption | apply vFpOp_keeps | dsimp only | exact True.intro | intro _)

theorem execVfmax_keeps {b0 : State} (c : BitVec 8) (t : BitVec 3) (i : VFmt) {s : State} (h_s : b0.Keeps s) : b0.OKeeps (execVfmax c t i s) := by
  unfold execVfmax
  with_reducible repeat' (first | assumption | apply vFpOp_keeps | dsimp only | exact True.intro | intro _)

theorem execVfabs_keeps {b0 : State} (c : BitVec 8) (t : BitVec 3) (i : VFmt) {s : State} (h_s : b0.Keeps s) : b0.OKeeps (execVfabs c t i s) := by
  unfold execVfabs
  with_reducible repeat' (first | assumption | apply vFpOp_keeps | dsimp only | exact True.intro | intro _)

theorem execVfneg_keeps {b0 : State} (c : BitVec 8) (t : BitVec 3) (i : VFmt) {s : State} (h_s : b0.Keeps s) : b0.OKeeps (execVfneg c t i s) := by
  unfold execVfneg
  with_reducible repeat' (first | assumption | apply vFpOp_keeps | dsimp only | exact True.intro | intro _)

theorem cmpOp_keeps {b0 : State} (c : BitVec 8) (t : BitVec 3) (i : VFmt) {s : State} (ok : Nat → Bool) (fi : Nat → Nat → Nat → Bool) (ff : Fmt → Nat → Nat → Bool × Nat) (h_s : b0.Keeps s) : b0.OKeeps (cmpOp c t i s ok fi ff) := by
  unfold cmpOp
  with_reducible repeat' (first | assumption | apply State.setThr_keeps | apply vecOp_keeps | split | dsimp only | exact True.intro | intro _)

theorem execVcmpeq_keeps {b0 : State} (c : BitVec 8) (t : BitVec 3) (i : VFmt) {s : State} (h_s : b0.Keeps s) : b0.OKeeps (execVcmpeq c t i s) := by
  unfold execVcmpeq
  with_reducible repeat' (first | assumption | apply cmpOp_keeps | dsimp only | exact True.intro | intro _)

theorem execVcmpne_keeps {b0 : State} (c : BitVec 8) (t : BitVec 3) (i : VFmt) {s : State} (h_s : b0.Keeps s) : b0.OKeeps (execVcmpne c t i s) := by
  unfold execVcmpne
  with_reducible repeat' (first | assumption | apply cmpOp_keeps | dsimp only | exact True.intro | intro _)

theorem execVcmplt_keeps {b0 : State} (c : BitVec 8) (t : BitVec 3) (i : VFmt) {s : State} (h_s : b0.Keeps s) : b0.OKeeps (execVcmplt c t i s) := by
  unfold execVcmplt
  with_reducible repeat' (first | assumption | apply cmpOp_keeps | dsimp only | exact True.intro | intro _)

theorem execVcmple_keeps {b0 : State} (c : BitVec 8) (t : BitVec 3) (i : VFmt) {s : State} (h_s : b0.Keeps s) : b0.OKeeps (execVcmple c t i s) := by
  unfold execVcmple
  with_reducible repeat' (first | assumption | apply cmpOp_keeps | dsimp only | exact True.intro | intro _)

theorem execVcmpltu_keeps {b0 : State} (c : BitVec 8) (t : BitVec 3) (i : VFmt) {s : State} (h_s : b0.Keeps s) : b0.OKeeps (execVcmpltu c t i s) := by
  unfold execVcmpltu
  with_reducible repeat' (first | assumption | apply cmpOp_keeps | dsimp only | exact True.intro | intro _)

theorem execVcmpleu_keeps {b0 : State} (c : BitVec 8) (t : BitVec 3) (i : VFmt) {s : State} (h_s : b0.Keeps s) : b0.OKeeps (execVcmpleu c t i s) := by
  unfold execVcmpleu
  with_reducible repeat' (first | assumption | apply cmpOp_keeps | dsimp only | exact True.intro | intro _)

theorem execVcmpun_keeps {b0 : State} (c : BitVec 8) (t : BitVec 3) (i : VFmt) {s : State} (h_s : b0.Keeps s) : b0.OKeeps (execVcmpun c t i s) := by
  unfold execVcmpun
  with_reducible repeat' (first | assumption | apply cmpOp_keeps | dsimp only | exact True.intro | intro _)

theorem predOp_keeps {b0 : State} (c : BitVec 8) (t : BitVec 3) (i : VFmt) {s : State} (f : Nat → Nat → Nat) (h_s : b0.Keeps s) : b0.OKeeps (predOp c t i s f) := by
  unfold predOp
  with_reducible repeat' (first | assumption | apply State.setThr_keeps | apply vecOp_keeps | dsimp only | exact True.intro | intro _)

theorem execPand_keeps {b0 : State} (c : BitVec 8) (t : BitVec 3) (i : VFmt) {s : State} (h_s : b0.Keeps s) : b0.OKeeps (execPand c t i s) := by
  unfold execPand
  with_reducible repeat' (first | assumption | apply predOp_keeps | dsimp only | exact True.intro | intro _)

theorem execPor_keeps {b0 : State} (c : BitVec 8) (t : BitVec 3) (i : VFmt) {s : State} (h_s : b0.Keeps s) : b0.OKeeps (execPor c t i s) := by
  unfold execPor
  with_reducible repeat' (first | assumption | apply predOp_keeps | split | dsimp only | exact True.intro | intro _)

theorem execPxor_keeps {b0 : State} (c : BitVec 8) (t : BitVec 3) (i : VFmt) {s : State} (h_s : b0.Keeps s) : b0.OKeeps (execPxor c t i s) := by
  unfold execPxor
  with_reducible repeat' (first | assumption | apply predOp_keeps | dsimp only | exact True.intro | intro _)

theorem execPnot_keeps {b0 : State} (c : BitVec 8) (t : BitVec 3) (i : VFmt) {s : State} (h_s : b0.Keeps s) : b0.OKeeps (execPnot c t i s) := by
  unfold execPnot
  with_reducible repeat' (first | assumption | apply predOp_keeps | dsimp only | exact True.intro | intro _)

theorem execVcompress_keeps {b0 : State} (c : BitVec 8) (t : BitVec 3) (i : VFmt) {s : State} (h_s : b0.Keeps s) : b0.OKeeps (execVcompress c t i s) := by
  unfold execVcompress
  with_reducible repeat' (first | assumption | apply State.setThr_keeps | apply vecOp_keeps | dsimp only | exact True.intro | intro _)

theorem execVexpand_keeps {b0 : State} (c : BitVec 8) (t : BitVec 3) (i : VFmt) {s : State} (h_s : b0.Keeps s) : b0.OKeeps (execVexpand c t i s) := by
  unfold execVexpand
  with_reducible repeat' (first | assumption | apply State.setThr_keeps | apply vecOp_keeps | dsimp only | exact True.intro | intro _)

theorem execVsel_keeps {b0 : State} (c : BitVec 8) (t : BitVec 3) (i : VFmt) {s : State} (h_s : b0.Keeps s) : b0.OKeeps (execVsel c t i s) := by
  unfold execVsel
  with_reducible repeat' (first | assumption | apply State.setThr_keeps | apply vecOp_keeps | split | simp only [State.keeps_mk] | dsimp only | exact True.intro | intro _)

theorem slideOp_keeps {b0 : State} (c : BitVec 8) (t : BitVec 3) (i : VFmt) {s : State} (d : Int) (h_s : b0.Keeps s) : b0.OKeeps (slideOp c t i s d) := by
  unfold slideOp
  with_reducible repeat' (first | assumption | apply State.setThr_keeps | apply vecOp_keeps | split | dsimp only | exact True.intro | intro _)

theorem execVslidedn_keeps {b0 : State} (c : BitVec 8) (t : BitVec 3) (i : VFmt) {s : State} (h_s : b0.Keeps s) : b0.OKeeps (execVslidedn c t i s) := by
  unfold execVslidedn
  with_reducible repeat' (first | assumption | apply slideOp_keeps | dsimp only)

theorem execVslideup_keeps {b0 : State} (c : BitVec 8) (t : BitVec 3) (i : VFmt) {s : State} (h_s : b0.Keeps s) : b0.OKeeps (execVslideup c t i s) := by
  unfold execVslideup
  with_reducible repeat' (first | assumption | apply slideOp_keeps | dsimp only)

theorem execVsplat_keeps {b0 : State} (c : BitVec 8) (t : BitVec 3) (i : VFmt) {s : State} (h_s : b0.Keeps s) : b0.OKeeps (execVsplat c t i s) := by
  unfold execVsplat
  with_reducible repeat' (first | assumption | apply elemOp_keeps | dsimp only | exact True.intro | intro _)

theorem execVins_keeps {b0 : State} (c : BitVec 8) (t : BitVec 3) (i : VFmt) {s : State} (h_s : b0.Keeps s) : b0.OKeeps (execVins c t i s) := by
  unfold execVins
  with_reducible repeat' (first | assumption | apply State.setThr_keeps | apply vecOp_keeps | split | simp only [State.keeps_mk] | dsimp only | exact True.intro | intro _)

theorem execVext_keeps {b0 : State} (c : BitVec 8) (t : BitVec 3) (i : VFmt) {s : State} (h_s : b0.Keeps s) : b0.OKeeps (execVext c t i s) := by
  unfold execVext
  with_reducible repeat' (first | assumption | apply State.free_keeps | apply State.setThr_keeps | apply vecOp_keeps | split | dsimp only | exact True.intro | intro _)

theorem execVpcnt_keeps {b0 : State} (c : BitVec 8) (t : BitVec 3) (i : VFmt) {s : State} (h_s : b0.Keeps s) : b0.OKeeps (execVpcnt c t i s) := by
  unfold execVpcnt
  with_reducible repeat' (first | assumption | apply State.setThr_keeps | apply vecOp_keeps | dsimp only | exact True.intro | intro _)

theorem execVcvt_keeps {b0 : State} (c : BitVec 8) (t : BitVec 3) (i : VFmt) {s : State} (h_s : b0.Keeps s) : b0.OKeeps (execVcvt c t i s) := by
  unfold execVcvt
  with_reducible repeat' (first | assumption | apply State.setThr_keeps | apply State.haltError_keeps | apply issueV_keeps | refine State.keeps_foldl _ (fun _ _ _ => ?_) _ _ ?_ | refine State.keeps_foldlP _ (fun _ _ _ => ?_) _ _ ?_ | refine State.keeps_foldlQ _ (fun _ _ _ => ?_) _ _ ?_ | split | simp only [State.keeps_mk] | dsimp only | exact True.intro | intro _)

theorem execVld_keeps {b0 : State} (c : BitVec 8) (t : BitVec 3) (i : VFmt) (e : Ecc) {s : State} (h_s : b0.Keeps s) : b0.OKeeps (execVld c t i e s) := by
  unfold execVld
  with_reducible repeat' (first | assumption | apply State.setThr_keeps | apply State.clusterFault_keeps | apply State.haltError_keeps | apply State.spadEcc_keeps | apply vecOp_keeps | split | dsimp only | exact True.intro | intro _)

theorem execVst_keeps {b0 : State} (c : BitVec 8) (t : BitVec 3) (i : VFmt) {s : State} (h_s : b0.Keeps s) : b0.OKeeps (execVst c t i s) := by
  unfold execVst
  with_reducible repeat' (first | assumption | apply State.setThr_keeps | apply State.spadWrite_keeps | apply State.haltError_keeps | apply vecOp_keeps | refine State.keeps_foldl _ (fun _ _ _ => ?_) _ _ ?_ | split | dsimp only | exact True.intro | intro _)

theorem execVldg_keeps {b0 : State} (c : BitVec 8) (t : BitVec 3) (i : VFmt) {s : State} (h_s : b0.Keeps s) : b0.OKeeps (execVldg c t i s) := by
  unfold execVldg
  with_reducible repeat' (first | assumption | apply State.setThr_keeps | apply State.haltError_keeps | apply State.madeRemote_keeps | apply State.threadAccess_keeps | apply vecOp_keeps | refine State.keeps_foldl _ (fun _ _ _ => ?_) _ _ ?_ | refine State.keeps_foldlP _ (fun _ _ _ => ?_) _ _ ?_ | refine State.keeps_foldlQ _ (fun _ _ _ => ?_) _ _ ?_ | split | simp only [State.keeps_mk] | dsimp only | refine State.keeps_snd (by assumption) ?_ | refine State.keeps_fst (by assumption) ?_ | exact True.intro | intro _)

theorem State.keeps_foldlR {α β γ : Type} {b : State} (f : β × γ × State → α → β × γ × State) (hf : ∀ s a, b.Keeps s.2.2 → b.Keeps (f s a).2.2) : ∀ (l : List α) (s : β × γ × State), b.Keeps s.2.2 → b.Keeps (l.foldl f s).2.2
  | [], _, h => h
  | a :: l, s, h => State.keeps_foldlR f hf l (f s a) (hf s a h)

theorem State.vstgSend_keeps {b0 s : State} (c t g : Nat) (runs : List (Nat × List Byte)) (h_s : b0.Keeps s) : b0.Keeps (State.vstgSend s c t g runs).2.2 := by
  unfold State.vstgSend
  refine State.keeps_foldlR _ (fun r a h => ?_) _ _ h_s
  try dsimp only
  repeat' (first | with_reducible assumption | split | dsimp only | with_reducible refine State.keeps_snd (by with_reducible assumption) (State.threadAccess_keeps _ _ _ _ _ _ _ _ _ ?_))

theorem execVstg_keeps {b0 : State} (c : BitVec 8) (t : BitVec 3) (i : VFmt) {s : State} (h_s : b0.Keeps s) : b0.OKeeps (execVstg c t i s) := by
  unfold execVstg
  with_reducible repeat' (first | assumption | apply State.setThr_keeps | apply State.beginWait_keeps | apply State.haltError_keeps | apply State.madeRemote_keeps | apply vecOp_keeps | apply State.vstgSend_keeps | split | simp only [State.keeps_mk] | dsimp only | exact True.intro | intro _)

theorem redOp_keeps {b0 : State} (c : BitVec 8) (t : BitVec 3) (i : VFmt) {s : State} (ok : Nat → Bool) (ident : Nat → Nat) (elem : Nat → Nat → Nat) (f : Nat → Nat → Nat → Nat × Nat) (fin : Thread → Nat → Nat → Nat × Nat) (h_s : b0.Keeps s) : b0.OKeeps (redOp c t i s ok ident elem f fin) := by
  unfold redOp
  with_reducible repeat' (first | assumption | apply State.setThr_keeps | apply vecOp_keeps | split | dsimp only | exact True.intro | intro _)

theorem execVrsum_keeps {b0 : State} (c : BitVec 8) (t : BitVec 3) (i : VFmt) {s : State} (h_s : b0.Keeps s) : b0.OKeeps (execVrsum c t i s) := by
  unfold execVrsum
  with_reducible repeat' (first | assumption | apply redOp_keeps | dsimp only | exact True.intro | intro _)

theorem execVrsuma_keeps {b0 : State} (c : BitVec 8) (t : BitVec 3) (i : VFmt) {s : State} (h_s : b0.Keeps s) : b0.OKeeps (execVrsuma c t i s) := by
  unfold execVrsuma
  with_reducible repeat' (first | assumption | apply redOp_keeps | split | dsimp only | exact True.intro | intro _)

theorem execVrmin_keeps {b0 : State} (c : BitVec 8) (t : BitVec 3) (i : VFmt) {s : State} (h_s : b0.Keeps s) : b0.OKeeps (execVrmin c t i s) := by
  unfold execVrmin
  with_reducible repeat' (first | assumption | apply redOp_keeps | split | dsimp only | exact True.intro | intro _)

theorem execVrmax_keeps {b0 : State} (c : BitVec 8) (t : BitVec 3) (i : VFmt) {s : State} (h_s : b0.Keeps s) : b0.OKeeps (execVrmax c t i s) := by
  unfold execVrmax
  with_reducible repeat' (first | assumption | apply redOp_keeps | split | dsimp only | exact True.intro | intro _)

theorem execVrminu_keeps {b0 : State} (c : BitVec 8) (t : BitVec 3) (i : VFmt) {s : State} (h_s : b0.Keeps s) : b0.OKeeps (execVrminu c t i s) := by
  unfold execVrminu
  with_reducible repeat' (first | assumption | apply redOp_keeps | split | dsimp only | exact True.intro | intro _)

theorem execVrmaxu_keeps {b0 : State} (c : BitVec 8) (t : BitVec 3) (i : VFmt) {s : State} (h_s : b0.Keeps s) : b0.OKeeps (execVrmaxu c t i s) := by
  unfold execVrmaxu
  with_reducible repeat' (first | assumption | apply redOp_keeps | split | dsimp only | exact True.intro | intro _)

theorem execSetvl_keeps {b0 : State} (c : BitVec 8) (t : BitVec 3) (i : VFmt) {s : State} (h_s : b0.Keeps s) : b0.OKeeps (execSetvl c t i s) := by
  unfold execSetvl
  with_reducible repeat' (first | assumption | apply State.setThr_keeps | apply issueV_keeps | split | simp only [State.keeps_mk] | dsimp only | exact True.intro | intro _)

theorem execVseal_keeps {b0 : State} (c : BitVec 8) (t : BitVec 3) (i : VFmt) {s : State} (h_s : b0.Keeps s) : b0.OKeeps (execVseal c t i s) := by
  unfold execVseal
  with_reducible repeat' (first | assumption | apply State.setThr_keeps | apply State.spadSealTile_keeps | apply State.haltError_keeps | apply issueV_keeps | split | dsimp only | exact True.intro | intro _)

end Sys2Proof.Machine
end

