-- ==== Sys2Proof/Laws/KeepsSolver.lean ====
section
/-! SUPPORT. What solver channels, batches and the cores of chains keep. -/

namespace Sys2Proof.Machine

set_option linter.unusedVariables false
set_option linter.unusedSimpArgs false
set_option maxRecDepth 4000

/-! ### SolverCore -/

theorem State.bindCluster_keeps {b0 : State} {s : State} (ch : Nat) (c : Nat) (h_s : b0.Keeps s) : b0.Keeps (State.bindCluster s ch c) := by
  unfold State.bindCluster
  with_reducible repeat' (first | assumption | apply State.setF_keeps | apply State.setThr_keeps | simp only [State.keeps_mk] | dsimp only)

theorem State.unbindCluster_keeps {b0 : State} {s : State} (c : Nat) (h_s : b0.Keeps s) : b0.Keeps (State.unbindCluster s c) := by
  unfold State.unbindCluster
  with_reducible repeat' (first | assumption | apply State.setF_keeps | apply State.setThr_keeps | dsimp only)

theorem State.bindWrite_keeps {b0 : State} {s : State} (ch : Nat) (q : Nat) (v : Nat) (h_s : b0.Keeps s) : b0.Keeps (State.bindWrite s ch q v) := by
  unfold State.bindWrite
  with_reducible repeat' (first | assumption | apply State.setW_keeps | apply State.setErr_keeps | apply State.bindCluster_keeps | apply State.unbindCluster_keeps | refine State.keeps_foldl _ (fun _ _ _ => ?_) _ _ ?_ | refine State.keeps_foldlP _ (fun _ _ _ => ?_) _ _ ?_ | refine State.keeps_foldlQ _ (fun _ _ _ => ?_) _ _ ?_ | split | dsimp only | exact True.intro | intro _)

theorem State.slvSpadWrite_keeps {b0 : State} {s : State} (ch : Nat) (v : Nat) (h_s : b0.Keeps s) : b0.Keeps (State.slvSpadWrite s ch v) := by
  unfold State.slvSpadWrite
  with_reducible repeat' (first | assumption | apply State.setF_keeps | apply State.setErr_keeps | refine State.keeps_foldl _ (fun _ _ _ => ?_) _ _ ?_ | split | dsimp only | exact True.intro | intro _)

theorem State.slvReset_keeps {b0 : State} {s : State} (ch : Nat) (h_s : b0.Keeps s) : b0.Keeps (State.slvReset s ch) := by
  unfold State.slvReset
  with_reducible repeat' (first | assumption | apply State.errForget_keeps | apply State.setChan_keeps | apply State.unbindCluster_keeps | refine State.keeps_foldl _ (fun _ _ _ => ?_) _ _ ?_ | simp only [State.keeps_mk] | dsimp only)

theorem State.writeDigestRecord_keeps {b0 : State} {s : State} (p : Nat) (addr : Nat) (inDigest : List Byte) (output : List Byte) (h_s : b0.Keeps s) : b0.Keeps (State.writeDigestRecord s p addr inDigest output) := by
  unfold State.writeDigestRecord
  with_reducible repeat' (first | assumption | apply State.hbmSealWrite_keeps | split | dsimp only)

theorem State.scratch_keeps {b0 : State} {s : State} (c : Nat) (h_s : b0.Keeps s) : b0.Keeps (State.scratch s c) := by
  unfold State.scratch
  with_reducible repeat' (first | assumption | apply State.spadWrite_keeps | simp only [State.keeps_mk] | dsimp only)

theorem State.launchThread7_keeps {b0 : State} (opc : Nat) {s : State} (c : Nat) (h_s : b0.Keeps s) : b0.Keeps (State.launchThread7 opc s c) := by
  unfold State.launchThread7
  with_reducible repeat' (first | assumption | apply State.scratch_keeps | apply State.setThr_keeps | apply State.setClu_keeps | split | simp only [State.keeps_mk] | dsimp only)

theorem State.takeChannel_keeps {b0 : State} {s : State} (ch : Nat) (c : Cmd) (h_s : b0.Keeps s) : b0.Keeps (State.takeChannel s ch c) := by
  unfold State.takeChannel
  with_reducible repeat' (first | assumption | apply State.setF_keeps | apply State.addF_keeps | apply State.setChan_keeps | apply State.launchThread7_keeps | refine State.keeps_foldl _ (fun _ _ _ => ?_) _ _ ?_ | split | simp only [State.keeps_mk] | dsimp only)

theorem State.offerChannel_keeps {b0 : State} {s : State} (ch : Nat) (h_s : b0.Keeps s) : b0.Keeps (State.offerChannel s ch) := by
  unfold State.offerChannel
  with_reducible repeat' (first | assumption | apply State.setF_keeps | apply State.setChan_keeps | apply State.takeChannel_keeps | split | simp only [State.keeps_mk] | dsimp only | refine State.keeps_snd (by assumption) ?_ | refine State.keeps_fst (by assumption) ?_)

theorem State.slvEnd_keeps {b0 : State} {s : State} (ch : Nat) (c : Cmd) (status : Nat) (cause : Nat) (h_s : b0.Keeps s) : b0.Keeps (State.slvEnd s ch c status cause) := by
  unfold State.slvEnd
  with_reducible repeat' (first | assumption | apply State.setErr_keeps | apply State.slvLast_keeps | split | dsimp only)

theorem State.slvFault_keeps {b0 : State} {s : State} (ch : Nat) (c : Cmd) (f : JobFault) (h_s : b0.Keeps s) : b0.Keeps (State.slvFault s ch c f) := by
  unfold State.slvFault
  with_reducible repeat' (first | assumption | apply State.setErr_keeps | apply State.endFaulted_keeps | apply State.faultOpt_keeps | split | dsimp only)

/-! ### Solver -/

theorem State.solveRefuse_keeps {b0 : State} {s : State} (c : Cmd) (ws : List Word) (status : Nat) (cause : Nat) (h_s : b0.Keeps s) : b0.Keeps (State.solveRefuse s c ws status cause) := by
  unfold State.solveRefuse
  with_reducible repeat' (first | assumption | apply State.setCmd_keeps | apply State.leaveChannel_keeps | apply State.hbmSealWrite_keeps | apply State.slvEnd_keeps | split | simp only [State.keeps_mk] | dsimp only)

theorem State.chanReads_keeps {b0 : State} {s : State} (es : List EccHit) (rs : List (Nat × Nat)) (h_s : b0.Keeps s) : b0.Keeps (State.chanReads s es rs) := by
  unfold State.chanReads
  with_reducible repeat' (first | assumption | apply State.memReads_keeps | apply State.eccHits_keeps | dsimp only)

theorem State.takeIfNext_keeps {b0 : State} {s : State} (ch : Nat) (c : Cmd) (h_s : b0.Keeps s) : b0.Keeps (State.takeIfNext s ch c) := by
  unfold State.takeIfNext
  with_reducible repeat' (first | assumption | apply State.takeChannel_keeps | split | dsimp only | exact True.intro | intro _)

theorem State.withChecks_keeps {b0 : State} {s : State} (id : Nat) {f : Cmd → State} (h_s : b0.Keeps s) (h_f : ∀ (y0 : Cmd), True → b0.Keeps (f y0)) : b0.Keeps (State.withChecks s id f) := by
  unfold State.withChecks
  with_reducible repeat' (first | assumption | apply h_f | split | dsimp only | refine State.keeps_snd (by assumption) ?_ | refine State.keeps_fst (by assumption) ?_ | exact True.intro | intro _)

theorem execSolve_keeps {b0 : State} (x : CmdReads) {s : State} (h_s : b0.Keeps s) : b0.OKeeps (execSolve x s) := by
  unfold execSolve
  with_reducible repeat' (first | assumption | refine done_keeps ?_ | apply State.setCmd_keeps | apply State.setChan_keeps | apply State.slvFault_keeps | apply State.solveRefuse_keeps | apply State.chanReads_keeps | apply State.takeIfNext_keeps | apply State.withChecks_keeps | split | simp only [State.keeps_mk] | dsimp only | refine State.keeps_snd (by assumption) ?_ | refine State.keeps_fst (by assumption) ?_ | exact True.intro | intro _)

theorem execDigest_keeps {b0 : State} (x : CmdReads) {s : State} (h_s : b0.Keeps s) : b0.OKeeps (execDigest x s) := by
  unfold execDigest
  with_reducible repeat' (first | assumption | refine done_keeps ?_ | apply State.setErr_keeps | apply State.setCmd_keeps | apply State.leaveChannel_keeps | apply State.hbmSealWrite_keeps | apply State.withStarted_keeps | apply State.slvEnd_keeps | apply State.slvFault_keeps | apply State.solveRefuse_keeps | apply State.chanReads_keeps | apply State.takeIfNext_keeps | split | simp only [State.keeps_mk] | dsimp only | refine State.keeps_snd (by assumption) ?_ | refine State.keeps_fst (by assumption) ?_ | exact True.intro | intro _)

theorem execSolveStart_keeps {b0 : State} (ch : BitVec 6) {s : State} (h_s : b0.Keeps s) : b0.OKeeps (execSolveStart ch s) := by
  unfold execSolveStart
  with_reducible repeat' (first | assumption | refine done_keeps ?_ | apply State.offerChannel_keeps | dsimp only)

theorem execSolveDeadline_keeps {b0 : State} (id : Nat) {s : State} (h_s : b0.Keeps s) : b0.OKeeps (execSolveDeadline id s) := by
  unfold execSolveDeadline
  with_reducible repeat' (first | assumption | refine done_keeps ?_ | apply State.setCmd_keeps | split | simp only [State.keeps_mk] | dsimp only | refine State.keeps_snd (by assumption) ?_ | refine State.keeps_fst (by assumption) ?_)

theorem wf_foldl_writeBytes {α : Type} (f : α → Nat) (g : α → List Byte) : ∀ (l : List α) (m : Memory), Memory.wf m = true → Memory.wf (l.foldl (fun h x => writeBytes h (f x) (g x)) m) = true
  | [], _, h => h
  | _ :: l, _, h => wf_foldl_writeBytes f g l _ (wf_writeBytes _ _ _ h)

theorem State.asLaunched_keeps {b0 s : State} (as : List (Nat × List Byte)) (h_s : b0.Keeps s) : b0.Keeps (State.asLaunched s as) := by
  unfold State.asLaunched
  exact State.keeps_hbm h_s (wf_foldl_writeBytes _ _ _ _)

theorem State.sendHalos_keeps {b0 : State} {s : State} (slot : Option Nat) (plan : List (Nat × Nat × List Nat)) (vs : List Vec) (h_s : b0.Keeps s) : b0.Keeps (State.sendHalos s slot plan vs) := by
  unfold State.sendHalos
  with_reducible repeat' (first | assumption | apply State.emit_keeps | apply State.setJobEpochs_keeps | refine State.keeps_foldl _ (fun _ _ _ => ?_) _ _ ?_ | refine State.keeps_foldlP _ (fun _ _ _ => ?_) _ _ ?_ | refine State.keeps_foldlQ _ (fun _ _ _ => ?_) _ _ ?_ | split | simp only [State.keeps_mk] | dsimp only | refine State.keeps_snd (by assumption) ?_ | refine State.keeps_fst (by assumption) ?_ | exact True.intro | intro _)

theorem State.solveOutputs_keeps {b0 : State} {s : State} (k : SlvChan) (c : Cmd) (q : SolveParams) (h : SchedHdr) (dig : List Byte) (status : Nat) (cause : Nat) (x0 : Vec) (t : SolSt) (pc : Option PcData) (h_s : b0.Keeps s) : b0.Keeps (State.solveOutputs s k c q h dig status cause x0 t pc) := by
  unfold State.solveOutputs
  with_reducible repeat' (first | assumption | apply State.hbmSealWrite_keeps | apply State.writeDigestRecord_keeps | split | simp only [State.keeps_mk] | dsimp only | refine State.keeps_snd (by assumption) ?_ | refine State.keeps_fst (by assumption) ?_ | exact True.intro | intro _)

theorem State.countPoints_keeps {b0 : State} {s : State} (slot : Option Nat) (comm used n : Nat) (h_s : b0.Keeps s) : b0.Keeps (State.countPoints s slot comm used n) := by
  unfold State.countPoints
  with_reducible repeat' (first | assumption | apply State.addF_keeps | simp only [State.keeps_mk] | dsimp only | exact True.intro | intro _)

theorem State.finishSolve_keeps {b0 : State} {s : State} (ch : Nat) (k : SlvChan) (c : Cmd) (o : SolveRun) (st : Nat) (cause : Nat) (h_s : b0.Keeps s) : b0.Keeps (State.finishSolve s ch k c o st cause) := by
  unfold State.finishSolve
  with_reducible repeat' (first | assumption | apply State.countPoints_keeps | apply State.scratch_keeps | refine State.keeps_foldl _ (fun _ _ _ => ?_) _ _ ?_ | apply State.setF_keeps | apply State.addF_keeps | apply State.emit_keeps | apply State.setCmd_keeps | apply State.leaveChannel_keeps | apply State.commitCmd_keeps | apply State.slvEnd_keeps | apply State.asLaunched_keeps | apply State.sendHalos_keeps | apply State.solveOutputs_keeps | split | simp only [State.keeps_mk] | dsimp only | exact True.intro | intro _)

theorem State.endSolve_keeps {b0 : State} {s : State} (ch : Nat) (k : SlvChan) (c : Cmd) (p : SolvePeers) (h_s : b0.Keeps s) : b0.Keeps (State.endSolve s ch k c p) := by
  unfold State.endSolve
  with_reducible repeat' (first | assumption | apply State.memReads_keeps | apply State.eccHits_keeps | apply State.slvFault_keeps | apply State.chanReads_keeps | apply State.asLaunched_keeps | apply State.finishSolve_keeps | split | dsimp only | refine State.keeps_snd (by assumption) ?_ | refine State.keeps_fst (by assumption) ?_)

theorem execSolveEnd_keeps {b0 : State} (ch : BitVec 6) (p : SolvePeers) {s : State} (h_s : b0.Keeps s) : b0.OKeeps (execSolveEnd ch p s) := by
  unfold execSolveEnd
  with_reducible repeat' (first | assumption | refine done_keeps ?_ | apply State.leaveChannel_keeps | apply State.endSolve_keeps | split | dsimp only | refine State.keeps_snd (by assumption) ?_ | refine State.keeps_fst (by assumption) ?_)

/-! ### Batch -/

theorem State.leaveAll_keeps {b0 : State} {s : State} (id : Nat) (h_s : b0.Keeps s) : b0.Keeps (State.leaveAll s id) := by
  unfold State.leaveAll
  with_reducible repeat' (first | assumption | apply State.leaveChannel_keeps | refine State.keeps_foldl _ (fun _ _ _ => ?_) _ _ ?_ | split | dsimp only | exact True.intro | intro _)

theorem State.batchRefuse_keeps {b0 : State} {s : State} (c : Cmd) (status : Nat) (h_s : b0.Keeps s) : b0.Keeps (State.batchRefuse s c status) := by
  unfold State.batchRefuse
  with_reducible repeat' (first | assumption | apply State.setErr_keeps | apply State.setCmd_keeps | apply State.hbmSealWrite_keeps | apply State.slvEnd_keeps | apply State.leaveAll_keeps | split | simp only [State.keeps_mk] | dsimp only)

theorem execBatchStart_keeps {b0 : State} (id : Nat) {s : State} (h_s : b0.Keeps s) : b0.OKeeps (execBatchStart id s) := by
  unfold execBatchStart
  with_reducible repeat' (first | assumption | refine done_keeps ?_ | apply State.withStarted_keeps | apply State.takeChannel_keeps | apply State.offerChannel_keeps | refine State.keeps_foldl _ (fun _ _ _ => ?_) _ _ ?_ | split | dsimp only | exact True.intro | intro _)

theorem State.setBatch_keeps {b0 : State} {s : State} (r : BatchRun) (h_s : b0.Keeps s) : b0.Keeps (State.setBatch s r) := by
  unfold State.setBatch
  with_reducible repeat' (first | assumption | simp only [State.keeps_mk] | dsimp only | exact True.intro | intro _)

theorem State.batchBegin_keeps {b0 : State} {s : State} (id : Nat) (opc : Nat) (es : List EccHit) (h_s : b0.Keeps s) : b0.Keeps (State.batchBegin s id opc es) := by
  unfold State.batchBegin
  with_reducible repeat' (first | assumption | apply State.free_keeps | apply State.setCmd_keeps | apply State.setChan_keeps | apply State.slvFault_keeps | apply State.chanReads_keeps | apply State.withChecks_keeps | apply State.batchRefuse_keeps | apply State.setBatch_keeps | refine State.keeps_foldl _ (fun _ _ _ => ?_) _ _ ?_ | split | simp only [State.keeps_mk] | dsimp only | refine State.keeps_snd (by assumption) ?_ | refine State.keeps_fst (by assumption) ?_ | exact True.intro | intro _)

theorem execBatchDense_keeps {b0 : State} (x : CmdReads) {s : State} (h_s : b0.Keeps s) : b0.OKeeps (execBatchDense x s) := by
  unfold execBatchDense
  with_reducible repeat' (first | assumption | refine done_keeps ?_ | apply State.batchBegin_keeps | dsimp only)

theorem execBatchSparse_keeps {b0 : State} (x : CmdReads) {s : State} (h_s : b0.Keeps s) : b0.OKeeps (execBatchSparse x s) := by
  unfold execBatchSparse
  with_reducible repeat' (first | assumption | refine done_keeps ?_ | apply State.batchBegin_keeps | dsimp only)

theorem State.countSystem_keeps {b0 : State} {s : State} (ch : Nat) (st : Nat) (h_s : b0.Keeps s) : b0.Keeps (State.countSystem s ch st) := by
  unfold State.countSystem
  with_reducible repeat' (first | assumption | apply State.addF_keeps | split | dsimp only)

theorem State.writeEntry_keeps {b0 : State} {s : State} (q : BatchParams) (n : Nat) (st : Nat) (flags : Nat) (h_s : b0.Keeps s) : b0.Keeps (State.writeEntry s q n st flags) := by
  unfold State.writeEntry
  with_reducible repeat' (first | assumption | apply State.hbmSealWrite_keeps | dsimp only)

theorem execBatchSystemEnd_keeps {b0 : State} (id : Nat) (y : SystemEnd) {s : State} (h_s : b0.Keeps s) : b0.OKeeps (execBatchSystemEnd id y s) := by
  unfold execBatchSystemEnd
  with_reducible repeat' (first | assumption | apply State.scratch_keeps | refine done_keeps ?_ | apply State.addF_keeps | apply State.free_keeps | apply State.setCmd_keeps | apply State.hbmSealWrite_keeps | apply State.slvFault_keeps | apply State.chanReads_keeps | apply State.setBatch_keeps | apply State.countSystem_keeps | apply State.writeEntry_keeps | split | simp only [State.keeps_mk] | dsimp only | refine State.keeps_snd (by assumption) ?_ | refine State.keeps_fst (by assumption) ?_ | exact True.intro | intro _)

theorem execBatchCommit_keeps {b0 : State} (id : Nat) {s : State} (h_s : b0.Keeps s) : b0.OKeeps (execBatchCommit id s) := by
  unfold execBatchCommit
  with_reducible repeat' (first | assumption | refine done_keeps ?_ | apply State.setCmd_keeps | apply State.hbmSealWrite_keeps | apply State.commitCmd_keeps | apply State.writeDigestRecord_keeps | apply State.slvEnd_keeps | apply State.leaveAll_keeps | apply State.countSystem_keeps | apply State.writeEntry_keeps | refine State.keeps_foldl _ (fun _ _ _ => ?_) _ _ ?_ | refine State.keeps_foldlP _ (fun _ _ _ => ?_) _ _ ?_ | refine State.keeps_foldlQ _ (fun _ _ _ => ?_) _ _ ?_ | split | simp only [State.keeps_mk] | dsimp only | refine State.keeps_snd (by assumption) ?_ | refine State.keeps_fst (by assumption) ?_ | exact True.intro | intro _)

/-! ### ChainCore -/

theorem State.setComm_keeps {b0 : State} {s : State} (c : Comm) (h_s : b0.Keeps s) : b0.Keeps (State.setComm s c) := by
  unfold State.setComm
  with_reducible repeat' (first | assumption | split | simp only [State.keeps_mk] | dsimp only | exact True.intro | intro _)

theorem State.setColl_keeps {b0 : State} {s : State} (k : Coll) (h_s : b0.Keeps s) : b0.Keeps (State.setColl s k) := by
  unfold State.setColl
  with_reducible repeat' (first | assumption | split | simp only [State.keeps_mk] | dsimp only | exact True.intro | intro _)

theorem State.sendPhase_keeps {b0 : State} {s : State} (k : Coll) (rank : Nat) (phase : Nat) (cell : Nat) (sync : Bool) (bs : List Byte) (h_s : b0.Keeps s) : b0.Keeps (State.sendPhase s k rank phase cell sync bs) := by
  unfold State.sendPhase
  with_reducible repeat' (first | assumption | apply State.enqueueCell_keeps | split | simp only [State.keeps_mk] | dsimp only)

theorem State.sendChunk_keeps {b0 : State} {s : State} (k : Coll) (rank : Nat) (phase : Nat) (first : Nat) (bs : List Byte) (h_s : b0.Keeps s) : b0.Keeps (State.sendChunk s k rank phase first bs) := by
  unfold State.sendChunk
  with_reducible repeat' (first | assumption | apply State.sendPhase_keeps | refine State.keeps_foldl _ (fun _ _ _ => ?_) _ _ ?_ | dsimp only | exact True.intro | intro _)

theorem State.sendData_keeps {b0 : State} {s : State} (k : Coll) (rank : Nat) (phase : Nat) (first : Nat) (small : Bool) (bs : List Byte) (h_s : b0.Keeps s) : b0.Keeps (State.sendData s k rank phase first small bs) := by
  unfold State.sendData
  with_reducible repeat' (first | assumption | apply State.sendPhase_keeps | apply State.sendChunk_keeps | refine State.keeps_foldl _ (fun _ _ _ => ?_) _ _ ?_ | split | dsimp only | exact True.intro | intro _)

theorem State.sendPasses_keeps {b0 : State} {s : State} (k : Coll) (rank : Nat) (phase : Nat) (small : Bool) (bs : List Byte) (h_s : b0.Keeps s) : b0.Keeps (State.sendPasses s k rank phase small bs) := by
  unfold State.sendPasses
  with_reducible repeat' (first | assumption | apply State.setColl_keeps | apply State.sendData_keeps | split | simp only [State.keeps_mk] | dsimp only | refine State.keeps_snd (by assumption) ?_ | refine State.keeps_fst (by assumption) ?_)

theorem State.nextPasses_keeps {b0 : State} {s : State} (h_s : b0.Keeps s) : b0.Keeps (State.nextPasses s) := by
  unfold State.nextPasses
  with_reducible repeat' (first | assumption | apply State.setColl_keeps | apply State.sendData_keeps | refine State.keeps_foldl _ (fun _ _ _ => ?_) _ _ ?_ | refine State.keeps_foldlP _ (fun _ _ _ => ?_) _ _ ?_ | refine State.keeps_foldlQ _ (fun _ _ _ => ?_) _ _ ?_ | split | simp only [State.keeps_mk] | dsimp only | refine State.keeps_snd (by assumption) ?_ | refine State.keeps_fst (by assumption) ?_ | exact True.intro | intro _)

end Sys2Proof.Machine
end

