-- ==== Sys2Proof/Laws/KeepsMovers.lean ====
section
/-! SUPPORT. What movers keep. -/

namespace Sys2Proof.Machine

set_option linter.unusedVariables false
set_option linter.unusedSimpArgs false
set_option maxRecDepth 4000

/-! ### Movers -/

theorem State.setMovRun_keeps {b0 : State} {s : State} (m : Mover) (r : Option MovRun) (h_s : b0.Keeps s) : b0.Keeps (State.setMovRun s m r) := by
  unfold State.setMovRun
  with_reducible repeat' (first | assumption | apply State.setBulk_keeps | apply State.setTileMover_keeps | split | simp only [State.keeps_mk] | dsimp only | refine State.keeps_snd (by assumption) ?_ | refine State.keeps_fst (by assumption) ?_)

theorem State.movCounted_keeps {b0 s : State} (m : Mover) (h_s : b0.Keeps s) : b0.Keeps (State.movCounted s m) := by
  unfold State.movCounted
  split
  · exact State.setTileMover_keeps _ _ _ h_s
  · exact State.setBulk_keeps _ _ h_s

theorem State.movFault_keeps {b0 : State} {s : State} (m : Mover) (f : JobFault) (h_s : b0.Keeps s) : b0.Keeps (State.movFault s m f) := by
  unfold State.movFault
  with_reducible repeat' (first | assumption | apply State.setErr_keeps | apply State.setBulk_keeps | apply State.bulkRelease_keeps | apply State.endFaulted_keeps | apply State.faultOpt_keeps | apply State.clusterFault_keeps | split | simp only [State.keeps_mk] | dsimp only | refine State.keeps_snd (by assumption) ?_ | refine State.keeps_fst (by assumption) ?_)

theorem State.movIssued_keeps {b0 : State} {s : State} (w : MovWho) (slot : Nat) (h_s : b0.Keeps s) : b0.Keeps (State.movIssued s w slot).2 := by
  unfold State.movIssued
  with_reducible repeat' (first | assumption | apply State.setClu_keeps | apply State.setJobEpochs_keeps | apply State.issue_keeps | split | simp only [State.keeps_mk] | dsimp only | refine State.keeps_snd (by assumption) ?_ | refine State.keeps_fst (by assumption) ?_)

theorem State.movAccess_keeps {b0 : State} {s : State} (m : Mover) (a : Nat) (len : Nat) (x : Access1) (load : Option Nat) (h_s : b0.Keeps s) : b0.Keeps (State.movAccess s m a len x load).2 := by
  unfold State.movAccess
  with_reducible repeat' (first | assumption | apply State.applyAt_keeps | apply State.sendAccess_keeps | apply State.countDone_keeps | apply State.setMovRun_keeps | apply State.movIssued_keeps | split | simp only [State.keeps_mk] | dsimp only | refine State.keeps_snd (by assumption) ?_ | refine State.keeps_fst (by assumption) ?_)

theorem State.istoreByte_keeps {b0 : State} {s : State} (c : Nat) (a : Nat) (b : Byte) (h_s : b0.Keeps s) : b0.Keeps (State.istoreByte s c a b) := by
  unfold State.istoreByte
  with_reducible repeat' (first | assumption | apply State.setClu_keeps | split | simp only [State.keeps_mk] | dsimp only | refine State.keeps_snd (by assumption) ?_ | refine State.keeps_fst (by assumption) ?_ | exact True.intro | intro _)

theorem State.movStore_keeps {b0 : State} (m : Mover) {s : State} (r : Nat × List Byte) (h_s : b0.Keeps s) : b0.Keeps (State.movStore m s r) := by
  unfold State.movStore
  with_reducible repeat' (first | assumption | apply State.setMovRun_keeps | apply State.movFault_keeps | apply State.movAccess_keeps | split | simp only [State.keeps_mk] | dsimp only | refine State.keeps_snd (by assumption) ?_ | refine State.keeps_fst (by assumption) ?_)

theorem wf_foldl_writeByte {α : Type} (f : α → Nat) (g : α → Byte) : ∀ (l : List α) (m : Memory), Memory.wf m = true → Memory.wf (l.foldl (fun h x => writeByte h (f x) (g x)) m) = true
  | [], _, h => h
  | _ :: l, _, h => wf_foldl_writeByte f g l _ (wf_writeByte _ _ _ h)

theorem State.movWrite_keeps {b0 s : State} (m : Mover) (space n : Nat) (l : List (Nat × Byte)) (h_s : b0.Keeps s) : b0.Keeps (State.movWrite s m space n l) := by
  unfold State.movWrite
  dsimp only
  split
  · exact State.keeps_foldl _ (fun _ _ h => State.spadSealTile_keeps _ _ h) _ _ (State.keeps_foldl _ (fun _ _ h => State.spadWrite_keeps _ _ _ h) _ _ h_s)
  · exact State.keeps_foldl _ (fun _ _ h => State.istoreByte_keeps _ _ _ h) _ _ h_s
  · refine State.keeps_foldl _ (fun _ _ h => State.hbmSealTile_keeps _ h) _ _ (State.keeps_foldl _ (fun _ _ h => ?_) _ _ h_s)
    split
    · exact State.hbmWrite_keeps _ _ h
    · exact State.hbmLane_keeps _ _ _ h
  · exact State.keeps_foldl _ (fun _ _ h => State.movStore_keeps _ _ h) _ _ h_s
  · exact State.keeps_foldl _ (fun _ _ h => State.spadSealTile_keeps _ _ h) _ _ (State.keeps_foldl _ (fun _ _ h => State.spadWrite_keeps _ _ _ h) _ _ h_s)
  · exact State.keeps_hostMem h_s (wf_foldl_writeByte _ _ _ _)
  · exact h_s

theorem State.movCount_keeps {b0 : State} {s : State} (m : Mover) (d : MDesc) (l : List (Nat × Byte)) (fl : Nat) (h_s : b0.Keeps s) : b0.Keeps (State.movCount s m d l fl) := by
  unfold State.movCount
  with_reducible repeat' (first | assumption | apply State.setF_keeps | apply State.addF_keeps | apply State.setCmd_keeps | apply State.setBulk_keeps | split | simp only [State.keeps_mk] | dsimp only | refine State.keeps_snd (by assumption) ?_ | refine State.keeps_fst (by assumption) ?_)

theorem State.scatterWords_keeps {b0 : State} {s : State} (nop : Nat) (l : List (Nat × List Byte)) (h_s : b0.Keeps s) : b0.Keeps (State.scatterWords s nop l) := by
  unfold State.scatterWords
  with_reducible repeat' (first | assumption | apply State.hbmLane_keeps | apply State.hbmAtomic_keeps | refine State.keeps_foldl _ (fun _ _ _ => ?_) _ _ ?_ | refine State.keeps_foldlP _ (fun _ _ _ => ?_) _ _ ?_ | refine State.keeps_foldlQ _ (fun _ _ _ => ?_) _ _ ?_ | split | dsimp only | exact True.intro | intro _)

theorem State.movFinish_keeps {b0 : State} {s : State} (m : Mover) (r : MovRun) (bad : Bool) (h_s : b0.Keeps s) : b0.Keeps (State.movFinish s m r bad) := by
  unfold State.movFinish
  with_reducible repeat' (first | assumption | apply State.hbmSealTile_keeps | apply State.setMovRun_keeps | apply State.movFault_keeps | apply State.movWrite_keeps | apply State.movCount_keeps | apply State.scatterWords_keeps | refine State.keeps_foldl _ (fun _ _ _ => ?_) _ _ ?_ | refine State.keeps_foldlP _ (fun _ _ _ => ?_) _ _ ?_ | refine State.keeps_foldlQ _ (fun _ _ _ => ?_) _ _ ?_ | split | simp only [State.keeps_mk] | dsimp only | refine State.keeps_snd (by assumption) ?_ | refine State.keeps_fst (by assumption) ?_ | exact True.intro | intro _)

theorem State.movLoads_keeps {b0 : State} (m : Mover) : ∀ (n : Nat) (r : MovRun) {s : State}, b0.Keeps s → b0.Keeps (State.movLoads m n r s).2
  | 0, _, _, h => h
  | n + 1, r, s, h => by
    unfold State.movLoads; dsimp only
    split
    · exact h
    split
    · exact h
    split
    · have h1 := State.keeps_snd (by assumption) (State.movAccess_keeps m _ 64 .load _ h)
      repeat' split
      all_goals first | exact h1 | exact State.movLoads_keeps m n _ h1
    · exact State.keeps_snd (by assumption) (State.movAccess_keeps m _ 64 .load _ h)

theorem State.movFeed_keeps {b0 s : State} (m : Mover) (r : MovRun) (h_s : b0.Keeps s) : b0.Keeps (State.movFeed s m r) := by
  unfold State.movFeed
  have h1 := State.movLoads_keeps m r.loads.length r (State.setMovRun_keeps m (some r) h_s)
  split
  · exact State.movFault_keeps _ _ (State.keeps_snd (by assumption) h1)
  · have h2 := State.keeps_snd (by assumption) h1
    split
    · exact State.movFinish_keeps _ _ _ h2
    · exact State.setMovRun_keeps _ _ h2

theorem State.movTouch_keeps {b0 : State} {s : State} (w : MovWho) (d : MDesc) (h_s : b0.Keeps s) : b0.Keeps (State.movTouch s w d) := by
  unfold State.movTouch
  with_reducible repeat' (first | assumption | apply State.memReads_keeps | apply State.narrowRead_keeps | refine State.keeps_foldl _ (fun _ _ _ => ?_) _ _ ?_ | split | dsimp only | exact True.intro | intro _)

theorem State.movBegin_keeps {b0 : State} {s : State} (m : Mover) (ws : List Word) (addr : Nat) (es : List EccHit) (h_s : b0.Keeps s) : b0.Keeps (State.movBegin s m ws addr es) := by
  unfold State.movBegin
  with_reducible repeat' (first | assumption | apply State.emit_keeps | apply State.eccHits_keeps | apply State.setMovRun_keeps | apply State.movCounted_keeps | apply State.movFault_keeps | apply State.movFinish_keeps | apply State.movFeed_keeps | apply State.movTouch_keeps | refine State.keeps_foldl _ (fun _ _ _ => ?_) _ _ ?_ | split | simp only [State.keeps_mk] | dsimp only | exact True.intro | intro _)

theorem State.movStep_keeps {b0 : State} {s : State} (m : Mover) (op : Nat) (es : List EccHit) (h_s : b0.Keeps s) : b0.Keeps (State.movStep s m op es) := by
  unfold State.movStep
  with_reducible repeat' (first | assumption | apply State.memRead_keeps | apply State.eccHits_keeps | apply State.movFault_keeps | apply State.movBegin_keeps | split | dsimp only | refine State.keeps_snd (by assumption) ?_ | refine State.keeps_fst (by assumption) ?_)

theorem execMoverCopy_keeps {b0 : State} (x : MoverOp) {s : State} (h_s : b0.Keeps s) : b0.OKeeps (execMoverCopy x s) := by
  unfold execMoverCopy
  with_reducible repeat' (first | assumption | refine done_keeps ?_ | apply State.movStep_keeps | dsimp only)

theorem execMoverGather_keeps {b0 : State} (x : MoverOp) {s : State} (h_s : b0.Keeps s) : b0.OKeeps (execMoverGather x s) := by
  unfold execMoverGather
  with_reducible repeat' (first | assumption | refine done_keeps ?_ | apply State.movStep_keeps | dsimp only)

theorem execMoverScatter_keeps {b0 : State} (x : MoverOp) {s : State} (h_s : b0.Keeps s) : b0.OKeeps (execMoverScatter x s) := by
  unfold execMoverScatter
  with_reducible repeat' (first | assumption | refine done_keeps ?_ | apply State.movStep_keeps | dsimp only)

theorem execMoverSeal_keeps {b0 : State} (x : MoverOp) {s : State} (h_s : b0.Keeps s) : b0.OKeeps (execMoverSeal x s) := by
  unfold execMoverSeal
  with_reducible repeat' (first | assumption | refine done_keeps ?_ | apply State.movStep_keeps | dsimp only)

theorem State.movHostErr_keeps {b0 : State} {s : State} (m : Mover) (r : MovRun) (h_s : b0.Keeps s) : b0.Keeps (State.movHostErr s m r) := by
  unfold State.movHostErr
  with_reducible repeat' (first | assumption | apply State.setErr_keeps | apply State.movFinish_keeps | split | simp only [State.keeps_mk] | dsimp only | refine State.keeps_snd (by assumption) ?_ | refine State.keeps_fst (by assumption) ?_)

theorem execHostCompletion_keeps {b0 : State} (m : Mover) (ok : Bool) {s : State} (h_s : b0.Keeps s) : b0.OKeeps (execHostCompletion m ok s) := by
  unfold execHostCompletion
  with_reducible repeat' (first | assumption | refine done_keeps ?_ | apply State.setMovRun_keeps | apply State.movFinish_keeps | apply State.movHostErr_keeps | split | simp only [State.keeps_mk] | dsimp only | refine State.keeps_snd (by assumption) ?_ | refine State.keeps_fst (by assumption) ?_ | exact True.intro | intro _)

theorem execHostTimeout_keeps {b0 : State} (m : Mover) {s : State} (h_s : b0.Keeps s) : b0.OKeeps (execHostTimeout m s) := by
  unfold execHostTimeout
  with_reducible repeat' (first | assumption | refine done_keeps ?_ | apply State.movHostErr_keeps | split | dsimp only | refine State.keeps_snd (by assumption) ?_ | refine State.keeps_fst (by assumption) ?_)

theorem State.tileRecord_keeps {b0 : State} {s : State} (c : Nat) (m : Nat) (r : MovRun) (h_s : b0.Keeps s) : b0.Keeps (State.tileRecord s c m r) := by
  unfold State.tileRecord
  with_reducible repeat' (first | assumption | apply State.spadWrite_keeps | split | dsimp only)

theorem State.bulkBoundary_keeps {b0 : State} {s : State} (ch : Nat) (h_s : b0.Keeps s) : b0.Keeps (State.bulkBoundary s ch) := by
  unfold State.bulkBoundary
  with_reducible repeat' (first | assumption | apply State.setCmd_keeps | apply State.setBulk_keeps | apply State.bulkRelease_keeps | split | simp only [State.keeps_mk] | dsimp only | refine State.keeps_snd (by assumption) ?_ | refine State.keeps_fst (by assumption) ?_)

theorem State.writeStatus_keeps {b0 : State} {s : State} (p : Nat) (addr : Nat) (h_s : b0.Keeps s) : b0.Keeps (State.writeStatus s p addr) := by
  unfold State.writeStatus
  with_reducible repeat' (first | assumption | apply State.hbmSealWrite_keeps | apply State.ringWrite_keeps | split | dsimp only)

theorem execDescriptorEnd_keeps {b0 : State} (m : Mover) {s : State} (h_s : b0.Keeps s) : b0.OKeeps (execDescriptorEnd m s) := by
  unfold execDescriptorEnd
  with_reducible repeat' (first | assumption | refine done_keeps ?_ | apply State.setF_keeps | apply State.addF_keeps | apply State.setErr_keeps | apply State.setBulk_keeps | apply State.setTileMover_keeps | apply State.settle_keeps | apply State.tileRecord_keeps | apply State.bulkBoundary_keeps | apply State.writeStatus_keeps | split | simp only [State.keeps_mk] | dsimp only | refine State.keeps_snd (by assumption) ?_ | refine State.keeps_fst (by assumption) ?_)

theorem execMove_keeps {b0 : State} (id : Nat) {s : State} (h_s : b0.Keeps s) : b0.OKeeps (execMove id s) := by
  unfold execMove
  with_reducible repeat' (first | assumption | refine done_keeps ?_ | apply State.setF_keeps | apply State.setCmd_keeps | apply State.setBulk_keeps | apply State.bulkRelease_keeps | apply State.withStarted_keeps | split | simp only [State.keeps_mk] | dsimp only | exact True.intro | intro _)

theorem execMoveDeadline_keeps {b0 : State} (id : Nat) {s : State} (h_s : b0.Keeps s) : b0.OKeeps (execMoveDeadline id s) := by
  unfold execMoveDeadline
  with_reducible repeat' (first | assumption | refine done_keeps ?_ | apply State.setCmd_keeps | apply State.bulkBoundary_keeps | split | simp only [State.keeps_mk] | dsimp only | refine State.keeps_snd (by assumption) ?_ | refine State.keeps_fst (by assumption) ?_)

theorem State.movStop_keeps {b0 : State} {s : State} (ch : Nat) (h_s : b0.Keeps s) : b0.Keeps (State.movStop s ch) := by
  unfold State.movStop
  with_reducible repeat' (first | assumption | apply State.setBulk_keeps | split | simp only [State.keeps_mk] | dsimp only)

theorem State.movResume_keeps {b0 : State} {s : State} (ch : Nat) (h_s : b0.Keeps s) : b0.Keeps (State.movResume s ch) := by
  unfold State.movResume
  with_reducible repeat' (first | assumption | apply State.setBulk_keeps | simp only [State.keeps_mk] | dsimp only)

theorem State.moverLoad_keeps {b0 : State} {s : State} (m : Mover) (run : Nat) (n : Nat) (data : Option (List Byte)) (h_s : b0.Keeps s) : b0.Keeps (State.moverLoad s m run n data) := by
  unfold State.moverLoad
  with_reducible repeat' (first | assumption | apply State.movFault_keeps | apply State.movFeed_keeps | split | simp only [State.keeps_mk] | dsimp only | refine State.keeps_snd (by assumption) ?_ | refine State.keeps_fst (by assumption) ?_ | exact True.intro | intro _)

theorem State.moverStored_keeps {b0 : State} {s : State} (m : Mover) (run : Nat) (h_s : b0.Keeps s) : b0.Keeps (State.moverStored s m run) := by
  unfold State.moverStored
  with_reducible repeat' (first | assumption | apply State.setMovRun_keeps | split | simp only [State.keeps_mk] | dsimp only | refine State.keeps_snd (by assumption) ?_ | refine State.keeps_fst (by assumption) ?_)

end Sys2Proof.Machine
end

