-- ==== Sys2Proof/Laws/KeepsFabric.lean ====
section
/-! SUPPORT. What cells and chains keep. -/

namespace Sys2Proof.Machine

set_option linter.unusedVariables false
set_option linter.unusedSimpArgs false
set_option maxRecDepth 4000

/-! ### Fabric -/

theorem State.setRx_keeps {b0 : State} {s : State} (die : Nat) (k : FlowKey) (f : RxFlow) (h_s : b0.Keeps s) : b0.Keeps (State.setRx s die k f) := by
  unfold State.setRx
  with_reducible repeat' (first | assumption | simp only [State.keeps_mk] | dsimp only | exact True.intro | intro _)

theorem State.markApplied_keeps {b0 : State} {s : State} (die : Nat) (k : FlowKey) (seq : Nat) (ack : Bool) (h_s : b0.Keeps s) : b0.Keeps (State.markApplied s die k seq ack) := by
  unfold State.markApplied
  with_reducible repeat' (first | assumption | apply State.setRx_keeps | split | simp only [State.keeps_mk] | dsimp only)

theorem State.replyOcc_keeps {b0 : State} {s : State} (die : Nat) (h_s : b0.Keeps s) : b0.Keeps (State.replyOcc s die) := by
  unfold State.replyOcc
  with_reducible repeat' (first | assumption | apply State.setF_keeps | dsimp only)

theorem State.replyFloor_keeps {b0 : State} {s : State} (die : Nat) (k : FlowKey) (floor : Nat) (h_s : b0.Keeps s) : b0.Keeps (State.replyFloor s die k floor) := by
  unfold State.replyFloor
  with_reducible repeat' (first | assumption | apply State.replyOcc_keeps | split | simp only [State.keeps_mk] | dsimp only | exact True.intro | intro _)

theorem State.replyAdd_keeps {b0 : State} {s : State} (die : Nat) (k : FlowKey) (seq : Nat) (h_s : b0.Keeps s) : b0.Keeps (State.replyAdd s die k seq) := by
  unfold State.replyAdd
  with_reducible repeat' (first | assumption | apply State.replyOcc_keeps | simp only [State.keeps_mk] | dsimp only)

theorem State.replySet_keeps {b0 : State} {s : State} (die : Nat) (k : FlowKey) (seq : Nat) (resp : Nat) (data : List Byte) (h_s : b0.Keeps s) : b0.Keeps (State.replySet s die k seq resp data) := by
  unfold State.replySet
  with_reducible repeat' (first | assumption | split | simp only [State.keeps_mk] | dsimp only | exact True.intro | intro _)

theorem State.sendPlain_keeps {b0 : State} {s : State} (x : Cell) (h_s : b0.Keeps s) : b0.Keeps (State.sendPlain s x) := by
  unfold State.sendPlain
  with_reducible repeat' (first | assumption | apply State.sendCell_keeps | split | simp only [State.keeps_mk] | dsimp only | refine State.keeps_snd (by assumption) ?_ | refine State.keeps_fst (by assumption) ?_)

theorem State.sendReply_keeps {b0 : State} {s : State} (x : Cell) (srcRank : Nat) (resp : Nat) (data : List Byte) (h_s : b0.Keeps s) : b0.Keeps (State.sendReply s x srcRank resp data) := by
  unfold State.sendReply
  with_reducible repeat' (first | assumption | apply State.sendPlain_keeps | simp only [State.keeps_mk] | dsimp only)

theorem State.answer_keeps {b0 : State} {s : State} (slot : Nat) (x : Cell) (resp : Nat) (data : List Byte) (h_s : b0.Keeps s) : b0.Keeps (State.answer s slot x resp data) := by
  unfold State.answer
  with_reducible repeat' (first | assumption | apply State.sendReply_keeps | split | dsimp only)

theorem State.dropCell_keeps {b0 : State} {s : State} (die : Nat) (h_s : b0.Keeps s) : b0.Keeps (State.dropCell s die) := by
  unfold State.dropCell
  with_reducible repeat' (first | assumption | apply State.addF_keeps | apply State.setErr_keeps | dsimp only)

theorem State.receive_keeps {b0 : State} {s : State} (x : Cell) (h_s : b0.Keeps s) : b0.Keeps (State.receive s x).2 := by
  unfold State.receive
  with_reducible repeat' (first | assumption | apply State.addF_keeps | apply State.setErr_keeps | apply State.arrive_keeps | apply State.flowTouch_keeps | apply State.setRx_keeps | apply State.replyFloor_keeps | apply State.answer_keeps | apply State.dropCell_keeps | split | simp only [State.keeps_mk] | dsimp only | refine State.keeps_snd (by assumption) ?_ | refine State.keeps_fst (by assumption) ?_)

theorem State.countDup_keeps {b0 : State} {s : State} (die : Nat) (h_s : b0.Keeps s) : b0.Keeps (State.countDup s die) := by
  unfold State.countDup
  with_reducible repeat' (first | assumption | apply State.addF_keeps | dsimp only)

theorem State.applyRead_keeps {b0 : State} {s : State} (w : Window) (off len : Nat) (x : Access1) (es : List EccHit) (h_s : b0.Keeps s) :
    b0.Keeps (State.applyRead s w off len x es).2 := by
  unfold State.applyRead
  with_reducible repeat' (first | assumption | apply State.applyAt_keeps | apply State.eccHits_keeps | split | dsimp only)

theorem State.applyLoad_keeps {b0 : State} {s : State} (slot : Nat) (x : Cell) (es : List EccHit) (h_s : b0.Keeps s) : b0.Keeps (State.applyLoad s slot x es) := by
  unfold State.applyLoad
  with_reducible repeat' (first | assumption | apply State.applyRead_keeps | apply State.applyAt_keeps | apply State.answer_keeps | split | dsimp only | refine State.keeps_snd (by assumption) ?_ | refine State.keeps_fst (by assumption) ?_)

theorem State.applyAtomic_keeps {b0 : State} {s : State} (slot : Nat) (x : Cell) (op : Nat) (d : Word) (d1 : Word) (es : List EccHit) (h_s : b0.Keeps s) : b0.Keeps (State.applyAtomic s slot x op d d1 es).2 := by
  unfold State.applyAtomic
  with_reducible repeat' (first | assumption | apply State.applyRead_keeps | apply State.applyAt_keeps | split | dsimp only | refine State.keeps_snd (by assumption) ?_ | refine State.keeps_fst (by assumption) ?_)

theorem State.applyOne_keeps {b0 : State} {s : State} (a : Arrival) (x : Cell) (es : List EccHit) (h_s : b0.Keeps s) : b0.Keeps (State.applyOne s a x es) := by
  unfold State.applyOne
  with_reducible repeat' (first | assumption | apply State.markApplied_keeps | apply State.replyAdd_keeps | apply State.replySet_keeps | apply State.answer_keeps | apply State.applyLoad_keeps | apply State.applyAtomic_keeps | split | dsimp only | refine State.keeps_snd (by assumption) ?_ | refine State.keeps_fst (by assumption) ?_)

theorem State.setComb_keeps {b0 : State} {s : State} (e : CombEntry) (h_s : b0.Keeps s) : b0.Keeps (State.setComb s e) := by
  unfold State.setComb
  with_reducible repeat' (first | assumption | split | simp only [State.keeps_mk] | dsimp only | exact True.intro | intro _)

theorem State.delComb_keeps {b0 : State} {s : State} (e : CombEntry) (h_s : b0.Keeps s) : b0.Keeps (State.delComb s e) := by
  unfold State.delComb
  with_reducible repeat' (first | assumption | simp only [State.keeps_mk] | dsimp only | exact True.intro | intro _)

theorem State.combAnswer_keeps {b0 : State} {s : State} (e : CombEntry) (rank : Nat) (resp : Nat) (data : List Byte) (h_s : b0.Keeps s) : b0.Keeps (State.combAnswer s e rank resp data) := by
  unfold State.combAnswer
  with_reducible repeat' (first | assumption | apply State.replySet_keeps | apply State.sendReply_keeps | apply State.delComb_keeps | refine State.keeps_foldl _ (fun _ _ _ => ?_) _ _ ?_ | refine State.keeps_foldlP _ (fun _ _ _ => ?_) _ _ ?_ | refine State.keeps_foldlQ _ (fun _ _ _ => ?_) _ _ ?_ | split | dsimp only | refine State.keeps_snd (by assumption) ?_ | refine State.keeps_fst (by assumption) ?_ | exact True.intro | intro _)

theorem State.closeTarget_keeps {b0 : State} {s : State} (e : CombEntry) (es : List EccHit) (h_s : b0.Keeps s) : b0.Keeps (State.closeTarget s e es) := by
  unfold State.closeTarget
  with_reducible repeat' (first | assumption | apply State.applyRead_keeps | apply State.addF_keeps | apply State.applyAt_keeps | apply State.applyAtomic_keeps | apply State.applyOne_keeps | apply State.delComb_keeps | apply State.combAnswer_keeps | split | dsimp only | refine State.keeps_snd (by assumption) ?_ | refine State.keeps_fst (by assumption) ?_)

theorem State.forward_keeps {b0 : State} {s : State} (die : Nat) (x : Cell) (h_s : b0.Keeps s) : b0.Keeps (State.forward s die x) := by
  unfold State.forward
  with_reducible repeat' (first | assumption | apply State.addF_keeps | apply State.free_keeps | apply State.sendCell_keeps | split | dsimp only | refine State.keeps_snd (by assumption) ?_ | refine State.keeps_fst (by assumption) ?_)

theorem State.closeTransit_keeps {b0 : State} {s : State} (e : CombEntry) (h_s : b0.Keeps s) : b0.Keeps (State.closeTransit s e) := by
  unfold State.closeTransit
  with_reducible repeat' (first | assumption | apply State.addF_keeps | apply State.setTx_keeps | apply State.setComb_keeps | apply State.delComb_keeps | apply State.combAnswer_keeps | apply State.forward_keeps | split | simp only [State.keeps_mk] | dsimp only | refine State.keeps_snd (by assumption) ?_ | refine State.keeps_fst (by assumption) ?_ | refine State.launchCell_keeps (by assumption) ?_)

theorem State.closeComb_keeps {b0 : State} {s : State} (e : CombEntry) (es : List EccHit) (h_s : b0.Keeps s) : b0.Keeps (State.closeComb s e es) := by
  unfold State.closeComb
  with_reducible repeat' (first | assumption | apply State.closeTarget_keeps | apply State.closeTransit_keeps | split | dsimp only)

theorem State.tryCombine_keeps {b0 s t : State} {die : Nat} {target : Bool} {x : Cell} {es : List EccHit} (e : s.tryCombine die target x es = some t) (h : b0.Keeps s) : b0.Keeps t := by
  unfold State.tryCombine at e; dsimp only at e
  repeat' (first | contradiction | split at e)
  all_goals cases e
  all_goals repeat' (first | with_reducible assumption | with_reducible apply State.closeComb_keeps | with_reducible apply State.markApplied_keeps | with_reducible apply State.replyAdd_keeps | with_reducible apply State.setComb_keeps | split | simp only [State.keeps_mk])

theorem State.applyCell_keeps {b0 : State} {s : State} (a : Arrival) (x : Cell) (es : List EccHit) (h_s : b0.Keeps s) : b0.Keeps (State.applyCell s a x es) := by
  unfold State.applyCell
  with_reducible repeat' (first | assumption | apply State.addF_keeps | apply State.setErr_keeps | apply State.answer_keeps | apply State.countDup_keeps | apply State.applyLoad_keeps | apply State.applyOne_keeps | split | dsimp only | refine State.keeps_snd (by assumption) ?_ | refine State.keeps_fst (by assumption) ?_ | exact True.intro | intro _ | refine State.tryCombine_keeps (by assumption) ?_)

theorem State.hubUe_keeps {b0 : State} {s : State} (die slot : Nat) (h_s : b0.Keeps s) : b0.Keeps (State.hubUe s die slot) := by
  unfold State.hubUe
  with_reducible repeat' (first | assumption | apply State.jobFault_keeps | apply State.setErr_keeps | dsimp only)

theorem State.bufferUe_keeps {b0 : State} {s : State} (port : Nat) (x : Cell) (h_s : b0.Keeps s) : b0.Keeps (State.bufferUe s port x) := by
  unfold State.bufferUe
  with_reducible repeat' (first | assumption | apply State.jobFault_keeps | apply State.setErr_keeps | split | dsimp only)

theorem State.takeCell_keeps {b0 : State} {s : State} (types : List Nat) (x : Cell) (es : List EccHit) (h_s : b0.Keeps s) : b0.Keeps (State.takeCell s types x es) := by
  unfold State.takeCell
  with_reducible repeat' (first | assumption | apply State.hubUe_keeps | apply State.receive_keeps | apply State.applyCell_keeps | split | dsimp only | refine State.keeps_snd (by assumption) ?_ | refine State.keeps_fst (by assumption) ?_)

theorem execLoadCell_keeps {b0 : State} (x : CellReads) {s : State} (h_s : b0.Keeps s) : b0.OKeeps (execLoadCell x s) := by
  unfold execLoadCell
  with_reducible repeat' (first | assumption | refine done_keeps ?_ | apply State.takeCell_keeps | dsimp only)

theorem execAtomicCell_keeps {b0 : State} (x : CellReads) {s : State} (h_s : b0.Keeps s) : b0.OKeeps (execAtomicCell x s) := by
  unfold execAtomicCell
  with_reducible repeat' (first | assumption | refine done_keeps ?_ | apply State.takeCell_keeps | dsimp only)

theorem execAtomicFCell_keeps {b0 : State} (x : CellReads) {s : State} (h_s : b0.Keeps s) : b0.OKeeps (execAtomicFCell x s) := by
  unfold execAtomicFCell
  with_reducible repeat' (first | assumption | refine done_keeps ?_ | apply State.takeCell_keeps | dsimp only)

theorem execCombAtomicCell_keeps {b0 : State} (x : CellReads) {s : State} (h_s : b0.Keeps s) : b0.OKeeps (execCombAtomicCell x s) := by
  unfold execCombAtomicCell
  with_reducible repeat' (first | assumption | refine done_keeps ?_ | apply State.takeCell_keeps | dsimp only)

theorem execCombLoadCell_keeps {b0 : State} (x : CellReads) {s : State} (h_s : b0.Keeps s) : b0.OKeeps (execCombLoadCell x s) := by
  unfold execCombLoadCell
  with_reducible repeat' (first | assumption | refine done_keeps ?_ | apply State.takeCell_keeps | dsimp only)

theorem execStoreCell_keeps {b0 : State} (x : CellReads) {s : State} (h_s : b0.Keeps s) : b0.OKeeps (execStoreCell x s) := by
  unfold execStoreCell
  with_reducible repeat' (first | assumption | apply State.hubUe_keeps | apply State.applyRead_keeps | refine done_keeps ?_ | apply State.applyAt_keeps | apply State.markApplied_keeps | apply State.answer_keeps | apply State.receive_keeps | apply State.countDup_keeps | split | dsimp only | refine State.keeps_snd (by assumption) ?_ | refine State.keeps_fst (by assumption) ?_)

theorem execCombineWindowClose_keeps {b0 : State} (die : BitVec 1) (x : CombClose) {s : State} (h_s : b0.Keeps s) : b0.OKeeps (execCombineWindowClose die x s) := by
  unfold execCombineWindowClose
  with_reducible repeat' (first | assumption | refine done_keeps ?_ | apply State.closeComb_keeps | split | dsimp only | refine State.keeps_snd (by assumption) ?_ | refine State.keeps_fst (by assumption) ?_ | exact True.intro | intro _)

theorem execReplyCacheAge_keeps {b0 : State} (die : BitVec 1) (k : FlowKey) {s : State} (h_s : b0.Keeps s) : b0.OKeeps (execReplyCacheAge die k s) := by
  unfold execReplyCacheAge
  with_reducible repeat' (first | assumption | refine done_keeps ?_ | apply State.addF_keeps | apply State.replyOcc_keeps | split | simp only [State.keeps_mk] | dsimp only | exact True.intro | intro _)

theorem execTransitCell_keeps {b0 : State} (port : BitVec 5) (x : PortCell) {s : State} (h_s : b0.Keeps s) : b0.OKeeps (execTransitCell port x s) := by
  unfold execTransitCell
  with_reducible repeat' (first | assumption | apply State.bufferUe_keeps | refine done_keeps ?_ | apply State.arrive_keeps | apply State.replyFloor_keeps | apply State.sendReply_keeps | apply State.dropCell_keeps | apply State.countDup_keeps | apply State.forward_keeps | split | simp only [State.keeps_mk] | dsimp only | refine State.keeps_snd (by assumption) ?_ | refine State.keeps_fst (by assumption) ?_ | refine State.tryCombine_keeps (by assumption) ?_)

theorem State.ownerAnswer_keeps {b0 : State} {s : State} (slot : Nat) (c : TxCell) (data : Option (List Byte)) (h_s : b0.Keeps s) : b0.Keeps (State.ownerAnswer s slot c data) := by
  unfold State.ownerAnswer
  with_reducible repeat' (first | assumption | apply State.setThr_keeps | apply State.jobFault_keeps | apply State.clusterFault_keeps | apply State.setSp_keeps | apply State.setJobX_keeps | apply State.sporeFlush_keeps | apply State.movFault_keeps | apply State.moverLoad_keeps | apply State.moverStored_keeps | apply State.combAnswer_keeps | split | simp only [State.keeps_mk] | dsimp only | refine State.keeps_snd (by assumption) ?_ | refine State.keeps_fst (by assumption) ?_ | exact True.intro | intro _)

theorem State.refill_keeps {b0 : State} (slot : Nat) (k : FlowKey) : ∀ (n : Nat) {s : State}, b0.Keeps s → b0.Keeps (State.refill s slot k n)
  | 0, _, h => h
  | n + 1, s, h => by
    unfold State.refill; dsimp only
    repeat' (first | with_reducible assumption | with_reducible apply State.refill_keeps slot k n | with_reducible apply State.setTx_keeps | with_reducible apply State.routeFault_keeps | split | refine State.launchCell_keeps (by assumption) ?_)

theorem State.completeCell_keeps {b0 : State} {s : State} (k : FlowKey) (c : TxCell) (data : Option (List Byte)) (h_s : b0.Keeps s) : b0.Keeps (State.completeCell s k c data) := by
  unfold State.completeCell
  with_reducible repeat' (first | assumption | apply State.setTx_keeps | apply State.settleAll_keeps | apply State.countDone_keeps | apply State.nextPasses_keeps | apply State.ownerAnswer_keeps | apply State.refill_keeps | split | simp only [State.keeps_mk] | dsimp only | refine State.keeps_snd (by assumption) ?_ | refine State.keeps_fst (by assumption) ?_ | exact True.intro | intro _)

theorem State.atomicUnknown_keeps {b0 : State} {s : State} (slot : Nat) (die : Nat) (h_s : b0.Keeps s) : b0.Keeps (State.atomicUnknown s slot die) := by
  unfold State.atomicUnknown
  with_reducible repeat' (first | assumption | apply State.setErr_keeps | apply State.jobFault_keeps | dsimp only)

theorem State.cellUnknown_keeps {b0 : State} {s : State} (slot : Nat) (k : FlowKey) (c : TxCell) (h_s : b0.Keeps s) : b0.Keeps (State.cellUnknown s slot k c) := by
  unfold State.cellUnknown
  with_reducible repeat' (first | assumption | apply State.setTx_keeps | apply State.combAnswer_keeps | apply State.atomicUnknown_keeps | split | simp only [State.keeps_mk] | dsimp only | refine State.keeps_snd (by assumption) ?_ | refine State.keeps_fst (by assumption) ?_ | exact True.intro | intro _)

theorem State.dropStale_keeps {b0 : State} {s : State} (h_s : b0.Keeps s) : b0.Keeps (State.dropStale s) := by
  unfold State.dropStale
  with_reducible repeat' (first | assumption | apply State.addF_keeps | apply State.setErr_keeps | dsimp only)

theorem execReplyCell_keeps {b0 : State} (x : Cell) {s : State} (h_s : b0.Keeps s) : b0.OKeeps (execReplyCell x s) := by
  unfold execReplyCell
  with_reducible repeat' (first | assumption | refine done_keeps ?_ | apply State.arrive_keeps | apply State.setTx_keeps | apply State.dropCell_keeps | apply State.completeCell_keeps | apply State.cellUnknown_keeps | apply State.dropStale_keeps | split | simp only [State.keeps_mk] | dsimp only | refine State.keeps_snd (by assumption) ?_ | refine State.keeps_fst (by assumption) ?_ | exact True.intro | intro _)

theorem execAckCell_keeps {b0 : State} (x : Cell) {s : State} (h_s : b0.Keeps s) : b0.OKeeps (execAckCell x s) := by
  unfold execAckCell
  with_reducible repeat' (first | assumption | refine done_keeps ?_ | apply State.arrive_keeps | apply State.dropCell_keeps | apply State.completeCell_keeps | apply State.dropStale_keeps | refine State.keeps_foldl _ (fun _ _ _ => ?_) _ _ ?_ | split | simp only [State.keeps_mk] | dsimp only | exact True.intro | intro _)

theorem execFloorCell_keeps {b0 : State} (x : Cell) {s : State} (h_s : b0.Keeps s) : b0.OKeeps (execFloorCell x s) := by
  unfold execFloorCell
  with_reducible repeat' (first | assumption | refine done_keeps ?_ | apply State.arrive_keeps | apply State.setRx_keeps | apply State.replyFloor_keeps | apply State.dropCell_keeps | apply State.dropStale_keeps | split | dsimp only | exact True.intro | intro _)

theorem execAckSend_keeps {b0 : State} (die : BitVec 1) (k : FlowKey) {s : State} (h_s : b0.Keeps s) : b0.OKeeps (execAckSend die k s) := by
  unfold execAckSend
  with_reducible repeat' (first | assumption | refine done_keeps ?_ | apply State.setRx_keeps | apply State.sendPlain_keeps | refine State.keeps_foldl _ (fun _ _ _ => ?_) _ _ ?_ | split | simp only [State.keeps_mk] | dsimp only | exact True.intro | intro _)

theorem State.sendFloor_keeps {b0 : State} {s : State} (k : FlowKey) (h_s : b0.Keeps s) : b0.Keeps (State.sendFloor s k) := by
  unfold State.sendFloor
  with_reducible repeat' (first | assumption | apply State.setTx_keeps | apply State.sendPlain_keeps | split | simp only [State.keeps_mk] | dsimp only | refine State.keeps_snd (by assumption) ?_ | refine State.keeps_fst (by assumption) ?_)

theorem execFloorTimer_keeps {b0 : State} (k : FlowKey) {s : State} (h_s : b0.Keeps s) : b0.OKeeps (execFloorTimer k s) := by
  unfold execFloorTimer
  with_reducible repeat' (first | assumption | refine done_keeps ?_ | apply State.sendFloor_keeps | split | dsimp only)

theorem State.failSlot_keeps {b0 : State} {s : State} (key : Nat) (slot : Nat) (die : Nat) (h_s : b0.Keeps s) : b0.Keeps (State.failSlot s key slot die) := by
  unfold State.failSlot
  with_reducible repeat' (first | assumption | apply State.setF_keeps | apply State.addF_keeps | apply State.cellUnknown_keeps | refine State.keeps_foldl _ (fun _ _ _ => ?_) _ _ ?_ | refine State.keeps_foldlP _ (fun _ _ _ => ?_) _ _ ?_ | refine State.keeps_foldlQ _ (fun _ _ _ => ?_) _ _ ?_ | split | dsimp only | exact True.intro | intro _)

theorem State.frondSwitch_keeps {b0 : State} {s : State} (slot : Nat) (h_s : b0.Keeps s) : b0.Keeps (State.frondSwitch s slot) := by
  unfold State.frondSwitch
  with_reducible repeat' (first | assumption | apply State.setF_keeps | apply State.setErr_keeps | apply State.routeFault_keeps | apply State.setJobX_keeps | split | simp only [State.keeps_mk] | dsimp only | refine State.keeps_snd (by assumption) ?_ | refine State.keeps_fst (by assumption) ?_ | exact True.intro | intro _)

theorem State.flowLost_keeps {b0 : State} {s : State} (k : FlowKey) (h_s : b0.Keeps s) : b0.Keeps (State.flowLost s k) := by
  unfold State.flowLost
  with_reducible repeat' (first | assumption | apply State.routeFault_keeps | apply State.setMovRun_keeps | apply State.movFinish_keeps | apply State.cellUnknown_keeps | apply State.frondSwitch_keeps | refine State.keeps_foldl _ (fun _ _ _ => ?_) _ _ ?_ | refine State.keeps_foldlP _ (fun _ _ _ => ?_) _ _ ?_ | refine State.keeps_foldlQ _ (fun _ _ _ => ?_) _ _ ?_ | split | simp only [State.keeps_mk] | dsimp only | refine State.keeps_snd (by assumption) ?_ | refine State.keeps_fst (by assumption) ?_ | exact True.intro | intro _)

theorem State.loseFlows_keeps {b0 : State} {s : State} (h_s : b0.Keeps s) : b0.Keeps (State.loseFlows s) := by
  unfold State.loseFlows
  with_reducible repeat' (first | assumption | apply State.flowLost_keeps | refine State.keeps_foldl _ (fun _ _ _ => ?_) _ _ ?_ | refine State.keeps_foldlP _ (fun _ _ _ => ?_) _ _ ?_ | refine State.keeps_foldlQ _ (fun _ _ _ => ?_) _ _ ?_ | split | dsimp only | refine State.keeps_snd (by assumption) ?_ | refine State.keeps_fst (by assumption) ?_ | exact True.intro | intro _)

theorem execRetransmitTimeout_keeps {b0 : State} (k : FlowKey) (seq : BitVec 32) {s : State} (h_s : b0.Keeps s) : b0.OKeeps (execRetransmitTimeout k seq s) := by
  unfold execRetransmitTimeout
  with_reducible repeat' (first | assumption | refine done_keeps ?_ | apply State.addF_keeps | apply State.setTx_keeps | apply State.failSlot_keeps | apply State.flowLost_keeps | apply State.loseFlows_keeps | split | simp only [State.keeps_mk] | dsimp only | refine State.keeps_snd (by assumption) ?_ | refine State.keeps_fst (by assumption) ?_ | exact True.intro | intro _ | refine State.launchCell_keeps (by assumption) ?_)

theorem State.resendLink_keeps {b0 : State} {s : State} (p : Nat) (from_ : BitVec 12) (h_s : b0.Keeps s) : b0.Keeps (State.resendLink s p from_) := by
  unfold State.resendLink
  with_reducible repeat' (first | assumption | apply State.emit_keeps | refine State.keeps_foldl _ (fun _ _ _ => ?_) _ _ ?_ | split | dsimp only | refine State.keeps_snd (by assumption) ?_ | refine State.keeps_fst (by assumption) ?_ | exact True.intro | intro _)

theorem execLinkReplay_keeps {b0 : State} (port : BitVec 5) (r : ReplayReq) {s : State} (h_s : b0.Keeps s) : b0.OKeeps (execLinkReplay port r s) := by
  unfold execLinkReplay
  with_reducible repeat' (first | assumption | refine done_keeps ?_ | apply State.setF_keeps | apply State.addF_keeps | apply State.emit_keeps | apply State.setErr_keeps | apply State.setLink_keeps | apply State.sporeWarn_keeps | apply State.resendLink_keeps | split | simp only [State.keeps_mk] | dsimp only | exact True.intro | intro _)

theorem State.portDown_keeps {b0 : State} {s : State} (p : Nat) (lt : Nat) (h_s : b0.Keeps s) : b0.Keeps (State.portDown s p lt) := by
  unfold State.portDown
  with_reducible repeat' (first | assumption | apply State.setF_keeps | apply State.addF_keeps | apply State.setErr_keeps | apply State.setLink_keeps | apply State.failSlot_keeps | apply State.loseFlows_keeps | refine State.keeps_foldl _ (fun _ _ _ => ?_) _ _ ?_ | split | dsimp only | exact True.intro | intro _)

theorem execLinkDown_keeps {b0 : State} (port : BitVec 5) {s : State} (h_s : b0.Keeps s) : b0.OKeeps (execLinkDown port s) := by
  unfold execLinkDown
  with_reducible repeat' (first | assumption | refine done_keeps ?_ | apply State.setErr_keeps | apply State.portDown_keeps | split | dsimp only)

theorem execLinkUp_keeps {b0 : State} (port : BitVec 5) (peerPort : BitVec 5) (peerEp : BitVec 20) {s : State} (h_s : b0.Keeps s) : b0.OKeeps (execLinkUp port peerPort peerEp s) := by
  unfold execLinkUp
  with_reducible repeat' (first | assumption | refine done_keeps ?_ | apply State.setF_keeps | apply State.setLink_keeps | split | dsimp only)

/-! ### Chain -/

theorem State.touchColl_keeps {b0 : State} {s : State} (k : Coll) (h_s : b0.Keeps s) : b0.Keeps (State.touchColl s k) := by
  unfold State.touchColl
  with_reducible repeat' (first | assumption | apply State.setColl_keeps | simp only [State.keeps_mk] | dsimp only)

theorem State.poison_keeps {b0 : State} {s : State} (k : Coll) (h_s : b0.Keeps s) : b0.Keeps (State.poison s k) := by
  unfold State.poison
  with_reducible repeat' (first | assumption | apply State.addF_keeps | apply State.setErr_keeps | apply State.jobFault_keeps | apply State.setColl_keeps | split | simp only [State.keeps_mk] | dsimp only)

theorem State.confirmed_keeps {b0 : State} {s : State} (k : Coll) (p : Nat) (me : Nat) (bs : List Byte) (h_s : b0.Keeps s) : b0.Keeps (State.confirmed s k p me bs) := by
  unfold State.confirmed
  with_reducible repeat' (first | assumption | apply State.setF_keeps | apply State.setComm_keeps | apply State.sendPhase_keeps | apply State.poison_keeps | refine State.keeps_foldl _ (fun _ _ _ => ?_) _ _ ?_ | split | simp only [State.keeps_mk] | dsimp only | refine State.keeps_snd (by assumption) ?_ | refine State.keeps_fst (by assumption) ?_ | exact True.intro | intro _)

theorem State.confirmPump_keeps {b0 : State} {s : State} (k : Coll) (ranks : List Nat) (me : Nat) (h_s : b0.Keeps s) : b0.Keeps (State.confirmPump s k ranks me) := by
  unfold State.confirmPump
  with_reducible repeat' (first | assumption | apply State.free_keeps | apply State.arrive_keeps | apply State.setColl_keeps | apply State.sendPhase_keeps | apply State.poison_keeps | apply State.confirmed_keeps | refine State.keeps_foldl _ (fun _ _ _ => ?_) _ _ ?_ | refine State.keeps_foldlP _ (fun _ _ _ => ?_) _ _ ?_ | refine State.keeps_foldlQ _ (fun _ _ _ => ?_) _ _ ?_ | split | simp only [State.keeps_mk] | dsimp only | refine State.keeps_snd (by assumption) ?_ | refine State.keeps_fst (by assumption) ?_ | exact True.intro | intro _)

theorem State.digestVerdict_keeps {b0 : State} {s : State} (slot : Nat) (r : List Byte) (h_s : b0.Keeps s) : b0.Keeps (State.digestVerdict s slot r) := by
  unfold State.digestVerdict
  with_reducible repeat' (first | assumption | apply State.addF_keeps | apply State.setErr_keeps | apply State.jobFault_keeps | apply State.setJobX_keeps | split | simp only [State.keeps_mk] | dsimp only | refine State.keeps_snd (by assumption) ?_ | refine State.keeps_fst (by assumption) ?_)

theorem State.collStore_keeps {b0 : State} {s : State} (k : Coll) (out : List Byte) (h_s : b0.Keeps s) : b0.Keeps (State.collStore s k out) := by
  unfold State.collStore
  with_reducible repeat' (first | assumption | apply State.hbmSealWrite_keeps | apply State.faultUnit_keeps | split | dsimp only)

theorem State.collRecord_keeps {b0 : State} {s : State} (k : Coll) (id : Nat) (out : List Byte) (ovf : Bool) (h_s : b0.Keeps s) : b0.Keeps (State.collRecord s k id out ovf) := by
  unfold State.collRecord
  with_reducible repeat' (first | assumption | apply State.commitCmd_keeps | apply State.writeDigestRecord_keeps | apply State.poison_keeps | apply State.collStore_keeps | split | dsimp only | refine State.keeps_snd (by assumption) ?_ | refine State.keeps_fst (by assumption) ?_)

theorem State.collCounted_keeps {b0 : State} {s : State} (k : Coll) (h_s : b0.Keeps s) : b0.Keeps (State.collCounted s k) := by
  unfold State.collCounted
  with_reducible repeat' (first | assumption | apply State.addF_keeps | split | dsimp only)

theorem State.collCommit_keeps {b0 : State} {s : State} (k : Coll) (ranks : List Nat) (me : Nat) (r : List Byte) (h_s : b0.Keeps s) : b0.Keeps (State.collCommit s k ranks me r) := by
  unfold State.collCommit
  with_reducible repeat' (first | assumption | apply State.free_keeps | apply State.setColl_keeps | apply State.confirmPump_keeps | apply State.digestVerdict_keeps | apply State.collRecord_keeps | apply State.collCounted_keeps | split | simp only [State.keeps_mk] | dsimp only | refine State.keeps_snd (by assumption) ?_ | refine State.keeps_fst (by assumption) ?_)

theorem State.sendDownWave_keeps {b0 : State} {s : State} (k : Coll) (ranks : List Nat) (me : Nat) (r : List Byte) (h_s : b0.Keeps s) : b0.Keeps (State.sendDownWave s k ranks me r) := by
  unfold State.sendDownWave
  with_reducible repeat' (first | assumption | apply State.addF_keeps | apply State.sendPhase_keeps | apply State.sendPasses_keeps | refine State.keeps_foldl _ (fun _ _ _ => ?_) _ _ ?_ | split | dsimp only | exact True.intro | intro _)

theorem State.ringPump_keeps {b0 : State} (slot num seq : Nat) (ranks : List Nat) (me : Nat) : ∀ (n : Nat) {s : State}, b0.Keeps s → b0.Keeps (State.ringPump s slot num seq ranks me n)
  | 0, _, h => h
  | n + 1, s, h => by
    unfold State.ringPump; dsimp only
    repeat' (first | with_reducible assumption | with_reducible apply State.ringPump_keeps slot num seq ranks me n | with_reducible apply State.sendData_keeps | with_reducible apply State.addF_keeps | with_reducible apply State.setColl_keeps | split)

theorem State.treePump_keeps {b0 : State} {s : State} (k : Coll) (ranks : List Nat) (me : Nat) (h_s : b0.Keeps s) : b0.Keeps (State.treePump s k ranks me) := by
  unfold State.treePump
  with_reducible repeat' (first | assumption | apply State.addF_keeps | apply State.setColl_keeps | apply State.sendPasses_keeps | apply State.collCommit_keeps | apply State.sendDownWave_keeps | split | simp only [State.keeps_mk] | dsimp only | refine State.keeps_snd (by assumption) ?_ | refine State.keeps_fst (by assumption) ?_)

theorem State.collPump_keeps {b0 : State} {s : State} (slot : Nat) (num : Nat) (seq : Nat) (h_s : b0.Keeps s) : b0.Keeps (State.collPump s slot num seq) := by
  unfold State.collPump
  with_reducible repeat' (first | assumption | apply State.setErr_keeps | apply State.poison_keeps | apply State.confirmPump_keeps | apply State.collCommit_keeps | apply State.ringPump_keeps | apply State.treePump_keeps | split | dsimp only | refine State.keeps_snd (by assumption) ?_ | refine State.keeps_fst (by assumption) ?_ | exact True.intro | intro _)

theorem State.collCell_keeps {b0 : State} {s : State} (k : Coll) (member : Nat) (ranks : List Nat) (me : Nat) (x : Cell) (h_s : b0.Keeps s) : b0.Keeps (State.collCell s k member ranks me x) := by
  unfold State.collCell
  with_reducible repeat' (first | assumption | apply State.setColl_keeps | apply State.setRx_keeps | apply State.confirmed_keeps | apply State.collPump_keeps | split | simp only [State.keeps_mk] | dsimp only | refine State.keeps_snd (by assumption) ?_ | refine State.keeps_fst (by assumption) ?_ | exact True.intro | intro _)

theorem State.chainChecks_keeps {b0 : State} {s : State} (k : Coll) (w : ChainWords) (h_s : b0.Keeps s) : b0.Keeps (State.chainChecks s k w) := by
  unfold State.chainChecks
  with_reducible repeat' (first | assumption | apply State.poison_keeps | apply State.jobFault_keeps | apply State.setErr_keeps | split | dsimp only)

theorem State.stageBytes_keeps {b0 : State} {s : State} (d : Comm) (h_s : b0.Keeps s) : b0.Keeps (State.stageBytes s d) := by
  unfold State.stageBytes
  with_reducible repeat' (first | assumption | apply State.hbmWrite_keeps | apply State.faultUnit_keeps | split | simp only [State.keeps_mk] | dsimp only)

theorem State.deliverChain_keeps {b0 : State} {s : State} (slot : Nat) (x : Cell) (w : ChainWords) (h_s : b0.Keeps s) : b0.Keeps (State.deliverChain s slot x w) := by
  unfold State.deliverChain
  with_reducible repeat' (first | assumption | apply State.stageBytes_keeps | apply State.chainChecks_keeps | apply State.addF_keeps | apply State.collCell_keeps | split | simp only [State.keeps_mk] | dsimp only | refine State.keeps_snd (by assumption) ?_ | refine State.keeps_fst (by assumption) ?_ | exact True.intro | intro _)

theorem State.chainCell_keeps {b0 : State} {s : State} (phase : Nat) (x : Cell) (w : ChainWords) (h_s : b0.Keeps s) : b0.Keeps (State.chainCell s phase x w) := by
  unfold State.chainCell
  with_reducible repeat' (first | assumption | apply State.markApplied_keeps | apply State.dropCell_keeps | apply State.receive_keeps | apply State.countDup_keeps | apply State.deliverChain_keeps | split | dsimp only | refine State.keeps_snd (by assumption) ?_ | refine State.keeps_fst (by assumption) ?_)

theorem execChainUp_keeps {b0 : State} (x : ChainCell) {s : State} (h_s : b0.Keeps s) : b0.OKeeps (execChainUp x s) := by
  unfold execChainUp
  with_reducible repeat' (first | assumption | refine done_keeps ?_ | apply State.chainCell_keeps | dsimp only)

theorem execChainDown_keeps {b0 : State} (x : ChainCell) {s : State} (h_s : b0.Keeps s) : b0.OKeeps (execChainDown x s) := by
  unfold execChainDown
  with_reducible repeat' (first | assumption | refine done_keeps ?_ | apply State.chainCell_keeps | dsimp only)

theorem execRingRs_keeps {b0 : State} (x : ChainCell) {s : State} (h_s : b0.Keeps s) : b0.OKeeps (execRingRs x s) := by
  unfold execRingRs
  with_reducible repeat' (first | assumption | refine done_keeps ?_ | apply State.chainCell_keeps | dsimp only)

theorem execRingAg_keeps {b0 : State} (x : ChainCell) {s : State} (h_s : b0.Keeps s) : b0.OKeeps (execRingAg x s) := by
  unfold execRingAg
  with_reducible repeat' (first | assumption | refine done_keeps ?_ | apply State.chainCell_keeps | dsimp only)

theorem execChunk_keeps {b0 : State} (x : ChainCell) {s : State} (h_s : b0.Keeps s) : b0.OKeeps (execChunk x s) := by
  unfold execChunk
  with_reducible repeat' (first | assumption | refine done_keeps ?_ | apply State.chainCell_keeps | dsimp only)

theorem execChainReady_keeps {b0 : State} (x : ChainCell) {s : State} (h_s : b0.Keeps s) : b0.OKeeps (execChainReady x s) := by
  unfold execChainReady
  with_reducible repeat' (first | assumption | refine done_keeps ?_ | apply State.chainCell_keeps | dsimp only)

theorem execChainEnd_keeps {b0 : State} (x : ChainCell) {s : State} (h_s : b0.Keeps s) : b0.OKeeps (execChainEnd x s) := by
  unfold execChainEnd
  with_reducible repeat' (first | assumption | refine done_keeps ?_ | apply State.chainCell_keeps | dsimp only)

theorem execConfirmUp_keeps {b0 : State} (x : ChainCell) {s : State} (h_s : b0.Keeps s) : b0.OKeeps (execConfirmUp x s) := by
  unfold execConfirmUp
  with_reducible repeat' (first | assumption | refine done_keeps ?_ | apply State.chainCell_keeps | dsimp only)

theorem execConfirmDown_keeps {b0 : State} (x : ChainCell) {s : State} (h_s : b0.Keeps s) : b0.OKeeps (execConfirmDown x s) := by
  unfold execConfirmDown
  with_reducible repeat' (first | assumption | refine done_keeps ?_ | apply State.chainCell_keeps | dsimp only)

theorem State.startColl_keeps {b0 : State} {s : State} (k0 : Coll) (solver : Bool) (queued : Bool) (h_s : b0.Keeps s) : b0.Keeps (State.startColl s k0 solver queued) := by
  unfold State.startColl
  with_reducible repeat' (first | assumption | apply State.arrive_keeps | apply State.setComm_keeps | apply State.sendPhase_keeps | apply State.sendPasses_keeps | apply State.collPump_keeps | apply State.deliverChain_keeps | refine State.keeps_foldl _ (fun _ _ _ => ?_) _ _ ?_ | refine State.keeps_foldlP _ (fun _ _ _ => ?_) _ _ ?_ | refine State.keeps_foldlQ _ (fun _ _ _ => ?_) _ _ ?_ | split | simp only [State.keeps_mk] | dsimp only | refine State.keeps_snd (by assumption) ?_ | refine State.keeps_fst (by assumption) ?_ | exact True.intro | intro _)

theorem State.chainRefuse_keeps {b0 : State} {s : State} (c : Cmd) (h_s : b0.Keeps s) : b0.Keeps (State.chainRefuse s c) := by
  unfold State.chainRefuse
  with_reducible repeat' (first | assumption | apply State.setErr_keeps | apply State.setCmd_keeps | simp only [State.keeps_mk] | dsimp only)

theorem State.chainStart_keeps {b0 : State} {s : State} (id : Nat) (opc : Nat) {f : Cmd → Nat → State} (h_s : b0.Keeps s) (h_f : ∀ (y0 : Cmd) (y1 : Nat), True → b0.Keeps (f y0 y1)) : b0.Keeps (State.chainStart s id opc f) := by
  unfold State.chainStart
  with_reducible repeat' (first | assumption | apply h_f | apply State.withStarted_keeps | apply State.chainRefuse_keeps | split | dsimp only | refine State.keeps_snd (by assumption) ?_ | refine State.keeps_fst (by assumption) ?_ | exact True.intro | intro _)

theorem State.inflightOver_keeps {b0 : State} {s : State} (c : Cmd) (h_s : b0.Keeps s) : b0.Keeps (State.inflightOver s c) := by
  unfold State.inflightOver
  with_reducible repeat' (first | assumption | apply State.setErr_keeps | dsimp only)

theorem State.startInput_keeps {b0 : State} {s : State} (c : Cmd) (slot : Nat) (k : Coll) (es : List EccHit) (h_s : b0.Keeps s) : b0.Keeps (State.startInput s c slot k es) := by
  unfold State.startInput
  with_reducible repeat' (first | assumption | apply State.eccHits_keeps | apply State.setErr_keeps | apply State.setCmd_keeps | apply State.jobFault_keeps | apply State.memRead_keeps | apply State.poison_keeps | apply State.startColl_keeps | split | simp only [State.keeps_mk] | dsimp only | refine State.keeps_snd (by assumption) ?_ | refine State.keeps_fst (by assumption) ?_ | exact True.intro | intro _)

theorem State.collStart_keeps {b0 : State} {s : State} (x : CmdReads) (opc : Nat) (h_s : b0.Keeps s) : b0.Keeps (State.collStart s x opc) := by
  unfold State.collStart
  with_reducible repeat' (first | assumption | apply State.arrive_keeps | apply State.chainRefuse_keeps | apply State.chainStart_keeps | apply State.inflightOver_keeps | apply State.startInput_keeps | split | simp only [State.keeps_mk] | dsimp only | refine State.keeps_snd (by assumption) ?_ | refine State.keeps_fst (by assumption) ?_ | exact True.intro | intro _)

theorem execBarrier_keeps {b0 : State} (x : CmdReads) {s : State} (h_s : b0.Keeps s) : b0.OKeeps (execBarrier x s) := by
  unfold execBarrier
  with_reducible repeat' (first | assumption | refine done_keeps ?_ | apply State.collStart_keeps | dsimp only)

theorem execAllreduce_keeps {b0 : State} (x : CmdReads) {s : State} (h_s : b0.Keeps s) : b0.OKeeps (execAllreduce x s) := by
  unfold execAllreduce
  with_reducible repeat' (first | assumption | refine done_keeps ?_ | apply State.collStart_keeps | dsimp only)

theorem execReduce_keeps {b0 : State} (x : CmdReads) {s : State} (h_s : b0.Keeps s) : b0.OKeeps (execReduce x s) := by
  unfold execReduce
  with_reducible repeat' (first | assumption | refine done_keeps ?_ | apply State.collStart_keeps | dsimp only)

theorem execBroadcast_keeps {b0 : State} (x : CmdReads) {s : State} (h_s : b0.Keeps s) : b0.OKeeps (execBroadcast x s) := by
  unfold execBroadcast
  with_reducible repeat' (first | assumption | refine done_keeps ?_ | apply State.collStart_keeps | dsimp only)

theorem execReduceScatter_keeps {b0 : State} (x : CmdReads) {s : State} (h_s : b0.Keeps s) : b0.OKeeps (execReduceScatter x s) := by
  unfold execReduceScatter
  with_reducible repeat' (first | assumption | refine done_keeps ?_ | apply State.collStart_keeps | dsimp only)

theorem execAllgather_keeps {b0 : State} (x : CmdReads) {s : State} (h_s : b0.Keeps s) : b0.OKeeps (execAllgather x s) := by
  unfold execAllgather
  with_reducible repeat' (first | assumption | refine done_keeps ?_ | apply State.collStart_keeps | dsimp only)

theorem execCommCreate_keeps {b0 : State} (x : CmdReads) {s : State} (h_s : b0.Keeps s) : b0.OKeeps (execCommCreate x s) := by
  unfold execCommCreate
  with_reducible repeat' (first | assumption | refine done_keeps ?_ | apply State.arrive_keeps | apply State.chainRefuse_keeps | apply State.chainStart_keeps | apply State.inflightOver_keeps | apply State.startInput_keeps | split | simp only [State.keeps_mk] | dsimp only | exact True.intro | intro _)

theorem execCommFree_keeps {b0 : State} (id : Nat) {s : State} (h_s : b0.Keeps s) : b0.OKeeps (execCommFree id s) := by
  unfold execCommFree
  with_reducible repeat' (first | assumption | apply State.commitCmd_keeps | apply State.writeDigestRecord_keeps | refine done_keeps ?_ | apply State.setCmd_keeps | apply State.chainRefuse_keeps | apply State.chainStart_keeps | split | simp only [State.keeps_mk] | dsimp only | refine State.keeps_snd (by assumption) ?_ | refine State.keeps_fst (by assumption) ?_ | exact True.intro | intro _)

theorem State.confirmWaited_keeps {b0 : State} {s : State} (c : Cmd) (slot : Nat) (h_s : b0.Keeps s) : b0.Keeps (State.confirmWaited s c slot) := by
  unfold State.confirmWaited
  with_reducible repeat' (first | assumption | apply State.commitCmd_keeps | apply State.writeDigestRecord_keeps | split | dsimp only | exact True.intro | intro _)

theorem execConfirmWait_keeps {b0 : State} (id : Nat) {s : State} (h_s : b0.Keeps s) : b0.OKeeps (execConfirmWait id s) := by
  unfold execConfirmWait
  with_reducible repeat' (first | assumption | refine done_keeps ?_ | apply State.setCmd_keeps | apply State.commitCmd_keeps | apply State.chainRefuse_keeps | apply State.chainStart_keeps | apply State.confirmWaited_keeps | split | simp only [State.keeps_mk] | dsimp only | refine State.keeps_snd (by assumption) ?_ | refine State.keeps_fst (by assumption) ?_ | exact True.intro | intro _)

theorem execConfirmTimeout_keeps {b0 : State} (slot : BitVec 3) (comm : BitVec 12) (seq : BitVec 32) {s : State} (h_s : b0.Keeps s) : b0.OKeeps (execConfirmTimeout slot comm seq s) := by
  unfold execConfirmTimeout
  with_reducible repeat' (first | assumption | refine done_keeps ?_ | apply State.poison_keeps | split | dsimp only | refine State.keeps_snd (by assumption) ?_ | refine State.keeps_fst (by assumption) ?_)

theorem execCollectiveStall_keeps {b0 : State} (slot : BitVec 3) (comm : BitVec 12) (seq : BitVec 32) {s : State} (h_s : b0.Keeps s) : b0.OKeeps (execCollectiveStall slot comm seq s) := by
  unfold execCollectiveStall
  with_reducible repeat' (first | assumption | refine done_keeps ?_ | apply State.setCmd_keeps | apply State.setColl_keeps | apply State.poison_keeps | apply State.collPump_keeps | split | simp only [State.keeps_mk] | dsimp only | refine State.keeps_snd (by assumption) ?_ | refine State.keeps_fst (by assumption) ?_)

end Sys2Proof.Machine
end

