-- ==== Sys2Proof/Laws/KeepsEngines.lean ====
section
/-! SUPPORT. What time, memory engines, field I/O, runs, queues and resets keep. -/

namespace Sys2Proof.Machine

set_option linter.unusedVariables false
set_option linter.unusedSimpArgs false
set_option maxRecDepth 4000

/-! ### Fetch -/

theorem State.clusterCycle_keeps {b0 : State} {s : State} (c : Nat) (h_s : b0.Keeps s) : b0.Keeps (State.clusterCycle s c) := by
  unfold State.clusterCycle
  with_reducible repeat' (first | assumption | apply State.addF_keeps | apply State.haltError_keeps | apply State.countIssue_keeps | split | simp only [State.keeps_mk] | dsimp only | refine State.keeps_snd (by assumption) ?_ | refine State.keeps_fst (by assumption) ?_ | exact True.intro | intro _)

theorem State.clusterCycles_keeps {b0 : State} {s : State} (h_s : b0.Keeps s) : b0.Keeps (State.clusterCycles s) := by
  unfold State.clusterCycles
  with_reducible repeat' (first | assumption | apply State.clusterCycle_keeps | refine State.keeps_foldl _ (fun _ _ _ => ?_) _ _ ?_ | dsimp only)

/-! ### SporeWave -/

theorem State.hostPut_keeps {b0 : State} {s : State} (j : Nat) (a : Nat) (bs : List Byte) (h_s : b0.Keeps s) : b0.Keeps (State.hostPut s j a bs) := by
  unfold State.hostPut
  with_reducible repeat' (first | assumption | simp only [State.keeps_mk] | dsimp only | refine State.keeps_hostMem ?_ (wf_writeBytes _ _ _))

theorem State.snapFault_keeps {b0 : State} {s : State} (j : Nat) (h_s : b0.Keeps s) : b0.Keeps (State.snapFault s j) := by
  unfold State.snapFault
  with_reducible repeat' (first | assumption | apply State.setErr_keeps | apply State.jobFault_keeps | dsimp only)

theorem State.rootAct_keeps {b0 : State} {s : State} (j : Nat) (c : SporeMsg) (keyBad : Bool) (h_s : b0.Keeps s) : b0.Keeps (State.rootAct s j c keyBad) := by
  unfold State.rootAct
  with_reducible repeat' (first | assumption | refine done_keeps ?_ | apply State.setSp_keeps | apply State.snapFault_keeps | split | simp only [State.keeps_mk] | dsimp only | exact True.intro | intro _)

theorem State.upTry_keeps {b0 : State} {s : State} (j : Nat) (h_s : b0.Keeps s) : b0.Keeps (State.upTry s j) := by
  unfold State.upTry
  with_reducible repeat' (first | assumption | apply State.setSp_keeps | apply State.sendUp_keeps | apply State.rootAct_keeps | refine State.keeps_foldl _ (fun _ _ _ => ?_) _ _ ?_ | refine State.keeps_foldlP _ (fun _ _ _ => ?_) _ _ ?_ | refine State.keeps_foldlQ _ (fun _ _ _ => ?_) _ _ ?_ | split | simp only [State.keeps_mk] | dsimp only | refine State.keeps_snd (by assumption) ?_ | refine State.keeps_fst (by assumption) ?_ | exact True.intro | intro _)

theorem State.contribute_keeps {b0 : State} {s : State} (j : Nat) (m : SporeMsg) (h_s : b0.Keeps s) : b0.Keeps (State.contribute s j m) := by
  unfold State.contribute
  with_reducible repeat' (first | assumption | apply State.setSp_keeps | apply State.upTry_keeps | simp only [State.keeps_mk] | dsimp only)

theorem State.sporeStep_keeps {b0 : State} {s : State} (j : Nat) (h_s : b0.Keeps s) : b0.Keeps (State.sporeStep s j) := by
  unfold State.sporeStep
  with_reducible repeat' (first | assumption | apply State.setSp_keeps | apply State.hostPut_keeps | apply State.contribute_keeps | split | simp only [State.keeps_mk] | dsimp only | refine State.keeps_snd (by assumption) ?_ | refine State.keeps_fst (by assumption) ?_)

/-! ### Cadence -/

theorem State.setTime_keeps {b0 : State} {s : State} (t : TimeState) (h_s : b0.Keeps s) : b0.Keeps (State.setTime s t) := by
  unfold State.setTime
  with_reducible repeat' (first | assumption | simp only [State.keeps_mk] | dsimp only)

theorem State.tick_keeps {b0 : State} {s : State} (h_s : b0.Keeps s) : b0.Keeps (State.tick s) := by
  unfold State.tick
  with_reducible repeat' (first | assumption | apply State.addF_keeps | apply State.clusterCycles_keeps | refine State.keeps_foldl _ (fun _ _ _ => ?_) _ _ ?_ | split | simp only [State.keeps_mk] | dsimp only | exact True.intro | intro _)

theorem State.startFrames_keeps {b0 : State} {s : State} (h_s : b0.Keeps s) : b0.Keeps (State.startFrames s) := by
  unfold State.startFrames
  with_reducible repeat' (first | assumption | apply State.setTime_keeps | simp only [State.keeps_mk] | dsimp only)

theorem State.stopFrames_keeps {b0 : State} {s : State} (h_s : b0.Keeps s) : b0.Keeps (State.stopFrames s) := by
  unfold State.stopFrames
  with_reducible repeat' (first | assumption | apply State.setF_keeps | apply State.setTime_keeps | simp only [State.keeps_mk] | dsimp only)

theorem State.chooseSrc_keeps {b0 : State} {s : State} (h_s : b0.Keeps s) : b0.Keeps (State.chooseSrc s) := by
  unfold State.chooseSrc
  with_reducible repeat' (first | assumption | apply State.setF_keeps | dsimp only)

theorem State.setPresent_keeps {b0 : State} {s : State} (i : Nat) (on : Bool) (h_s : b0.Keeps s) : b0.Keeps (State.setPresent s i on) := by
  unfold State.setPresent
  with_reducible repeat' (first | assumption | apply State.setF_keeps | split | dsimp only)

theorem State.stepTime_keeps {b0 : State} {s : State} (d : Int) (h_s : b0.Keeps s) : b0.Keeps (State.stepTime s d) := by
  unfold State.stepTime
  with_reducible repeat' (first | assumption | apply State.setF_keeps | apply State.startFrames_keeps | split | simp only [State.keeps_mk] | dsimp only)

theorem State.discipline_keeps {b0 : State} {s : State} (src : Nat) (d : Int) (h_s : b0.Keeps s) : b0.Keeps (State.discipline s src d) := by
  unfold State.discipline
  with_reducible repeat' (first | assumption | apply State.setF_keeps | apply State.setErr_keeps | apply State.setTime_keeps | apply State.stepTime_keeps | split | simp only [State.keeps_mk] | dsimp only | exact True.intro | intro _)

theorem State.timeSettle_keeps {b0 : State} {s : State} (h_s : b0.Keeps s) : b0.Keeps (State.timeSettle s) := by
  unfold State.timeSettle
  with_reducible repeat' (first | assumption | apply State.stepTime_keeps | split | dsimp only | refine State.keeps_snd (by assumption) ?_ | refine State.keeps_fst (by assumption) ?_)

theorem State.measure_keeps {b0 : State} {s : State} (i : Nat) (d : Int) (h_s : b0.Keeps s) : b0.Keeps (State.measure s i d) := by
  unfold State.measure
  with_reducible repeat' (first | assumption | apply State.setTime_keeps | apply State.chooseSrc_keeps | apply State.setPresent_keeps | apply State.discipline_keeps | split | simp only [State.keeps_mk] | dsimp only)

theorem State.loseSrc_keeps {b0 : State} {s : State} (i : Nat) (h_s : b0.Keeps s) : b0.Keeps (State.loseSrc s i) := by
  unfold State.loseSrc
  with_reducible repeat' (first | assumption | apply State.setTime_keeps | apply State.chooseSrc_keeps | apply State.setPresent_keeps | split | simp only [State.keeps_mk] | dsimp only | exact True.intro | intro _)

theorem execPtpMessage_keeps {b0 : State} (x : PtpTime) {s : State} (h_s : b0.Keeps s) : b0.OKeeps (execPtpMessage x s) := by
  unfold execPtpMessage
  with_reducible repeat' (first | assumption | refine done_keeps ?_ | apply State.setF_keeps | apply State.measure_keeps | split | dsimp only)

theorem execTimeExchange_keeps {b0 : State} {s : State} (h_s : b0.Keeps s) : b0.OKeeps (execTimeExchange s) := by
  unfold execTimeExchange
  with_reducible repeat' (first | assumption | refine done_keeps ?_ | apply State.emit_keeps | apply State.setTime_keeps | split | simp only [State.keeps_mk] | dsimp only | refine State.keeps_snd (by assumption) ?_ | refine State.keeps_fst (by assumption) ?_)

theorem execTimeRequest_keeps {b0 : State} (port : BitVec 5) (x : TimeCell) {s : State} (h_s : b0.Keeps s) : b0.OKeeps (execTimeRequest port x s) := by
  unfold execTimeRequest
  with_reducible repeat' (first | assumption | refine done_keeps ?_ | apply State.emit_keeps | split | dsimp only)

theorem execTimeResponse_keeps {b0 : State} (port : BitVec 5) (x : TimeCell) (t4 : BitVec 64) {s : State} (h_s : b0.Keeps s) : b0.OKeeps (execTimeResponse port x t4 s) := by
  unfold execTimeResponse
  with_reducible repeat' (first | assumption | refine done_keeps ?_ | apply State.measure_keeps | apply State.loseSrc_keeps | split | dsimp only)

theorem execTimeSourceLost_keeps {b0 : State} (src : BitVec 2) {s : State} (h_s : b0.Keeps s) : b0.OKeeps (execTimeSourceLost src s) := by
  unfold execTimeSourceLost
  with_reducible repeat' (first | assumption | refine done_keeps ?_ | apply State.loseSrc_keeps | split | dsimp only)

theorem execHoldoverEntry_keeps {b0 : State} {s : State} (h_s : b0.Keeps s) : b0.OKeeps (execHoldoverEntry s) := by
  unfold execHoldoverEntry
  with_reducible repeat' (first | assumption | refine done_keeps ?_ | apply State.setF_keeps | apply State.setErr_keeps | apply State.setTime_keeps | split | simp only [State.keeps_mk] | dsimp only | refine State.keeps_snd (by assumption) ?_ | refine State.keeps_fst (by assumption) ?_)

theorem execPpsIn_keeps {b0 : State} {s : State} (h_s : b0.Keeps s) : b0.OKeeps (execPpsIn s) := by
  unfold execPpsIn
  with_reducible repeat' (first | assumption | refine done_keeps ?_ | apply State.setErr_keeps | apply State.measure_keeps | split | dsimp only)

theorem execPpsOut_keeps {b0 : State} {s : State} (h_s : b0.Keeps s) : b0.OKeeps (execPpsOut s) := by
  unfold execPpsOut
  with_reducible repeat' (first | assumption | refine done_keeps ?_ | apply State.emit_keeps | apply State.setTime_keeps | split | simp only [State.keeps_mk] | dsimp only)

theorem execRef10mLost_keeps {b0 : State} {s : State} (h_s : b0.Keeps s) : b0.OKeeps (execRef10mLost s) := by
  unfold execRef10mLost
  with_reducible repeat' (first | assumption | refine done_keeps ?_ | apply State.setErr_keeps | apply State.setPresent_keeps | split | dsimp only)

theorem execRef10mReturn_keeps {b0 : State} {s : State} (h_s : b0.Keeps s) : b0.OKeeps (execRef10mReturn s) := by
  unfold execRef10mReturn
  with_reducible repeat' (first | assumption | refine done_keeps ?_ | apply State.setPresent_keeps | split | dsimp only)

theorem State.logStep_keeps {b0 : State} {s : State} (slot : Nat) (step : Nat) (digest : Nat) (tick : Nat) (h_s : b0.Keeps s) : b0.Keeps (State.logStep s slot step digest tick) := by
  unfold State.logStep
  with_reducible repeat' (first | assumption | apply State.setF_keeps | apply State.tick_keeps | refine State.keeps_foldl _ (fun _ _ _ => ?_) _ _ ?_ | dsimp only | exact True.intro | intro _)

theorem State.cadUe_keeps {b0 : State} {s : State} (h_s : b0.Keeps s) : b0.Keeps (State.cadUe s) := by
  unfold State.cadUe
  with_reducible repeat' (first | assumption | refine State.keeps_foldl _ (fun _ _ _ => ?_) _ _ ?_ | apply State.jobFault_keeps | apply State.setErr_keeps | split | dsimp only)

theorem execStep_keeps {b0 : State} (x : CmdReads) {s : State} (h_s : b0.Keeps s) : b0.OKeeps (execStep x s) := by
  unfold execStep
  with_reducible repeat' (first | assumption | apply State.cadUe_keeps | apply State.eccHits_keeps | refine done_keeps ?_ | apply State.setF_keeps | apply State.addF_keeps | apply State.setCmd_keeps | apply State.memRead_keeps | apply State.commitCmd_keeps | apply State.withStarted_keeps | apply State.setSp_keeps | apply State.sporeStep_keeps | apply State.logStep_keeps | split | simp only [State.keeps_mk] | dsimp only | exact True.intro | intro _)

/-! ### Lichen -/

theorem State.dirMakeRoom_keeps {b0 : State} {s : State} (st : Nat) (h_s : b0.Keeps s) : b0.Keeps (State.dirMakeRoom s st) := by
  unfold State.dirMakeRoom
  with_reducible repeat' (first | assumption | apply State.dropLine_keeps | split | simp only [State.keeps_mk] | dsimp only | refine State.keeps_snd (by assumption) ?_ | refine State.keeps_fst (by assumption) ?_ | exact True.intro | intro _)

theorem State.dirFill_keeps {b0 : State} {s : State} (line : Nat) (dirty : Bool) (h_s : b0.Keeps s) : b0.Keeps (State.dirFill s line dirty) := by
  unfold State.dirFill
  with_reducible repeat' (first | assumption | apply State.dirMakeRoom_keeps | simp only [State.keeps_mk] | dsimp only | exact True.intro | intro _)

theorem State.lineData_keeps {b0 : State} {s : State} (r : LineReq) (h_s : b0.Keeps s) : b0.Keeps (State.lineData s r) := by
  unfold State.lineData
  with_reducible repeat' (first | assumption | apply State.emit_keeps | apply State.ownLines_keeps | apply State.readLines_keeps | apply State.cowHold_keeps | split | simp only [State.keeps_mk] | dsimp only | refine State.keeps_snd (by assumption) ?_ | refine State.keeps_fst (by assumption) ?_ | refine State.keeps_hbm ?_ (by first | exact wf_writeBytes _ _ _ | exact wf_writeLe _ _ _ _))

theorem State.lineServe_keeps {b0 : State} {s : State} (r : LineReq) (h_s : b0.Keeps s) : b0.Keeps (State.lineServe s r) := by
  unfold State.lineServe
  with_reducible repeat' (first | assumption | apply State.cacheDrop_keeps | apply State.lineRead_keeps | apply State.lineWritten_keeps | apply State.eccOff_keeps | apply State.dirFill_keeps | apply State.lineData_keeps | split | dsimp only)

theorem execLineAccess_keeps {b0 : State} (r : LineReq) {s : State} (h_s : b0.Keeps s) : b0.OKeeps (execLineAccess r s) := by
  unfold execLineAccess
  with_reducible repeat' (first | assumption | refine done_keeps ?_ | apply State.emit_keeps | apply State.hbmUe_keeps | apply State.lineServe_keeps | split | dsimp only)

theorem State.narrowRefuse_keeps {b0 : State} {s : State} (r : NarrowReq) (h_s : b0.Keeps s) : b0.Keeps (State.narrowRefuse s r) := by
  unfold State.narrowRefuse
  with_reducible repeat' (first | assumption | apply State.emit_keeps | apply State.setErr_keeps | dsimp only)

theorem State.narrowLane_keeps {b0 : State} {s : State} (r : NarrowReq) (op : Nat) (fn : Nat) (i : Nat) (h_s : b0.Keeps s) : b0.Keeps (State.narrowLane s r op fn i).2 := by
  unfold State.narrowLane
  with_reducible repeat' (first | assumption | apply State.addF_keeps | apply State.clearResv_keeps | apply State.dropDir_keeps | apply State.readLines_keeps | apply State.cacheDrop_keeps | apply State.lane_keeps | apply State.cowHold_keeps | apply State.eccHits_keeps | split | simp only [State.keeps_mk] | dsimp only | refine State.keeps_snd (by assumption) ?_ | refine State.keeps_fst (by assumption) ?_ | refine State.keeps_hbm ?_ (by first | exact wf_writeBytes _ _ _ | exact wf_writeLe _ _ _ _))

theorem State.narrow_keeps {b0 : State} {s : State} (op : Nat) (fn : Nat) (r : NarrowReq) (h_s : b0.Keeps s) : b0.Keeps (State.narrow s op fn r) := by
  unfold State.narrow
  with_reducible repeat' (first | assumption | apply State.emit_keeps | apply State.narrowRefuse_keeps | apply State.narrowLane_keeps | refine State.keeps_foldl _ (fun _ _ _ => ?_) _ _ ?_ | refine State.keeps_foldlP _ (fun _ _ _ => ?_) _ _ ?_ | refine State.keeps_foldlQ _ (fun _ _ _ => ?_) _ _ ?_ | split | dsimp only | refine State.keeps_snd (by assumption) ?_ | refine State.keeps_fst (by assumption) ?_ | exact True.intro | intro _)

theorem execNarrowGather_keeps {b0 : State} (r : NarrowReq) {s : State} (h_s : b0.Keeps s) : b0.OKeeps (execNarrowGather r s) := by
  unfold execNarrowGather
  with_reducible repeat' (first | assumption | refine done_keeps ?_ | apply State.narrow_keeps | dsimp only)

theorem execNarrowScatter_keeps {b0 : State} (r : NarrowReq) {s : State} (h_s : b0.Keeps s) : b0.OKeeps (execNarrowScatter r s) := by
  unfold execNarrowScatter
  with_reducible repeat' (first | assumption | refine done_keeps ?_ | apply State.narrow_keeps | dsimp only)

theorem execNarrowAdd_keeps {b0 : State} (r : NarrowReq) {s : State} (h_s : b0.Keeps s) : b0.OKeeps (execNarrowAdd r s) := by
  unfold execNarrowAdd
  with_reducible repeat' (first | assumption | refine done_keeps ?_ | apply State.narrow_keeps | dsimp only)

theorem execNarrowMin_keeps {b0 : State} (r : NarrowReq) {s : State} (h_s : b0.Keeps s) : b0.OKeeps (execNarrowMin r s) := by
  unfold execNarrowMin
  with_reducible repeat' (first | assumption | refine done_keeps ?_ | apply State.narrow_keeps | dsimp only)

theorem execNarrowMax_keeps {b0 : State} (r : NarrowReq) {s : State} (h_s : b0.Keeps s) : b0.OKeeps (execNarrowMax r s) := by
  unfold execNarrowMax
  with_reducible repeat' (first | assumption | refine done_keeps ?_ | apply State.narrow_keeps | dsimp only)

theorem execNarrowMinu_keeps {b0 : State} (r : NarrowReq) {s : State} (h_s : b0.Keeps s) : b0.OKeeps (execNarrowMinu r s) := by
  unfold execNarrowMinu
  with_reducible repeat' (first | assumption | refine done_keeps ?_ | apply State.narrow_keeps | dsimp only)

theorem execNarrowMaxu_keeps {b0 : State} (r : NarrowReq) {s : State} (h_s : b0.Keeps s) : b0.OKeeps (execNarrowMaxu r s) := by
  unfold execNarrowMaxu
  with_reducible repeat' (first | assumption | refine done_keeps ?_ | apply State.narrow_keeps | dsimp only)

theorem execNarrowAnd_keeps {b0 : State} (r : NarrowReq) {s : State} (h_s : b0.Keeps s) : b0.OKeeps (execNarrowAnd r s) := by
  unfold execNarrowAnd
  with_reducible repeat' (first | assumption | refine done_keeps ?_ | apply State.narrow_keeps | dsimp only)

theorem execNarrowOr_keeps {b0 : State} (r : NarrowReq) {s : State} (h_s : b0.Keeps s) : b0.OKeeps (execNarrowOr r s) := by
  unfold execNarrowOr
  with_reducible repeat' (first | assumption | refine done_keeps ?_ | apply State.narrow_keeps | dsimp only)

theorem execNarrowXor_keeps {b0 : State} (r : NarrowReq) {s : State} (h_s : b0.Keeps s) : b0.OKeeps (execNarrowXor r s) := by
  unfold execNarrowXor
  with_reducible repeat' (first | assumption | refine done_keeps ?_ | apply State.narrow_keeps | dsimp only)

theorem execNarrowSwap_keeps {b0 : State} (r : NarrowReq) {s : State} (h_s : b0.Keeps s) : b0.OKeeps (execNarrowSwap r s) := by
  unfold execNarrowSwap
  with_reducible repeat' (first | assumption | refine done_keeps ?_ | apply State.narrow_keeps | dsimp only)

theorem execNarrowCas_keeps {b0 : State} (r : NarrowReq) {s : State} (h_s : b0.Keeps s) : b0.OKeeps (execNarrowCas r s) := by
  unfold execNarrowCas
  with_reducible repeat' (first | assumption | refine done_keeps ?_ | apply State.narrow_keeps | dsimp only)

theorem execNarrowFmin_keeps {b0 : State} (r : NarrowReq) {s : State} (h_s : b0.Keeps s) : b0.OKeeps (execNarrowFmin r s) := by
  unfold execNarrowFmin
  with_reducible repeat' (first | assumption | refine done_keeps ?_ | apply State.narrow_keeps | dsimp only)

theorem execNarrowFmax_keeps {b0 : State} (r : NarrowReq) {s : State} (h_s : b0.Keeps s) : b0.OKeeps (execNarrowFmax r s) := by
  unfold execNarrowFmax
  with_reducible repeat' (first | assumption | refine done_keeps ?_ | apply State.narrow_keeps | dsimp only)

theorem execNarrowFadd_keeps {b0 : State} (r : NarrowReq) {s : State} (h_s : b0.Keeps s) : b0.OKeeps (execNarrowFadd r s) := by
  unfold execNarrowFadd
  with_reducible repeat' (first | assumption | refine done_keeps ?_ | apply State.narrow_keeps | dsimp only)

theorem execNarrowIllegal_keeps {b0 : State} (op : BitVec 4) (r : NarrowReq) {s : State} (h_s : b0.Keeps s) : b0.OKeeps (execNarrowIllegal op r s) := by
  unfold execNarrowIllegal
  with_reducible repeat' (first | assumption | refine done_keeps ?_ | apply State.narrowRefuse_keeps | split | dsimp only)

theorem execCoalesceTimeout_keeps {b0 : State} (st : BitVec 4) {s : State} (h_s : b0.Keeps s) : b0.OKeeps (execCoalesceTimeout st s) := by
  unfold execCoalesceTimeout
  with_reducible repeat' (first | assumption | refine done_keeps ?_ | apply State.serveSector_keeps | refine State.keeps_foldl _ (fun _ _ _ => ?_) _ _ ?_ | refine State.keeps_foldlP _ (fun _ _ _ => ?_) _ _ ?_ | refine State.keeps_foldlQ _ (fun _ _ _ => ?_) _ _ ?_ | dsimp only | exact True.intro | intro _)

theorem State.coreAccess_keeps {b0 : State} {s : State} (a : Nat) (e : Ecc) {f : State → State} (h_s : b0.Keeps s) (h_f : ∀ (y0 : State), b0.Keeps y0 → b0.Keeps (f y0)) : b0.Keeps (State.coreAccess s a e f) := by
  unfold State.coreAccess
  with_reducible repeat' (first | assumption | apply h_f | apply State.emit_keeps | apply State.hbmUe_keeps | apply State.eccOff_keeps | split | dsimp only | exact True.intro | intro _)

theorem execLr_keeps {b0 : State} (hart : BitVec 7) (x : HartAddr) {s : State} (h_s : b0.Keeps s) : b0.OKeeps (execLr hart x s) := by
  unfold execLr
  with_reducible repeat' (first | assumption | refine done_keeps ?_ | apply State.emit_keeps | apply State.lineRead_keeps | apply State.coreAccess_keeps | split | simp only [State.keeps_mk] | dsimp only | exact True.intro | intro _)

theorem execSc_keeps {b0 : State} (hart : BitVec 7) (x : HartAddr) (w32 : Bool) (v : BitVec 64) {s : State} (h_s : b0.Keeps s) : b0.OKeeps (execSc hart x w32 v s) := by
  unfold execSc
  with_reducible repeat' (first | assumption | refine done_keeps ?_ | apply State.emit_keeps | apply State.ownLines_keeps | apply State.laneAt_keeps | apply State.cowHold_keeps | apply State.coreAccess_keeps | split | simp only [State.keeps_mk] | dsimp only | exact True.intro | intro _ | refine State.keeps_hbm ?_ (by first | exact wf_writeBytes _ _ _ | exact wf_writeLe _ _ _ _))

theorem execReservationLapse_keeps {b0 : State} (st : BitVec 4) (hart : BitVec 7) {s : State} (h_s : b0.Keeps s) : b0.OKeeps (execReservationLapse st hart s) := by
  unfold execReservationLapse
  with_reducible repeat' (first | assumption | refine done_keeps ?_ | simp only [State.keeps_mk] | dsimp only | exact True.intro | intro _)

theorem State.setStreams_keeps {b0 : State} {s : State} (st : Nat) (x : Lichen) (h_s : b0.Keeps s) : b0.Keeps (State.setStreams s st x) := by
  unfold State.setStreams
  with_reducible repeat' (first | assumption | apply State.setF_keeps | apply State.setLichen_keeps | dsimp only)

theorem State.streamTouch_keeps {b0 : State} {s : State} (w : WaitStream) (es : List EccHit) (h_s : b0.Keeps s) : b0.Keeps (State.streamTouch s w es) := by
  unfold State.streamTouch
  with_reducible repeat' (first | assumption | apply State.memReads_keeps | apply State.narrowRead_keeps | apply State.eccHits_keeps | refine State.keeps_foldl _ (fun _ _ _ => ?_) _ _ ?_ | refine State.keeps_foldlP _ (fun _ _ _ => ?_) _ _ ?_ | refine State.keeps_foldlQ _ (fun _ _ _ => ?_) _ _ ?_ | dsimp only | exact True.intro | intro _)

theorem State.streamBegin_keeps {b0 : State} {s : State} (st : Nat) (w : WaitStream) (es : List EccHit) (h_s : b0.Keeps s) : b0.Keeps (State.streamBegin s st w es) := by
  unfold State.streamBegin
  with_reducible repeat' (first | assumption | apply State.setErr_keeps | apply State.slvFault_keeps | apply State.setStreams_keeps | apply State.streamTouch_keeps | refine State.keeps_foldl _ (fun _ _ _ => ?_) _ _ ?_ | refine State.keeps_foldlP _ (fun _ _ _ => ?_) _ _ ?_ | refine State.keeps_foldlQ _ (fun _ _ _ => ?_) _ _ ?_ | split | simp only [State.keeps_mk] | dsimp only | refine State.keeps_snd (by assumption) ?_ | refine State.keeps_fst (by assumption) ?_ | exact True.intro | intro _)

theorem State.pumpStreams_keeps {b0 : State} (st : Nat) (es : List EccHit) : ∀ (n : Nat) {s : State}, b0.Keeps s → b0.Keeps (State.pumpStreams st es n s)
  | 0, _, h => h
  | n + 1, s, h => by
    unfold State.pumpStreams; dsimp only
    split
    · exact h
    split
    · exact State.pumpStreams_keeps st es n (State.streamBegin_keeps _ _ _ (State.setLichen_keeps _ _ h))
    · exact h

theorem State.stream_keeps {b0 s : State} (st op : Nat) (x : StreamReq) (h_s : b0.Keeps s) : b0.Keeps (State.stream s st op x) := by
  unfold State.stream
  dsimp only
  repeat' split
  all_goals first
    | exact h_s
    | exact State.pumpStreams_keeps _ _ _ (State.setLichen_keeps _ _ h_s)
    | exact State.solveRefuse_keeps _ _ _ _ (State.setErr_keeps _ _ _ h_s)

theorem execSpmv_keeps {b0 : State} (st : BitVec 4) (x : StreamReq) {s : State} (h_s : b0.Keeps s) : b0.OKeeps (execSpmv st x s) := by
  unfold execSpmv
  with_reducible repeat' (first | assumption | refine done_keeps ?_ | apply State.stream_keeps | dsimp only)

theorem execSpmvSub_keeps {b0 : State} (st : BitVec 4) (x : StreamReq) {s : State} (h_s : b0.Keeps s) : b0.OKeeps (execSpmvSub st x s) := by
  unfold execSpmvSub
  with_reducible repeat' (first | assumption | refine done_keeps ?_ | apply State.stream_keeps | dsimp only)

theorem execSweepDiv_keeps {b0 : State} (st : BitVec 4) (x : StreamReq) {s : State} (h_s : b0.Keeps s) : b0.OKeeps (execSweepDiv st x s) := by
  unfold execSweepDiv
  with_reducible repeat' (first | assumption | refine done_keeps ?_ | apply State.stream_keeps | dsimp only)

theorem execGatherSum_keeps {b0 : State} (st : BitVec 4) (x : StreamReq) {s : State} (h_s : b0.Keeps s) : b0.OKeeps (execGatherSum st x s) := by
  unfold execGatherSum
  with_reducible repeat' (first | assumption | refine done_keeps ?_ | apply State.stream_keeps | dsimp only)

theorem execGatherMin_keeps {b0 : State} (st : BitVec 4) (x : StreamReq) {s : State} (h_s : b0.Keeps s) : b0.OKeeps (execGatherMin st x s) := by
  unfold execGatherMin
  with_reducible repeat' (first | assumption | refine done_keeps ?_ | apply State.stream_keeps | dsimp only)

theorem execGatherMax_keeps {b0 : State} (st : BitVec 4) (x : StreamReq) {s : State} (h_s : b0.Keeps s) : b0.OKeeps (execGatherMax st x s) := by
  unfold execGatherMax
  with_reducible repeat' (first | assumption | refine done_keeps ?_ | apply State.stream_keeps | dsimp only)

theorem execStreamComplete_keeps {b0 : State} (x : StreamEnd) {s : State} (h_s : b0.Keeps s) : b0.OKeeps (execStreamComplete x s) := by
  unfold execStreamComplete
  with_reducible repeat' (first | assumption | refine done_keeps ?_ | apply State.addF_keeps | apply State.hbmSealWrite_keeps | apply State.spadWrite_keeps | apply State.slvFault_keeps | apply State.setStreams_keeps | apply State.pumpStreams_keeps | split | simp only [State.keeps_mk] | dsimp only | refine State.keeps_snd (by assumption) ?_ | refine State.keeps_fst (by assumption) ?_)

theorem execScrubPass_keeps {b0 : State} (st : BitVec 4) (x : ScrubOutcome) {s : State} (h_s : b0.Keeps s) : b0.OKeeps (execScrubPass st x s) := by
  unfold execScrubPass
  with_reducible repeat' (first | assumption | refine done_keeps ?_ | apply State.addF_keeps | apply State.setLichen_keeps | apply State.eccOff_keeps | refine State.keeps_foldl _ (fun _ _ _ => ?_) _ _ ?_ | refine State.keeps_foldlP _ (fun _ _ _ => ?_) _ _ ?_ | refine State.keeps_foldlQ _ (fun _ _ _ => ?_) _ _ ?_ | split | simp only [State.keeps_mk] | dsimp only | exact True.intro | intro _)

theorem State.fenceStack_keeps {b0 : State} {s : State} (st : Nat) (h_s : b0.Keeps s) : b0.Keeps (State.fenceStack s st) := by
  unfold State.fenceStack
  with_reducible repeat' (first | assumption | apply State.setF_keeps | apply State.setErr_keeps | apply State.faultJobs_keeps | dsimp only | exact True.intro | intro _)

theorem execStackThermalSample_keeps {b0 : State} (st : BitVec 4) (temp : BitVec 8) (trend : BitVec 16) {s : State} (h_s : b0.Keeps s) : b0.OKeeps (execStackThermalSample st temp trend s) := by
  unfold execStackThermalSample
  with_reducible repeat' (first | assumption | refine done_keeps ?_ | apply State.setF_keeps | apply State.addF_keeps | apply State.setErr_keeps | apply State.tempWarn_keeps | apply State.fenceStack_keeps | split | simp only [State.keeps_mk] | dsimp only)

theorem execHbmWipeDone_keeps {b0 : State} (st : BitVec 4) {s : State} (h_s : b0.Keeps s) : b0.OKeeps (execHbmWipeDone st s) := by
  unfold execHbmWipeDone
  refine done_keeps ?_
  dsimp only
  split
  · exact h_s
  · have h1 : b0.Keeps { s with hbm := s.hbm.filter (fun e => stackOf e.1 ≠ st.toNat), hbmSum := s.hbmSum.filter (fun e => stackOf (4096 * e.1) ≠ st.toNat) } :=
      ⟨h_s.pend, fun c => ⟨spWf_filter _ _ _ (h_s.canon c).1, spWf_filter _ _ _ (h_s.canon c).2, (h_s.canon c).3, (h_s.canon c).4, (h_s.canon c).5, (h_s.canon c).6⟩⟩
    repeat' (first | with_reducible exact h1 | with_reducible apply State.setF_keeps | with_reducible apply State.setLichen_keeps | split)

/-! ### FieldIo -/

theorem State.setFio_keeps {b0 : State} {s : State} (f : FioState) (h_s : b0.Keeps s) : b0.Keeps (State.setFio s f) := by
  unfold State.setFio
  with_reducible repeat' (first | assumption | simp only [State.keeps_mk] | dsimp only)

theorem State.setWins_keeps {b0 : State} {s : State} (l : List FioWin) (h_s : b0.Keeps s) : b0.Keeps (State.setWins s l) := by
  unfold State.setWins
  with_reducible repeat' (first | assumption | apply State.setF_keeps | apply State.setFio_keeps | split | simp only [State.keeps_mk] | dsimp only | exact True.intro | intro _)

theorem State.fioDrop_keeps {b0 : State} {s : State} (h_s : b0.Keeps s) : b0.Keeps (State.fioDrop s) := by
  unfold State.fioDrop
  with_reducible repeat' (first | assumption | apply State.addF_keeps | dsimp only)

theorem State.fioTileCheck_keeps {b0 : State} {s : State} (h_s : b0.Keeps s) : b0.Keeps (State.fioTileCheck s) := by
  unfold State.fioTileCheck
  with_reducible repeat' (first | assumption | apply State.setErr_keeps | apply State.jobFault_keeps | dsimp only)

theorem State.fioStart_keeps {b0 : State} {s : State} (h_s : b0.Keeps s) : b0.Keeps (State.fioStart s) := by
  unfold State.fioStart
  with_reducible repeat' (first | assumption | apply State.setF_keeps | apply State.setFio_keeps | simp only [State.keeps_mk] | dsimp only)

theorem State.fioStop_keeps {b0 : State} {s : State} (h_s : b0.Keeps s) : b0.Keeps (State.fioStop s) := by
  unfold State.fioStop
  with_reducible repeat' (first | assumption | apply State.setF_keeps | apply State.setFio_keeps | dsimp only)

theorem State.fioTryEnable_keeps {b0 : State} {s : State} (h_s : b0.Keeps s) : b0.Keeps (State.fioTryEnable s) := by
  unfold State.fioTryEnable
  with_reducible repeat' (first | assumption | apply State.setF_keeps | apply State.setErr_keeps | apply State.fioTileCheck_keeps | apply State.fioStart_keeps | split | dsimp only)

theorem State.openCut_keeps {b0 : State} {s : State} (k : Nat) (start : Nat) (h_s : b0.Keeps s) : b0.Keeps (State.openCut s k start) := by
  unfold State.openCut
  with_reducible repeat' (first | assumption | apply State.setF_keeps | apply State.setFio_keeps | apply State.setWins_keeps | split | simp only [State.keeps_mk] | dsimp only | exact True.intro | intro _)

theorem execFrameStart_keeps {b0 : State} {s : State} (h_s : b0.Keeps s) : b0.OKeeps (execFrameStart s) := by
  unfold execFrameStart
  with_reducible repeat' (first | assumption | refine done_keeps ?_ | apply State.setF_keeps | apply State.setTime_keeps | apply State.openCut_keeps | split | simp only [State.keeps_mk] | dsimp only | refine State.keeps_snd (by assumption) ?_ | refine State.keeps_fst (by assumption) ?_)

theorem State.fioWrite_keeps {b0 : State} {s : State} (a : Nat) (bs : List Byte) (h_s : b0.Keeps s) : b0.Keeps (State.fioWrite s a bs) := by
  unfold State.fioWrite
  with_reducible repeat' (first | assumption | apply State.hbmWrite_keeps | apply State.faultUnit_keeps | split | dsimp only)

theorem State.modWin_keeps {b0 : State} {s : State} (k : Nat) (f : FioWin → FioWin) (h_s : b0.Keeps s) : b0.Keeps (State.modWin s k f) := by
  unfold State.modWin
  with_reducible repeat' (first | assumption | apply State.setFio_keeps | split | simp only [State.keeps_mk] | dsimp only | exact True.intro | intro _)

theorem State.fioUe_keeps {b0 : State} {s : State} (hs : List EccHit) (h_s : b0.Keeps s) : b0.Keeps (State.fioUe s hs) := by
  unfold State.fioUe
  with_reducible repeat' (first | assumption | apply State.eccHits_keeps | apply State.jobFault_keeps | apply State.setErr_keeps | dsimp only)

theorem State.fioMap_keeps {b0 : State} {s : State} (w : FioWin) (x : FioStream) (comps : List FioComp) (first : Nat) (es : List EccHit) (h_s : b0.Keeps s) : b0.Keeps (State.fioMap s w x comps first es) := by
  unfold State.fioMap
  with_reducible repeat' (first | assumption | apply State.fioUe_keeps | apply State.eccHits_keeps | apply State.addF_keeps | apply State.fioTileCheck_keeps | apply State.fioWrite_keeps | apply State.modWin_keeps | refine State.keeps_foldl _ (fun _ _ _ => ?_) _ _ ?_ | refine State.keeps_foldlP _ (fun _ _ _ => ?_) _ _ ?_ | refine State.keeps_foldlQ _ (fun _ _ _ => ?_) _ _ ?_ | split | simp only [State.keeps_mk] | dsimp only | refine State.keeps_snd (by assumption) ?_ | refine State.keeps_fst (by assumption) ?_ | exact True.intro | intro _)

theorem State.fioLate_keeps {b0 : State} {s : State} (time : Nat) (frame : Nat) (stream : Nat) (port : Nat) (carried : Nat) (h_s : b0.Keeps s) : b0.Keeps (State.fioLate s time frame stream port carried) := by
  unfold State.fioLate
  with_reducible repeat' (first | assumption | apply State.setF_keeps | apply State.addF_keeps | apply State.setErr_keeps | apply State.stream_keeps | apply State.fioWrite_keeps | split | dsimp only)

theorem State.fioRecord_keeps {b0 : State} {s : State} (i : Nat) (x : FioStream) (port : Nat) (time : Nat) (first : Nat) (comps : List FioComp) (es : List EccHit) (h_s : b0.Keeps s) : b0.Keeps (State.fioRecord s i x port time first comps es) := by
  unfold State.fioRecord
  with_reducible repeat' (first | assumption | apply State.addF_keeps | apply State.fioMap_keeps | apply State.fioLate_keeps | split | dsimp only | refine State.keeps_snd (by assumption) ?_ | refine State.keeps_fst (by assumption) ?_ | exact True.intro | intro _)

theorem execC37DataFrame_keeps {b0 : State} (p : FieldPacket) {s : State} (h_s : b0.Keeps s) : b0.OKeeps (execC37DataFrame p s) := by
  unfold execC37DataFrame
  with_reducible repeat' (first | assumption | refine done_keeps ?_ | apply State.fioDrop_keeps | apply State.fioRecord_keeps | refine State.keeps_foldl _ (fun _ _ _ => ?_) _ _ ?_ | refine State.keeps_foldlP _ (fun _ _ _ => ?_) _ _ ?_ | refine State.keeps_foldlQ _ (fun _ _ _ => ?_) _ _ ?_ | split | dsimp only | refine State.keeps_snd (by assumption) ?_ | refine State.keeps_fst (by assumption) ?_ | exact True.intro | intro _)

theorem execSampledValueAsdu_keeps {b0 : State} (p : SampledAsdu) {s : State} (h_s : b0.Keeps s) : b0.OKeeps (execSampledValueAsdu p s) := by
  unfold execSampledValueAsdu
  with_reducible repeat' (first | assumption | refine done_keeps ?_ | apply State.fioDrop_keeps | apply State.fioRecord_keeps | split | simp only [State.keeps_mk] | dsimp only | refine State.keeps_snd (by assumption) ?_ | refine State.keeps_fst (by assumption) ?_ | exact True.intro | intro _)

theorem execTelemetryRecord_keeps {b0 : State} (p : FieldPacket) {s : State} (h_s : b0.Keeps s) : b0.OKeeps (execTelemetryRecord p s) := by
  unfold execTelemetryRecord
  with_reducible repeat' (first | assumption | refine done_keeps ?_ | apply State.fioDrop_keeps | apply State.fioRecord_keeps | split | simp only [State.keeps_mk] | dsimp only | refine State.keeps_snd (by assumption) ?_ | refine State.keeps_fst (by assumption) ?_ | exact True.intro | intro _)

theorem execFieldFrameDrop_keeps {b0 : State} (port : BitVec 1) {s : State} (h_s : b0.Keeps s) : b0.OKeeps (execFieldFrameDrop port s) := by
  unfold execFieldFrameDrop
  with_reducible repeat' (first | assumption | refine done_keeps ?_ | apply State.fioDrop_keeps | split | dsimp only)

theorem execFieldPortLinkUp_keeps {b0 : State} (port : BitVec 1) {s : State} (h_s : b0.Keeps s) : b0.OKeeps (execFieldPortLinkUp port s) := by
  unfold execFieldPortLinkUp
  with_reducible repeat' (first | assumption | refine done_keeps ?_ | apply State.setF_keeps | split | dsimp only)

theorem execFieldPortLinkDown_keeps {b0 : State} (port : BitVec 1) {s : State} (h_s : b0.Keeps s) : b0.OKeeps (execFieldPortLinkDown port s) := by
  unfold execFieldPortLinkDown
  with_reducible repeat' (first | assumption | refine done_keeps ?_ | apply State.setF_keeps | apply State.setErr_keeps | split | dsimp only)

theorem execIngestWindowClose_keeps {b0 : State} {s : State} (h_s : b0.Keeps s) : b0.OKeeps (execIngestWindowClose s) := by
  unfold execIngestWindowClose
  with_reducible repeat' (first | assumption | refine done_keeps ?_ | apply State.setWins_keeps | split | simp only [State.keeps_mk] | dsimp only | refine State.keeps_snd (by assumption) ?_ | refine State.keeps_fst (by assumption) ?_ | exact True.intro | intro _)

theorem execCloseFillComplete_keeps {b0 : State} {s : State} (h_s : b0.Keeps s) : b0.OKeeps (execCloseFillComplete s) := by
  unfold execCloseFillComplete
  with_reducible repeat' (first | assumption | apply State.fioUe_keeps | apply State.eccHits_keeps | refine done_keeps ?_ | apply State.setF_keeps | apply State.memRead_keeps | apply State.hbmSealWrite_keeps | apply State.faultUnit_keeps | apply State.reserveSlot_keeps | apply State.writeRecord_keeps | apply State.setFio_keeps | apply State.setWins_keeps | apply State.fioTileCheck_keeps | split | simp only [State.keeps_mk] | dsimp only | refine State.keeps_snd (by assumption) ?_ | refine State.keeps_fst (by assumption) ?_ | exact True.intro | intro _)

theorem State.sendDatagram_keeps {b0 : State} {s : State} (x : FioPub) (bs : List Byte) (h_s : b0.Keeps s) : b0.Keeps (State.sendDatagram s x bs) := by
  unfold State.sendDatagram
  with_reducible repeat' (first | assumption | apply State.emit_keeps | refine State.keeps_foldl _ (fun _ _ _ => ?_) _ _ ?_ | split | dsimp only | exact True.intro | intro _)

theorem State.pubError_keeps {b0 : State} {s : State} (x : FioPub) (n : Nat) (k : Nat) (tick : Nat) (fault : Bool) (g : Option (Nat × Nat)) (h_s : b0.Keeps s) : b0.Keeps (State.pubError s x n k tick fault g) := by
  unfold State.pubError
  with_reducible repeat' (first | assumption | apply State.setF_keeps | apply State.addF_keeps | apply State.setErr_keeps | apply State.tick_keeps | apply State.sendDatagram_keeps | split | dsimp only | refine State.keeps_snd (by assumption) ?_ | refine State.keeps_fst (by assumption) ?_)

theorem State.pubDispatch_keeps {b0 : State} {s : State} (x : FioPub) (n : Nat) (k : Nat) (tick : Nat) (h_s : b0.Keeps s) : b0.Keeps (State.pubDispatch s x n k tick) := by
  unfold State.pubDispatch
  with_reducible repeat' (first | assumption | apply State.setF_keeps | apply State.addF_keeps | apply State.memRead_keeps | apply State.tick_keeps | apply State.sendDatagram_keeps | refine State.keeps_foldl _ (fun _ _ _ => ?_) _ _ ?_ | dsimp only | exact True.intro | intro _)

theorem execPublicationTick_keeps {b0 : State} (x : PubTick) {s : State} (h_s : b0.Keeps s) : b0.OKeeps (execPublicationTick x s) := by
  unfold execPublicationTick
  with_reducible repeat' (first | assumption | apply State.fioUe_keeps | apply State.eccHits_keeps | refine done_keeps ?_ | apply State.tick_keeps | apply State.setFio_keeps | apply State.fioTileCheck_keeps | apply State.pubError_keeps | apply State.pubDispatch_keeps | split | simp only [State.keeps_mk] | dsimp only | refine State.keeps_snd (by assumption) ?_ | refine State.keeps_fst (by assumption) ?_ | exact True.intro | intro _)

/-! ### Run -/

theorem State.thrRunStart_keeps {b0 : State} {s : State} (c : Nat) (m : Nat) (h_s : b0.Keeps s) : b0.Keeps (State.thrRunStart s c m) := by
  unfold State.thrRunStart
  with_reducible repeat' (first | assumption | apply State.setClu_keeps | apply State.startThread_keeps | refine State.keeps_foldl _ (fun _ _ _ => ?_) _ _ ?_ | split | simp only [State.keeps_mk] | dsimp only | exact True.intro | intro _)

theorem State.thrRunStop_keeps {b0 : State} {s : State} (c : Nat) (m : Nat) (h_s : b0.Keeps s) : b0.Keeps (State.thrRunStop s c m) := by
  unfold State.thrRunStop
  with_reducible repeat' (first | assumption | apply State.stopThread_keeps | refine State.keeps_foldl _ (fun _ _ _ => ?_) _ _ ?_ | split | dsimp only | exact True.intro | intro _)

theorem execClusterWipeDone_keeps {b0 : State} (c : BitVec 8) {s : State} (h_s : b0.Keeps s) : b0.OKeeps (execClusterWipeDone c s) := by
  unfold execClusterWipeDone
  with_reducible repeat' (first | assumption | refine done_keeps ?_ | apply State.setClu_keeps | apply State.thrRunStart_keeps | split | simp only [State.keeps_mk] | dsimp only)

theorem execRemoteResult_keeps {b0 : State} (c : BitVec 8) (t : BitVec 3) {s : State} (h_s : b0.Keeps s) : b0.OKeeps (execRemoteResult c t s) := by
  unfold execRemoteResult
  with_reducible repeat' (first | assumption | refine done_keeps ?_ | apply State.setThr_keeps | apply State.haltThread_keeps | split | simp only [State.keeps_mk] | dsimp only | refine State.keeps_snd (by assumption) ?_ | refine State.keeps_fst (by assumption) ?_)

theorem execWaitmWake_keeps {b0 : State} (c : BitVec 8) (t : BitVec 3) {s : State} (h_s : b0.Keeps s) : b0.OKeeps (execWaitmWake c t s) := by
  unfold execWaitmWake
  with_reducible repeat' (first | assumption | refine done_keeps ?_ | apply State.setThr_keeps | apply State.settle_keeps | split | simp only [State.keeps_mk] | dsimp only | refine State.keeps_snd (by assumption) ?_ | refine State.keeps_fst (by assumption) ?_)

theorem execRun_keeps {b0 : State} (id : Nat) {s : State} (h_s : b0.Keeps s) : b0.OKeeps (execRun id s) := by
  unfold execRun
  with_reducible repeat' (first | assumption | refine done_keeps ?_ | apply State.setF_keeps | apply State.setThr_keeps | apply State.setCmd_keeps | apply State.withStarted_keeps | refine State.keeps_foldl _ (fun _ _ _ => ?_) _ _ ?_ | refine State.keeps_foldlP _ (fun _ _ _ => ?_) _ _ ?_ | refine State.keeps_foldlQ _ (fun _ _ _ => ?_) _ _ ?_ | split | simp only [State.keeps_mk] | dsimp only | exact True.intro | intro _)

theorem State.withRun_keeps {b0 : State} {s : State} (id : Nat) {f : Cmd → State} (h_s : b0.Keeps s) (h_f : ∀ (y0 : Cmd), True → b0.Keeps (f y0)) : b0.Keeps (State.withRun s id f) := by
  unfold State.withRun
  with_reducible repeat' (first | assumption | apply h_f | split | dsimp only | refine State.keeps_snd (by assumption) ?_ | refine State.keeps_fst (by assumption) ?_ | exact True.intro | intro _)

theorem State.runCommit_keeps {b0 : State} {s : State} (c : Cmd) (h_s : b0.Keeps s) : b0.Keeps (State.runCommit s c) := by
  unfold State.runCommit
  with_reducible repeat' (first | assumption | apply State.commitCmd_keeps | split | dsimp only | exact True.intro | intro _)

theorem execRunCommit_keeps {b0 : State} (id : Nat) {s : State} (h_s : b0.Keeps s) : b0.OKeeps (execRunCommit id s) := by
  unfold execRunCommit
  exact done_keeps (State.withRun_keeps id h_s (fun _ _ => State.runCommit_keeps _ h_s))

theorem State.runStop_keeps {b0 : State} {s : State} (c : Cmd) (h_s : b0.Keeps s) : b0.Keeps (State.runStop s c) := by
  unfold State.runStop
  with_reducible repeat' (first | assumption | apply State.stopThread_keeps | refine State.keeps_foldl _ (fun _ _ _ => ?_) _ _ ?_ | refine State.keeps_foldlP _ (fun _ _ _ => ?_) _ _ ?_ | refine State.keeps_foldlQ _ (fun _ _ _ => ?_) _ _ ?_ | dsimp only | exact True.intro | intro _)

theorem execRunDeadline_keeps {b0 : State} (id : Nat) {s : State} (h_s : b0.Keeps s) : b0.OKeeps (execRunDeadline id s) := by
  unfold execRunDeadline
  with_reducible repeat' (first | assumption | refine done_keeps ?_ | apply State.setCmd_keeps | apply State.withRun_keeps | apply State.runCommit_keeps | apply State.runStop_keeps | split | simp only [State.keeps_mk] | dsimp only | exact True.intro | intro _)

/-! ### Queues -/

theorem State.doorbellFrom_keeps {b0 : State} {s : State} (d : DbSrc) (i : Nat) (cqHead : Bool) (v : Nat) (h_s : b0.Keeps s) : b0.Keeps (State.doorbellFrom s d i cqHead v) := by
  unfold State.doorbellFrom
  with_reducible repeat' (first | assumption | apply State.emit_keeps | apply State.doorbell_keeps | split | dsimp only | refine State.keeps_snd (by assumption) ?_ | refine State.keeps_fst (by assumption) ?_)

theorem State.withCtxs_keeps {b0 : State} {s : State} (es : List EccHit) (qs : List Nat) {f : State → State} (h_s : b0.Keeps s) (h_f : ∀ (y0 : State), b0.Keeps y0 → b0.Keeps (f y0)) : b0.Keeps (State.withCtxs s es qs f) := by
  unfold State.withCtxs
  with_reducible repeat' (first | assumption | apply h_f | apply State.setErr_keeps | apply State.eccHit_keeps | refine State.keeps_foldl _ (fun _ _ _ => ?_) _ _ ?_ | split | dsimp only | refine State.keeps_snd (by assumption) ?_ | refine State.keeps_fst (by assumption) ?_ | exact True.intro | intro _)

theorem execSqDoorbell_keeps {b0 : State} (d : DbSrc) (i : BitVec 20) (x : DbValue) {s : State} (h_s : b0.Keeps s) : b0.OKeeps (execSqDoorbell d i x s) := by
  unfold execSqDoorbell
  with_reducible repeat' (first | assumption | refine done_keeps ?_ | apply State.doorbellFrom_keeps | apply State.withCtxs_keeps | dsimp only | exact True.intro | intro _)

theorem execCqDoorbell_keeps {b0 : State} (d : DbSrc) (i : BitVec 20) (x : DbValue) {s : State} (h_s : b0.Keeps s) : b0.OKeeps (execCqDoorbell d i x s) := by
  unfold execCqDoorbell
  with_reducible repeat' (first | assumption | refine done_keeps ?_ | apply State.doorbellFrom_keeps | apply State.withCtxs_keeps | dsimp only | exact True.intro | intro _)

theorem State.ctxToData_keeps {b0 : State} {s : State} (copy : Nat) (q : Nat) (h_s : b0.Keeps s) : b0.Keeps (State.ctxToData s copy q) := by
  unfold State.ctxToData
  with_reducible repeat' (first | assumption | apply State.setW_keeps | apply State.ctxFetch_keeps | refine State.keeps_foldl _ (fun _ _ _ => ?_) _ _ ?_ | dsimp only | exact True.intro | intro _)

theorem State.ctxWrite_keeps {b0 : State} {s : State} (copy : Nat) (q : Nat) (h_s : b0.Keeps s) : b0.Keeps (State.ctxWrite s copy q) := by
  unfold State.ctxWrite
  with_reducible repeat' (first | assumption | apply State.setErr_keeps | apply State.ctxWriteBack_keeps | apply State.ctxFetch_keeps | apply State.setCtx_keeps | apply State.fetchEntries_keeps | apply State.setQext_keeps | split | simp only [State.keeps_mk] | dsimp only | refine State.keeps_snd (by assumption) ?_ | refine State.keeps_fst (by assumption) ?_)

theorem execLaunchTickReached_keeps {b0 : State} (id : Nat) {s : State} (h_s : b0.Keeps s) : b0.OKeeps (execLaunchTickReached id s) := by
  unfold execLaunchTickReached
  with_reducible repeat' (first | assumption | refine done_keeps ?_ | apply State.setCmd_keeps | split | simp only [State.keeps_mk] | dsimp only | refine State.keeps_snd (by assumption) ?_ | refine State.keeps_fst (by assumption) ?_)

theorem execCommandStart_keeps {b0 : State} (id : Nat) {s : State} (h_s : b0.Keeps s) : b0.OKeeps (execCommandStart id s) := by
  unfold execCommandStart
  with_reducible repeat' (first | assumption | refine done_keeps ?_ | apply State.setCmd_keeps | apply State.setBulk_keeps | apply State.reserveSlot_keeps | split | simp only [State.keeps_mk] | dsimp only | refine State.keeps_snd (by assumption) ?_ | refine State.keeps_fst (by assumption) ?_)

theorem execCompletionCommit_keeps {b0 : State} (x : CmdReads) {s : State} (h_s : b0.Keeps s) : b0.OKeeps (execCompletionCommit x s) := by
  unfold execCompletionCommit
  with_reducible repeat' (first | assumption | refine done_keeps ?_ | apply State.commitCmd_keeps | apply State.withCtxs_keeps | split | dsimp only | refine State.keeps_snd (by assumption) ?_ | refine State.keeps_fst (by assumption) ?_ | exact True.intro | intro _)

theorem State.takeAbort_keeps {b0 : State} {s : State} (c : Cmd) (h_s : b0.Keeps s) : b0.Keeps (State.takeAbort s c) := by
  unfold State.takeAbort
  with_reducible repeat' (first | assumption | apply State.setCmd_keeps | apply State.bulkRelease_keeps | apply State.leaveAll_keeps | apply State.bulkBoundary_keeps | apply State.runStop_keeps | split | simp only [State.keeps_mk] | dsimp only | refine State.keeps_snd (by assumption) ?_ | refine State.keeps_fst (by assumption) ?_)

theorem execAbort_keeps {b0 : State} (id : Nat) {s : State} (h_s : b0.Keeps s) : b0.OKeeps (execAbort id s) := by
  unfold execAbort
  with_reducible repeat' (first | assumption | refine done_keeps ?_ | apply State.addF_keeps | apply State.setCmd_keeps | apply State.withStarted_keeps | apply State.takeAbort_keeps | split | simp only [State.keeps_mk] | dsimp only | refine State.keeps_snd (by assumption) ?_ | refine State.keeps_fst (by assumption) ?_ | exact True.intro | intro _)

theorem execAbortedRecord_keeps {b0 : State} (id : Nat) {s : State} (h_s : b0.Keeps s) : b0.OKeeps (execAbortedRecord id s) := by
  unfold execAbortedRecord
  with_reducible repeat' (first | assumption | refine done_keeps ?_ | apply State.reserveSlot_keeps | apply State.commitWith_keeps | apply State.commitCmd_keeps | split | dsimp only | refine State.keeps_snd (by assumption) ?_ | refine State.keeps_fst (by assumption) ?_)

/-! ### Reset -/

theorem State.dropHeld_keeps {b0 : State} {s : State} (b : Block) (inst : Nat) (h_s : b0.Keeps s) : b0.Keeps (State.dropHeld s b inst) := by
  unfold State.dropHeld
  with_reducible repeat' (first | assumption | apply State.errForget_keeps | simp only [State.keeps_mk] | dsimp only)

theorem State.pageReset_keeps {b0 : State} {s : State} (b : Block) (inst : Nat) (h_s : b0.Keeps s) : b0.Keeps (State.pageReset s b inst) := by
  unfold State.pageReset
  with_reducible repeat' (first | assumption | apply State.dropHeld_keeps | simp only [State.keeps_mk] | dsimp only)

theorem State.cluReset_keeps {b0 s : State} (c : Nat) (h_s : b0.Keeps s) : b0.Keeps (State.cluReset s c) := by
  unfold State.cluReset
  dsimp only
  with_reducible refine State.dropHeld_keeps _ _ ?_
  with_reducible refine State.setF_keeps _ _ _ _ ?_
  with_reducible refine State.keeps_foldl _ (fun _ _ h => State.setW_keeps _ _ _ _ _ h) _ _ ?_
  with_reducible refine State.setClu_keeps _ _ ?_
  exact ⟨h_s.pend, fun k => ⟨(h_s.canon k).1, (h_s.canon k).2, spWf_spClear _ _ _ _ (h_s.canon k).3, spWf_spClear _ _ _ _ (h_s.canon k).4, (h_s.canon k).5, spWf_spClear _ _ _ _ (h_s.canon k).6⟩⟩

theorem State.cluStop_keeps {b0 : State} {s : State} (c : Nat) (h_s : b0.Keeps s) : b0.Keeps (State.cluStop s c) := by
  unfold State.cluStop
  with_reducible repeat' (first | assumption | apply State.setThr_keeps | apply State.setClu_keeps | refine State.keeps_foldl _ (fun _ _ _ => ?_) _ _ ?_ | split | simp only [State.keeps_mk] | dsimp only | exact True.intro | intro _)

theorem State.endCommands_keeps {b0 : State} {s : State} (test : Cmd → Bool) (h_s : b0.Keeps s) : b0.Keeps (State.endCommands s test) := by
  unfold State.endCommands
  with_reducible repeat' (first | assumption | apply State.bulkRelease_keeps | apply State.leaveAll_keeps | refine State.keeps_foldl _ (fun _ _ _ => ?_) _ _ ?_ | split | simp only [State.keeps_mk] | dsimp only | refine State.keeps_snd (by assumption) ?_ | refine State.keeps_fst (by assumption) ?_ | exact True.intro | intro _)

theorem State.queueReset_keeps {b0 : State} {s : State} (p : Nat) (first : Nat) (n : Nat) (h_s : b0.Keeps s) : b0.Keeps (State.queueReset s p first n) := by
  unfold State.queueReset
  with_reducible repeat' (first | assumption | apply State.hbmWrite_keeps | apply State.endCommands_keeps | refine State.keeps_foldl _ (fun _ _ _ => ?_) _ _ ?_ | refine State.keeps_foldlP _ (fun _ _ _ => ?_) _ _ ?_ | refine State.keeps_foldlQ _ (fun _ _ _ => ?_) _ _ ?_ | split | simp only [State.keeps_mk] | dsimp only | exact True.intro | intro _)

theorem State.movReset_keeps {b0 : State} {s : State} (ch : Nat) (h_s : b0.Keeps s) : b0.Keeps (State.movReset s ch) := by
  unfold State.movReset
  with_reducible repeat' (first | assumption | apply State.pageReset_keeps | simp only [State.keeps_mk] | dsimp only)

theorem State.chainReset_keeps {b0 : State} {s : State} (j : Nat) (h_s : b0.Keeps s) : b0.Keeps (State.chainReset s j) := by
  unfold State.chainReset
  with_reducible repeat' (first | assumption | simp only [State.keeps_mk] | dsimp only | exact True.intro | intro _)

theorem State.cadReset_keeps {b0 : State} {s : State} (j : Nat) (h_s : b0.Keeps s) : b0.Keeps (State.cadReset s j) := by
  unfold State.cadReset
  with_reducible repeat' (first | assumption | apply State.setW_keeps | apply State.setF_keeps | refine State.keeps_foldl _ (fun _ _ _ => ?_) _ _ ?_ | dsimp only | exact True.intro | intro _)

theorem State.flowReset_keeps {b0 : State} {s : State} (j : Nat) (h_s : b0.Keeps s) : b0.Keeps (State.flowReset s j) := by
  unfold State.flowReset
  with_reducible repeat' (first | assumption | apply State.replyOcc_keeps | simp only [State.keeps_mk] | dsimp only | exact True.intro | intro _)

theorem State.tableReset_keeps {b0 : State} {s : State} (j : Nat) (h_s : b0.Keeps s) : b0.Keeps (State.tableReset s j) := by
  unfold State.tableReset
  with_reducible repeat' (first | assumption | apply State.setW_keeps | refine State.keeps_foldl _ (fun _ _ _ => ?_) _ _ ?_ | dsimp only | exact True.intro | intro _)

theorem State.sporeReset_keeps {b0 : State} {s : State} (j : Nat) (h_s : b0.Keeps s) : b0.Keeps (State.sporeReset s j) := by
  unfold State.sporeReset
  with_reducible repeat' (first | assumption | apply State.setF_keeps | apply State.hbmWrite_keeps | refine State.keeps_foldl _ (fun _ _ _ => ?_) _ _ ?_ | refine State.keeps_foldlP _ (fun _ _ _ => ?_) _ _ ?_ | refine State.keeps_foldlQ _ (fun _ _ _ => ?_) _ _ ?_ | simp only [State.keeps_mk] | dsimp only | exact True.intro | intro _)

theorem State.brokerClear_keeps {b0 : State} {s : State} (h_s : b0.Keeps s) : b0.Keeps (State.brokerClear s) := by
  unfold State.brokerClear
  with_reducible repeat' (first | assumption | simp only [State.keeps_mk] | dsimp only)

theorem State.brokerReset_keeps {b0 : State} {s : State} (j : Nat) (h_s : b0.Keeps s) : b0.Keeps (State.brokerReset s j) := by
  unfold State.brokerReset
  with_reducible repeat' (first | assumption | apply State.setF_keeps | apply State.brokerClear_keeps | split | dsimp only)

theorem State.lichenReset_keeps {b0 : State} {s : State} (j : Nat) (h_s : b0.Keeps s) : b0.Keeps (State.lichenReset s j) := by
  unfold State.lichenReset
  with_reducible repeat' (first | assumption | apply State.setStreams_keeps | apply State.pumpStreams_keeps | refine State.keeps_foldl _ (fun _ _ _ => ?_) _ _ ?_ | refine State.keeps_foldlP _ (fun _ _ _ => ?_) _ _ ?_ | refine State.keeps_foldlQ _ (fun _ _ _ => ?_) _ _ ?_ | split | simp only [State.keeps_mk] | dsimp only | exact True.intro | intro _)

theorem State.jobStop_keeps {b0 : State} {s : State} (j : Nat) (h_s : b0.Keeps s) : b0.Keeps (State.jobStop s j) := by
  unfold State.jobStop
  with_reducible repeat' (first | assumption | apply State.slvReset_keeps | apply State.fioStop_keeps | apply State.cluStop_keeps | apply State.endCommands_keeps | apply State.chainReset_keeps | apply State.sporeReset_keeps | apply State.brokerReset_keeps | apply State.lichenReset_keeps | refine State.keeps_foldl _ (fun _ _ _ => ?_) _ _ ?_ | split | dsimp only | exact True.intro | intro _)

theorem State.jobWipe_keeps {b0 : State} {s : State} (j : Nat) (h_s : b0.Keeps s) : b0.Keeps (State.jobWipe s j) := by
  unfold State.jobWipe
  with_reducible repeat' (first | assumption | apply State.hbmWipe_keeps | apply State.cluReset_keeps | apply State.queueReset_keeps | apply State.chainReset_keeps | apply State.cadReset_keeps | apply State.flowReset_keeps | apply State.tableReset_keeps | refine State.keeps_foldl _ (fun _ _ _ => ?_) _ _ ?_ | split | dsimp only | refine State.keeps_snd (by assumption) ?_ | refine State.keeps_fst (by assumption) ?_ | exact True.intro | intro _)

end Sys2Proof.Machine
end

