-- ==== Sys2Proof/Laws/KeepsJobs.lean ====
section
/-! SUPPORT. What jobs, power, partitions, management and Spore keep. -/

namespace Sys2Proof.Machine

set_option linter.unusedVariables false
set_option linter.unusedSimpArgs false
set_option maxRecDepth 4000

/-! ### Jobs -/

theorem State.jobEnter_keeps {b0 : State} {s : State} (j : Nat) (h_s : b0.Keeps s) : b0.Keeps (State.jobEnter s j) := by
  unfold State.jobEnter
  with_reducible repeat' (first | assumption | apply State.setF_keeps | apply State.setStage_keeps | apply State.setErr_keeps | apply State.setSp_keeps | apply State.setJobX_keeps | apply State.brokerClear_keeps | split | simp only [State.keeps_mk] | dsimp only)

theorem State.jobAcceptNow_keeps {b0 : State} {s : State} (j : Nat) (h_s : b0.Keeps s) : b0.Keeps (State.jobAcceptNow s j) := by
  unfold State.jobAcceptNow
  with_reducible repeat' (first | assumption | apply State.setJobX_keeps | apply State.jobEnter_keeps | split | simp only [State.keeps_mk] | dsimp only | refine State.keeps_snd (by assumption) ?_ | refine State.keeps_fst (by assumption) ?_)

theorem State.jobTake_keeps {b0 : State} {s : State} (o : Origin) (j : Nat) (h_s : b0.Keeps s) : b0.Keeps (State.jobTake s o j) := by
  unfold State.jobTake
  with_reducible repeat' (first | assumption | apply State.setF_keeps | apply State.setStage_keeps | apply State.setJobX_keeps | split | simp only [State.keeps_mk] | dsimp only | refine State.keeps_snd (by assumption) ?_ | refine State.keeps_fst (by assumption) ?_)

theorem State.jobBeginWipe_keeps {b0 : State} {s : State} (j : Nat) (h_s : b0.Keeps s) : b0.Keeps (State.jobBeginWipe s j) := by
  unfold State.jobBeginWipe
  with_reducible repeat' (first | assumption | apply State.setF_keeps | apply State.setStage_keeps | apply State.setJobX_keeps | apply State.jobWipe_keeps | simp only [State.keeps_mk] | dsimp only)

theorem State.jobBeginDrain_keeps {b0 : State} {s : State} (j : Nat) (h_s : b0.Keeps s) : b0.Keeps (State.jobBeginDrain s j) := by
  unfold State.jobBeginDrain
  with_reducible repeat' (first | assumption | apply State.setF_keeps | apply State.setStage_keeps | apply State.setJobX_keeps | apply State.timeSettle_keeps | apply State.jobStop_keeps | simp only [State.keeps_mk] | dsimp only)

theorem State.holdReset_keeps {b0 : State} {s : State} (scope : Nat) (i : Nat) (h_s : b0.Keeps s) : b0.Keeps (State.holdReset s scope i) := by
  unfold State.holdReset
  with_reducible repeat' (first | assumption | simp only [State.keeps_mk] | dsimp only)

theorem State.jobReset_keeps {b0 : State} {s : State} (j : Nat) (h_s : b0.Keeps s) : b0.Keeps (State.jobReset s j) := by
  unfold State.jobReset
  with_reducible repeat' (first | assumption | apply State.jobBeginDrain_keeps | apply State.holdReset_keeps | split | dsimp only)

theorem State.jobCtlWrite_keeps {b0 : State} {s : State} (o : Origin) (j : Nat) (v : Nat) (h_s : b0.Keeps s) : b0.Keeps (State.jobCtlWrite s o j v) := by
  unfold State.jobCtlWrite
  with_reducible repeat' (first | assumption | apply State.setF_keeps | apply State.jobStop_keeps | apply State.jobAcceptNow_keeps | apply State.jobTake_keeps | apply State.jobBeginWipe_keeps | apply State.jobReset_keeps | split | dsimp only)

theorem execDrainEnd_keeps {b0 : State} (slot : BitVec 3) {s : State} (h_s : b0.Keeps s) : b0.OKeeps (execDrainEnd slot s) := by
  unfold execDrainEnd
  with_reducible repeat' (first | assumption | refine done_keeps ?_ | apply State.jobBeginWipe_keeps | split | dsimp only | exact True.intro | intro _)

theorem State.sendMgmt_keeps {b0 : State} {s : State} (dst : Nat) (payload : List Byte) (h_s : b0.Keeps s) : b0.Keeps (State.sendMgmt s dst payload) := by
  unfold State.sendMgmt
  with_reducible repeat' (first | assumption | apply State.sendPlain_keeps | simp only [State.keeps_mk] | dsimp only)

theorem State.teardownReport_keeps {b0 : State} {s : State} (j : Nat) (tag : Nat) (result : Nat) (h_s : b0.Keeps s) : b0.Keeps (State.teardownReport s j tag result) := by
  unfold State.teardownReport
  with_reducible repeat' (first | assumption | apply State.sendMgmt_keeps | split | dsimp only)

theorem execWipeComplete_keeps {b0 : State} (slot : BitVec 3) (ok : Bool) {s : State} (h_s : b0.Keeps s) : b0.OKeeps (execWipeComplete slot ok s) := by
  unfold execWipeComplete
  with_reducible repeat' (first | assumption | refine done_keeps ?_ | apply State.setF_keeps | apply State.setStage_keeps | apply State.setErr_keeps | apply State.setJobX_keeps | apply State.jobEnter_keeps | apply State.teardownReport_keeps | refine State.keeps_foldl _ (fun _ _ _ => ?_) _ _ ?_ | split | simp only [State.keeps_mk] | dsimp only | exact True.intro | intro _)

theorem State.frondRead_keeps {b0 : State} {s : State} (j : Nat) (rank : Nat) (off : Nat) (len : Nat) (seg : Option (Nat × Nat)) (h_s : b0.Keeps s) : b0.Keeps (State.frondRead s j rank off len seg) := by
  unfold State.frondRead
  with_reducible repeat' (first | assumption | apply State.sendAccess_keeps | dsimp only)

theorem State.frondFetch_keeps {b0 : State} {s : State} (j : Nat) (n : Nat) (again : Bool) (h_s : b0.Keeps s) : b0.Keeps (State.frondFetch s j n again) := by
  unfold State.frondFetch
  with_reducible repeat' (first | assumption | apply State.setJobX_keeps | apply State.frondRead_keeps | refine State.keeps_foldl _ (fun _ _ _ => ?_) _ _ ?_ | simp only [State.keeps_mk] | dsimp only | exact True.intro | intro _)

theorem State.frondPump_keeps {b0 : State} (j : Nat) : ∀ (n : Nat) {s : State}, b0.Keeps s → b0.Keeps (State.frondPump s j n)
  | 0, _, h => h
  | n + 1, s, h => by
    unfold State.frondPump; dsimp only
    repeat' (first | with_reducible assumption | with_reducible apply State.frondPump_keeps j n | with_reducible apply State.frondFetch_keeps | with_reducible apply State.setJobX_keeps | split)

theorem execFrondStart_keeps {b0 : State} (slot : BitVec 3) {s : State} (h_s : b0.Keeps s) : b0.OKeeps (execFrondStart slot s) := by
  unfold execFrondStart
  with_reducible repeat' (first | assumption | refine done_keeps ?_ | apply State.setF_keeps | apply State.setJobX_keeps | split | simp only [State.keeps_mk] | dsimp only)

theorem execFrondPoll_keeps {b0 : State} (slot : BitVec 3) {s : State} (h_s : b0.Keeps s) : b0.OKeeps (execFrondPoll slot s) := by
  unfold execFrondPoll
  with_reducible repeat' (first | assumption | refine done_keeps ?_ | apply State.setJobX_keeps | apply State.frondRead_keeps | apply State.frondPump_keeps | split | simp only [State.keeps_mk] | dsimp only)

theorem State.frondBad_keeps {b0 : State} {s : State} (j : Nat) (h_s : b0.Keeps s) : b0.Keeps (State.frondBad s j) := by
  unfold State.frondBad
  with_reducible repeat' (first | assumption | apply State.setErr_keeps | apply State.jobFault_keeps | dsimp only | refine State.keeps_snd (by assumption) ?_ | refine State.keeps_fst (by assumption) ?_)

theorem State.judgeSegment_keeps {b0 : State} {s : State} (j n : Nat) (bs : List Byte) (h_s : b0.Keeps s) : b0.Keeps (State.judgeSegment s j n bs) := by
  unfold State.judgeSegment
  with_reducible repeat' (first | assumption | apply State.setF_keeps | apply State.addSat_keeps | apply State.hbmSealWrite_keeps | apply State.setJobX_keeps | apply State.frondFetch_keeps | apply State.frondPump_keeps | apply State.frondBad_keeps | split | simp only [State.keeps_mk] | dsimp only | refine State.keeps_snd (by assumption) ?_ | refine State.keeps_fst (by assumption) ?_ | exact True.intro | intro _)

theorem execFrondSegmentVerified_keeps {b0 : State} (x : SlotReads) {s : State} (h_s : b0.Keeps s) : b0.OKeeps (execFrondSegmentVerified x s) := by
  unfold execFrondSegmentVerified
  with_reducible repeat' (first | assumption | refine done_keeps ?_ | apply State.judgeSegment_keeps | apply State.eccHits_keeps | split | dsimp only)

theorem execFrondSwitch_keeps {b0 : State} (slot : BitVec 3) {s : State} (h_s : b0.Keeps s) : b0.OKeeps (execFrondSwitch slot s) := by
  unfold execFrondSwitch
  with_reducible repeat' (first | assumption | refine done_keeps ?_ | apply State.frondSwitch_keeps | split | dsimp only)

theorem State.digestCheck_keeps {b0 : State} {s : State} (j : Nat) (h_s : b0.Keeps s) : b0.Keeps (State.digestCheck s j) := by
  unfold State.digestCheck
  with_reducible repeat' (first | assumption | apply State.arrive_keeps | apply State.setJobX_keeps | apply State.startColl_keeps | simp only [State.keeps_mk] | dsimp only)

theorem execLaunchBarrierStart_keeps {b0 : State} (slot : BitVec 3) {s : State} (h_s : b0.Keeps s) : b0.OKeeps (execLaunchBarrierStart slot s) := by
  unfold execLaunchBarrierStart
  with_reducible repeat' (first | assumption | refine done_keeps ?_ | apply State.setStage_keeps | apply State.digestCheck_keeps | split | dsimp only)

theorem spWf_foldl_snd {α : Type} (f : Nat × Sparse Word → α → Nat × Sparse Word) (hf : ∀ a x, spWf (0 : Word) a.2 = true → spWf (0 : Word) (f a x).2 = true) : ∀ (l : List α) (a : Nat × Sparse Word), spWf (0 : Word) a.2 = true → spWf (0 : Word) (l.foldl f a).2 = true
  | [], _, h => h
  | x :: l, a, h => spWf_foldl_snd f hf l _ (hf a x h)

theorem State.loadProgram_keeps {b0 s : State} (c : Nat) (ws : List Word) (h_s : b0.Keeps s) : b0.Keeps (State.loadProgram s c ws) := by
  unfold State.loadProgram
  exact State.keeps_istore (State.setClu_keeps _ _ h_s) (fun w => spWf_foldl_snd _ (fun a x h => spWf_spPut _ _ _ _ h) _ _ w)

theorem State.launchThreads_keeps {b0 : State} {s : State} (j : Nat) (ws : List Word) (h_s : b0.Keeps s) : b0.Keeps (State.launchThreads s j ws) := by
  unfold State.launchThreads
  with_reducible repeat' (first | assumption | apply State.setStage_keeps | apply State.setSp_keeps | apply State.thrRunStart_keeps | apply State.loadProgram_keeps | refine State.keeps_foldl _ (fun _ _ _ => ?_) _ _ ?_ | simp only [State.keeps_mk] | dsimp only | exact True.intro | intro _)

theorem execThreadLaunch_keeps {b0 : State} (x : SlotReads) {s : State} (h_s : b0.Keeps s) : b0.OKeeps (execThreadLaunch x s) := by
  unfold execThreadLaunch
  with_reducible repeat' (first | assumption | refine done_keeps ?_ | apply State.launchThreads_keeps | apply State.jobFault_keeps | apply State.clusterFault_keeps | apply State.eccHits_keeps | refine State.keeps_foldl _ (fun _ _ _ => ?_) _ _ ?_ | split | simp only [State.keeps_mk] | dsimp only | exact True.intro | intro _)

theorem execDigestSweep_keeps {b0 : State} (slot : BitVec 3) {s : State} (h_s : b0.Keeps s) : b0.OKeeps (execDigestSweep slot s) := by
  unfold execDigestSweep
  with_reducible repeat' (first | assumption | refine done_keeps ?_ | apply State.digestCheck_keeps | split | dsimp only)

/-! ### Power -/

theorem State.setGov_keeps {b0 : State} {s : State} (g : GovState) (h_s : b0.Keeps s) : b0.Keeps (State.setGov s g) := by
  unfold State.setGov
  with_reducible repeat' (first | assumption | simp only [State.keeps_mk] | dsimp only)

theorem State.applyIssue_keeps {b0 : State} {s : State} (h_s : b0.Keeps s) : b0.Keeps (State.applyIssue s) := by
  unfold State.applyIssue
  with_reducible repeat' (first | assumption | apply State.setF_keeps | refine State.keeps_foldl _ (fun _ _ _ => ?_) _ _ ?_ | dsimp only | exact True.intro | intro _)

theorem execOperatingPointChange_keeps {b0 : State} {s : State} (h_s : b0.Keeps s) : b0.OKeeps (execOperatingPointChange s) := by
  unfold execOperatingPointChange
  with_reducible repeat' (first | assumption | refine done_keeps ?_ | apply State.setF_keeps | refine State.keeps_foldl _ (fun _ _ _ => ?_) _ _ ?_ | split | dsimp only | exact True.intro | intro _)

theorem State.regWarn_keeps {b0 : State} {s : State} (h_s : b0.Keeps s) : b0.Keeps (State.regWarn s) := by
  unfold State.regWarn
  with_reducible repeat' (first | assumption | apply State.setErr_keeps | apply State.sporeWarn_keeps | dsimp only)

theorem execInputVoltageWarning_keeps {b0 : State} (mv : BitVec 16) {s : State} (h_s : b0.Keeps s) : b0.OKeeps (execInputVoltageWarning mv s) := by
  unfold execInputVoltageWarning
  with_reducible repeat' (first | assumption | refine done_keeps ?_ | apply State.setF_keeps | apply State.setErr_keeps | apply State.setGov_keeps | apply State.regWarn_keeps | split | simp only [State.keeps_mk] | dsimp only)

theorem State.measurePower_keeps {b0 : State} {s : State} (x : PowerSample) (h_s : b0.Keeps s) : b0.Keeps (State.measurePower s x) := by
  unfold State.measurePower
  with_reducible repeat' (first | assumption | apply State.setF_keeps | apply State.addF_keeps | apply State.setGov_keeps | refine State.keeps_foldl _ (fun _ _ _ => ?_) _ _ ?_ | simp only [State.keeps_mk] | dsimp only)

theorem execGovernorTick_keeps {b0 : State} (x : PowerSample) {s : State} (h_s : b0.Keeps s) : b0.OKeeps (execGovernorTick x s) := by
  unfold execGovernorTick
  with_reducible repeat' (first | assumption | refine done_keeps ?_ | apply State.setF_keeps | apply State.setErr_keeps | apply State.setGov_keeps | apply State.applyIssue_keeps | apply State.measurePower_keeps | split | simp only [State.keeps_mk] | dsimp only | exact True.intro | intro _)

theorem State.capWritten_keeps {b0 : State} {s : State} (h_s : b0.Keeps s) : b0.Keeps (State.capWritten s) := by
  unfold State.capWritten
  with_reducible repeat' (first | assumption | apply State.setGov_keeps | simp only [State.keeps_mk] | dsimp only)

theorem execPeakHit_keeps {b0 : State} (w : BitVec 16) {s : State} (h_s : b0.Keeps s) : b0.OKeeps (execPeakHit w s) := by
  unfold execPeakHit
  with_reducible repeat' (first | assumption | refine done_keeps ?_ | apply State.setF_keeps | apply State.setErr_keeps | apply State.setGov_keeps | apply State.applyIssue_keeps | split | simp only [State.keeps_mk] | dsimp only)

theorem State.sendPower_keeps {b0 : State} {s : State} (rank : Nat) (payload : List Byte) (h_s : b0.Keeps s) : b0.Keeps (State.sendPower s rank payload) := by
  unfold State.sendPower
  with_reducible repeat' (first | assumption | apply State.sendPlain_keeps | simp only [State.keeps_mk] | dsimp only)

theorem State.brokerRoot_keeps {b0 : State} {s : State} (ranks : List Nat) (epoch : Nat) (own : GovReport) (h_s : b0.Keeps s) : b0.Keeps (State.brokerRoot s ranks epoch own) := by
  unfold State.brokerRoot
  with_reducible repeat' (first | assumption | apply State.setF_keeps | apply State.addF_keeps | apply State.setGov_keeps | apply State.sendPower_keeps | refine State.keeps_foldl _ (fun _ _ _ => ?_) _ _ ?_ | refine State.keeps_foldlP _ (fun _ _ _ => ?_) _ _ ?_ | refine State.keeps_foldlQ _ (fun _ _ _ => ?_) _ _ ?_ | split | simp only [State.keeps_mk] | dsimp only | refine State.keeps_snd (by assumption) ?_ | refine State.keeps_fst (by assumption) ?_ | exact True.intro | intro _)

theorem execBrokerPeriod_keeps {b0 : State} {s : State} (h_s : b0.Keeps s) : b0.OKeeps (execBrokerPeriod s) := by
  unfold execBrokerPeriod
  with_reducible repeat' (first | assumption | refine done_keeps ?_ | apply State.setGov_keeps | apply State.sendPower_keeps | apply State.brokerRoot_keeps | split | simp only [State.keeps_mk] | dsimp only | refine State.keeps_snd (by assumption) ?_ | refine State.keeps_fst (by assumption) ?_ | exact True.intro | intro _)

theorem execPowerReport_keeps {b0 : State} (x : Cell) {s : State} (h_s : b0.Keeps s) : b0.OKeeps (execPowerReport x s) := by
  unfold execPowerReport
  with_reducible repeat' (first | assumption | refine done_keeps ?_ | apply State.setGov_keeps | split | simp only [State.keeps_mk] | dsimp only | exact True.intro | intro _)

theorem execPowerGrant_keeps {b0 : State} (x : Cell) {s : State} (h_s : b0.Keeps s) : b0.OKeeps (execPowerGrant x s) := by
  unfold execPowerGrant
  with_reducible repeat' (first | assumption | refine done_keeps ?_ | apply State.setF_keeps | apply State.addF_keeps | apply State.setGov_keeps | split | simp only [State.keeps_mk] | dsimp only | refine State.keeps_snd (by assumption) ?_ | refine State.keeps_fst (by assumption) ?_)

theorem State.trip_keeps {b0 : State} {s : State} (h_s : b0.Keeps s) : b0.Keeps (State.trip s) := by
  unfold State.trip
  with_reducible repeat' (first | assumption | simp only [State.keeps_mk] | dsimp only)

theorem execDieThermalSample_keeps {b0 : State} (d : BitVec 3) (temp : Option (BitVec 8)) {s : State} (h_s : b0.Keeps s) : b0.OKeeps (execDieThermalSample d temp s) := by
  unfold execDieThermalSample
  with_reducible repeat' (first | assumption | refine done_keeps ?_ | apply State.setF_keeps | apply State.setErr_keeps | apply State.setGov_keeps | apply State.applyIssue_keeps | apply State.trip_keeps | split | simp only [State.keeps_mk] | dsimp only | exact True.intro | intro _)

theorem State.railReading_keeps {b0 : State} {s : State} (x : RailSample) (flags : Nat) (h_s : b0.Keeps s) : b0.Keeps (State.railReading s x flags) := by
  unfold State.railReading
  with_reducible repeat' (first | assumption | apply State.setF_keeps | dsimp only)

theorem execRegulatorWarning_keeps {b0 : State} (x : RailSample) {s : State} (h_s : b0.Keeps s) : b0.OKeeps (execRegulatorWarning x s) := by
  unfold execRegulatorWarning
  with_reducible repeat' (first | assumption | refine done_keeps ?_ | apply State.setErr_keeps | apply State.regWarn_keeps | apply State.railReading_keeps | split | dsimp only)

theorem execRailFail_keeps {b0 : State} (x : RailSample) {s : State} (h_s : b0.Keeps s) : b0.OKeeps (execRailFail x s) := by
  unfold execRailFail
  with_reducible repeat' (first | assumption | refine done_keeps ?_ | apply State.free_keeps | apply State.setErr_keeps | apply State.fenceStack_keeps | apply State.railReading_keeps | refine State.keeps_foldl _ (fun _ _ _ => ?_) _ _ ?_ | split | simp only [State.keeps_mk] | dsimp only | refine State.keeps_snd (by assumption) ?_ | refine State.keeps_fst (by assumption) ?_ | exact True.intro | intro _)

/-! ### Partition -/

theorem State.setHostLink_keeps {b0 : State} {s : State} (l : Nat) (x : HostLink) (h_s : b0.Keeps s) : b0.Keeps (State.setHostLink s l x) := by
  unfold State.setHostLink
  with_reducible repeat' (first | assumption | simp only [State.keeps_mk] | dsimp only)

theorem State.ownerLost_keeps {b0 : State} {s : State} (l : Nat) (h_s : b0.Keeps s) : b0.Keeps (State.ownerLost s l) := by
  unfold State.ownerLost
  with_reducible repeat' (first | assumption | apply State.setErr_keeps | split | dsimp only)

theorem State.linkFalls_keeps {b0 : State} {s : State} (l : Nat) (h_s : b0.Keeps s) : b0.Keeps (State.linkFalls s l) := by
  unfold State.linkFalls
  with_reducible repeat' (first | assumption | apply State.ownerLost_keeps | apply State.setHostLink_keeps | split | simp only [State.keeps_mk] | dsimp only)

theorem execHostLinkDown_keeps {b0 : State} (l : BitVec 2) {s : State} (h_s : b0.Keeps s) : b0.OKeeps (execHostLinkDown l s) := by
  unfold execHostLinkDown
  with_reducible repeat' (first | assumption | refine done_keeps ?_ | apply State.linkFalls_keeps | dsimp only)

theorem State.fetchLost_keeps {b0 : State} {s : State} (l : Nat) (h_s : b0.Keeps s) : b0.Keeps (State.fetchLost s l) := by
  unfold State.fetchLost
  with_reducible repeat' (first | assumption | apply State.setF_keeps | split | simp only [State.keeps_mk] | dsimp only)

theorem execPerst_keeps {b0 : State} (l : BitVec 2) (asserted : Bool) {s : State} (h_s : b0.Keeps s) : b0.OKeeps (execPerst l asserted s) := by
  unfold execPerst
  with_reducible repeat' (first | assumption | refine done_keeps ?_ | apply State.setHostLink_keeps | apply State.linkFalls_keeps | apply State.ownerLost_keeps | apply State.fetchLost_keeps | split | simp only [State.keeps_mk] | dsimp only)

theorem execHostLinkTrain_keeps {b0 : State} (l : BitVec 2) {s : State} (h_s : b0.Keeps s) : b0.OKeeps (execHostLinkTrain l s) := by
  unfold execHostLinkTrain
  with_reducible repeat' (first | assumption | refine done_keeps ?_ | apply State.setHostLink_keeps | split | simp only [State.keeps_mk] | dsimp only)

theorem State.bar4Own_keeps {b0 : State} {s : State} (x : Bar4Op) (h_s : b0.Keeps s) : b0.Keeps (State.bar4Own s x) := by
  unfold State.bar4Own
  with_reducible repeat' (first | assumption | apply State.addF_keeps | apply State.emit_keeps | apply State.memRead_keeps | apply State.hbmWrite_keeps | apply State.hbmLane_keeps | apply State.faultUnit_keeps | apply State.hbmUe_keeps | apply State.eccOff_keeps | split | dsimp only | refine State.keeps_snd (by assumption) ?_ | refine State.keeps_fst (by assumption) ?_ | exact True.intro | intro _)

theorem execBar4Access_keeps {b0 : State} (l : BitVec 2) (x : Bar4Op) {s : State} (h_s : b0.Keeps s) : b0.OKeeps (execBar4Access l x s) := by
  unfold execBar4Access
  with_reducible repeat' (first | assumption | refine done_keeps ?_ | apply State.addF_keeps | apply State.emit_keeps | apply State.bar4Own_keeps | split | dsimp only | refine State.keeps_snd (by assumption) ?_ | refine State.keeps_fst (by assumption) ?_ | exact True.intro | intro _)

theorem State.wipeGroups_keeps {b0 : State} {s : State} (test : Nat → Bool) (h_s : b0.Keeps s) : b0.Keeps (State.wipeGroups s test) := by
  unfold State.wipeGroups
  with_reducible repeat' (first | assumption | apply State.cluReset_keeps | refine State.keeps_foldl _ (fun _ _ _ => ?_) _ _ ?_ | dsimp only | exact True.intro | intro _)

theorem State.giveUpGroups_keeps {b0 : State} {s : State} (test : Nat → Bool) (h_s : b0.Keeps s) : b0.Keeps (State.giveUpGroups s test) := by
  unfold State.giveUpGroups
  with_reducible repeat' (first | assumption | apply State.setClu_keeps | apply State.wipeGroups_keeps | refine State.keeps_foldl _ (fun _ _ _ => ?_) _ _ ?_ | simp only [State.keeps_mk] | dsimp only | exact True.intro | intro _)

theorem State.wipeUnits_keeps {b0 : State} {s : State} (test : Nat → Bool) (h_s : b0.Keeps s) : b0.Keeps (State.wipeUnits s test) := by
  unfold State.wipeUnits
  with_reducible repeat' (first | assumption | apply State.hbmWipe_keeps | refine State.keeps_foldl _ (fun _ _ _ => ?_) _ _ ?_ | dsimp only | exact True.intro | intro _)

theorem State.wipeSlv_keeps {b0 : State} {s : State} (test : Nat → Bool) (h_s : b0.Keeps s) : b0.Keeps (State.wipeSlv s test) := by
  unfold State.wipeSlv
  with_reducible repeat' (first | assumption | apply State.slvReset_keeps | refine State.keeps_foldl _ (fun _ _ _ => ?_) _ _ ?_ | dsimp only)

theorem State.wipeMov_keeps {b0 : State} {s : State} (test : Nat → Bool) (h_s : b0.Keeps s) : b0.Keeps (State.wipeMov s test) := by
  unfold State.wipeMov
  with_reducible repeat' (first | assumption | apply State.movReset_keeps | refine State.keeps_foldl _ (fun _ _ _ => ?_) _ _ ?_ | dsimp only)

theorem State.wipeFio_keeps {b0 : State} {s : State} (h_s : b0.Keeps s) : b0.Keeps (State.wipeFio s) := by
  unfold State.wipeFio
  with_reducible repeat' (first | assumption | apply State.fioStop_keeps | apply State.pageReset_keeps | dsimp only)

theorem State.partWipe_keeps {b0 : State} {s : State} (p : Nat) (h_s : b0.Keeps s) : b0.Keeps (State.partWipe s p) := by
  unfold State.partWipe
  with_reducible repeat' (first | assumption | apply State.queueReset_keeps | apply State.wipeGroups_keeps | apply State.wipeUnits_keeps | apply State.wipeSlv_keeps | apply State.wipeMov_keeps | apply State.wipeFio_keeps | split | dsimp only | exact True.intro | intro _)

theorem State.prtResource_keeps {b0 : State} {s : State} (p : Nat) (off : Nat) (v : Nat) (h_s : b0.Keeps s) : b0.Keeps (State.prtResource s p off v) := by
  unfold State.prtResource
  with_reducible repeat' (first | assumption | apply State.setW_keeps | apply State.setF_keeps | apply State.free_keeps | apply State.queueReset_keeps | apply State.giveUpGroups_keeps | apply State.wipeUnits_keeps | apply State.wipeSlv_keeps | apply State.wipeMov_keeps | apply State.wipeFio_keeps | split | dsimp only | refine State.keeps_snd (by assumption) ?_ | refine State.keeps_fst (by assumption) ?_ | exact True.intro | intro _)

theorem State.prtShares_keeps {b0 : State} {s : State} (p : Nat) (v : Nat) (h_s : b0.Keeps s) : b0.Keeps (State.prtShares s p v) := by
  unfold State.prtShares
  with_reducible repeat' (first | assumption | apply State.setF_keeps | split | dsimp only | exact True.intro | intro _)

theorem State.prtEnable_keeps {b0 : State} {s : State} (p : Nat) (en : Bool) (h_s : b0.Keeps s) : b0.Keeps (State.prtEnable s p en) := by
  unfold State.prtEnable
  with_reducible repeat' (first | assumption | apply State.setF_keeps | apply State.giveUpGroups_keeps | apply State.partWipe_keeps | split | dsimp only | exact True.intro | intro _)

theorem State.prtOwner_keeps {b0 : State} {s : State} (p : Nat) (v : Nat) (h_s : b0.Keeps s) : b0.Keeps (State.prtOwner s p v) := by
  unfold State.prtOwner
  with_reducible repeat' (first | assumption | apply State.setF_keeps | split | dsimp only | exact True.intro | intro _)

theorem State.prtClass_keeps {b0 : State} {s : State} (p : Nat) (v : Nat) (h_s : b0.Keeps s) : b0.Keeps (State.prtClass s p v) := by
  unfold State.prtClass
  with_reducible repeat' (first | assumption | apply State.setF_keeps | apply State.slvReset_keeps | refine State.keeps_foldl _ (fun _ _ _ => ?_) _ _ ?_ | split | dsimp only)

theorem State.partReset_keeps {b0 : State} {s : State} (p : Nat) (h_s : b0.Keeps s) : b0.Keeps (State.partReset s p) := by
  unfold State.partReset
  with_reducible repeat' (first | assumption | apply State.setF_keeps | apply State.jobStop_keeps | apply State.jobBeginWipe_keeps | apply State.jobBeginDrain_keeps | apply State.holdReset_keeps | apply State.partWipe_keeps | refine State.keeps_foldl _ (fun _ _ _ => ?_) _ _ ?_ | split | dsimp only | exact True.intro | intro _)

theorem execPartitionWipeDone_keeps {b0 : State} (p : BitVec 3) (ok : Bool) {s : State} (h_s : b0.Keeps s) : b0.OKeeps (execPartitionWipeDone p ok s) := by
  unfold execPartitionWipeDone
  with_reducible repeat' (first | assumption | refine done_keeps ?_ | apply State.setF_keeps | split | dsimp only | exact True.intro | intro _)

theorem State.setPart_keeps {b0 : State} {s : State} (p : Nat) (x : PartState) (h_s : b0.Keeps s) : b0.Keeps (State.setPart s p x) := by
  unfold State.setPart
  with_reducible repeat' (first | assumption | simp only [State.keeps_mk] | dsimp only)

theorem execArbiterDivide_keeps {b0 : State} (x : ArbiterDemand) {s : State} (h_s : b0.Keeps s) : b0.OKeeps (execArbiterDivide x s) := by
  unfold execArbiterDivide
  with_reducible repeat' (first | assumption | refine done_keeps ?_ | apply State.free_keeps | apply State.setPart_keeps | refine State.keeps_foldl _ (fun _ _ _ => ?_) _ _ ?_ | refine State.keeps_foldlP _ (fun _ _ _ => ?_) _ _ ?_ | refine State.keeps_foldlQ _ (fun _ _ _ => ?_) _ _ ?_ | split | simp only [State.keeps_mk] | dsimp only | refine State.keeps_snd (by assumption) ?_ | refine State.keeps_fst (by assumption) ?_ | exact True.intro | intro _)

theorem execBreach_keeps {b0 : State} (p : BitVec 3) (x : BreachSample) {s : State} (h_s : b0.Keeps s) : b0.OKeeps (execBreach p x s) := by
  unfold execBreach
  with_reducible repeat' (first | assumption | refine done_keeps ?_ | apply State.setW_keeps | apply State.setF_keeps | apply State.addF_keeps | apply State.setErr_keeps | apply State.audit_keeps | apply State.setPart_keeps | split | simp only [State.keeps_mk] | dsimp only | refine State.keeps_snd (by assumption) ?_ | refine State.keeps_fst (by assumption) ?_ | exact True.intro | intro _)

/-! ### Package -/

theorem State.cold_keeps {b0 s : State} (stage : PowStage) (h_s : b0.Keeps s) : b0.Keeps (State.cold s stage) :=
  ⟨h_s.pend, fun k => ⟨rfl, rfl, rfl, rfl, (h_s.canon k).5, rfl⟩⟩

theorem State.auditCopy_keeps {b0 : State} {s : State} (h_s : b0.Keeps s) : b0.Keeps (State.auditCopy s) := by
  unfold State.auditCopy
  with_reducible repeat' (first | assumption | simp only [State.keeps_mk] | dsimp only)

theorem execInputPowerOn_keeps {b0 : State} (mv : BitVec 16) {s : State} (h_s : b0.Keeps s) : b0.OKeeps (execInputPowerOn mv s) := by
  unfold execInputPowerOn
  with_reducible repeat' (first | assumption | refine done_keeps ?_ | split | simp only [State.keeps_mk] | dsimp only)

theorem execRailsRegulate_keeps {b0 : State} (straps : BitVec 3) {s : State} (h_s : b0.Keeps s) : b0.OKeeps (execRailsRegulate straps s) := by
  unfold execRailsRegulate
  with_reducible repeat' (first | assumption | refine done_keeps ?_ | apply State.setF_keeps | split | simp only [State.keeps_mk] | dsimp only)

theorem State.packageReset_keeps {b0 : State} {s : State} (h_s : b0.Keeps s) : b0.Keeps (State.packageReset s) := by
  unfold State.packageReset
  with_reducible repeat' (first | assumption | apply State.holdReset_keeps | apply State.cold_keeps | apply State.auditCopy_keeps | split | dsimp only)

theorem execPackageReset_keeps {b0 : State} {s : State} (h_s : b0.Keeps s) : b0.OKeeps (execPackageReset s) := by
  unfold execPackageReset
  with_reducible repeat' (first | assumption | refine done_keeps ?_ | apply State.packageReset_keeps | split | dsimp only)

theorem execBrownOut_keeps {b0 : State} (mv : BitVec 16) {s : State} (h_s : b0.Keeps s) : b0.OKeeps (execBrownOut mv s) := by
  unfold execBrownOut
  with_reducible repeat' (first | assumption | refine done_keeps ?_ | apply State.cold_keeps | split | dsimp only)

theorem execOverVoltage_keeps {b0 : State} (mv : BitVec 16) {s : State} (h_s : b0.Keeps s) : b0.OKeeps (execOverVoltage mv s) := by
  unfold execOverVoltage
  with_reducible repeat' (first | assumption | refine done_keeps ?_ | apply State.trip_keeps | apply State.cold_keeps | split | simp only [State.keeps_mk] | dsimp only)

theorem execInputBackInRange_keeps {b0 : State} (mv : BitVec 16) {s : State} (h_s : b0.Keeps s) : b0.OKeeps (execInputBackInRange mv s) := by
  unfold execInputBackInRange
  with_reducible repeat' (first | assumption | refine done_keeps ?_ | split | simp only [State.keeps_mk] | dsimp only)

theorem execOvuskCoreReset_keeps {b0 : State} (up : BitVec 7) {s : State} (h_s : b0.Keeps s) : b0.OKeeps (execOvuskCoreReset up s) := by
  unfold execOvuskCoreReset
  with_reducible repeat' (first | assumption | refine done_keeps ?_ | apply State.setErr_keeps | refine State.keeps_foldl _ (fun _ _ _ => ?_) _ _ ?_ | split | simp only [State.keeps_mk] | dsimp only | exact True.intro | intro _)

/-! ### Mgmt -/

theorem State.setMgmt_keeps {b0 : State} {s : State} (m : MgmtState) (h_s : b0.Keeps s) : b0.Keeps (State.setMgmt s m) := by
  unfold State.setMgmt
  with_reducible repeat' (first | assumption | simp only [State.keeps_mk] | dsimp only)

theorem State.applyRepairs_keeps {b0 : State} {s : State} (h_s : b0.Keeps s) : b0.Keeps (State.applyRepairs s) := by
  unfold State.applyRepairs
  with_reducible repeat' (first | assumption | apply State.setF_keeps | apply State.setErr_keeps | split | simp only [State.keeps_mk] | dsimp only | exact True.intro | intro _)

theorem State.bringUp_keeps {b0 : State} {s : State} (h_s : b0.Keeps s) : b0.Keeps (State.bringUp s) := by
  unfold State.bringUp
  with_reducible repeat' (first | assumption | apply State.setF_keeps | apply State.applyIssue_keeps | apply State.applyRepairs_keeps | split | dsimp only)

theorem State.jump_keeps {b0 : State} {s : State} (message : List Byte) (version : Nat) (h_s : b0.Keeps s) : b0.Keeps (State.jump s message version) := by
  unfold State.jump
  with_reducible repeat' (first | assumption | apply State.setF_keeps | apply State.bringUp_keeps | simp only [State.keeps_mk] | dsimp only)

theorem State.runImage_keeps {b0 : State} {s : State} (b : List Byte) (h_s : b0.Keeps s) : b0.Keeps (State.runImage s b) := by
  unfold State.runImage
  with_reducible repeat' (first | assumption | apply State.jump_keeps | split | simp only [State.keeps_mk] | dsimp only)

theorem State.enterRecovery_keeps {b0 : State} {s : State} (cause : Nat) (h_s : b0.Keeps s) : b0.Keeps (State.enterRecovery s cause) := by
  unfold State.enterRecovery
  with_reducible repeat' (first | assumption | apply State.setF_keeps | apply State.setErr_keeps | dsimp only)

theorem State.bootFlash_keeps {b0 : State} {s : State} (h_s : b0.Keeps s) : b0.Keeps (State.bootFlash s) := by
  unfold State.bootFlash
  with_reducible repeat' (first | assumption | apply State.free_keeps | apply State.jump_keeps | apply State.runImage_keeps | apply State.enterRecovery_keeps | split | dsimp only | refine State.keeps_snd (by assumption) ?_ | refine State.keeps_fst (by assumption) ?_)

theorem State.applyLcs_keeps {b0 s : State} (h_s : b0.Keeps s) : b0.Keeps (State.applyLcs s) := by
  unfold State.applyLcs
  dsimp only
  repeat' split
  all_goals first
    | exact h_s
    | (refine State.setF_keeps _ _ _ _ ?_; exact ⟨h_s.pend, fun k => ⟨rfl, rfl, rfl, rfl, (h_s.canon k).5, rfl⟩⟩)

theorem execRomBoot_keeps {b0 : State} {s : State} (h_s : b0.Keeps s) : b0.OKeeps (execRomBoot s) := by
  unfold execRomBoot
  with_reducible repeat' (first | assumption | refine done_keeps ?_ | apply State.setF_keeps | apply State.bootFlash_keeps | apply State.applyLcs_keeps | split | dsimp only)

theorem State.recoveryStart_keeps {b0 : State} {s : State} (l : Nat) (h_s : b0.Keeps s) : b0.Keeps (State.recoveryStart s l) := by
  unfold State.recoveryStart
  with_reducible repeat' (first | assumption | apply State.setF_keeps | apply State.setMgmt_keeps | split | simp only [State.keeps_mk] | dsimp only)

theorem execRecoveryFetchDone_keeps {b0 : State} (x : Option FwImage) {s : State} (h_s : b0.Keeps s) : b0.OKeeps (execRecoveryFetchDone x s) := by
  unfold execRecoveryFetchDone
  with_reducible repeat' (first | assumption | refine done_keeps ?_ | apply State.setF_keeps | apply State.setMgmt_keeps | apply State.runImage_keeps | split | simp only [State.keeps_mk] | dsimp only | refine State.keeps_snd (by assumption) ?_ | refine State.keeps_fst (by assumption) ?_)

theorem State.evbor_keeps {b0 : State} {s : State} (i : Nat) (cmd : Nat) {f : State → State} (h_s : b0.Keeps s) (h_f : ∀ (y0 : State), b0.Keeps y0 → b0.Keeps (f y0)) : b0.Keeps (State.evbor s i cmd f) := by
  unfold State.evbor
  with_reducible repeat' (first | assumption | apply h_f | apply State.emit_keeps | split | dsimp only | exact True.intro | intro _)

theorem State.pldm5_keeps {b0 : State} {s : State} (i : Nat) (cmd : Nat) {f : State → State} (h_s : b0.Keeps s) (h_f : ∀ (y0 : State), b0.Keeps y0 → b0.Keeps (f y0)) : b0.Keeps (State.pldm5 s i cmd f) := by
  unfold State.pldm5
  with_reducible repeat' (first | assumption | apply h_f | apply State.emit_keeps | split | dsimp only | exact True.intro | intro _)

theorem State.stage5_keeps {b0 : State} {s : State} (i : Nat) (u : Update) (x : PldmData) (h_s : b0.Keeps s) : b0.Keeps (State.stage5 s i u x) := by
  unfold State.stage5
  with_reducible repeat' (first | assumption | apply State.setF_keeps | apply State.emit_keeps | apply State.setErr_keeps | apply State.setMgmt_keeps | split | simp only [State.keeps_mk] | dsimp only)

theorem execRequestFirmwareData_keeps {b0 : State} (i : BitVec 3) (x : PldmData) {s : State} (h_s : b0.Keeps s) : b0.OKeeps (execRequestFirmwareData i x s) := by
  unfold execRequestFirmwareData
  with_reducible repeat' (first | assumption | refine done_keeps ?_ | apply State.emit_keeps | apply State.pldm5_keeps | apply State.stage5_keeps | split | simp only [State.keeps_mk] | dsimp only | refine State.keeps_snd (by assumption) ?_ | refine State.keeps_fst (by assumption) ?_ | exact True.intro | intro _)

theorem State.runHeldResets_keeps {b0 : State} {s : State} (h_s : b0.Keeps s) : b0.Keeps (State.runHeldResets s) := by
  unfold State.runHeldResets
  with_reducible repeat' (first | assumption | apply State.jobReset_keeps | apply State.partReset_keeps | apply State.packageReset_keeps | apply State.setMgmt_keeps | refine State.keeps_foldl _ (fun _ _ _ => ?_) _ _ ?_ | refine State.keeps_foldlP _ (fun _ _ _ => ?_) _ _ ?_ | refine State.keeps_foldlQ _ (fun _ _ _ => ?_) _ _ ?_ | split | simp only [State.keeps_mk] | dsimp only | refine State.keeps_snd (by assumption) ?_ | refine State.keeps_fst (by assumption) ?_ | exact True.intro | intro _)

theorem execApplyComplete_keeps {b0 : State} (ok : Bool) {s : State} (h_s : b0.Keeps s) : b0.OKeeps (execApplyComplete ok s) := by
  unfold execApplyComplete
  with_reducible repeat' (first | assumption | refine done_keeps ?_ | apply State.setF_keeps | apply State.emit_keeps | apply State.setErr_keeps | apply State.setMgmt_keeps | apply State.runHeldResets_keeps | split | simp only [State.keeps_mk] | dsimp only | refine State.keeps_snd (by assumption) ?_ | refine State.keeps_fst (by assumption) ?_)

theorem execActivateFirmware_keeps {b0 : State} (i : BitVec 3) (selfContained : Bool) {s : State} (h_s : b0.Keeps s) : b0.OKeeps (execActivateFirmware i selfContained s) := by
  unfold execActivateFirmware
  with_reducible repeat' (first | assumption | refine done_keeps ?_ | apply State.setF_keeps | apply State.emit_keeps | apply State.setMgmt_keeps | apply State.pldm5_keeps | split | simp only [State.keeps_mk] | dsimp only | exact True.intro | intro _)

theorem State.setSpdm_keeps {b0 : State} {s : State} (i : Nat) (x : SpdmState) (h_s : b0.Keeps s) : b0.Keeps (State.setSpdm s i x) := by
  unfold State.setSpdm
  with_reducible repeat' (first | assumption | apply State.setMgmt_keeps | simp only [State.keeps_mk] | dsimp only)

theorem State.spdmAsk_keeps {b0 : State} {s : State} (i : Nat) {f : State → State} (h_s : b0.Keeps s) (h_f : ∀ (y0 : State), b0.Keeps y0 → b0.Keeps (f y0)) : b0.Keeps (State.spdmAsk s i f) := by
  unfold State.spdmAsk
  with_reducible repeat' (first | assumption | apply h_f | apply State.setSpdm_keeps | split | simp only [State.keeps_mk] | dsimp only | exact True.intro | intro _)

theorem State.spdmError_keeps {b0 : State} {s : State} (i : Nat) (e : Byte) (h_s : b0.Keeps s) : b0.Keeps (State.spdmError s i e) := by
  unfold State.spdmError
  with_reducible repeat' (first | assumption | apply State.emit_keeps | dsimp only)

theorem execGetVersion_keeps {b0 : State} (i : BitVec 3) {s : State} (h_s : b0.Keeps s) : b0.OKeeps (execGetVersion i s) := by
  unfold execGetVersion
  with_reducible repeat' (first | assumption | refine done_keeps ?_ | apply State.emit_keeps | apply State.spdmAsk_keeps | dsimp only | exact True.intro | intro _)

theorem execGetCapabilities_keeps {b0 : State} (i : BitVec 3) {s : State} (h_s : b0.Keeps s) : b0.OKeeps (execGetCapabilities i s) := by
  unfold execGetCapabilities
  with_reducible repeat' (first | assumption | refine done_keeps ?_ | apply State.emit_keeps | apply State.spdmAsk_keeps | dsimp only | exact True.intro | intro _)

theorem execNegotiateAlgorithms_keeps {b0 : State} (i : BitVec 3) {s : State} (h_s : b0.Keeps s) : b0.OKeeps (execNegotiateAlgorithms i s) := by
  unfold execNegotiateAlgorithms
  with_reducible repeat' (first | assumption | refine done_keeps ?_ | apply State.emit_keeps | apply State.spdmAsk_keeps | dsimp only | exact True.intro | intro _)

theorem execGetDigests_keeps {b0 : State} (i : BitVec 3) {s : State} (h_s : b0.Keeps s) : b0.OKeeps (execGetDigests i s) := by
  unfold execGetDigests
  with_reducible repeat' (first | assumption | refine done_keeps ?_ | apply State.emit_keeps | apply State.spdmAsk_keeps | split | dsimp only | exact True.intro | intro _)

theorem execGetCertificate_keeps {b0 : State} (i : BitVec 3) (off : BitVec 16) (len : BitVec 16) {s : State} (h_s : b0.Keeps s) : b0.OKeeps (execGetCertificate i off len s) := by
  unfold execGetCertificate
  with_reducible repeat' (first | assumption | refine done_keeps ?_ | apply State.emit_keeps | apply State.spdmAsk_keeps | apply State.spdmError_keeps | split | dsimp only | exact True.intro | intro _)

theorem State.spdmSigned_keeps {b0 : State} {s : State} (i : Nat) (code : Nat) (body : List Byte) (h_s : b0.Keeps s) : b0.Keeps (State.spdmSigned s i code body) := by
  unfold State.spdmSigned
  with_reducible repeat' (first | assumption | apply State.addF_keeps | apply State.emit_keeps | apply State.setSpdm_keeps | simp only [State.keeps_mk] | dsimp only)

theorem State.nonce_keeps {b0 : State} {s : State} (h_s : b0.Keeps s) : b0.Keeps (State.nonce s).2 := by
  unfold State.nonce
  with_reducible repeat' (first | assumption | simp only [State.keeps_mk] | dsimp only | exact True.intro | intro _)

theorem execChallenge_keeps {b0 : State} (i : BitVec 3) (_nonce : BitVec 256) {s : State} (h_s : b0.Keeps s) : b0.OKeeps (execChallenge i _nonce s) := by
  unfold execChallenge
  with_reducible repeat' (first | assumption | refine done_keeps ?_ | apply State.spdmAsk_keeps | apply State.spdmError_keeps | apply State.spdmSigned_keeps | apply State.nonce_keeps | split | dsimp only | refine State.keeps_snd (by assumption) ?_ | refine State.keeps_fst (by assumption) ?_ | exact True.intro | intro _)

theorem execGetMeasurements_keeps {b0 : State} (i : BitVec 3) (index : BitVec 8) (signed : Bool) (_nonce : BitVec 256) {s : State} (h_s : b0.Keeps s) : b0.OKeeps (execGetMeasurements i index signed _nonce s) := by
  unfold execGetMeasurements
  with_reducible repeat' (first | assumption | refine done_keeps ?_ | apply State.emit_keeps | apply State.spdmAsk_keeps | apply State.spdmError_keeps | apply State.spdmSigned_keeps | apply State.nonce_keeps | split | dsimp only | refine State.keeps_snd (by assumption) ?_ | refine State.keeps_fst (by assumption) ?_ | exact True.intro | intro _)

theorem execChunkGet_keeps {b0 : State} (i : BitVec 3) (n : BitVec 16) {s : State} (h_s : b0.Keeps s) : b0.OKeeps (execChunkGet i n s) := by
  unfold execChunkGet
  with_reducible repeat' (first | assumption | refine done_keeps ?_ | apply State.emit_keeps | apply State.spdmAsk_keeps | apply State.spdmError_keeps | split | dsimp only | exact True.intro | intro _)

theorem State.spdmLarge_keeps {b0 : State} {s : State} (i : Nat) (b : List Byte) (h_s : b0.Keeps s) : b0.Keeps (State.spdmLarge s i b) := by
  unfold State.spdmLarge
  with_reducible repeat' (first | assumption | apply State.setSpdm_keeps | apply State.spdmError_keeps | simp only [State.keeps_mk] | dsimp only)

theorem execPqSig_keeps {b0 : State} (i : BitVec 3) {s : State} (h_s : b0.Keeps s) : b0.OKeeps (execPqSig i s) := by
  unfold execPqSig
  with_reducible repeat' (first | assumption | refine done_keeps ?_ | apply State.spdmError_keeps | apply State.spdmLarge_keeps | split | dsimp only | refine State.keeps_snd (by assumption) ?_ | refine State.keeps_fst (by assumption) ?_)

theorem execPqCert_keeps {b0 : State} (i : BitVec 3) {s : State} (h_s : b0.Keeps s) : b0.OKeeps (execPqCert i s) := by
  unfold execPqCert
  with_reducible repeat' (first | assumption | refine done_keeps ?_ | apply State.audit_keeps | apply State.spdmAsk_keeps | apply State.spdmLarge_keeps | split | dsimp only | exact True.intro | intro _)

theorem execSetEndpointId_keeps {b0 : State} (i : BitVec 3) (eid : BitVec 8) {s : State} (h_s : b0.Keeps s) : b0.OKeeps (execSetEndpointId i eid s) := by
  unfold execSetEndpointId
  with_reducible repeat' (first | assumption | refine done_keeps ?_ | apply State.emit_keeps | apply State.setMgmt_keeps | split | simp only [State.keeps_mk] | dsimp only)

theorem execEntdaa_keeps {b0 : State} (a : BitVec 7) {s : State} (h_s : b0.Keeps s) : b0.OKeeps (execEntdaa a s) := by
  unfold execEntdaa
  with_reducible repeat' (first | assumption | refine done_keeps ?_ | apply State.setMgmt_keeps | split | simp only [State.keeps_mk] | dsimp only)

theorem execPldmSensorRead_keeps {b0 : State} (i : BitVec 3) (n : BitVec 16) {s : State} (h_s : b0.Keeps s) : b0.OKeeps (execPldmSensorRead i n s) := by
  unfold execPldmSensorRead
  with_reducible repeat' (first | assumption | refine done_keeps ?_ | apply State.emit_keeps | split | dsimp only | refine State.keeps_snd (by assumption) ?_ | refine State.keeps_fst (by assumption) ?_)

theorem execAuditRead_keeps {b0 : State} (i : BitVec 3) (seq : BitVec 64) (x : AuditGet) {s : State} (h_s : b0.Keeps s) : b0.OKeeps (execAuditRead i seq x s) := by
  unfold execAuditRead
  with_reducible repeat' (first | assumption | refine done_keeps ?_ | apply State.setErr_keeps | simp only [State.keeps_mk] | apply State.emit_keeps | apply State.evbor_keeps | split | dsimp only | exact True.intro | intro _)

theorem execMctpReset_keeps {b0 : State} (i : BitVec 3) (scope : BitVec 8) (index : BitVec 8) {s : State} (h_s : b0.Keeps s) : b0.OKeeps (execMctpReset i scope index s) := by
  unfold execMctpReset
  with_reducible repeat' (first | assumption | refine done_keeps ?_ | apply State.emit_keeps | apply State.jobReset_keeps | apply State.partReset_keeps | apply State.packageReset_keeps | apply State.evbor_keeps | split | dsimp only | refine State.keeps_snd (by assumption) ?_ | refine State.keeps_fst (by assumption) ?_ | exact True.intro | intro _)

theorem execMcRestart_keeps {b0 : State} {s : State} (h_s : b0.Keeps s) : b0.OKeeps (execMcRestart s) := by
  unfold execMcRestart
  with_reducible repeat' (first | assumption | refine done_keeps ?_ | apply State.setF_keeps | apply State.setErr_keeps | apply State.bootFlash_keeps | apply State.runHeldResets_keeps | split | simp only [State.keeps_mk] | dsimp only)

theorem State.lcsRequest_keeps {b0 : State} {s : State} (v : Nat) (h_s : b0.Keeps s) : b0.Keeps (State.lcsRequest s v) := by
  unfold State.lcsRequest
  with_reducible repeat' (first | assumption | apply State.setF_keeps | apply State.rand_keeps | split | dsimp only | refine State.keeps_snd (by assumption) ?_ | refine State.keeps_fst (by assumption) ?_)

theorem State.lcsConfirmed_keeps {b0 : State} {s : State} (v : Nat) (h_s : b0.Keeps s) : b0.Keeps (State.lcsConfirmed s v) := by
  unfold State.lcsConfirmed
  with_reducible repeat' (first | assumption | apply State.setF_keeps | split | simp only [State.keeps_mk] | dsimp only)

/-! ### Spore -/

theorem State.takeUp_keeps {b0 : State} {s : State} (j : Nat) (child : Nat) (kind : Nat) (h_s : b0.Keeps s) : b0.Keeps (State.takeUp s j child kind) := by
  unfold State.takeUp
  with_reducible repeat' (first | assumption | apply State.setSp_keeps | apply State.upTry_keeps | split | simp only [State.keeps_mk] | dsimp only | exact True.intro | intro _)

theorem State.withDown_keeps {b0 : State} {s : State} (j : Nat) (kind : Nat) (due : SporeSlot → Bool) {f : SporeMsg → State → State} (h_s : b0.Keeps s) (h_f : ∀ (y0 : SporeMsg) (y1 : State), b0.Keeps y1 → b0.Keeps (f y0 y1)) : b0.Keeps (State.withDown s j kind due f) := by
  unfold State.withDown
  with_reducible repeat' (first | assumption | apply h_f | apply State.setSp_keeps | apply State.sendDown_keeps | split | simp only [State.keeps_mk] | dsimp only | refine State.keeps_snd (by assumption) ?_ | refine State.keeps_fst (by assumption) ?_ | exact True.intro | intro _)

theorem State.sporeRecord_keeps {b0 : State} {s : State} (j : Nat) (status : Nat) (aux : Nat) (h_s : b0.Keeps s) : b0.Keeps (State.sporeRecord s j status aux) := by
  unfold State.sporeRecord
  with_reducible repeat' (first | assumption | apply State.reserveSlot_keeps | apply State.writeRecord_keeps | split | dsimp only | refine State.keeps_snd (by assumption) ?_ | refine State.keeps_fst (by assumption) ?_)

theorem execSnapshot_keeps {b0 : State} (id : Nat) {s : State} (h_s : b0.Keeps s) : b0.OKeeps (execSnapshot id s) := by
  unfold execSnapshot
  with_reducible repeat' (first | assumption | refine done_keeps ?_ | apply State.setCmd_keeps | apply State.commitCmd_keeps | apply State.withStarted_keeps | apply State.raiseRequest_keeps | split | simp only [State.keeps_mk] | dsimp only | exact True.intro | intro _)

theorem execSnapshotPolicyTimer_keeps {b0 : State} (slot : BitVec 3) {s : State} (h_s : b0.Keeps s) : b0.OKeeps (execSnapshotPolicyTimer slot s) := by
  unfold execSnapshotPolicyTimer
  with_reducible repeat' (first | assumption | refine done_keeps ?_ | apply State.triggerSlot_keeps | split | dsimp only)

theorem execRequest_keeps {b0 : State} (slot : BitVec 3) (child : BitVec 4) {s : State} (h_s : b0.Keeps s) : b0.OKeeps (execRequest slot child s) := by
  unfold execRequest
  with_reducible repeat' (first | assumption | refine done_keeps ?_ | apply State.raiseRequest_keeps | split | dsimp only)

theorem execAnnounce_keeps {b0 : State} (slot : BitVec 3) {s : State} (h_s : b0.Keeps s) : b0.OKeeps (execAnnounce slot s) := by
  unfold execAnnounce
  with_reducible repeat' (first | assumption | refine done_keeps ?_ | apply State.setF_keeps | apply State.setSp_keeps | apply State.tick_keeps | apply State.withDown_keeps | simp only [State.keeps_mk] | dsimp only | exact True.intro | intro _)

theorem execQuiesceTick_keeps {b0 : State} (slot : BitVec 3) {s : State} (h_s : b0.Keeps s) : b0.OKeeps (execQuiesceTick slot s) := by
  unfold execQuiesceTick
  with_reducible repeat' (first | assumption | refine done_keeps ?_ | apply State.setF_keeps | apply State.setSp_keeps | split | simp only [State.keeps_mk] | dsimp only | exact True.intro | intro _)

theorem State.writeBacks_keeps {b0 : State} {s : State} (j : Nat) (h_s : b0.Keeps s) : b0.Keeps (State.writeBacks s j) := by
  unfold State.writeBacks
  with_reducible repeat' (first | assumption | apply State.cacheClean_keeps | apply State.ctxFlush_keeps | refine State.keeps_foldl _ (fun _ _ _ => ?_) _ _ ?_ | split | dsimp only | refine State.keeps_snd (by assumption) ?_ | refine State.keeps_fst (by assumption) ?_)

theorem execLocalDrainDone_keeps {b0 : State} (slot : BitVec 3) {s : State} (h_s : b0.Keeps s) : b0.OKeeps (execLocalDrainDone slot s) := by
  unfold execLocalDrainDone
  with_reducible repeat' (first | assumption | refine done_keeps ?_ | apply State.jobFault_keeps | apply State.sendFloor_keeps | apply State.poison_keeps | apply State.contribute_keeps | apply State.writeBacks_keeps | refine State.keeps_foldl _ (fun _ _ _ => ?_) _ _ ?_ | refine State.keeps_foldlP _ (fun _ _ _ => ?_) _ _ ?_ | refine State.keeps_foldlQ _ (fun _ _ _ => ?_) _ _ ?_ | split | dsimp only | exact True.intro | intro _)

theorem execDrained_keeps {b0 : State} (slot : BitVec 3) (child : BitVec 4) {s : State} (h_s : b0.Keeps s) : b0.OKeeps (execDrained slot child s) := by
  unfold execDrained
  with_reducible repeat' (first | assumption | refine done_keeps ?_ | apply State.takeUp_keeps | dsimp only)

theorem execSnapDrainTimeout_keeps {b0 : State} (slot : BitVec 3) {s : State} (h_s : b0.Keeps s) : b0.OKeeps (execSnapDrainTimeout slot s) := by
  unfold execSnapDrainTimeout
  with_reducible repeat' (first | assumption | refine done_keeps ?_ | apply State.snapFault_keeps | split | dsimp only)

theorem execCapture_keeps {b0 : State} (slot : BitVec 3) {s : State} (h_s : b0.Keeps s) : b0.OKeeps (execCapture slot s) := by
  unfold execCapture
  with_reducible repeat' (first | assumption | refine done_keeps ?_ | apply State.setF_keeps | apply State.setSp_keeps | apply State.withDown_keeps | simp only [State.keeps_mk] | dsimp only | exact True.intro | intro _)

theorem execCaptureDone_keeps {b0 : State} (slot : BitVec 3) {s : State} (h_s : b0.Keeps s) : b0.OKeeps (execCaptureDone slot s) := by
  unfold execCaptureDone
  with_reducible repeat' (first | assumption | refine done_keeps ?_ | apply State.contribute_keeps | split | dsimp only)

theorem execCaptured_keeps {b0 : State} (slot : BitVec 3) (child : BitVec 4) {s : State} (h_s : b0.Keeps s) : b0.OKeeps (execCaptured slot child s) := by
  unfold execCaptured
  with_reducible repeat' (first | assumption | refine done_keeps ?_ | apply State.takeUp_keeps | dsimp only)

theorem execResume_keeps {b0 : State} (slot : BitVec 3) {s : State} (h_s : b0.Keeps s) : b0.OKeeps (execResume slot s) := by
  unfold execResume
  with_reducible repeat' (first | assumption | refine done_keeps ?_ | apply State.setF_keeps | apply State.settleAll_keeps | apply State.setSp_keeps | apply State.withDown_keeps | simp only [State.keeps_mk] | dsimp only | exact True.intro | intro _)

theorem State.letGo_keeps {b0 : State} {s : State} (h : Nat × Nat × HeldAccess) (h_s : b0.Keeps s) : b0.Keeps (State.letGo s h) := by
  unfold State.letGo
  with_reducible repeat' (first | assumption | apply State.hbmWrite_keeps | dsimp only)

theorem State.releaseHolds_keeps {b0 : State} {s : State} (j : Nat) (test : Nat → Bool) (h_s : b0.Keeps s) : b0.Keeps (State.releaseHolds s j test) := by
  unfold State.releaseHolds
  with_reducible repeat' (first | assumption | apply State.addF_keeps | apply State.setSp_keeps | apply State.letGo_keeps | refine State.keeps_foldl _ (fun _ _ _ => ?_) _ _ ?_ | refine State.keeps_foldlP _ (fun _ _ _ => ?_) _ _ ?_ | refine State.keeps_foldlQ _ (fun _ _ _ => ?_) _ _ ?_ | split | simp only [State.keeps_mk] | dsimp only | exact True.intro | intro _)

theorem execCowHold_keeps {b0 : State} (slot : BitVec 3) (w : HeldAccess) {s : State} (h_s : b0.Keeps s) : b0.OKeeps (execCowHold slot w s) := by
  unfold execCowHold
  with_reducible repeat' (first | assumption | refine done_keeps ?_ | apply State.addF_keeps | apply State.setSp_keeps | split | simp only [State.keeps_mk] | dsimp only)

theorem State.hostGranule_keeps {b0 : State} {s : State} (j : Nat) (g : Nat) (h_s : b0.Keeps s) : b0.Keeps (State.hostGranule s j g) := by
  unfold State.hostGranule
  with_reducible repeat' (first | assumption | apply State.hostPut_keeps | dsimp only | exact True.intro | intro _)

theorem execPriorityCopyDone_keeps {b0 : State} (slot : BitVec 3) (g : BitVec 18) {s : State} (h_s : b0.Keeps s) : b0.OKeeps (execPriorityCopyDone slot g s) := by
  unfold execPriorityCopyDone
  with_reducible repeat' (first | assumption | refine done_keeps ?_ | apply State.setF_keeps | apply State.setSp_keeps | apply State.releaseHolds_keeps | apply State.hostGranule_keeps | refine State.keeps_foldl _ (fun _ _ _ => ?_) _ _ ?_ | refine State.keeps_foldlP _ (fun _ _ _ => ?_) _ _ ?_ | refine State.keeps_foldlQ _ (fun _ _ _ => ?_) _ _ ?_ | split | simp only [State.keeps_mk] | dsimp only | exact True.intro | intro _)

theorem State.copyEnd_keeps {b0 : State} {s : State} (j : Nat) (h_s : b0.Keeps s) : b0.Keeps (State.copyEnd s j) := by
  unfold State.copyEnd
  with_reducible repeat' (first | assumption | apply State.setF_keeps | apply State.setSp_keeps | apply State.releaseHolds_keeps | simp only [State.keeps_mk] | dsimp only | exact True.intro | intro _)

theorem State.writePart_keeps {b0 : State} {s : State} (j : Nat) (im : PkgImage) (h_s : b0.Keeps s) : b0.Keeps (State.writePart s j im) := by
  unfold State.writePart
  with_reducible repeat' (first | assumption | apply State.setSp_keeps | apply State.hostPut_keeps | apply State.hostGranule_keeps | refine State.keeps_foldl _ (fun _ _ _ => ?_) _ _ ?_ | simp only [State.keeps_mk] | dsimp only | exact True.intro | intro _)

theorem execPartCopyDone_keeps {b0 : State} (slot : BitVec 3) (x : PartCopy) {s : State} (h_s : b0.Keeps s) : b0.OKeeps (execPartCopyDone slot x s) := by
  unfold execPartCopyDone
  with_reducible repeat' (first | assumption | apply State.jobFault_keeps | refine done_keeps ?_ | apply State.setF_keeps | apply State.setErr_keeps | apply State.setSp_keeps | apply State.contribute_keeps | apply State.releaseHolds_keeps | apply State.copyEnd_keeps | apply State.writePart_keeps | split | simp only [State.keeps_mk] | dsimp only | refine State.keeps_snd (by assumption) ?_ | refine State.keeps_fst (by assumption) ?_ | exact True.intro | intro _)

theorem execPartDone_keeps {b0 : State} (slot : BitVec 3) (child : BitVec 4) {s : State} (h_s : b0.Keeps s) : b0.OKeeps (execPartDone slot child s) := by
  unfold execPartDone
  with_reducible repeat' (first | assumption | refine done_keeps ?_ | apply State.takeUp_keeps | dsimp only)

theorem execCommitted_keeps {b0 : State} (slot : BitVec 3) {s : State} (h_s : b0.Keeps s) : b0.OKeeps (execCommitted slot s) := by
  unfold execCommitted
  with_reducible repeat' (first | assumption | refine done_keeps ?_ | apply State.setF_keeps | apply State.addF_keeps | apply State.setSp_keeps | apply State.hostPut_keeps | apply State.sporeStep_keeps | apply State.withDown_keeps | apply State.sporeRecord_keeps | apply State.copyEnd_keeps | split | simp only [State.keeps_mk] | dsimp only | exact True.intro | intro _)

theorem execAbandoned_keeps {b0 : State} (slot : BitVec 3) {s : State} (h_s : b0.Keeps s) : b0.OKeeps (execAbandoned slot s) := by
  unfold execAbandoned
  with_reducible repeat' (first | assumption | refine done_keeps ?_ | apply State.addF_keeps | apply State.setErr_keeps | apply State.setSp_keeps | apply State.rootAccept_keeps | apply State.withDown_keeps | apply State.sporeRecord_keeps | apply State.copyEnd_keeps | split | simp only [State.keeps_mk] | dsimp only | exact True.intro | intro _)

theorem execRecorded_keeps {b0 : State} (slot : BitVec 3) (child : BitVec 4) {s : State} (h_s : b0.Keeps s) : b0.OKeeps (execRecorded slot child s) := by
  unfold execRecorded
  with_reducible repeat' (first | assumption | refine done_keeps ?_ | apply State.takeUp_keeps | dsimp only)

theorem execGenReady_keeps {b0 : State} (slot : BitVec 3) {s : State} (h_s : b0.Keeps s) : b0.OKeeps (execGenReady slot s) := by
  unfold execGenReady
  with_reducible repeat' (first | assumption | refine done_keeps ?_ | apply State.setF_keeps | apply State.setSp_keeps | apply State.rootAccept_keeps | apply State.withDown_keeps | split | simp only [State.keeps_mk] | dsimp only | exact True.intro | intro _)

theorem execWaveTimeout_keeps {b0 : State} (slot : BitVec 3) {s : State} (h_s : b0.Keeps s) : b0.OKeeps (execWaveTimeout slot s) := by
  unfold execWaveTimeout
  with_reducible repeat' (first | assumption | refine done_keeps ?_ | apply State.setErr_keeps | apply State.setSp_keeps | apply State.snapFault_keeps | apply State.cluStop_keeps | refine State.keeps_foldl _ (fun _ _ _ => ?_) _ _ ?_ | split | simp only [State.keeps_mk] | dsimp only | refine State.keeps_snd (by assumption) ?_ | refine State.keeps_fst (by assumption) ?_)

theorem State.fillGranules_keeps {b0 s : State} (j a : Nat) (h_s : b0.Keeps s) : b0.Keeps (State.fillGranules s j a) := by
  unfold State.fillGranules
  dsimp only
  refine State.keeps_foldl _ (fun _ _ h => ?_) _ _ h_s
  refine State.keeps_foldl _ (fun _ _ h => ?_) _ _ (State.hbmWrite_keeps _ _ h)
  exact State.keeps_hbmSum h (fun w => spWf_spPut _ _ _ _ w)

theorem spWf_spPaste {α : Type} [DecidableEq α] (d : α) (m : Sparse α) (lo n : Nat) (xs : Sparse α) (h : spWf d m = true) : spWf d (spPaste d m lo n xs) = true := by
  have : ∀ (l : Sparse α) (m : Sparse α), spWf d m = true → spWf d (l.foldl (fun m e => spPut d m (lo + e.1) e.2) m) = true := by
    intro l
    induction l with
    | nil => exact fun _ h => h
    | cons e l ih => exact fun m h => ih _ (spWf_spPut _ _ _ _ h)
  exact this xs _ (spWf_spClear _ _ _ _ h)

theorem State.keeps_local {b0 s : State} {x : Memory} {y z : Sparse Word} (h : b0.Keeps s) (hx : Memory.wf s.spad = true → Memory.wf x = true) (hy : spWf (0 : Word) s.spadSum = true → spWf (0 : Word) y = true) (hz : spWf (0 : Word) s.istore = true → spWf (0 : Word) z = true) :
    b0.Keeps { s with spad := x, spadSum := y, istore := z } :=
  ⟨h.pend, fun k => ⟨(h.canon k).1, (h.canon k).2, hx (h.canon k).3, hy (h.canon k).4, (h.canon k).5, hz (h.canon k).6⟩⟩

theorem State.fillCluster_keeps {b0 s : State} (c : Nat) (im : Option CluImage) (bs : List Byte) (h_s : b0.Keeps s) : b0.Keeps (State.fillCluster s c im bs) := by
  have h1 := State.keeps_local h_s (spWf_spPaste 0 s.spad (spadKey c 0) spadSize (writeBytes [] 0 (bs.take spadSize)))
    (spWf_spPaste 0 s.spadSum (spadSumKey c 0) 1024 (sparseWords ((bs.drop spadSize).take 8192) 1024))
    (spWf_spPaste 0 s.istore (32768 * c) 32768 (sparseWords ((bs.drop (8192 + spadSize)).take 262144) 32768))
  unfold State.fillCluster
  dsimp only
  split
  · refine State.keeps_foldl _ (fun _ _ h => ?_) _ _ (State.keeps_foldl _ (fun _ _ h => ?_) _ _ (State.setClu_keeps _ _ h1))
    · split
      · exact State.setTileMover_keeps _ _ _ h
      · exact h
    · split
      · exact State.setThr_keeps _ _ _ h
      · exact h
  · exact h1

theorem State.fillEngines_keeps {b0 : State} {s : State} (j : Nat) (im : PkgImage) (h_s : b0.Keeps s) : b0.Keeps (State.fillEngines s j im) := by
  unfold State.fillEngines
  with_reducible repeat' (first | assumption | apply State.setW_keeps | apply State.setF_keeps | apply State.setChan_keeps | apply State.setBulk_keeps | apply State.setCtx_keeps | apply State.setQext_keeps | apply State.setJobEpochs_keeps | refine State.keeps_foldl _ (fun _ _ _ => ?_) _ _ ?_ | refine State.keeps_foldlP _ (fun _ _ _ => ?_) _ _ ?_ | refine State.keeps_foldlQ _ (fun _ _ _ => ?_) _ _ ?_ | split | simp only [State.keeps_mk] | dsimp only | exact True.intro | intro _)

theorem State.restoreFill_keeps {b0 : State} {s : State} (j : Nat) (a : Nat) (h_s : b0.Keeps s) : b0.Keeps (State.restoreFill s j a) := by
  unfold State.restoreFill
  with_reducible repeat' (first | assumption | apply State.fillGranules_keeps | apply State.fillCluster_keeps | apply State.fillEngines_keeps | refine State.keeps_foldl _ (fun _ _ _ => ?_) _ _ ?_ | simp only [State.keeps_mk] | dsimp only | exact True.intro | intro _)

theorem execRestoreFillDone_keeps {b0 : State} (slot : BitVec 3) (hostOk : Bool) {s : State} (h_s : b0.Keeps s) : b0.OKeeps (execRestoreFillDone slot hostOk s) := by
  unfold execRestoreFillDone
  with_reducible repeat' (first | assumption | refine done_keeps ?_ | apply State.setSp_keeps | apply State.contribute_keeps | apply State.restoreFill_keeps | split | simp only [State.keeps_mk] | dsimp only | refine State.keeps_snd (by assumption) ?_ | refine State.keeps_fst (by assumption) ?_)

theorem execFilled_keeps {b0 : State} (slot : BitVec 3) (child : BitVec 4) {s : State} (h_s : b0.Keeps s) : b0.OKeeps (execFilled slot child s) := by
  unfold execFilled
  with_reducible repeat' (first | assumption | refine done_keeps ?_ | apply State.takeUp_keeps | dsimp only)

theorem execRestoreResume_keeps {b0 : State} (slot : BitVec 3) {s : State} (h_s : b0.Keeps s) : b0.OKeeps (execRestoreResume slot s) := by
  unfold execRestoreResume
  with_reducible repeat' (first | assumption | refine done_keeps ?_ | apply State.setStage_keeps | apply State.settleAll_keeps | apply State.setSp_keeps | apply State.withDown_keeps | simp only [State.keeps_mk] | dsimp only | exact True.intro | intro _)

theorem execReplayResult_keeps {b0 : State} (slot : BitVec 3) (child : BitVec 4) {s : State} (h_s : b0.Keeps s) : b0.OKeeps (execReplayResult slot child s) := by
  unfold execReplayResult
  with_reducible repeat' (first | assumption | refine done_keeps ?_ | apply State.takeUp_keeps | dsimp only)

theorem execReplayTimeout_keeps {b0 : State} (slot : BitVec 3) {s : State} (h_s : b0.Keeps s) : b0.OKeeps (execReplayTimeout slot s) := by
  unfold execReplayTimeout
  with_reducible repeat' (first | assumption | refine done_keeps ?_ | apply State.setSp_keeps | apply State.contribute_keeps | split | simp only [State.keeps_mk] | dsimp only)

theorem State.restoreReject_keeps {b0 : State} {s : State} (j : Nat) (cause : Nat) (h_s : b0.Keeps s) : b0.Keeps (State.restoreReject s j cause) := by
  unfold State.restoreReject
  with_reducible repeat' (first | assumption | apply State.setF_keeps | apply State.setStage_keeps | apply State.setErr_keeps | apply State.haltThread_keeps | apply State.setSp_keeps | apply State.cluStop_keeps | apply State.sporeRecord_keeps | refine State.keeps_foldl _ (fun _ _ _ => ?_) _ _ ?_ | split | simp only [State.keeps_mk] | dsimp only | exact True.intro | intro _)

theorem execVerdict_keeps {b0 : State} (slot : BitVec 3) {s : State} (h_s : b0.Keeps s) : b0.OKeeps (execVerdict slot s) := by
  unfold execVerdict
  with_reducible repeat' (first | assumption | refine done_keeps ?_ | apply State.setF_keeps | apply State.setSp_keeps | apply State.withDown_keeps | apply State.sporeRecord_keeps | apply State.restoreReject_keeps | split | simp only [State.keeps_mk] | dsimp only | exact True.intro | intro _)

end Sys2Proof.Machine
end

