-- ==== Sys2Proof/Laws/KeepsBus.lean ====
section
/-! SUPPORT. What register accesses, the epilogue unit, the matrix engine and pins keep. -/

namespace Sys2Proof.Machine

set_option linter.unusedVariables false
set_option linter.unusedSimpArgs false
set_option maxRecDepth 4000

/-! ### Regs -/

theorem State.seenBy_keeps {b0 : State} {s : State} (o : Origin) (b : Block) (inst : Nat) (h_s : b0.Keeps s) : b0.Keeps (State.seenBy s o b inst) := by
  unfold State.seenBy
  with_reducible repeat' (first | assumption | apply State.setW_keeps | refine State.keeps_foldl _ (fun _ _ _ => ?_) _ _ ?_ | dsimp only | exact True.intro | intro _)

theorem execCfgDigestRead_keeps {b0 : State} (o : Origin) (page : BitVec 16) {s : State} (h_s : b0.Keeps s) : b0.OKeeps (execCfgDigestRead o page s) := by
  unfold execCfgDigestRead
  with_reducible repeat' (first | assumption | refine done_keeps ?_ | apply State.emit_keeps | dsimp only)

theorem execJobDigestRead_keeps {b0 : State} (o : Origin) (w : BitVec 3) {s : State} (h_s : b0.Keeps s) : b0.OKeeps (execJobDigestRead o w s) := by
  unfold execJobDigestRead
  with_reducible repeat' (first | assumption | refine done_keeps ?_ | apply State.emit_keeps | split | dsimp only)

/-! ### Bus -/

theorem State.sourcesChanged_keeps {b0 : State} {s : State} (h_s : b0.Keeps s) : b0.Keeps (State.sourcesChanged s) := by
  unfold State.sourcesChanged
  with_reducible repeat' (first | assumption | apply State.setTime_keeps | apply State.chooseSrc_keeps | split | simp only [State.keeps_mk] | dsimp only)

theorem State.prtCtrl_keeps {b0 : State} {s : State} {plain : State} (o : Origin) (p : Nat) (n : Nat) (h_s : b0.Keeps s) (h_plain : b0.Keeps plain) : b0.Keeps (State.prtCtrl s plain o p n) := by
  unfold State.prtCtrl
  with_reducible repeat' (first | assumption | apply State.setF_keeps | apply State.prtEnable_keeps | apply State.partReset_keeps | split | dsimp only | refine State.keeps_snd (by assumption) ?_ | refine State.keeps_fst (by assumption) ?_)

theorem State.regWrite_keeps {b0 : State} {s : State} (o : Origin) (b : Block) (inst : Nat) (off : Nat) (v : Word) (h_s : b0.Keeps s) : b0.Keeps (State.regWrite s o b inst off v) := by
  unfold State.regWrite
  with_reducible repeat' (first | assumption | apply State.setW_keeps | apply State.setF_keeps | apply State.irqSince_keeps | apply State.errForget_keeps | apply State.setErr_keeps | apply State.bindWrite_keeps | apply State.slvSpadWrite_keeps | apply State.offerChannel_keeps | apply State.movStop_keeps | apply State.movResume_keeps | apply State.portDown_keeps | apply State.startFrames_keeps | apply State.stopFrames_keeps | apply State.fioStop_keeps | apply State.fioTryEnable_keeps | apply State.thrRunStart_keeps | apply State.thrRunStop_keeps | apply State.ctxToData_keeps | apply State.ctxWrite_keeps | apply State.brokerClear_keeps | apply State.jobCtlWrite_keeps | apply State.capWritten_keeps | apply State.prtResource_keeps | apply State.prtShares_keeps | apply State.prtOwner_keeps | apply State.prtClass_keeps | apply State.recoveryStart_keeps | apply State.lcsRequest_keeps | apply State.lcsConfirmed_keeps | apply State.sourcesChanged_keeps | apply State.prtCtrl_keeps | split | simp only [State.keeps_mk] | dsimp only | refine State.keeps_snd (by assumption) ?_ | refine State.keeps_fst (by assumption) ?_)

theorem State.applyWrite_keeps {b0 : State} {s : State} (o : Origin) (a : Nat) (b : Block) (inst : Nat) (off : Nat) (written : Word) (value : Word) (flags : Nat) (h_s : b0.Keeps s) : b0.Keeps (State.applyWrite s o a b inst off written value flags).1 := by
  unfold State.applyWrite
  with_reducible repeat' (first | assumption | apply State.auditReg_keeps | apply State.regWrite_keeps | split | dsimp only | exact True.intro | intro _)

theorem State.holdWrite_keeps {b0 : State} {s : State} (o : Origin) (a : Nat) (b : Block) (inst : Nat) (off : Nat) (v : Word) (h_s : b0.Keeps s) : b0.Keeps (State.holdWrite s o a b inst off v).1 := by
  unfold State.holdWrite
  with_reducible repeat' (first | assumption | apply State.setErr_keeps | apply State.auditReg_keeps | apply State.seenBy_keeps | apply State.regWrite_keeps | split | simp only [State.keeps_mk] | dsimp only | exact True.intro | intro _)

theorem State.busWrite_keeps {b0 : State} {s : State} (o : Origin) (a : Nat) (v : Word) (h_s : b0.Keeps s) : b0.Keeps (State.busWrite s o a v).1 := by
  unfold State.busWrite
  with_reducible repeat' (first | assumption | apply State.auditReg_keeps | apply State.seenBy_keeps | apply State.applyWrite_keeps | apply State.holdWrite_keeps | split | dsimp only | refine State.keeps_snd (by assumption) ?_ | refine State.keeps_fst (by assumption) ?_)

theorem execRegisterWrite_keeps {b0 : State} (o : Origin) (a : BitVec 28) (v : BitVec 64) {s : State} (h_s : b0.Keeps s) : b0.OKeeps (execRegisterWrite o a v s) := by
  unfold execRegisterWrite
  with_reducible repeat' (first | assumption | refine done_keeps ?_ | apply State.busWrite_keeps | dsimp only)

theorem State.badAccess_keeps {b0 : State} {s : State} (o : Origin) (n : Nat) (w : Option Word) (h_s : b0.Keeps s) : b0.Keeps (State.badAccess s o n w) := by
  unfold State.badAccess
  with_reducible repeat' (first | assumption | apply State.setErr_keeps | apply State.auditReg_keeps | split | dsimp only | refine State.keeps_snd (by assumption) ?_ | refine State.keeps_fst (by assumption) ?_)

theorem execBadSizeAccess_keeps {b0 : State} (o : Origin) (a : BitVec 28) (size : BitVec 8) (w : Option (BitVec 64)) {s : State} (h_s : b0.Keeps s) : b0.OKeeps (execBadSizeAccess o a size w s) := by
  unfold execBadSizeAccess
  with_reducible repeat' (first | assumption | refine done_keeps ?_ | apply State.emit_keeps | apply State.busWrite_keeps | apply State.badAccess_keeps | split | dsimp only | refine State.keeps_snd (by assumption) ?_ | refine State.keeps_fst (by assumption) ?_)

theorem execHeldWritesApply_keeps {b0 : State} (page : BitVec 16) {s : State} (h_s : b0.Keeps s) : b0.OKeeps (execHeldWritesApply page s) := by
  unfold execHeldWritesApply
  with_reducible repeat' (first | assumption | refine done_keeps ?_ | apply State.applyWrite_keeps | refine State.keeps_foldl _ (fun _ _ _ => ?_) _ _ ?_ | refine State.keeps_foldlP _ (fun _ _ _ => ?_) _ _ ?_ | refine State.keeps_foldlQ _ (fun _ _ _ => ?_) _ _ ?_ | split | simp only [State.keeps_mk] | dsimp only | refine State.keeps_snd (by assumption) ?_ | refine State.keeps_fst (by assumption) ?_ | exact True.intro | intro _)

theorem State.poke_keeps {b0 : State} {s : State} (o : Origin) (b : Block) (inst : Nat) (off : Nat) (v : Nat) (h_s : b0.Keeps s) : b0.OKeeps (State.poke s o b inst off v) := by
  unfold State.poke
  with_reducible repeat' (first | assumption | refine done_keeps ?_ | apply State.busWrite_keeps | dsimp only)

theorem execThrRunStart_keeps {b0 : State} (o : Origin) (c : BitVec 8) (m : BitVec 8) {s : State} (h_s : b0.Keeps s) : b0.OKeeps (execThrRunStart o c m s) := by
  unfold execThrRunStart
  with_reducible repeat' (first | assumption | apply State.poke_keeps | dsimp only)

theorem execThrRunStop_keeps {b0 : State} (o : Origin) (c : BitVec 8) (m : BitVec 8) {s : State} (h_s : b0.Keeps s) : b0.OKeeps (execThrRunStop o c m s) := by
  unfold execThrRunStop
  with_reducible repeat' (first | assumption | apply State.poke_keeps | dsimp only)

theorem execSlvBindWrite_keeps {b0 : State} (o : Origin) (ch : BitVec 6) (r : BitVec 3) (v : BitVec 64) {s : State} (h_s : b0.Keeps s) : b0.OKeeps (execSlvBindWrite o ch r v s) := by
  unfold execSlvBindWrite
  with_reducible repeat' (first | assumption | refine done_keeps ?_ | apply State.poke_keeps | split | dsimp only)

theorem execCtxOpRead_keeps {b0 : State} (o : Origin) {s : State} (h_s : b0.Keeps s) : b0.OKeeps (execCtxOpRead o s) := by
  unfold execCtxOpRead
  with_reducible repeat' (first | assumption | apply State.poke_keeps | dsimp only)

theorem execCtxOpWrite_keeps {b0 : State} (o : Origin) {s : State} (h_s : b0.Keeps s) : b0.OKeeps (execCtxOpWrite o s) := by
  unfold execCtxOpWrite
  with_reducible repeat' (first | assumption | apply State.poke_keeps | dsimp only)

theorem execMovStop_keeps {b0 : State} (o : Origin) (ch : BitVec 6) {s : State} (h_s : b0.Keeps s) : b0.OKeeps (execMovStop o ch s) := by
  unfold execMovStop
  with_reducible repeat' (first | assumption | apply State.poke_keeps | dsimp only)

theorem execMovResume_keeps {b0 : State} (o : Origin) (ch : BitVec 6) {s : State} (h_s : b0.Keeps s) : b0.OKeeps (execMovResume o ch s) := by
  unfold execMovResume
  with_reducible repeat' (first | assumption | apply State.poke_keeps | dsimp only)

theorem execFrameEnWrite_keeps {b0 : State} (o : Origin) (en : Bool) {s : State} (h_s : b0.Keeps s) : b0.OKeeps (execFrameEnWrite o en s) := by
  unfold execFrameEnWrite
  with_reducible repeat' (first | assumption | apply State.poke_keeps | split | dsimp only)

theorem execFioEnable_keeps {b0 : State} (o : Origin) (slot : BitVec 3) (ports : BitVec 2) {s : State} (h_s : b0.Keeps s) : b0.OKeeps (execFioEnable o slot ports s) := by
  unfold execFioEnable
  with_reducible repeat' (first | assumption | apply State.poke_keeps | dsimp only)

theorem execPartitionName_keeps {b0 : State} (p : BitVec 3) {s : State} (h_s : b0.Keeps s) : b0.OKeeps (execPartitionName p s) := by
  unfold execPartitionName
  with_reducible repeat' (first | assumption | apply State.poke_keeps | dsimp only)

theorem execJobLoad_keeps {b0 : State} (o : Origin) (tag : BitVec 16) (rank : BitVec 17) {s : State} (h_s : b0.Keeps s) : b0.OKeeps (execJobLoad o tag rank s) := by
  unfold execJobLoad
  with_reducible repeat' (first | assumption | apply State.poke_keeps | dsimp only)

theorem execJobAccept_keeps {b0 : State} (o : Origin) (tag : BitVec 16) (rank : BitVec 17) {s : State} (h_s : b0.Keeps s) : b0.OKeeps (execJobAccept o tag rank s) := by
  unfold execJobAccept
  with_reducible repeat' (first | assumption | apply State.poke_keeps | dsimp only)

theorem execJobAbandon_keeps {b0 : State} (o : Origin) {s : State} (h_s : b0.Keeps s) : b0.OKeeps (execJobAbandon o s) := by
  unfold execJobAbandon
  with_reducible repeat' (first | assumption | apply State.poke_keeps | dsimp only)

theorem execJobDrain_keeps {b0 : State} (o : Origin) {s : State} (h_s : b0.Keeps s) : b0.OKeeps (execJobDrain o s) := by
  unfold execJobDrain
  with_reducible repeat' (first | assumption | apply State.poke_keeps | dsimp only)

theorem execSporeEnable_keeps {b0 : State} (o : Origin) (trig : BitVec 5) (restore : Bool) {s : State} (h_s : b0.Keeps s) : b0.OKeeps (execSporeEnable o trig restore s) := by
  unfold execSporeEnable
  with_reducible repeat' (first | assumption | apply State.poke_keeps | split | dsimp only)

theorem execCapWrite_keeps {b0 : State} (o : Origin) (v : BitVec 64) {s : State} (h_s : b0.Keeps s) : b0.OKeeps (execCapWrite o v s) := by
  unfold execCapWrite
  with_reducible repeat' (first | assumption | apply State.poke_keeps | dsimp only)

theorem execPartitionEnable_keeps {b0 : State} (o : Origin) (p : BitVec 3) {s : State} (h_s : b0.Keeps s) : b0.OKeeps (execPartitionEnable o p s) := by
  unfold execPartitionEnable
  with_reducible repeat' (first | assumption | apply State.poke_keeps | dsimp only)

theorem execPreset_keeps {b0 : State} (o : Origin) (p : BitVec 3) {s : State} (h_s : b0.Keeps s) : b0.OKeeps (execPreset o p s) := by
  unfold execPreset
  with_reducible repeat' (first | assumption | apply State.poke_keeps | dsimp only)

theorem execClassWrite_keeps {b0 : State} (o : Origin) (p : BitVec 3) (v : BitVec 64) {s : State} (h_s : b0.Keeps s) : b0.OKeeps (execClassWrite o p v s) := by
  unfold execClassWrite
  with_reducible repeat' (first | assumption | apply State.poke_keeps | dsimp only)

theorem execRecoveryGo_keeps {b0 : State} (l : BitVec 2) {s : State} (h_s : b0.Keeps s) : b0.OKeeps (execRecoveryGo l s) := by
  unfold execRecoveryGo
  with_reducible repeat' (first | assumption | apply State.poke_keeps | dsimp only)

theorem execLcsReq_keeps {b0 : State} (o : Origin) (v : BitVec 64) {s : State} (h_s : b0.Keeps s) : b0.OKeeps (execLcsReq o v s) := by
  unfold execLcsReq
  with_reducible repeat' (first | assumption | apply State.poke_keeps | dsimp only)

theorem execLcsConfirm_keeps {b0 : State} (o : Origin) (v : BitVec 64) {s : State} (h_s : b0.Keeps s) : b0.OKeeps (execLcsConfirm o v s) := by
  unfold execLcsConfirm
  with_reducible repeat' (first | assumption | apply State.poke_keeps | dsimp only)

theorem execMctpRegRead_keeps {b0 : State} (i : BitVec 3) (off : BitVec 32) {s : State} (h_s : b0.Keeps s) : b0.OKeeps (execMctpRegRead i off s) := by
  unfold execMctpRegRead
  with_reducible repeat' (first | assumption | refine done_keeps ?_ | apply State.emit_keeps | apply State.evbor_keeps | apply State.badAccess_keeps | split | dsimp only | exact True.intro | intro _)

theorem execMctpRegWrite_keeps {b0 : State} (i : BitVec 3) (off : BitVec 32) (v : BitVec 64) {s : State} (h_s : b0.Keeps s) : b0.OKeeps (execMctpRegWrite i off v s) := by
  unfold execMctpRegWrite
  with_reducible repeat' (first | assumption | refine done_keeps ?_ | apply State.emit_keeps | apply State.evbor_keeps | apply State.busWrite_keeps | apply State.badAccess_keeps | split | dsimp only | exact True.intro | intro _)

theorem execAuditAck_keeps {b0 : State} (i : BitVec 3) (seq : BitVec 64) {s : State} (h_s : b0.Keeps s) : b0.OKeeps (execAuditAck i seq s) := by
  unfold execAuditAck
  with_reducible repeat' (first | assumption | refine done_keeps ?_ | apply State.emit_keeps | apply State.evbor_keeps | apply State.busWrite_keeps | dsimp only | exact True.intro | intro _)

theorem State.mgmtReply_keeps {b0 : State} {s : State} (x : Cell) (payload : List Byte) (h_s : b0.Keeps s) : b0.Keeps (State.mgmtReply s x payload) := by
  unfold State.mgmtReply
  with_reducible repeat' (first | assumption | apply State.sendMgmt_keeps | dsimp only)

theorem execMgmtRegRead_keeps {b0 : State} (x : Cell) {s : State} (h_s : b0.Keeps s) : b0.OKeeps (execMgmtRegRead x s) := by
  unfold execMgmtRegRead
  with_reducible repeat' (first | assumption | refine done_keeps ?_ | apply State.addF_keeps | apply State.badAccess_keeps | apply State.mgmtReply_keeps | split | dsimp only)

theorem execMgmtRegWrite_keeps {b0 : State} (x : Cell) {s : State} (h_s : b0.Keeps s) : b0.OKeeps (execMgmtRegWrite x s) := by
  unfold execMgmtRegWrite
  with_reducible repeat' (first | assumption | refine done_keeps ?_ | apply State.addF_keeps | apply State.auditReg_keeps | apply State.setMgmt_keeps | apply State.busWrite_keeps | apply State.badAccess_keeps | apply State.mgmtReply_keeps | split | simp only [State.keeps_mk] | dsimp only | refine State.keeps_snd (by assumption) ?_ | refine State.keeps_fst (by assumption) ?_ | exact True.intro | intro _)

/-! ### Epilogue -/

theorem execEpi_keeps {b0 : State} (c : BitVec 8) (t : BitVec 3) (y : EpiIssue) {s : State} (h_s : b0.Keeps s) : b0.OKeeps (execEpi c t y s) := by
  unfold execEpi
  with_reducible repeat' (first | assumption | apply State.setThr_keeps | apply State.setClu_keeps | apply State.clusterFault_keeps | apply State.beginWait_keeps | apply State.haltError_keeps | apply issueV_keeps | apply State.spadEcc_keeps | split | simp only [State.keeps_mk] | dsimp only | refine State.keeps_snd (by assumption) ?_ | refine State.keeps_fst (by assumption) ?_ | exact True.intro | intro _)

theorem State.epiCe_keeps {b0 : State} {s : State} (c : Nat) (a : Nat) (tq : Ecc) (sp : Ecc) (h_s : b0.Keeps s) : b0.Keeps (State.epiCe s c a tq sp) := by
  unfold State.epiCe
  with_reducible repeat' (first | assumption | apply State.addSat_keeps | apply State.spadEcc_keeps | split | dsimp only)

theorem execEpilogueStart_keeps {b0 : State} (x : EpiStart) {s : State} (h_s : b0.Keeps s) : b0.OKeeps (execEpilogueStart x s) := by
  unfold execEpilogueStart
  with_reducible repeat' (first | assumption | refine done_keeps ?_ | apply State.setClu_keeps | apply State.clusterFault_keeps | apply State.haltError_keeps | apply State.stream_keeps | apply State.epiCe_keeps | split | simp only [State.keeps_mk] | dsimp only | refine State.keeps_snd (by assumption) ?_ | refine State.keeps_fst (by assumption) ?_ | exact True.intro | intro _)

theorem execEpilogueDone_keeps {b0 : State} (x : EpiEnd) {s : State} (h_s : b0.Keeps s) : b0.OKeeps (execEpilogueDone x s) := by
  unfold execEpilogueDone
  with_reducible repeat' (first | assumption | refine done_keeps ?_ | apply State.setThr_keeps | apply State.setClu_keeps | apply State.spadWrite_keeps | apply State.spadSealTile_keeps | apply State.clusterFault_keeps | apply State.settle_keeps | refine State.keeps_foldl _ (fun _ _ _ => ?_) _ _ ?_ | refine State.keeps_foldlP _ (fun _ _ _ => ?_) _ _ ?_ | refine State.keeps_foldlQ _ (fun _ _ _ => ?_) _ _ ?_ | split | simp only [State.keeps_mk] | dsimp only | refine State.keeps_snd (by assumption) ?_ | refine State.keeps_fst (by assumption) ?_ | exact True.intro | intro _)

/-! ### Matrix -/

theorem mtxOp_keeps {b0 : State} (c : BitVec 8) (t : BitVec 3) (i : VFmt) {s : State} {f : Thread → State → State} (h_s : b0.Keeps s) (h_f : ∀ (y0 : Thread) (y1 : State), b0.Keeps y1 → b0.Keeps (f y0 y1)) : b0.OKeeps (mtxOp c t i s f) := by
  unfold mtxOp
  with_reducible repeat' (first | assumption | apply h_f | apply State.haltError_keeps | apply issueV_keeps | split | dsimp only | exact True.intro | intro _)

theorem State.issueMtx_keeps {b0 : State} {s : State} (c : Nat) (t : Nat) (i : VFmt) (x : Thread) (k : Cluster) (o : MtxOp) (h_s : b0.Keeps s) : b0.Keeps (State.issueMtx s c t i x k o) := by
  unfold State.issueMtx
  with_reducible repeat' (first | assumption | apply State.setThr_keeps | apply State.setClu_keeps | simp only [State.keeps_mk] | dsimp only)

theorem execMzero_keeps {b0 : State} (c : BitVec 8) (t : BitVec 3) (i : VFmt) {s : State} (h_s : b0.Keeps s) : b0.OKeeps (execMzero c t i s) := by
  unfold execMzero
  with_reducible repeat' (first | assumption | apply State.haltError_keeps | apply mtxOp_keeps | apply State.issueMtx_keeps | split | dsimp only | refine State.keeps_snd (by assumption) ?_ | refine State.keeps_fst (by assumption) ?_ | exact True.intro | intro _)

theorem execMlda_keeps {b0 : State} (c : BitVec 8) (t : BitVec 3) (i : VFmt) {s : State} (h_s : b0.Keeps s) : b0.OKeeps (execMlda c t i s) := by
  unfold execMlda
  with_reducible repeat' (first | assumption | apply State.haltError_keeps | apply mtxOp_keeps | apply State.issueMtx_keeps | split | dsimp only | refine State.keeps_snd (by assumption) ?_ | refine State.keeps_fst (by assumption) ?_ | exact True.intro | intro _)

theorem execMsta_keeps {b0 : State} (c : BitVec 8) (t : BitVec 3) (i : VFmt) {s : State} (h_s : b0.Keeps s) : b0.OKeeps (execMsta c t i s) := by
  unfold execMsta
  with_reducible repeat' (first | assumption | apply State.haltError_keeps | apply mtxOp_keeps | apply State.issueMtx_keeps | split | dsimp only | refine State.keeps_snd (by assumption) ?_ | refine State.keeps_fst (by assumption) ?_ | exact True.intro | intro _)

theorem execMpush_keeps {b0 : State} (c : BitVec 8) (t : BitVec 3) (i : VFmt) {s : State} (h_s : b0.Keeps s) : b0.OKeeps (execMpush c t i s) := by
  unfold execMpush
  with_reducible repeat' (first | assumption | apply mtxOp_keeps | apply State.issueMtx_keeps | dsimp only | exact True.intro | intro _)

theorem execMfence_keeps {b0 : State} (c : BitVec 8) (t : BitVec 3) (i : VFmt) {s : State} (h_s : b0.Keeps s) : b0.OKeeps (execMfence c t i s) := by
  unfold execMfence
  with_reducible repeat' (first | assumption | apply State.setThr_keeps | apply State.beginWait_keeps | apply mtxOp_keeps | split | dsimp only | exact True.intro | intro _)

theorem State.mtxFaultOf_keeps {b0 : State} {s : State} (c : Nat) (as : List Nat) (f : JobFault) (h_s : b0.Keeps s) : b0.Keeps (State.mtxFaultOf s c as f) := by
  unfold State.mtxFaultOf
  with_reducible repeat' (first | assumption | apply State.setClu_keeps | apply State.clusterFault_keeps | simp only [State.keeps_mk] | dsimp only)

theorem execMma_keeps {b0 : State} (c : BitVec 8) (t : BitVec 3) (i : VFmt) (e : Ecc) {s : State} (h_s : b0.Keeps s) : b0.OKeeps (execMma c t i e s) := by
  unfold execMma
  with_reducible repeat' (first | assumption | apply State.haltError_keeps | apply State.spadEcc_keeps | apply mtxOp_keeps | apply State.issueMtx_keeps | apply State.mtxFaultOf_keeps | split | dsimp only | exact True.intro | intro _)

theorem State.runMtx_keeps {b0 s t : State} {c n : Nat} {o : MtxOp} {l : List TqEntry} (e : s.runMtx c o = some (t, n, l)) (h : b0.Keeps s) : b0.Keeps t := by
  unfold State.runMtx at e; dsimp only at e
  repeat' (first | contradiction | split at e)
  all_goals cases e
  all_goals repeat' (first | with_reducible assumption | with_reducible apply State.setClu_keeps | with_reducible refine State.keeps_foldl _ (fun _ _ _ => ?_) _ _ ?_ | with_reducible apply State.spadSealWrite_keeps | split | simp only [State.keeps_mk] | dsimp only)

theorem State.mtxFault_keeps {b0 : State} {s : State} (c : Nat) (o : MtxOp) (f : JobFault) (h_s : b0.Keeps s) : b0.Keeps (State.mtxFault s c o f) := by
  unfold State.mtxFault
  with_reducible repeat' (first | assumption | apply State.mtxFaultOf_keeps | dsimp only)

theorem execMatrixOpComplete_keeps {b0 : State} (c : BitVec 8) (e : Ecc) {s : State} (h_s : b0.Keeps s) : b0.OKeeps (execMatrixOpComplete c e s) := by
  unfold execMatrixOpComplete
  with_reducible repeat' (first | assumption | refine done_keeps ?_ | apply State.setThr_keeps | apply State.setClu_keeps | apply State.settle_keeps | apply State.spadEcc_keeps | apply State.mtxFault_keeps | split | simp only [State.keeps_mk] | dsimp only | refine State.keeps_snd (by assumption) ?_ | refine State.keeps_fst (by assumption) ?_ | exact True.intro | intro _ | refine State.runMtx_keeps (by assumption) ?_)

theorem execTileQueuePush_keeps {b0 : State} (c : BitVec 8) {s : State} (h_s : b0.Keeps s) : b0.OKeeps (execTileQueuePush c s) := by
  unfold execTileQueuePush
  with_reducible repeat' (first | assumption | refine done_keeps ?_ | apply State.setClu_keeps | apply State.settle_keeps | split | simp only [State.keeps_mk] | dsimp only | refine State.keeps_snd (by assumption) ?_ | refine State.keeps_fst (by assumption) ?_)

end Sys2Proof.Machine
end

