-- ==== Sys2Proof/Tests/Slice0.lean ====
section
/-! SUPPORT. The model's own tests: ill-formed terms are refused, single steps on small states, and for each statement with hypotheses
states and operands that meet them. Expected values come from the spec's rules by hand. -/

set_option maxRecDepth 100000

namespace Sys2Proof.Tests

set_option Elab.async false

open Sys2Proof Sys2Proof.Machine

/-! ### Ill-formed terms -/

def cellOf (n : Nat) : Cell := { emptyCell with payload := List.replicate n 0 }
def narrowOf (n m : Nat) (fn : BitVec 2) : NarrowReq :=
  { fn := fn, w32 := false, fetch := true, part := 0, lanes := 1, hit := 0, addr := List.replicate n 0, data := List.replicate m 0 }
def streamOf (n : Nat) (op : Nat) : StreamReq := { ch := 0, words := BitVec.ofNat 64 (2 ^ 60 * op) :: List.replicate (n - 1) 0 }
def lineOf (a off len : Nat) (w : Option (List (BitVec 8))) : LineReq :=
  { addr := BitVec.ofNat 39 a, off := BitVec.ofNat 6 off, len := BitVec.ofNat 7 len, write := w, who := .other, hit := false, fill := false, dirty := false, ecc := .clean }

/-- A term of the right lengths is well formed, and one wrong in one list is not, for every check. -/
theorem test_wellFormed_cell : (Instr.loadCell ⟨cellOf 64, []⟩).wf = true ∧ (Instr.loadCell ⟨cellOf 63, []⟩).wf = false := by decide
theorem test_wellFormed_narrow : (Instr.narrowAdd (narrowOf 8 8 0)).wf = true ∧ (Instr.narrowAdd (narrowOf 7 8 0)).wf = false ∧
    (Instr.narrowAdd (narrowOf 8 9 0)).wf = false ∧ (Instr.narrowAdd (narrowOf 8 8 1)).wf = false ∧ (Instr.narrowMax (narrowOf 8 8 0)).wf = false ∧
    (Instr.narrowXor (narrowOf 8 8 1)).wf = false ∧ (Instr.narrowIllegal 15 (narrowOf 8 7 0)).wf = false := by decide
theorem test_wellFormed_stream : (Instr.spmv 0 (streamOf 8 1)).wf = true ∧ (Instr.spmv 0 (streamOf 7 1)).wf = false ∧ (Instr.spmv 0 (streamOf 8 2)).wf = false := by decide
theorem test_wellFormed_line : (Instr.lineAccess (lineOf 64 56 8 none)).wf = true ∧ (Instr.lineAccess (lineOf 65 0 8 none)).wf = false ∧
    (Instr.lineAccess (lineOf 64 57 8 none)).wf = false ∧ (Instr.lineAccess (lineOf 64 0 0 none)).wf = false ∧
    (Instr.lineAccess (lineOf 64 0 2 (some [1]))).wf = false := by decide
theorem test_wellFormed_power : (Instr.governorTick ⟨0, 0, 0, List.replicate 8 0, List.replicate 8 0⟩).wf = true ∧
    (Instr.governorTick ⟨0, 0, 0, List.replicate 7 0, List.replicate 8 0⟩).wf = false ∧ (Instr.governorTick ⟨0, 0, 0, List.replicate 8 0, []⟩).wf = false := by decide
theorem test_wellFormed_arbiter : (Instr.arbiterDivide ⟨0, 0, 8, 8, List.replicate 7 0⟩).wf = false := by decide
theorem test_wellFormed_bar4 : (Instr.bar4Access 0 (.fetchAdd 4 false 0 .clean)).wf = false ∧ (Instr.bar4Access 0 (.cas128 8)).wf = false ∧
    (Instr.bar4Access 0 (.read (BitVec.ofNat 39 (2 ^ 39 - 1)) 2 .clean)).wf = false ∧ (Instr.bar4Access 0 (.write (BitVec.ofNat 39 (2 ^ 39 - 1)) [0, 0])).wf = false ∧
    (Instr.bar4Access 0 (.swap 2 true 0 .clean)).wf = false ∧ (Instr.bar4Access 0 (.cas 4 false 0 0 .clean)).wf = false := by decide
theorem test_wellFormed_packet : (Instr.telemetryRecord ⟨0, 0, 0, 0, List.replicate 65536 0, []⟩).wf = false := by
  simp only [Instr.wf, FieldPacket.wf, List.length_replicate]; decide
theorem test_wellFormed_held : (Instr.cowHold 0 ⟨63, [0]⟩).wf = true ∧ (Instr.cowHold 0 ⟨63, [0, 0]⟩).wf = false ∧ (Instr.cowHold 0 ⟨0, []⟩).wf = false := by decide

/-- No row of the table has bits, so no word spells a command. -/
theorem test_decode_none : decodeTableWord 8 0 = none ∧ State.reset.withFetchWord 8 0 = State.reset := by decide

/-! ### Small states -/

/-- Rails regulate, dies released, firmware runs, and partition 0 holds every group, unit and channel and the queues 0 to 63; host
link 0, which is up, owns it; cluster 0 is wiped. -/
def live : State :=
  let s0 : State := { State.reset with pow := { stage := .on }, hostLinks := [(0, { up := true, perst := false })], clus := [(0, { wiping := false })] }
  let s1 := (((s0.setF F.PWR_STAT_READY 1).setF F.MGT_STAT_BOOT 1).setF F.PRT_CTRL_EN 1).setF F.PRT_OWNER_KIND 1
  let s2 := ((s1.setF F.PRT_CLU_GROUPS_GROUPS 0xFFFFFFFF).setF F.PRT_QUEUES_COUNT 64).setF F.PRT_SLV_SET_CHANNELS 0xFFFFFFFFFFFFFFFF
  let s3 := (s2.setF F.PRT_MOV_SET_CHANNELS 0xFFFFFFFFFFFF).setF F.PRT_GRANTS_FIO 1
  [0x58, 0x60, 0x68, 0x70, 0x78, 0x80].foldl (fun s o => s.setW .prt o 0xFFFFFFFFFFFFFFFF 0) s3

/-- A job in slot 0, ACCEPTING: tag 1, rank 0 of 1 at endpoint 5, all groups and units, window 0 onto all of HBM with every permission. -/
def job : State :=
  let s1 := ((live.setF F.HUB_JOB_CTL_STATE slotAccepting).setF F.HUB_JOB_CTL_TAG 1).setF F.HUB_JOB_RANKS_COUNT 1
  let s2 := (((s1.setF F.HUB_RT_DATA_VALID 1).setF F.HUB_RT_DATA_EP 5).setF F.HUB_ENDPOINT_EP 5).setF F.GLB_SLOT_CFG_NAMED 1
  let s3 := ((s2.setF F.GLB_SLOT_CFG_CLU_GROUPS 0xFFFFFFFF).setF F.HUB_WIN_DATA0_VALID 1).setF F.HUB_WIN_DATA0_PERM 15
  let s4 := (s3.setF F.HUB_WIN_DATA1_SIZE 0x1000000000).setF F.GLB_JOB_QUEUES_COUNT 64
  [0x58, 0x60, 0x68, 0x70, 0x78, 0x80].foldl (fun s o => s.setW .glb o 0xFFFFFFFFFFFFFFFF 0) s4

/-- The job with every stack trained and wiped. -/
def ready : State := { job with hbm := [(8, 5)] } |> fun s => (List.range 16).foldl (fun u st => u.setF F.LCH_STAT_READY 1 st) s

/-- Thread 0 of cluster 0 of a state made ready as `x`, and its cluster as `k`. -/
def go (s : State) (x : Thread) : State := s.setThr 0 0 { x with st := .ready }
def kl (s : State) (k : Cluster) : State := s.setClu 0 { k with wiping := false }

/-- A scalar instruction with operands s1 and s2 and result s3, and one with an immediate; a vector instruction of 64-bit elements. -/
def sf : SFmt := ⟨3, 1, 2, false, 0, 0, none, .clean⟩
def si (n : Int) : SFmt := ⟨3, 1, 2, true, 0, BitVec.ofInt 32 n, none, .clean⟩
def vf : VFmt := ⟨3, 1, 2, 0, false, 3, false, 0, 0, none, .clean, .clean⟩

/-- What a field of the next state is; none where there is no next state. -/
def outcome {α : Type} (o : Host.Outcome State Fault Refusal) (f : State → α) : Option α :=
  match o with
  | .next s => some (f s)
  | _ => none

/-- What thread 0 of cluster 0 is after an instruction. -/
def after (i : Instr) (s : State) : Option Thread := outcome (exec i s) (fun u => u.thr 0 0)

/-! ### Scalar instructions -/

/-- All ones plus one wraps to zero, and the PC advances past the extension word (R49, R52). -/
theorem test_add_wraps : after (.add 0 0 { sf with ims := true, ext := some 1 }) (go live { sr := [(1, 0xFFFFFFFFFFFFFFFF)] }) =
    some { st := .ready, pc := 2, sr := [(1, 0xFFFFFFFFFFFFFFFF)] } := by decide +kernel
/-- A signed remainder is not asked; division by zero gives all ones (Table 02-5). -/
theorem test_divu_by_zero : after (.divu 0 0 sf) (go live { sr := [(1, 7)] }) = some { st := .ready, pc := 1, sr := [(1, 7), (3, 0xFFFFFFFFFFFFFFFF)] } := by decide +kernel
/-- A shift takes the count modulo 64. -/
theorem test_sll_count : after (.sll 0 0 sf) (go live { sr := [(1, 3), (2, 65)] }) = some { st := .ready, pc := 1, sr := [(1, 3), (2, 65), (3, 6)] } := by decide +kernel
/-- 1.5 + 2.25 is 3.75, exactly. -/
theorem test_fadd : after (.fadd 0 0 sf) (go live { sr := [(1, 0x3FF8000000000000), (2, 0x4002000000000000)] }) =
    some { st := .ready, pc := 1, sr := [(1, 0x3FF8000000000000), (2, 0x4002000000000000), (3, 0x400E000000000000)] } := by decide +kernel
/-- A branch back over one word, modulo 32,768. -/
theorem test_br_back : (after (.br 0 0 (si (-2))) (go live { pc := 0 })).map Thread.pc = some 32767 := by decide +kernel
/-- A store to the scratchpad of cluster 0 lies little-endian at its address, and a load of a byte sign-extends. -/
theorem test_stsW : outcome (exec (.stsW 0 0 (si 4)) (go live { sr := [(3, 0x80818283)] })) (fun u => u.spad) =
    some [(4, 0x83), (5, 0x82), (6, 0x81), (7, 0x80)] := by decide +kernel
theorem test_ldsBs : (after (.ldsBs 0 0 (si 7) .clean) { (go live {}) with spad := [(7, 0x80)] }).map (fun x => x.rd 3) = some 0xFFFFFFFFFFFFFF80 := by decide +kernel

/-- R407: at level 5 a group's clusters issue in 5 of every 8 cycles; a cycle that is closed lets no thread issue. -/
theorem test_issue_level :
    let s := (go live {}).setF F.PWR_ISSUE0_LEVEL 0x15
    let u := { s with now := 12000 }
    s.issueLevel 0 = 5 ∧ s.issueLevel 8 = 1 ∧ ((List.range 16).filter (s.cycleOpen 0)).length = 10 ∧ u.cycleAt 0 u.now = 5400 ∧
    u.canIssue 0 0 = true ∧ ({ u with now := 12012 } : State).canIssue 0 0 = false := by decide +kernel

/-- States in which the scalar statements' premises hold: an instruction can issue, with and without an immediate, and a NaN operand;
an odd rounding unit; and for loads and stores each alignment, at the scratchpad's last word. -/
theorem witness_scalar : (go live {}).canIssue 0 0 = true ∧ sf.rsv = 0 ∧ sf.fetch ≠ .uncorrectable ∧ (si 1).fetch ≠ .uncorrectable ∧ vf.fetch ≠ .uncorrectable ∧ vf.regs ≠ .uncorrectable ∧ (si 1).ims = true ∧ (si 1).ext = none ∧ ({ sf with ims := true, ext := some 1 } : SFmt).ext = some 1 ∧
    (fpVal fp64 0x7FF8000000000001).isNan = true ∧ ((-1 : Int) < 0) ∧
    (let x := go live { sr := [(1, 0x3FFFF8)] }
     let a := (sOpA (x.thr 0 0) sf + sImm sf).toNat
     a % 8 = 0 ∧ a < 0x400000 ∧ x.canIssue 0 0 = true ∧ (x.issued 0 0 .clean).spadReserved 0 a 8 = false ∧ a + 8 ≤ 0x400000) ∧
    Ecc.clean ≠ .uncorrectable ∧ Ecc.corrected ≠ .uncorrectable := by decide +kernel

/-- A fetching access of the own rank at the last word below 4 KiB, through window 0, for each kind of access. -/
theorem witness_OwnRankRemoteAccesses :
    let s := go job { sr := [(1, 4088)] }
    let s1 := s.issued 0 0 .clean
    let w := s.window 0 0
    s.canIssue 0 0 = true ∧ (sOpA (s.thr 0 0) sf + sImm sf).toNat = 4088 ∧ addrRank 4088 = s1.myRank 0 ∧ w.kind = 0 ∧ s1.fencedAt 4088 = false ∧
    (∀ acc ∈ [Access1.load, .store (natLe 8 0), .atomic 0 true 0 0, .atomic 0 false 0 0, .atomic 3 true 0 0, .fadd 0],
      s1.checkSend (s1.partOfCluster 0) 4088 8 acc = some (0, 0, w)) := by decide +kernel

/-! ### Control, system, claims, errors -/

/-- Cluster 0 with what `k` says, and thread 0 READY. -/
def kt (k : Cluster) (x : Thread) : State := go (kl live k) x
/-- A queue entry with a header of sequence number n and 4,096 bytes. -/
def entry (n : Nat) : TqEntry := { seq := n, tag := 1, fmt := 2, acc := 3, rows := 4, cols := 5, data := List.replicate 4096 7 }

/-- Each case of `SystemInstructions`: the flag and register forms, a start of a thread that is OFF and of one that is not, WAITC at the last
number of the half range before and at the first after it, and WAITM at its word. -/
theorem witness_SystemInstructions :
    (kt {} {}).canIssue 0 0 = true ∧ sf.rsv = 0 ∧ (sImm (si 4088)).toNat % 8 = 0 ∧ (sImm (si 4089)).toNat % 8 ≠ 0 ∧
    (let s1 := (kt {} {}).issued 0 0 .clean
     s1.boundThread 0 1 = false ∧ ((kt {} {}).thr 0 1).st = .off ∧ ((kt {} {}).thr 0 0).st = .ready ∧
     (2 ^ 32 + s1.getF (tmDone 3) 0 - 0x80000001 % 2 ^ 32) % 2 ^ 32 < 2 ^ 31 ∧ ¬ (2 ^ 32 + s1.getF (tmDone 0) 0 - 0x80000000 % 2 ^ 32) % 2 ^ 32 < 2 ^ 31 ∧
     0x3FFFF8 % 8 = 0 ∧ (0 : Word).toNat ≤ readLe s1.spad 0x3FFFF8 8 ∧ readLe s1.spad 0x3FFFF8 8 < (1 : Word).toNat) := by decide +kernel

theorem witness_WaitingAndHalting :
    let s := kt { tqOwner := some 0, mtxOwner := some 1 } { sr := [(2, 1)] }
    let u := kt { tqOwner := some 7 } {}
    s.canIssue 0 0 = true ∧ ((s.issued 0 0 .clean).clu 0).tqOwner = some 0 ∧ ((s.issued 0 0 .clean).clu 0).tq = [] ∧ ((s.issued 0 0 .clean).clu 0).mtxOwner = some 1 ∧
    u.canIssue 0 0 = true ∧ ((u.issued 0 0 .clean).clu 0).tqOwner = some 7 := by decide +kernel

/-- FENCE with an empty open epoch goes on, with an access under way waits, and with four closed epochs waits for the oldest. -/
theorem witness_FenceInstruction :
    let s := kt {} {}
    let u := s.setThr 0 0 { s.thr 0 0 with ep := { issued := 2, completed := 1 } }
    let w := s.setThr 0 0 { s.thr 0 0 with ep := { curId := 4, closed := [(0, 2, 1), (1, 1, 0), (2, 1, 0), (3, 1, 0)] } }
    w.canIssue 0 0 = true ∧ ((w.issued 0 0 .clean).scopeEpochs 0 0 0).closed = (0, 2, 1) :: [(1, 1, 0), (2, 1, 0), (3, 1, 0)] ∧ (sImm sf).toNat % 4 < 3 ∧
    s.canIssue 0 0 = true ∧ ((s.issued 0 0 .clean).scopeEpochs 0 0 0).closed = [] ∧ ((s.issued 0 0 .clean).scopeEpochs 0 0 0).issued = ((s.issued 0 0 .clean).scopeEpochs 0 0 0).completed ∧
    u.canIssue 0 0 = true ∧ ((u.issued 0 0 .clean).scopeEpochs 0 0 0).closed.length < 4 ∧ ((u.issued 0 0 .clean).scopeEpochs 0 0 0).issued ≠ ((u.issued 0 0 .clean).scopeEpochs 0 0 0).completed := by decide +kernel

/-- The claim passes to thread 7, which waits. -/
theorem witness_ClaimAndQueueInstructions :
    let s := (kt { mtxOwner := some 0, tqOwner := some 0, tq := [entry 0] } { sr := [(1, 0x3FFFC0)] }).setThr 0 7 { st := .waitRes, wait := .mclaim, adv := 1 }
    let u := kt {} {}
    u.canIssue 0 0 = true ∧ (u.clu 0).mtxOwner = none ∧ (u.clu 0).tqOwner = none ∧
    s.canIssue 0 0 = true ∧ (s.thr 0 0).wait = .none ∧ ((s.issued 0 0 .clean).clu 0).mtxOwner = some 0 ∧ ((s.issued 0 0 .clean).clu 0).tqOwner = some 0 ∧
    ((s.issued 0 0 .clean).clu 0).busyFor 0 = false ∧ (s.thr 0 7).wait = .mclaim ∧
    (sOpA (s.thr 0 0) sf).toNat % 64 = 0 ∧ (sOpA (s.thr 0 0) sf).toNat < 0x400000 ∧ ((s.issued 0 0 .clean).tileMover 0 3).q.length < 8 ∧
    ((s.issued 0 0 .clean).clu 0).tq = entry 0 :: [] ∧ (vImm { vf with imm := 3840 }).toNat % 8 = 0 ∧ (vImm { vf with imm := 3840 }).toNat + 256 ≤ (entry 0).data.length ∧
    (vImm { vf with imm := 3840 }).toNat ≤ 3840 := by decide +kernel

/-- A misaligned address, the first address above the scratchpad, a reserved word, missing claims, an empty queue, no window, and selector 4. -/
theorem witness_ClusterErrors :
    let at_ := fun (a : Word) => kt {} { sr := [(1, a)] }
    let r := ((at_ 0x3C0000).setF F.CLU_BIND_BOUND 1).setF F.CLU_BIND_SPAD_RES 1
    (at_ 1).canIssue 0 0 = true ∧ ({ sf with rsv := 1 } : SFmt).rsv ≠ 0 ∧ ({ vf with rsv := 1 } : VFmt).rsv ≠ 0 ∧
    (sOpA ((at_ 1).thr 0 0) sf + sImm sf).toNat % 8 ≠ 0 ∧ (sOpA ((at_ 0x400000).thr 0 0) sf + sImm sf).toNat = 0x400000 ∧
    (r.issued 0 0 .clean).spadReserved 0 0x3C0000 8 = true ∧ (r.issued 0 0 .clean).spadReserved 0 0x3BFFF8 8 = false ∧
    (((at_ 0).issued 0 0 .clean).clu 0).mtxOwner ≠ some 0 ∧ (((at_ 0).issued 0 0 .clean).clu 0).tqOwner ≠ some 0 ∧
    ((at_ 0).issued 0 0 .clean).checkSend (((at_ 0).issued 0 0 .clean).partOfCluster 0) 0 8 .load = none ∧ 3 < (sImm (si 4)).toNat % 256 ∧
    (kt { tqOwner := some 0 } {}).canIssue 0 0 = true ∧ (((kt { tqOwner := some 0 } {}).issued 0 0 .clean).clu 0).tqOwner = some 0 ∧ (((kt { tqOwner := some 0 } {}).issued 0 0 .clean).clu 0).tq = [] ∧
    ({ sf with fetch := .uncorrectable } : SFmt).fetch = .uncorrectable ∧ ({ vf with regs := .uncorrectable } : VFmt).regs = .uncorrectable := by decide +kernel
/-- The bound thread ready; the thread that issued last within its quantum, beyond it alone, and beyond it beside another. -/
theorem witness_ThreadSelection :
    let two := fun (n : Nat) => (kt { lastIssue := 0, runLen := n } {}).setThr 0 3 { st := .ready }
    let b := ((two 0).setF F.CLU_BIND_BOUND 1).setThr 0 7 { st := .ready }
    let q := (two 0).getF F.CLU_SCHED_QUANTUM 0
    b.boundThread 0 7 = true ∧ b.threadReady 0 7 = true ∧ (two 0).boundThread 0 7 = false ∧ (two 0).threadReady 0 0 = true ∧ (0 < q) ∧ ((two 0).clu 0).runLen < q ∧
    ¬ ((two q).clu 0).runLen < q ∧ (two q).threadReady 0 3 = true ∧ (kt { lastIssue := 0, runLen := q } {}).threadReady 0 3 = false := by decide +kernel
/-- The sets of the other properties of `ScalarProperties`: powers, a NaN and sizes at their bounds. -/
theorem witness_ScalarProperties : (-1 : Int) < 0 ∧ (fpVal fp64 0x7FF0000000000001).isNan = true ∧ (255 : Nat) < 256 ∧ (7 : Nat) < 8 ∧ 0x3FFFF8 + (natLe 8 0).length ≤ 0x400000 ∧
    eccWords .clean = [] ∧ eccWords (.words [0]) ≠ [] := by decide +kernel

/-! ### Vectors, matrices, the epilogue unit, runs -/

/-- The bytes of 64-bit words. -/
def bytesOf (ws : List Nat) : List Byte := ws.flatMap (natLe 8)

/-- 64-bit elements 0 and 1 add under predicate 1, which has bit 1 alone: element 0 of v3 is as before. -/
theorem test_vadd_predicate : (after (.vadd 0 0 { vf with pg := 1 }) (kt {} { vl := 2, vr := [(1, 2 ^ 64 * 5 + 7), (2, 2 ^ 64 * 6 + 9), (3, 8)], pr := [(1, 2)] })).map (fun x => x.rdV 3) =
    some (2 ^ 64 * 11 + 8) := by decide +kernel
/-- The tree sum of 1.5 and 2.25, the other elements entering as -0. -/
theorem test_vrsum_fp64 : (after (.vrsum 0 0 { vf with ew := 4 }) (kt {} { vl := 2, vr := [(1, 2 ^ 64 * 0x3FF8000000000000 + 0x4002000000000000)] })).map (fun x => x.rd 3) =
    some 0x400E000000000000 := by decide +kernel
/-- SETVL of more than VLMAX gives VLMAX. -/
theorem test_setvl : (after (.setvl 0 0 { vf with ims := true, imm := 1000 }) (kt {} {})).map (fun x => (x.vl, x.rd 3)) = some (32, 32) := by decide +kernel

/-- Vector instructions of each element kind, with active elements and without. -/
theorem witness_VectorResults :
    let s := kt {} { vl := 32, vr := [(1, 1)], sr := [(1, 1)] }
    s.canIssue 0 0 = true ∧ vf.rsv = 0 ∧ vf.ew.toNat < 4 ∧ ({ vf with ew := 4 } : VFmt).ew.toNat = 4 ∧ ({ vf with ew := 5 } : VFmt).ew.toNat = 5 ∧ vf.vd.toNat < 8 ∧
    (vImm { vf with imm := 31 }).toNat < vlMax 3 ∧ vlMax 3 ≤ (vImm { vf with imm := 32 }).toNat ∧
    bitsOf (vImm { vf with ew := 4, imm := 0x11 }).toNat 7 5 = 0 ∧ convPair (ewCode 4) 1 = true ∧ convPair (ewCode 5) 9 = true ∧ isMx 9 = true ∧ convPair (ewCode 0) 13 = true := by decide +kernel

/-- Loads and stores up to the scratchpad's last byte, with 32 elements and with none, and VSEAL of the last tile. -/
theorem witness_VectorMemoryResults :
    let s := kt {} { vl := 32, sr := [(1, 0x3FFF00)] }
    let u := kt {} { sr := [(1, 0x3FF000)] }
    let s1 := s.issued 0 0 .clean
    let at_ := fun k => (((s.thr 0 0).rd 1 + vImm vf).toNat + k * 8) % 2 ^ 64
    let on := fun (x : Thread) => (List.range (vlMax 3)).filter (active x vf)
    s.canIssue 0 0 = true ∧ (on (s.thr 0 0)).length = 32 ∧ (∀ k ∈ on (s.thr 0 0), at_ k + 8 ≤ 0x400000) ∧ (∀ k ∈ on (s.thr 0 0), s1.spadReserved 0 (at_ k) 8 = false) ∧
    u.canIssue 0 0 = true ∧ on (u.thr 0 0) = [] ∧ ((u.thr 0 0).rd 1).toNat % 4096 = 0 ∧ ((u.thr 0 0).rd 1).toNat < 0x400000 := by decide +kernel

/-- One 64-byte line of the own rank for VLDG and its 64 bytes for VSTG. -/
theorem witness_VectorRemoteAccesses :
    let s := go job { vl := 8, sr := [(1, 4096)] }
    let s1 := s.issued 0 0 .clean
    let w := s.window 0 0
    let on := (List.range (vlMax 3)).filter (active (s.thr 0 0) vf)
    s.canIssue 0 0 = true ∧ vf.ims = false ∧ on = List.range 8 ∧
    ((on.flatMap (fun k => [elemAddr 4096 64 k / 64, (elemAddr 4096 64 k + 7) / 64])).eraseDups).map (· * 64) = [4096] ∧
    lineRuns (on.flatMap (fun k => (List.range 8).map (fun b => (elemAddr 4096 64 k + b, (0 : Byte))))) = [(4096, List.replicate 64 0)] ∧
    s1.checkSend (s1.partOfCluster 0) 4096 64 .load = some (0, 0, w) ∧ s1.checkSend (s1.partOfCluster 0) 4096 64 (.store (List.replicate 64 0)) = some (0, 0, w) ∧
    addrRank 4096 = s1.myRank 0 ∧ w.kind = 0 ∧ s1.fencedAt (w.base + (addrOff 4096 - w.offBase)) = false := by decide +kernel

/-- A matrix descriptor: one FP64 row of A at 64 by one column of B at 128, K = 1, one row and one column. -/
def mmaWords : List Nat := [2 ^ 32 * 128 + 64, 1, 2 ^ 8 + 1, 0]
def mtx (x : Thread) (k : Cluster) : State := { kt { k with mtxOwner := some 0 } x with spad := writeBytes [] 0 (bytesOf (mmaWords ++ [0, 0, 0, 0, 0x4000000000000000])) }
def mpair : Cluster := { accFmt := [(2, .hi), (3, .lo)] }
def msingle : Cluster := { accFmt := [(7, .fp32)] }

/-- 1.0 + 2.0 · 1.5 is 4.0 (R125). -/
theorem test_dot : dotIeee fp64 4 0x3FF0000000000000 [(fpVal fp64 0x4000000000000000, fpVal fp64 0x3FF8000000000000)] = (0x4010000000000000, 0) := by decide +kernel
/-- A matrix instruction of a thread without the claim halts it with ENG_OWNER. -/
theorem test_mma_owner : (after (.mma 0 0 vf .clean) (kt {} {})).map (fun x => (x.st, x.cause)) = some (.halted, 0x07) := by decide +kernel

/-- Each format, the largest accumulator, a tile whose last row ends at the scratchpad's last byte, and the pair. -/
theorem witness_MatrixInstructions :
    let s := mtx { sr := [(1, 0x3FF400), (2, 192)] } msingle
    let u := mtx { sr := [(1, 0x3FF400)] } mpair
    let k := (s.issued 0 0 .clean).clu 0
    let m := mmaDesc (2 ^ 32 * 128 + 64) 1 (2 ^ 8 + 1) 0
    s.canIssue 0 0 = true ∧ k.mtxOwner = some 0 ∧ ({ vf with vd := 7 } : VFmt).vd.toNat < 8 ∧ 8 ≤ ({ vf with vd := 8 } : VFmt).vd.toNat ∧
    (vImm vf).toNat.testBit 0 = false ∧ (vImm { vf with imm := 1 }).toNat.testBit 0 = true ∧
    0x3FF400 % 8 = 0 ∧ 192 % 8 = 0 ∧ 0x3FF400 + 15 * 192 + 24 * 8 ≤ 0x400000 ∧ 0x3FF400 + 15 * 192 + 24 * 4 ≤ 0x400000 ∧ 0x3FF400 + 15 * 0 + 24 * 16 ≤ 0x400000 ∧
    k.fmtOf 7 = .fp32 ∧ k.fmtOf 6 ≠ .fp32 ∧ (∀ r < 16, (s.issued 0 0 .clean).spadReserved 0 (0x3FF400 + r * 192) 384 = false) ∧
    u.canIssue 0 0 = true ∧ ((u.issued 0 0 .clean).clu 0).fmtOf 2 = .hi ∧ ((u.issued 0 0 .clean).clu 0).fmtOf 3 = .lo ∧
    (∀ o ∈ k.mops, o.1 ≠ 0) ∧ (∀ o ∈ k.pushPend, o.1 ≠ 0) ∧ (kt {} {}).canIssue 0 0 = true ∧ (((kt {} {}).issued 0 0 .clean).clu 0).mtxOwner ≠ some 0 ∧
    mmaWords.map (fun w => w) = (List.range 4).map (fun j => readLe s.spad (8 * j) 8) ∧ m.legal k 0 = true ∧ m.aAddr % 8 = 0 ∧ m.bAddr % 8 = 0 ∧ m.aStride % 8 = 0 ∧ m.bStride % 8 = 0 ∧ m.fits = true := by decide +kernel

/-- Tiles 0 to 15 of cluster 0's scratchpad, and of HBM, sealed as they stand: reads of their bytes verify. -/
def sealed (s : State) : State :=
  { s with spadSum := (List.range 16).map (fun t => (t, tileSum s.spad t)), hbmSum := (List.range 16).map (fun t => (t, tileSum s.hbm t)) }
theorem tile_sealed (a n t : Nat) (h : a + n ≤ 65536) (ht : t ∈ tilesOf a n) : t < 16 := by
  unfold tilesOf at ht; split at ht
  · cases ht
  · simp [List.mem_range'] at ht; omega
theorem sum_sealed (f : Nat → Word) (t : Nat) (h : t < 16) : spGet 0 ((List.range 16).map (fun t => (t, f t))) t = f t := by
  have : t = 0 ∨ t = 1 ∨ t = 2 ∨ t = 3 ∨ t = 4 ∨ t = 5 ∨ t = 6 ∨ t = 7 ∨ t = 8 ∨ t = 9 ∨ t = 10 ∨ t = 11 ∨ t = 12 ∨ t = 13 ∨ t = 14 ∨ t = 15 := by omega
  obtain h | h | h | h | h | h | h | h | h | h | h | h | h | h | h | h := this <;> subst h <;> rfl
theorem spadVerify_sealed (s : State) (a n : Nat) (h : a + n ≤ 65536) : (sealed s).spadVerify 0 a n = true := by
  simp only [State.spadVerify, List.all_eq_true, decide_eq_true_eq]
  intro t ht
  simpa [sealed, spadSumKey] using sum_sealed (tileSum s.spad) t (tile_sealed a n t h ht)
theorem hbmVerify_sealed (s : State) (a n : Nat) (h : a + n ≤ 65536) : (sealed s).hbmVerify a n = true := by
  simp only [State.hbmVerify, List.all_eq_true, decide_eq_true_eq]
  intro t ht
  simpa [sealed] using sum_sealed (tileSum s.hbm) t (tile_sealed a n t h ht)

/-- What an MMA's operands are does not depend on what stands in the engine, so a command that has seen them can be at its head. -/
theorem mmaReads_clus (s : State) (k : Sparse Cluster) (c : Nat) (x : MmaDesc) : (sealed { s with clus := k }).mmaReads c x = (sealed s).mmaReads c x := by
  simp only [State.mmaReads, State.spadVerify, sealed]; congr
theorem witness_mma_seen (x : MmaDesc) :
    let o := MtxOp.mma 0 (2 ^ 32 * 128 + 64) 1 (2 ^ 8 + 1) 0 ((sealed (kt {} {})).mmaReads 0 x)
    let s := sealed { kt {} {} with clus := [(0, { mops := [(0, o)] })] }
    (s.clu 0).mops = [(0, o)] ∧ o = .mma 0 (2 ^ 32 * 128 + 64) 1 (2 ^ 8 + 1) 0 (s.mmaReads 0 x) ∧ (s.clu 0).pushPend = [] ∧ (s.clu 0).faulted = false :=
  ⟨rfl, congrArg _ (mmaReads_clus (kt {} {}) _ 0 x).symm, rfl, rfl⟩

/-- One operation of each kind at the head of the engine; its reads, which lie in tiles 0 to 15, verify where those are sealed (`spadVerify_sealed`). -/
theorem witness_MatrixOperationEnds :
    let s := kt {} {}
    let m := mmaDesc (2 ^ 32 * 128 + 64) 1 (2 ^ 8 + 1) 0
    (s.clu 0).pushPend = [] ∧ (s.clu 0).faulted = false ∧
    (∀ o ∈ [MtxOp.zero 7 1, .zero 0 2, .load 7 1 0 96, .load 0 2 0 384, .store 7 1 0 96, .store 0 2 0 384, .push 0 5 1, .mma 0 (2 ^ 32 * 128 + 64) 1 (2 ^ 8 + 1) 0 []],
      ((kt { mops := [(0, o)] } {}).clu 0).mops = (0, o) :: []) ∧
    24 * accBytes 1 ≤ 96 ∧ 24 * accBytes 2 ≤ 384 ∧ m.rows ≤ 16 ∧ m.cols ≤ 24 ∧ m.push = false ∧
    (∀ r < 16, 0 + r * 384 + 384 ≤ 65536) ∧ (∀ a ∈ m.aRows, a + rowBytes m.aFmt m.k ≤ 65536) ∧ (∀ a ∈ m.bCols, a + rowBytes m.bFmt m.k ≤ 65536) ∧
    ((kt { pushPend := [(0, entry 0)], tq := List.replicate 15 (entry 0) } {}).clu 0).pushPend = (0, entry 0) :: [] ∧
    ((kt { pushPend := [(0, entry 0)], tq := List.replicate 15 (entry 0) } {}).clu 0).tq.length < 16 := by decide +kernel

/-- A descriptor whose output goes to address 0 and its completion word to the last word of the scratchpad. -/
def epiBytes : List Byte := bytesOf [0, 0x3FFFF8, 2 ^ 48 * 192, 0]
/-- Relu, from the entry's format, of a 4-row, 5-column entry. -/
def epiRelu : List Byte := bytesOf [0, 0x3FFFF8, 2 ^ 48 * 192 + 2 ^ 24, 0]
def fpEntry : TqEntry := { seq := 0, tag := 1, fmt := 1, acc := 3, rows := 1, cols := 1, data := natLe 8 0x3FF0000000000000 ++ List.replicate 4088 0 }

theorem witness_EpilogueUnit :
    let s := { kt { tqOwner := some 0 } { sr := [(1, 0x3FFFE0)] } with spad := writeBytes [] 0x3FFFE0 (epiBytes.take 32) }
    let b := kt { tqOwner := some 0, epi := .waiting 0 epiBytes, tq := [fpEntry] } {}
    let o := b.epiOutput 0 (epiDesc epiBytes) fpEntry (fun _ => .mode .rne)
    s.canIssue 0 0 = true ∧ ((s.issued 0 0 .clean).clu 0).tqOwner = some 0 ∧ 0x3FFFE0 % 32 = 0 ∧ 0x3FFFE0 + 32 ≤ 0x400000 ∧
    (epiDesc (readBytes s.spad 0x3FFFE0 32)).error = none ∧ ((s.issued 0 0 .clean).clu 0).epi = .idle ∧ ((b.issued 0 0 .clean).clu 0).epi ≠ .idle ∧
    (b.clu 0).epi = .waiting 0 epiBytes ∧ (b.clu 0).tq = fpEntry :: [] ∧ (epiDesc epiBytes).stoch = false ∧ isMx (epiDesc epiBytes).out = false ∧
    (∀ r ∈ epiReads (epiDesc epiBytes) fpEntry, r.1 + r.2 ≤ 0x400000 ∧ b.spadVerify 0 r.1 r.2 = true) ∧
    o.1 = [(0, natLe 8 0x3FF0000000000000)] ∧ (∀ w ∈ o.1, w.1 + w.2.length ≤ 0x400000 ∧ b.spadReserved 0 w.1 w.2.length = false) ∧
    b.spadReserved 0 (epiDesc epiBytes).done_ 8 = false ∧ (epiDesc epiRelu).act = 1 ∧
    ((kt { epi := .running 0 [(0, natLe 8 1)] 0x3FFFF8 0 } {}).clu 0).epi = .running 0 [(0, natLe 8 1)] 0x3FFFF8 0 := by decide +kernel

/-- A thread that waits for a remote word, one that a write has marked, and a cluster that wipes. -/
theorem witness_ThreadWakes :
    let r : Remote := { vec := false, reg := 3, parts := [⟨0, 8, some (natLe 8 9)⟩] }
    let s := live.setThr 0 0 { st := .waitRemote, remote := some r }
    let u := (live.setThr 0 0 { st := .waitCount, wait := .word 8 1 true, adv := 1 })
    (s.thr 0 0).st = .waitRemote ∧ (s.thr 0 0).remote = some r ∧ r.bytes = some (natLe 8 9) ∧ (s.thr 0 0).stopPend = false ∧
    (u.thr 0 0).wait = .word 8 1 true ∧ readLe u.spad 8 8 < 1 ∧ 1 ≤ readLe (writeBytes u.spad 8 (natLe 8 1)) 8 8 ∧
    live.powered = true ∧ (live.clu 1).wiping = true := by decide +kernel
/-- The remote word goes to its register and the thread is READY. -/
theorem test_remote_result : after (.remoteResult 0 0) (live.setThr 0 0 { st := .waitRemote, remote := some { vec := false, reg := 3, parts := [⟨0, 8, some (natLe 8 9)⟩] } }) =
    some { st := .ready, sr := [(3, 9)] } := by decide +kernel

/-- A command of queue 0 and partition 0 with a submission entry of the given words. -/
def cmdOf (ph : CmdPhase) (ws : List Nat) : Cmd := { id := 1, queue := 0, part := 0, words := ws.map (BitVec.ofNat 64) ++ List.replicate (8 - ws.length) 0, phase := ph }
def withCmd (s : State) (c : Cmd) : State := { s with cmds := [c] }

/-! ### Queues, movers -/

/-- Queue 0 of partition 0, its context cached: rings of 16 entries at 0x100000 and 0x200000, SQ pointers at tail and head, completions
to itself. -/
def qctx0 (tail head en : Nat) : List Word := ([0x100000, 0x200000, 2 ^ 32 * head + tail, 0, 0x404, 2 ^ 16 * en, 0, 0] : List Nat).map (BitVec.ofNat 64)
def queued (tail head en : Nat) : State := { live with qctx := [(0, qctx0 tail head en)] }

/-- Full and empty rings, and a disabled queue; the judged cases have a written pointer that is legal, just beyond, and half the range away. -/
theorem witness_QueueDoorbells :
    let d : DbSrc := .fn 0 0
    (∀ s ∈ [queued 0 0 1, queued 16 0 1, queued 0 0 0],
      s.dbQueue d 0 = some 0 ∧ s.dbCoreOk d 0 = true ∧ s.partOfQueue 0 = some 0 ∧ s.ctxCached 0 = true ∧ (s.ctx 0).length = 8 ∧
      (∀ k < 2 ^ ctxGet (s.ctx 0) cSqLog2, s.ringReach 0 (ctxGet (s.ctx 0) cSqBase) (64 * k) 64 = true)) ∧
    ctxGet ((queued 0 0 1).ctx 0) cEn = 1 ∧ ctxGet ((queued 0 0 0).ctx 0) cEn = 0 := by decide +kernel
/-- A doorbell of 17 to an empty ring of 16 entries is taken as 16 and counted; one half the range away and one more is not taken (R233). -/
theorem test_doorbell_clamps :
    outcome (exec (.sqDoorbell (.fn 0 0) 0 ⟨17, []⟩) (queued 0 0 1)) (fun u => (ctxGet (u.ctx 0) cSqTail, u.cmds.length, u.getF F.QMG_DB_CLAMP_CNT_COUNT 0 0)) = some (16, 16, 1) ∧
    outcome (exec (.sqDoorbell (.fn 0 0) 0 ⟨65537, []⟩) (queued 0 0 1)) (fun u => (ctxGet (u.ctx 0) cSqTail, u.cmds.length, u.getF F.QMG_DB_CLAMP_CNT_COUNT 0 0)) = some (0, 0, 1) := by decide +kernel

/-- Words of ABORT of queue 0 and tag 5, of RUN of thread 0 of group 0 at word 32,767, and of MOVE on channel 0 of one descriptor at 0x1000. -/
def abortWords : List Nat := [2 ^ 56 * 1, 0, 0, 2 ^ 32 * 5]
def runWords : List Nat := [2 ^ 56 * 0x6A, 0, 5, 2 ^ 48 * 32767 + 2 ^ 32 * 1 + 1, 9]
def moveWords : List Nat := [2 ^ 56 * 0x60 + 7, 0, 5, 0x1000, 0, 1]

theorem witness_RunCommands :
    let s := live
    let c := cmdOf .started runWords
    let bad := cmdOf .started (runWords.take 3)
    let r := cmdOf .running runWords
    c.opc = 0x6A ∧ bad.opc = 0x6A ∧ (withCmd s c).cmd? 1 = some c ∧ (withCmd s bad).cmd? 1 = some bad ∧ (withCmd s r).cmd? 1 = some r ∧
    (withCmd s c).runOk c = true ∧ (withCmd s bad).runOk bad = false ∧ c.num 30 2 = 32767 ∧ (c.num 24 4).testBit 0 = true ∧ (c.byte 28).testBit 0 = true ∧
    r.deadline ≠ 0 ∧ r.deadline ≤ ({ s with cad := 5 } : State).cad ∧
    (let h := (List.range 8).foldl (fun (u : State) k => u.setThr k 0 { st := .halted, cause := 1 }) s
     ∀ p ∈ runTargets r, (h.thr p.1 p.2).st = .halted) := by decide +kernel

/-- A command that may start, of each kind; ABORT with a target and without, and of a queue that its partition does not hold; and commands
that have ended or stopped. -/
theorem witness_QueueCommands :
    let s := queued 0 0 1
    let w := cmdOf .waiting runWords
    let u := cmdOf .waiting [2 ^ 56 * 2]
    let m := cmdOf .waiting moveWords
    let a := cmdOf .started abortWords
    let far := cmdOf .started [2 ^ 56 * 1, 0, 0, 64]
    let d := { cmdOf .waiting [5] with id := 2 }
    (∀ c ∈ [w, u, m], (withCmd s c).cmd? 1 = some c ∧ (withCmd s c).startable c = true ∧ (withCmd s c).slotFreeCq c.queue = true ∧ (withCmd s c).engineAccepts c = true ∧ c.launchTick ≤ s.cad) ∧
    opcDefined w.opc = true ∧ s.moveChannel w = none ∧ opcDefined u.opc = false ∧ opcDefined m.opc = true ∧ s.moveChannel m = some 0 ∧
    a.opc = 0x01 ∧ (withCmd s a).abortOk a = true ∧ far.opc = 0x01 ∧ (withCmd s far).abortOk far = false ∧
    bitsOf (a.num 24 4) 19 0 = 0 ∧ a.num 28 2 = 5 ∧ d.queue = 0 ∧ d.tag = 5 ∧ d.id ≠ 1 ∧ d.phase ≠ .aborted ∧ d.phase ≠ .abortedNoSlot ∧
    (cmdOf .ended []).phase = .ended ∧ ({ cmdOf .aborted [] with stopped := true } : Cmd).stopped = true ∧ (cmdOf .abortedNoSlot []).phase = .abortedNoSlot := by decide +kernel

/-- Rings in HBM and in host memory. -/
theorem witness_CompletionRecords :
    let s := queued 0 0 1
    let h := { s with qctx := [(0, (qctx0 0 0 1).set 1 (BitVec.ofNat 64 (2 ^ 63)))] }
    s.ctxCached 0 = true ∧ (s.ctx 0).length = 8 ∧ ctxGet (s.ctx 0) cCqQueue = 0 ∧ (ctxGet (s.ctx 0) cCqBase).testBit 63 = false ∧
    s.ringReach 0 (ctxGet (s.ctx 0) cCqBase) 0 32 = true ∧ h.ringReach 0 (ctxGet (h.ctx 0) cCqBase) 0 32 = true ∧
    statusClass 0 = none ∧ s.getF F.PRT_FATAL_CLASSES 0 = 0 ∧
    h.ctxCached 0 = true ∧ (h.ctx 0).length = 8 ∧ (ctxGet (h.ctx 0) cCqBase).testBit 63 = true ∧ h.partLink 0 = some 0 := by decide +kernel
/-- The first record of a ring has PHASE 1 (R237). -/
theorem test_record_phase : outcome (exec (.completionCommit ⟨1, []⟩) (withCmd (queued 0 0 1) (cmdOf .ended [5]))) (fun u => (readLe u.hbm 0x200000 8, u.cmds, ctxGet (u.ctx 0) cCqTail)) =
    some (2 ^ 16 * 5 + 2 ^ 15, [], 1) := by decide +kernel

/-- Descriptor words: operation, source and destination space, source, destination, bytes; one line each. -/
def dsc (op ss ds src dst n : Nat) : List Word := ([2 ^ 60 * op + 2 ^ 56 * ss + 2 ^ 52 * ds, src, dst, 2 ^ 32 + n, 0, 2 ^ 32 + n, 0, 0] : List Nat).map (BitVec.ofNat 64)
def sealWords : List Word := ([2 ^ 60 * 4 + 2 ^ 52 * 2, 0, 0, 0, 0, 2 ^ 32 + 8, 0, 0] : List Nat).map (BitVec.ofNat 64)
/-- One word named by one 4-byte index, gathered to scratchpad address 0 or scattered from it by plain stores. -/
def gatherWords : List Word := ([2 ^ 60 * 2 + 2 ^ 56 * 2, 4096, 0, 2 ^ 32 + 4, 64, 2 ^ 32 + 8, 0, 0] : List Nat).map (BitVec.ofNat 64)
def scatterWords : List Word := ([2 ^ 60 * 3 + 2 ^ 52 * 2 + 2 ^ 36, 0, 4096, 2 ^ 32 + 8, 0, 2 ^ 32 + 4, 64, 0] : List Nat).map (BitVec.ofNat 64)

/-- A tile mover and a bulk channel whose next descriptor is each operation. -/
theorem witness_MoverOperations_next :
    (∀ ws ∈ [dsc 1 2 0 0 64 8, dsc 1 0 2 0 64 8, dsc 1 5 2 0 64 8, dsc 1 3 2 4096 64 8, gatherWords, scatterWords, sealWords, dsc 5 2 2 0 0 8],
      let s := { go job {} with tms := [(0, { q := [ws] })] }
      s.movHeld (.tile 0 0) = false ∧ s.movRun (.tile 0 0) = none ∧ s.movNext (.tile 0 0) = some (ws, 0)) ∧
    (let s := { withCmd job (cmdOf .running moveWords) with bulk := [(0, { cmd := some 1, addr := 0x1000, count := 1 })], hbm := writeBytes [] 0x1000 ((dsc 1 2 5 0 64 8).flatMap (fun (w : Word) => natLe 8 w.toNat)) }
     s.movHeld (.bulk 0) = false ∧ s.movRun (.bulk 0) = none ∧ s.movNext (.bulk 0) = some (dsc 1 2 5 0 64 8, 0x1000) ∧ s.fencedIn 0x1000 64 = false) := by decide +kernel
theorem witness_MoverOperations_checks :
    let s := { go ready {} with tms := [(0, { q := [] })] }
    let w := s.movWho (.tile 0 0)
    let u := s.movCounted (.tile 0 0)
    let bad := mdesc (dsc 5 2 2 0 0 8)
    let far := mdesc (dsc 1 0 0 0 0x3FFFF9 8)
    w.own = some 0 ∧ w.part = some 0 ∧ s.movReady w bad = true ∧ u.movFields w bad = false ∧ s.movReady w far = true ∧ u.movFields w far = true ∧ u.movCheck w far = false ∧ far.idxAddrs = [] ∧
    (∀ ws ∈ [dsc 1 2 0 0 0x3FFFF8 8, dsc 1 0 2 0 64 8, dsc 1 3 2 4096 64 8, gatherWords, scatterWords, sealWords],
      let d := mdesc ws
      s.movReady w d = true ∧ u.movFields w d = true ∧ u.movCheck w d = true ∧ u.anyFenced d.srcSpace d.srcAddrs = false ∧ u.anyFenced 2 (u.wordAddrs w d) = false ∧
      u.anyFenced (idxSpace d) d.idxAddrs = false ∧ eccBad (u.movHits w d []) = false) ∧
    eccBad (u.movHits w (mdesc (dsc 1 2 0 0 64 8)) [⟨.hbm 0, .uncorrectable⟩]) = true ∧ eccBad (eccOn [] true [(0x1000, 64)]) = false ∧ s.fencedIn 0x1000 64 = false ∧
    (mdesc gatherWords).srcAddrs = [] ∧ (mdesc sealWords).srcAddrs = [] ∧ (mdesc (dsc 1 2 0 0 0x3FFFF8 8)).srcAddrs = [0, 1, 2, 3, 4, 5, 6, 7] ∧ (mdesc (dsc 1 3 2 4096 64 8)).srcSpace = 3 ∧
    (let b := { withCmd ready (cmdOf .running moveWords) with bulk := [(0, { cmd := some 1, addr := 0x1000, count := 1 })] }
     let d := mdesc (dsc 1 5 2 0 64 8)
     b.movReady (b.movWho (.bulk 0)) d = true ∧ (b.movCounted (.bulk 0)).movFields (b.movWho (.bulk 0)) d = true ∧ (b.movCounted (.bulk 0)).movCheck (b.movWho (.bulk 0)) d = true ∧
     d.srcSpace = 5 ∧ d.srcAddrs ≠ []) ∧ (mdesc gatherWords).idxAddrs = [64, 65, 66, 67] ∧
    (∀ l ∈ [(mdesc (dsc 1 2 0 0 64 8)).srcAddrs, (mdesc scatterWords).srcAddrs, [64, 65, 66, 67]], ((l.map (· / 4096)).eraseDups) = [0]) := by decide +kernel
/-- A tile whose kept checksum is one more than its own does not verify. -/
theorem witness_MoverOperations_unsealed : let s := go ready {}
    ({ s with spadSum := [(0, tileSum s.spad 0 + 1)] } : State).movVerify ⟨some 0, some 0⟩ 0 [0] = false := by
  have h : (([0] : List Nat).map (· / 4096)).eraseDups = [0] := by decide +kernel
  have t : tilesOf (4096 * 0) 1 = [0] := by decide +kernel
  have e : ∀ x : Word, ¬ (x + 1 = x) := by intro x; bv_omega
  simp only [State.movVerify, h, List.all_cons, List.all_nil, Bool.and_true, Option.getD_some, State.spadVerify, t]
  simpa [spGet, spadSumKey] using e (tileSum (go ready {}).spad 0)
/-- Reads in flight within the bound: none, and 64 of a tile mover. -/
theorem witness_MoverReadsInFlight :
    let r : MovRun := { desc := dsc 1 3 2 0 0 64, isOver := false, loads := List.replicate 65 ⟨0, 64, none⟩, sent := 64 }
    ((r.loads.take r.sent).filter (fun p => p.data.isNone)).length ≤ 64 ∧ (State.movLoads (.tile 0 0) 0 r ready).1 = some r := by decide +kernel
/-- Reads of bytes 0 to 7 in tiles sealed as they stand verify, in HBM and in the mover's scratchpad. -/
theorem witness_MoverOperations_verify (s : State) : (sealed s).movVerify ⟨some 0, some 0⟩ 2 (List.range 8) = true ∧ (sealed s).movVerify ⟨some 0, some 0⟩ 0 (List.range 8) = true := by
  have h : ((List.range 8).map (· / 4096)).eraseDups = [0] := by decide +kernel
  simp only [State.movVerify, h, List.all_cons, List.all_nil, Bool.and_true]
  exact ⟨hbmVerify_sealed s 0 1 (by decide), spadVerify_sealed s 0 1 (by decide)⟩

/-- Each destination space, no fence, and each operation. -/
theorem witness_MoverTransfers :
    let s := go job {}
    (s.movWho (.tile 0 0)).own = some 0 ∧
    (∀ ds ∈ [0, 1, 2, 4, 5], let d := mdesc (dsc 1 2 ds 0 64 8)
      d.op = 1 ∧ d.srcSpace ≠ 3 ∧ d.srcSpace ≠ 5 ∧ d.dstSpace = ds ∧ d.conv = false ∧ ∀ a ∈ d.dstAddrs, s.fencedAt a = false) ∧
    (mdesc gatherWords).op = 2 ∧ (mdesc scatterWords).op = 3 ∧ (mdesc scatterWords).nop = 1 ∧ (mdesc scatterWords).srcSpace ≠ 3 ∧ (mdesc scatterWords).srcSpace ≠ 5 ∧
    (∀ a ∈ s.wordAddrs (s.movWho (.tile 0 0)) (mdesc scatterWords), s.fencedAt a = false) ∧ (mdesc sealWords).op = 4 := by decide +kernel

/-- A copy of eight bytes from HBM address 0 to scratchpad address 64 seals the tile it writes. -/
theorem test_mover_copy : ((({ go job {} with hbm := [(1, 9)] } : State).movFinish (.tile 0 0) { desc := dsc 1 2 0 0 64 8 } false).spad) = [(65, 9)] := by decide +kernel

theorem witness_MoverEnds :
    let r : MovRun := { desc := dsc 1 2 0 0 64 8 }
    let h : MovRun := { desc := dsc 1 5 0 0 64 8, isOver := false, loads := [⟨0, 64, none⟩, ⟨64, 64, none⟩], hostAt := some 0 }
    let s := { go job {} with tms := [(0, { q := [r.desc], run := some r })] }
    let b := { withCmd job (cmdOf .running moveWords) with bulk := [(0, { cmd := some 1, count := 1, run := some { r with bad := true } })], cad := 5 }
    let u := { s with tms := [(0, { q := [h.desc], run := some h })], now := 50000000 }
    let m := { withCmd job (cmdOf .started moveWords) with bulk := [(0, { cmd := some 1 })] }
    s.movRun (.tile 0 0) = some r ∧ r.isOver = true ∧ (mdesc r.desc).barrier = false ∧ (s.clu 0).waiters = [] ∧
    b.movRun (.bulk 0) = some { r with bad := true } ∧ u.movRun (.tile 0 0) = some h ∧ h.loads = [] ++ ⟨0, 64, none⟩ :: [⟨64, 64, none⟩] ∧ 50000000 + 0 ≤ u.now ∧
    (cmdOf .started moveWords).opc = 0x60 ∧ m.cmd? 1 = some (cmdOf .started moveWords) ∧ m.moveOk (cmdOf .started moveWords) = true ∧ (m.bulkCh 0).cmd = some 1 ∧
    (cmdOf .started (moveWords.take 3)).opc = 0x60 ∧ job.moveOk (cmdOf .started (moveWords.take 3)) = false ∧ (job.bulkCh 0).cmd ≠ some 1 ∧
    b.cmd? 1 = some (cmdOf .running moveWords) ∧ (cmdOf .running moveWords).deadline ≠ 0 ∧ (cmdOf .running moveWords).deadline ≤ b.cad ∧ (b.bulkCh 0).run ≠ none ∧ (job.bulkCh 0).run = none := by decide +kernel

/-! ### Solver and batch channels -/

/-- A parameter block at 0x1000, a schedule at 0x2000 and a matrix descriptor at 0x3000 of one equation; its other areas follow, the
report at 0xF000. Bytes 8 to 15 of the schedule hold `d`. -/
def solveMem (d : Nat) : Memory :=
  [(0x1000, [0x2000, 0x3000, 0x7000, 0x8000, 0, 0x9000, 0xA000, 0xF000, 0, 0, 0, 1, 0x101]), (0x2000, [0x148435342, d]), (0x2028, [2 ^ 32 + 1, 1, 1, 64, 64]), (0x2078, [256]),
   (0x3000, [0x4000, 0x5000, 0x6000, 1, 1]), (0x4000, [2 ^ 32]), (0x6000, [0x3FF0000000000000])].foldl (fun m p => writeBytes m p.1 (bytesOf p.2)) []
/-- Solver channel 0 enabled, with cluster 0 bound. -/
def solveJob (d : Nat) : State := { (job.setF F.SLV_CTRL_EN 1 0).setW .slv 0x40 1 0 with hbm := solveMem d }
def solveBlock : List Word := readWords (solveMem 0) 0x1000 16
def solveCmd (ph : CmdPhase) : Cmd := { cmdOf ph [2 ^ 56 * 0x50, 0, 5, 0x1000] with block := solveBlock }
def solving (d : Nat) (c : Cmd) (st : Nat) : State := (withCmd (solveJob d) c).setChan 0 { holder := some 1, stage := st }

/-- A solve whose checks pass, one with another digest, one of a channel that another partition holds, and one with no such schedule. -/
theorem witness_SolverCommands :
    let c := solveCmd .started
    let s := solving 0 c slvChecks
    let q := solveParams c.block
    let n := cmdOf .started [2 ^ 56 * 0x50]
    s.cmd? 1 = some c ∧ c.opc = 0x50 ∧ s.heldQueue c.queue = false ∧ s.partOfSlv 0 = some c.part ∧ (s.chan 0).holder = some 1 ∧ (s.chan 0).stage = slvChecks ∧
    s.solveCheck1 c = true ∧ s.solveCheck2 c = true ∧ s.solveCheck3 c = true ∧ c.block = s.copyBlock c ∧
    readBytes s.hbm (q.sched + 8) 16 = readBytes s.hbm (q.mat + 48) 16 ∧ readBytes (solveMem 1) (q.sched + 8) 16 ≠ readBytes (solveMem 1) (q.mat + 48) 16 ∧
    s.readFault [⟨.hbm 0x7000, .uncorrectable⟩] (s.solveReads q) = some .eccUe ∧
    (solving 0 n slvChecks).solveCheck2 n = false ∧ (s.setF F.PRT_SLV_SET_CHANNELS 0 0).partOfSlv 0 ≠ some c.part ∧
    c.isSolver = true ∧ c.deadline ≠ 0 ∧ c.deadline ≤ ({ s with cad := 5 } : State).cad ∧ c.isBatch = false ∧
    ((withCmd (solveJob 0) c).chan 0).holder = none ∧ (withCmd (solveJob 0) c).nextForChannel 0 = some c ∧
    (let d := cmdOf .started [2 ^ 56 * 0x51, 0, 0, 0x3000]
     d.opc = 0x51 ∧ isBatchCh 0 = false ∧ s.chanOk 0 0 = true ∧ s.matOk 0 0x3000 true = true) := by decide +kernel

/-- Reads in tiles sealed as they stand, of no fenced stack, meet no fault. -/
theorem readFault_sealed (s : State) (rs : List (Nat × Nat)) (hf : rs.any (fun r => s.fencedIn r.1 r.2) = false) (ha : ∀ r ∈ rs, r.1 + r.2 ≤ 65536) :
    (sealed s).readFault [] rs = none := by
  have f : rs.any (fun r => (sealed s).fencedIn r.1 r.2) = false := hf
  have v : rs.all (fun r => (sealed s).hbmVerify r.1 r.2) = true := by
    simp only [List.all_eq_true]; exact fun r hr => hbmVerify_sealed s r.1 r.2 (ha r hr)
  simp [State.readFault, f, v, eccOn, eccBad]
/-- The reads of a solve and of a DIGEST that hold their channel and meet no fault. -/
theorem witness_SolverCommands_reads :
    let c := solveCmd .started
    let s := sealed (solving 0 c slvChecks)
    s.takeIfNext 0 c = s ∧ s.readFault [] (s.solveReads (solveParams c.block)) = none ∧ s.readFault [] [(0x3000, 64), (0x4000, 8), (0x5000, 4)] = none := by
  refine ⟨?_, readFault_sealed _ _ (by decide +kernel) (by decide +kernel), readFault_sealed _ _ (by decide +kernel) (by decide +kernel)⟩
  have h : ((sealed (solving 0 (solveCmd .started) slvChecks)).chan 0).holder = some 1 := rfl
  simp [State.takeIfNext, h]

/-- One equation whose right side is zero: the solve has converged before its first iteration. -/
theorem witness_SolveEnds :
    let c := solveCmd .running
    let s0 := solving 0 c slvIterating
    let q := solveParams solveBlock
    let s := s0.setChan 0 { holder := some 1, stage := slvIterating, params := solveBlock, areas := s0.copyAreas (s0.solveRanges q none) }
    let k := s.chan 0
    let l := s.asLaunched k.areas
    let p : SolvePeers := ⟨[], [], [], [], none, none, []⟩
    k.holder = some 1 ∧ s.cmd? 1 = some c ∧ c.phase = .running ∧ k.stage = slvIterating ∧ s.heldQueue c.queue = false ∧ c.pastDeadline ({ s with cad := 4 } : State).cad = false ∧
    s.areasSame k.areas = true ∧ k.lateEarly = false ∧ k.multi = false ∧ (l.schedHdr q.sched).ranks = 1 ∧ s.launchWaits 0 = false ∧ c.digestAddr = 0 ∧
    eccBad (eccOn p.ecc true (l.solveReads q)) = false ∧ (l.warmCase q k.tau).2.1 = none ∧ (s.runSolve k p 0 false false).code = .conv := by decide +kernel

/-- One system of one equation, dense at 0x2000; and sparse, its schedule at 0x7000 and its pattern at 0x8000. -/
def denseBlock : List Nat := [0, 0x2000, 0, 0x3000, 0x4000, 0x5000, 0x6000, 64, 64, 64, 0, 2 ^ 48 + 2 ^ 32 + 1]
def sparseBlock : List Nat := [0x7000, 0x8000, 0x2000, 0x3000, 0x4000, 0x5000, 0x6000, 64, 64, 64, 0, 2 ^ 48 + 2 ^ 32 + 1]
def batchMem (blk : List Nat) (d : Nat) : Memory :=
  [(0x1000, blk), (0x2000, [0x3FF0000000000000]), (0x3000, [0x4000000000000000]), (0x7000, [0x248435342, d]), (0x7028, [2 ^ 32 + 1, 1]), (0x7078, [256]),
   (0x8000, [0x9000, 0xA000, 0, 1, 1]), (0x9000, [2 ^ 32])].foldl (fun m p => writeBytes m p.1 (bytesOf p.2)) []
/-- Batch channel 56 enabled and privileged, with cluster 0 bound. -/
def batchJob (blk : List Nat) (d : Nat) : State := { ((job.setF F.SLV_CTRL_EN 1 56).setF F.PRT_CLASS_RT_PRIV 1 0).setW .slv 0x40 1 56 with hbm := batchMem blk d }
def batchCmd (ph : CmdPhase) (opc : Nat) : Cmd :=
  { cmdOf ph [2 ^ 56 * opc + 2 ^ 48 * 56, 0, 5, 0x1000] with block := readWords (batchMem (if opc = 0x53 then sparseBlock else denseBlock) 0) 0x1000 16 }
def batching (blk : List Nat) (d : Nat) (c : Cmd) : State := (withCmd (batchJob blk d) c).setChan 56 { holder := some 1, stage := slvChecks }
def runOf (blk : List Nat) : BatchRun :=
  { id := 1, lead := 56, mask := 1, start := 0, params := readWords (batchMem blk 0) 0x1000 16, next := 1, slots := [(56, 0, 0)], free := [], ends := [], inDigest := [] }

/-- A dense and a sparse command past their checks, one with another digest, one that is no batch channel's, one without a privilege. -/
theorem witness_BatchCommands :
    let c := batchCmd .started 0x52
    let d := batchCmd .started 0x53
    let s := batching denseBlock 0 c
    let u := batching sparseBlock 0 d
    s.cmd? 1 = some c ∧ c.opc = 0x52 ∧ u.cmd? 1 = some d ∧ d.opc = 0x53 ∧ s.heldQueue c.queue = false ∧ u.heldQueue d.queue = false ∧
    s.batchMayWait c = true ∧ u.batchMayWait d = true ∧ (s.setF F.PRT_CLASS_RT_PRIV 0 0).batchMayWait c = false ∧ (s.chan 56).holder = some 1 ∧ (s.chan 56).stage = slvChecks ∧
    s.batchCheck1 c = true ∧ s.batchCheck2 c = true ∧ s.batchCheck3 c = true ∧ s.batchCheck4 c = true ∧ c.late = false ∧
    u.batchCheck1 d = true ∧ u.batchCheck2 d = true ∧ u.batchCheck3 d = true ∧ u.batchCheck4 d = true ∧ (batching sparseBlock 1 d).batchCheck4 d = false ∧
    (s.setF F.SLV_CTRL_EN 0 56).batchCheck1 c = false := by decide +kernel
theorem witness_BatchCommands_reads : let c := batchCmd .started 0x53
    let s := sealed (batching sparseBlock 0 c)
    let q := batchParams c.block
    s.readFault [] [(q.sched, (s.batchHdr q.sched).total), (q.mat, 64)] = none :=
  readFault_sealed _ _ (by decide +kernel) (by decide +kernel)

/-- A command that takes its idle channel, one that does not, a system at work, and a command whose systems have all ended. -/
theorem witness_BatchCommands_run :
    let c := batchCmd .started 0x52
    let r := batchCmd .running 0x52
    let s := withCmd (batchJob denseBlock 0) c
    let u := { batching denseBlock 0 r with batch := [runOf denseBlock] }
    let w := { runOf denseBlock with slots := [], free := [(56, 0)], ends := [(0, 0, 1, 0)] }
    let v := { batching denseBlock 0 r with batch := [w] }
    let b := batchParams (runOf denseBlock).params
    c.isBatch = true ∧ s.batchMayWait c = true ∧ s.waitChannels c = [56] ∧ ((s.offerChannel 56).chan 56).holder = some 1 ∧ ((s.offerChannel 56).chan 56).stage = slvHeld ∧
    ((s.setChan 56 { holder := some 9 }).offerChannel 56 |>.chan 56).holder ≠ some 1 ∧ s.batchSlots c = [(56, 0)] ∧
    u.cmd? 1 = some r ∧ u.batchOf 1 = some (runOf denseBlock) ∧ (runOf denseBlock).slots.find? (fun x => x.2.2 = 0) = some (56, 0, 0) ∧ u.heldQueue r.queue = false ∧
    r.pastDeadline ({ u with cad := 4 } : State).cad = false ∧ r.pastDeadline ({ u with cad := 5 } : State).cad = true ∧ u.launchWaits 56 = false ∧
    eccBad (eccOn [] true ((u.systemRanges r b 0).take 2)) = false ∧ (cmdOf .aborted []).phase = .aborted ∧
    (u.solveSystem r b 0 0 none).1 = 0 ∧ u.systemSame (runOf denseBlock) 0 = true ∧ 0x4000 + 0 * 64 + 8 * 1 ≤ 0x5000 + 2 * 0 ∧
    v.batchOf 1 = some w ∧ w.slots = [] ∧ r.digestAddr = 0 ∧ w.next = (batchParams w.params).count ∧
    (∀ e ∈ w.ends, e.2.1 ≠ 0x20) ∧ (∀ e ∈ w.ends, e.2.1 = 0) ∧ (∀ d ∈ [(4, 0x22, 0, 0), (5, 0x23, 0, 0)], d.2.1 ≠ 0 → d = (4, 0x22, 0, 0) ∨ 4 < d.1) := by decide +kernel
/-- x = 2.0 / 1.0 is written at its place, and the status entry has the solution's flag (R173, Table 07-3). -/
theorem test_batch_system : outcome (exec (.batchSystemEnd 1 ⟨0, []⟩) { batching denseBlock 0 (batchCmd .running 0x52) with batch := [runOf denseBlock], hbmSum := [] })
    (fun u => (readLe u.hbm 0x4000 8, readLe u.hbm 0x5000 2)) = some (0x4000000000000000, 0x100) := by decide +kernel

/-! ### Lichen engines and the fabric -/

/-- The same with partition 0 owned by the operating system. -/
def osReady : State := ready.setF F.PRT_OWNER_KIND 2
def oneLane (a : Nat) (fetch : Bool) (fn : BitVec 2) : NarrowReq :=
  { fn := fn, w32 := false, fetch := fetch, part := 0, lanes := 129, hit := 0, addr := List.replicate 8 (BitVec.ofNat 39 a), data := List.replicate 8 3 }

/-- Lanes 0 and 7 at the last word of HBM: legal for its function, and illegal where its address is one more, at HBM's end, or its function
is not the code's. -/
theorem witness_NarrowOperations :
    let r := oneLane 0x5BFFFFFFF8 true 0
    (∀ i, i < 8 → eccBad (laneEcc r i) = false) ∧ (∀ op ∈ [0, 2, 3, 4, 5, 6, 7, 8, 9], ready.narrowRoom r op = true) ∧ ready.narrowRoom (oneLane 0x5BFFFFFFF8 false 0) 1 = true ∧ ready.fencedAt 0x5BFFFFFFF8 = false ∧
    0x5BFFFFFFF8 % 8 = 0 ∧ ¬ (0x5BFFFFFFF9 % 8 = 0) ∧ ¬ (0x5C00000000 < 0x5C00000000) ∧ r.fn.toNat = 0 ∧ (oneLane 0 true 1).fn.toNat = 1 ∧ (oneLane 0 true 2).fn.toNat = 2 ∧
    ((15 : BitVec 4).toNat, (0 : BitVec 2).toNat) ∉ [(0, 0), (1, 0), (2, 0), (3, 0), (3, 1), (4, 0), (4, 1), (5, 0), (5, 1), (5, 2), (6, 0), (7, 0), (8, 0), (8, 1), (9, 0)] := by decide +kernel
/-- Lanes 0 and 7 add 3 twice to 5, in lane order: the second sees 8 (R198). -/
theorem test_narrow_add : outcome (exec (.narrowAdd (oneLane 8 true 0)) ready) (fun u => (u.hbm, u.out.head?)) =
    some ([(8, 11)], some (.narrow [5, 0, 0, 0, 0, 0, 0, 8] 0)) := by decide +kernel

/-- A read that misses and a full-line write; an uncorrectable line; a fenced stack; a reservation and a conditional store at it. -/
theorem witness_LinesAndReservations :
    let f := osReady.setF F.LCH_STAT_FENCED 1 0
    let u := { osReady with resv := [⟨0, 64, 0⟩], now := 9999 }
    (ready.setLichen 0 { cache := [(0, 1)] }).cacheState 0 ≠ 0 ∧ ready.cacheState 0 = 0 ∧ (0 < 0x5C00000000) ∧ ready.lichReady (stackOf 0) = true ∧ ready.fencedAt 0 = false ∧ f.fencedAt 0 = true ∧ f.lichReady (stackOf 0) = true ∧
    (lineOf 0 0 64 none).write = none ∧ (lineOf 0 0 64 none).hit = false ∧ ({ lineOf 0 0 8 none with ecc := .uncorrectable } : LineReq).ecc = .uncorrectable ∧
    (lineOf 0 0 64 (some (List.replicate 64 0))).write = some (List.replicate 64 0) ∧ (lineOf 0 0 8 none).who = .other ∧
    osReady.ovuskUnit 4096 = true ∧ osReady.lichReady (stackOf 4096) = true ∧ osReady.fencedAt 4096 = false ∧ u.reserved 0 64 = true ∧ osReady.reserved 0 64 = false ∧
    (⟨0, 64, 0⟩ : Reservation).at_ + 10000 ≤ u.now + 1 ∧ stackOf (64 * 64) = 1 := by decide +kernel

/-- A stream of one row: 5 times X. Its schedule, of 0xA000 bytes, lists one stream of each operation at 0xB000. -/
def streamWords (op : Nat) : List Nat := [2 ^ 60 * op + 2 ^ 24 * 64 + 1, 0x4000, 0x5000, if op ≤ 3 then 0x6000 else 0, 0x7000, 0x8000, if op = 2 ∨ op = 3 then 0x9000 else 0, if op = 3 then 0xA000 else 0]
def stream1 (op : Nat) : StreamReq := { ch := 0, words := (streamWords op).map (BitVec.ofNat 64) }
def streamMem : Memory :=
  [(0x2060, [0x9000]), (0x2078, [0xA000]), (0xB000, [1, 2, 3, 4, 5, 6].flatMap streamWords)].foldl (fun m p => writeBytes m p.1 (bytesOf p.2)) (solveMem 0)
def streamJob : State :=
  let s := (solving 0 (solveCmd .running) slvIterating).setChan 0 { holder := some 1, stage := slvIterating, params := solveBlock }
  { ready with hbm := streamMem, cmds := s.cmds, slv := s.slv, regs := (ready.setW .slv 0x40 1 0).regs }
theorem witness_StreamCommands :
    let s := streamJob
    let x := fun (op i : Nat) => (s.streamAddr 0 (streamW (stream1 op) i)).getD 0
    let r : LichStream := { ch := 0, cmd := 1, cluster := 0, spad := 64, y := 0x8000, vals := [1], entries := 1, finite := true }
    (s.chan 0).holder.bind s.cmd? = some (solveCmd .running) ∧ (s.chan 0).stage = slvIterating ∧ s.lichReady 0 = true ∧
    (∀ op ∈ [1, 2, 3, 4, 5, 6], s.streamListed (s.chan 0) (stream1 op).words = true ∧ s.streamOk op (stream1 op) = true ∧ s.streamOk op (stream1 (op % 6 + 1)) = false ∧
      s.streamInside 0 op 1 (x op) = true ∧ s.streamSelf op 1 (x op) = false ∧ s.streamFenced op 1 (x op) = false) ∧
    s.slotCluster 0 (bitsOf (streamW (stream1 1) 0) 55 48) = some 0 ∧ (s.lichen 0).run.length < 8 ∧ (s.lichen 0).wait = [] ∧
    8 ≤ ((s.setLichen 0 { run := List.replicate 8 r }).lichen 0).run.length ∧ ((s.setLichen 0 { run := [r] }).lichen 0).run = r :: [] ∧
    ((s.setLichen 0 { run := [r] }).lichen 0).wait = [] ∧ s.fencedIn r.y (8 * r.vals.length) = false := by decide +kernel
/-- A stream whose arrays lie in tiles sealed as they stand, of no fenced stack, meets no fault. -/
theorem streamFault_sealed (s : State) (w : WaitStream) (hf : s.streamFenced w.op w.rows w.addr = false) (ha : ∀ r ∈ s.streamArrays w.op w.rows w.addr, r.1 + r.2 ≤ 65536) :
    (sealed s).streamFault w [] = none := by
  have f : (sealed s).streamFenced w.op w.rows w.addr = false := hf
  have v : (sealed s).streamVerify w.op w.rows w.addr = true := by
    simp only [State.streamVerify, List.all_eq_true]; exact fun r hr => hbmVerify_sealed s r.1 r.2 (ha r hr)
  simp [State.streamFault, f, v, eccOn, eccBad]
def stream1W (op : Nat) : WaitStream :=
  { ch := 0, cmd := 1, op := op, rows := 1, arrays := (List.range 8).map (fun i => (streamJob.streamAddr 0 (streamW (stream1 op) i)).getD 0), cluster := 0, spad := 64 }
theorem witness_StreamCommands_reads (op : Nat) (h : op ∈ [1, 2, 3, 4, 5, 6]) : (sealed streamJob).streamFault (stream1W op) [] = none := by
  have f : ∀ op ∈ [1, 2, 3, 4, 5, 6], streamJob.streamFenced (stream1W op).op (stream1W op).rows (stream1W op).addr = false ∧
      ∀ r ∈ streamJob.streamArrays (stream1W op).op (stream1W op).rows (stream1W op).addr, r.1 + r.2 ≤ 65536 := by decide +kernel
  exact streamFault_sealed _ _ (f op h).1 (f op h).2

/-- A sector whose lane has waited 64 ns; samples below and at each limit; and a stack whose wipe runs. -/
theorem witness_StackCommands :
    let s := { ready.setLichen 0 { window := [(0, 0)] } with now := 64 }
    let u := { ready with now := 3600000000000 * ready.getF F.HBM_CTRL_SCRUB_HOURS 0 }
    (∃ l ∈ (s.lichen 0).window, l.2 + 64 ≤ s.now) ∧ 3600000000000 * u.getF F.HBM_CTRL_SCRUB_HOURS 0 + (u.lichen 0).scrubAt ≤ u.now ∧ u.lichReady 0 = true ∧ u.powered = true ∧ ready.powered = true ∧ ready.lichReady 0 = true ∧
    ready.clkOff .hbm 0 = false ∧ job.powered = true ∧ job.lichReady 0 = false ∧ job.lichReady 15 = false ∧ job.diesReady = true ∧
    (∀ m < 16, m ≠ 15 → (ready.setF F.LCH_STAT_READY 0 15).lichReady m = true) := by decide +kernel
/-- 105 degrees fences the stack, and 104 only throttles it (Table 08-9). -/
theorem test_stack_thermal :
    outcome (exec (.stackThermalSample 0 105 0) ready) (fun u => (u.getF F.HBM_STAT_TSTATE 0, u.fencedAt 0)) = some (3, true) ∧
    outcome (exec (.stackThermalSample 0 104 0) ready) (fun u => (u.getF F.HBM_STAT_TSTATE 0, u.fencedAt 0)) = some (2, false) := by decide +kernel

/-- The job of two ranks, the second at endpoint 6, with a route to it on port 3. -/
def pair : State :=
  (((((ready.setF F.HUB_JOB_RANKS_COUNT 2).setF F.HUB_RT_DATA_VALID 1 0 1).setF F.HUB_RT_DATA_EP 6 0 1).setF F.HUB_ROUTE_DATA_VALID 1 0 (routeBank 6 0)).setF
    F.HUB_ROUTE_DATA_PORT 3 0 (routeBank 6 0))
/-- A cell of rank 1 to the package's rank at offset 8. -/
def cellIn (ty op len : Nat) (pay : List Byte) : Cell :=
  cellSeal { emptyCell with type := BitVec.ofNat 4 ty, jobTag := 1, dstEp := 5, srcEp := 6, srcRank := 1, offset := 8, seq := 0, op := BitVec.ofNat 4 op, len := BitVec.ofNat 7 len, payload := pad64 pay }

/-- Each type of cell, new, and again after it has been applied. -/
theorem witness_ReceivedCells :
    let s := pair.setF F.HUB_CTRL_COMB_NS 0 0
    (∀ x ∈ [cellIn 2 0 8 (natLe 8 7), cellIn 1 0 64 [], cellIn 6 0 8 [], cellIn 3 2 8 (natLe 8 7), cellIn 4 5 8 (natLe 8 7), cellIn 5 0 8 (natLe 8 7)],
      x.dstEp.toNat = s.myEp ∧ s.slotOfTag x.jobTag.toNat = some 0 ∧ s.cellReady 0 x = true ∧ x.crc = cellE2e x ∧ s.combable (s.handlingDie 0 x) x = false ∧
      ((s.rxFlow 0 (flowOf x)).takeFloor ((2 ^ 32 + x.seq.toNat - x.floorGap.toNat) % 2 ^ 32)).isDup x.seq.toNat = false ∧
      ({ applied := [0] } : RxFlow).isDup x.seq.toNat = true ∧ s.handlingDie 0 x = 0) ∧
    s.myEp ≠ epNone ∧ s.diesReady = true ∧ (s.window 0 0).kind = 0 ∧ s.fencedAt 8 = false ∧ s.replyFree 0 = true ∧ s.selectRoute (routeKey s.myEp 6) = some 0 ∧
    (let e : ReplyEntry := { die := 0, key := flowOf (cellIn 4 5 8 []), seq := 0, value := some (0, natLe 8 7), at_ := 0 }
     ({ s with replyCache := [e] }).reply? 0 (flowOf (cellIn 4 5 8 [])) 0 = some e ∧ e.value = some (0, natLe 8 7)) := by decide +kernel
/-- A fetching minimum of 5.0e-324-sized integers is answered with the old word, which is kept (R274). -/
theorem test_atomic_cell : outcome (exec (.atomicFCell ⟨cellIn 4 1 8 (natLe 8 3), []⟩) pair) (fun u => (u.hbm, (u.replyCache.map (fun e => e.value)))) = some ([(8, 3)], [some (0, natLe 8 5)]) := by decide +kernel
/-- An uncorrectable word of the Hub faults the job and leaves an atomic unapplied; one of the stack answers a load with poison (R208, R288). -/
theorem test_cell_ecc :
    unitBad [⟨.unit, .uncorrectable⟩] = true ∧ unitBad [⟨.hbm 8, .uncorrectable⟩] = false ∧ eccBad (eccOn [⟨.hbm 8, .uncorrectable⟩] false [(8, 64)]) = true ∧
    outcome (exec (.atomicFCell ⟨cellIn 4 1 8 (natLe 8 3), [⟨.unit, .uncorrectable⟩]⟩) pair) (fun u => (u.hbm, u.getF F.HUB_ERR_ECC_UE 0, u.faulted 0)) = some ([(8, 5)], 1, true) ∧
    outcome (exec (.loadCell ⟨cellIn 1 0 8 [], [⟨.hbm 8, .uncorrectable⟩]⟩) pair) (fun u => (u.getF F.LCH_ERR_ECC_UE 0, u.getF F.HUB_ERR_ECC_UE 0,
      match u.out with | .cell 3 y :: _ => y.resp | _ => 0)) = some (1, 0, 2) := by decide +kernel

def key0 : FlowKey := { tc := 0, tag := 1, rank := 1, hub := none }
def txc (seq : Nat) (ty : BitVec 4) : TxCell :=
  { seq := seq, cell := { emptyCell with type := ty, jobTag := 1, dstEp := 6, srcEp := 5 }, owner := .thread 0 0 none, epThread := none, epCluster := none, epJob := none, key := 6, slot := 0, tries := 1, timeout := 20000, sentAt := 0 }
def sending (l : List TxCell) : State := { pair with tx := [(key0, { next := 2, cells := l })], now := 60000000000 }

theorem witness_FlowsAndLinks_cells :
    let s := sending [txc 0 1]
    s.myEp ≠ epNone ∧ (∀ r ∈ [0, 1, 2, 3], let x := cellSeal { emptyCell with type := 7, jobTag := 1, dstEp := 5, srcEp := 6, srcRank := 1, seq := 0, resp := BitVec.ofNat 3 r }
      x.type = 7 ∧ x.dstEp.toNat = s.myEp ∧ x.crc = cellE2e x ∧ (s.replyTarget x).isSome = true ∧ x.resp.toNat = r) ∧
    (let x := cellSeal { emptyCell with type := 8, jobTag := 1, dstEp := 5, srcEp := 6, srcRank := 1 }; x.type = 8 ∧ x.dstEp.toNat = s.myEp ∧ x.crc = cellE2e x ∧ s.slotOfTag x.jobTag.toNat ≠ none) ∧
    (let x := cellSeal { emptyCell with type := 9, jobTag := 1, dstEp := 5, srcEp := 6, srcRank := 1 }
     x.type = 9 ∧ x.dstEp.toNat = s.myEp ∧ x.crc = cellE2e x ∧ s.slotOfTag x.jobTag.toNat = some 0) ∧
    (let u := { s with rx := [((1, key0), { ackDue := true, srcEp := 6 })] }; (u.rxFlow 1 key0).ackDue = true ∧ u.selectRoute (routeKey u.myEp 6) = some 0) ∧
    (let u := { s with tx := [(key0, { next := 5, cells := [txc 3 2], carried := 2 })] }; (u.txFlow key0).carried < (u.txFlow key0).floor ∧ (u.txFlow key0).advancedAt + 10000 ≤ u.now) ∧
    s.txCell? key0 0 = some (txc 0 1) ∧ (txc 0 1).sentAt + (txc 0 1).timeout ≤ s.now ∧ (txc 0 1).tries < 8 ∧ (s.launchCell key0 (s.txFlow key0) (txc 0 1)).isSome = true := by decide +kernel
theorem witness_FlowsAndLinks_links :
    let s := sending []
    let e : CombEntry := { die := 1, n := 0, openedAt := 0, closed := false, target := true, cells := [] }
    let up := ((s.setF F.FAB_STAT_UP 1 19).setF F.FAB_STAT_UP 1 3).setF F.FAB_STAT_UP 1 0
    let x := { emptyCell with type := 13, dstEp := 6, route := 3 }
    ({ s with comb := [e] }).comb.find? (fun e => e.die = 1 && e.n = 0) = some e ∧ e.openedAt + s.getF F.HUB_CTRL_COMB_NS 1 ≤ s.now ∧
    s.myEp ≠ epNone ∧ up.getF F.FAB_STAT_UP 0 = 1 ∧ transitPort s.myEp x = some 0 ∧
    (let y := { emptyCell with linkSeq := 7 }; ((up.setLink 19 { sent := [y] }).link 19).sent.findIdx? (fun c => c.linkSeq = 7) = some 0) ∧
    up.getF F.FAB_STAT_UP 19 = 1 ∧ x.dstEp.toNat ≠ s.myEp ∧ x.type ≠ 0 ∧ x.type.toNat < 14 ∧ up.combable (19 / 10) x = false ∧ (transitPort s.myEp x).isSome = true ∧
    (up.link 19).replays.length / 60 ≤ 1000 * up.getF F.FAB_CTRL_RETRY_WARN 19 ∧ 16 ≤ ((up.setLink 19 { fails := 16 }).link 19).fails ∧
    s.slotOfTag x.jobTag.toNat = none ∧ (s.setF F.FAB_CTRL_EN 1 19).clkOff .fab 19 = false ∧ (s.setF F.FAB_CTRL_EN 1 19).getF F.FAB_CTRL_EN 19 = 1 ∧ s.getF F.FAB_STAT_UP 19 = 0 := by decide +kernel

/-! ### Chain and Cadence -/

/-- A Chain command of the job: operation, source, destination, count, communicator. -/
def chainCmd (opc src dst count comm : Nat) : Cmd := cmdOf .started [2 ^ 56 * opc, 0, 0, src, dst, 2 ^ 32 * comm + count]
def comm1 : Comm := { slot := 0, num := 1, ranks := [0, 1] }
def collOf (n : Nat) : Coll :=
  { slot := 0, comm := 1, seq := n, cmd := none, opc := 0x71, dtype := 0, rop := 0, count := 1, root := 0, dst := 0x2000, digestAddr := 0, ring := false, input := natLe 8 1, opDigest := 0, arrive := 0, reason := 0 }

/-- Legal and illegal commands of each kind, a communicator that is not there, and a full engine. -/
theorem witness_CollectiveCommands :
    let s := { pair with comms := [comm1] }
    let full := { s with colls := List.replicate 64 (collOf 0) }
    (∀ opc ∈ [0x70, 0x71, 0x72, 0x73, 0x74, 0x75],
      let c := chainCmd opc 0x1000 0x2000 (if opc = 0x70 then 0 else 2) 1
      let d := chainCmd opc 0x1001 0x2000 0 1
      c.phase = .started ∧ c.opc = opc ∧ (withCmd s c).cmd? 1 = some c ∧ (withCmd s c).acceptingSlot c.part = some 0 ∧ s.quiesced.contains 0 = false ∧
      (withCmd s c).comm? 0 c.comm = some comm1 ∧ comm1.ranks.findIdx? (fun r => r = s.myRank 0) = some 0 ∧ c.chainFields 2 = true ∧ (withCmd s c).chainPlaces c 2 0 = true ∧
      d.opc = opc ∧ d.chainFields 2 = false ∧ s.inflight < 64 ∧ 64 ≤ full.inflight ∧ s.comm? 0 (chainCmd opc 0 0 0 2).comm = none) := by decide +kernel
theorem witness_CollectiveCommands_control :
    let s := { pair with comms := [comm1], hbm := writeBytes [] 0x1000 (natLe 4 0 ++ natLe 4 1) }
    let c := chainCmd 0x7C 0x1000 0x100000 2 2
    let ranks := (List.range 2).map (fun i => leNat (((readBytes s.hbm 0x1000 8).drop (4 * i)).take 4))
    let f := chainCmd 0x7D 0 0 0 1
    let w := chainCmd 0x76 0 0 0 1
    c.opc = 0x7C ∧ c.chainFields 2 = true ∧ s.chainPlaces c 2 0 = true ∧ s.comm? 0 2 = none ∧ ranks = [0, 1] ∧ ranks.Nodup ∧ (∀ r ∈ ranks, r < s.getF F.HUB_JOB_RANKS_COUNT 0 0) ∧
    s.myRank 0 ∈ ranks ∧ s.comms.length < 4096 ∧ (chainCmd 0x7C 0x1000 0x100000 2 4095).comm = 4095 ∧
    f.opc = 0x7D ∧ s.comm? 0 f.comm = some comm1 ∧ f.chainFields 2 = true ∧ s.chainPlaces f 0 0 = true ∧ s.colls = [] ∧ (∃ k ∈ ({ s with colls := [collOf 0] }).colls, k.slot = 0 ∧ k.comm = f.comm) ∧
    w.opc = 0x76 ∧ s.comm? 0 w.comm = some comm1 ∧ w.chainFields 2 = true ∧ s.chainPlaces w 1 0 = true ∧
    (∃ k ∈ ({ s with colls := [collOf 0] }).colls, k.slot = 0 ∧ k.comm = w.comm ∧ seqBelow k.seq 1 = true) := by decide +kernel

/-- A cell of communicator 1 and collective 0 from rank 1, at each phase; and a collective that was committed, or last moved, long ago. -/
theorem witness_CollectiveCells :
    let cell := fun (ph : Nat) => cellSeal { emptyCell with type := if ph ≤ 3 then 10 else 11, jobTag := 1, dstEp := 5, srcEp := 6, srcRank := 1, offset := BitVec.ofNat 40 (2 ^ 28), op := BitVec.ofNat 4 ph }
    let s := { pair with comms := [comm1], colls := [collOf 0], now := 10 ^ 12 }
    (∀ ph ∈ [0, 1, 2, 3, 4, 5, 6, 7, 8], let x := cell ph
      (x.type = 10 ∨ x.type = 11) ∧ x.op.toNat = ph ∧ x.offset.toNat / 2 ^ 28 = 1 ∧ (s.receive x).1 = some ⟨0, 1, false⟩ ∧
      (({ s with rx := [((1, flowOf x), { base := 1 })] } : State).receive x).1 = some ⟨0, 1, true⟩ ∧ pair.comm? 0 1 = none ∧
      s.comm? 0 1 = some comm1 ∧ comm1.next % 256 = x.win.toNat ∧ s.colls.find? (fun q => q.slot = 0 && q.comm = 1 && q.seq % 256 = x.win.toNat) = some (collOf 0) ∧
      comm1.ranks.findIdx? (fun r => r = x.srcRank.toNat) = some 1 ∧ comm1.ranks.findIdx? (fun r => r = s.myRank 0) = some 0) ∧
    s.coll? 0 1 0 = some (collOf 0) ∧ ({ collOf 0 with committed := true } : Coll).committed = true ∧ (collOf 0).committed = false ∧
    50000 + 0 + (treeLevels 2).length * (collOf 0).m / 133 ≤ s.now ∧ 0 + 1000000 * s.getF F.CHN_CTRL_STALL_MS ≤ s.now ∧ (collOf 0).cmd = none := by decide +kernel
/-- A residue that differs, or a staging word that is uncorrectable, poisons the collective (R305). -/
theorem test_chain_checks :
    let s := { pair with comms := [comm1], colls := [collOf 0] }
    let x := cellSeal { emptyCell with type := 11, jobTag := 1, dstEp := 5, srcEp := 6, srcRank := 1, offset := BitVec.ofNat 40 (2 ^ 28), op := 5 }
    outcome (exec (.chainReady ⟨x, ⟨.clean, true⟩⟩) s) (fun u => (u.colls.map (fun k => (k.poison, k.ready)), u.getF F.CHN_ERR_RESIDUE 1, u.getF F.CHN_ERR_ECC_UE 1)) = some ([(true, true)], 1, 0) ∧
    outcome (exec (.chainReady ⟨x, ⟨.uncorrectable, false⟩⟩) s) (fun u => (u.colls.map (fun k => k.poison), u.getF F.CHN_ERR_RESIDUE 1, u.getF F.CHN_ERR_ECC_UE 1)) = some ([true], 0, 1) := by decide +kernel
/-- R302: in a tree of 17 members, 16 is the first member's child on the second level, and 17's first level under it is empty. -/
theorem test_tree : treeKids 0 17 = [1, 2, 3, 4, 5, 6, 7, 8, 9, 10, 11, 12, 13, 14, 15, 16] ∧ treeKids 16 18 = [17] ∧ treeParent 0x120 = 0x100 ∧ (16 : Nat) < 17 ∧ (0 : Nat) < 16 := by decide +kernel
/-- An integer sum wraps; the FP64 identity of a minimum is the infinity (R303). -/
theorem test_rop : ropNode 2 0 (2 ^ 64 - 1) 1 = (0, false) ∧ ropNode 2 1 (2 ^ 64 - 1) 1 = (2 ^ 64 - 1, false) ∧ ropNode 3 1 (2 ^ 64 - 1) 1 = (1, false) := by decide +kernel

/-- A grandmaster on port 0, within and beyond 1 µs and 1 ms, with a job and without; a parent on port 3; a source and all sources lost. -/
def timed (cad : Nat) (s : State) : State :=
  { (((s.setF F.FIO_CTRL_PORT_EN 1).setF F.FIO_STAT_LINK 1).setF F.CAD_CTRL_SRC_EN 15) with cad := cad }
theorem witness_TimeSources :
    let s := timed 2000000 live
    let c := (((timed 0 pair).setF F.CAD_PARENT_VALID 1).setF F.CAD_PARENT_PORT 3).setF F.FAB_STAT_UP 1 3
    s.powered = true ∧ s.getF F.CAD_PTP_PORT = 0 ∧ (s.getF F.FIO_CTRL_PORT_EN).testBit 0 = true ∧ (s.getF F.FIO_STAT_LINK).testBit 0 = true ∧ (s.getF F.CAD_CTRL_SRC_EN).testBit 0 = true ∧
    s.anyAccepting = false ∧ (1000 : Int) < 2001001 - 2000000 ∧ (1998999 : Int) - 2000000 < -1000 ∧ (timed 2000000 pair).anyAccepting = true ∧ ((3000000 : Int) - 2000000).natAbs ≤ 1000000 ∧
    1000000 < ((3000001 : Int) - 2000000).natAbs ∧ c.hasParent = true ∧ c.getF F.FAB_STAT_UP (c.getF F.CAD_PARENT_PORT) = 1 ∧ c.time.exchAt = none ∧
    ((s.setF F.CAD_STAT_PRESENT 4).getF F.CAD_STAT_PRESENT).testBit 2 = true ∧
    (let u := { s with time := { s.time with lostAt := some 0, everLocked := true }, now := 2000000000 }
     u.time.lostAt = some 0 ∧ 0 + 2000000000 ≤ u.now ∧ (u.setF F.CAD_STAT_STATE timeLocked).timeStat ≠ timeFree ∧ (u.setF F.CAD_STAT_STATE timeLocked).timeStat ≠ timeHoldover) := by decide +kernel
/-- A source 1,001 ns ahead steps the counter where no job runs, and one 1,000 ns ahead slews it (R321). -/
theorem test_ptp : outcome (exec (.ptpMessage ⟨0, 2001001, 37⟩) (timed 2000000 live)) (fun u => (u.cad, u.time.slew)) = some (2001001, 0) ∧
    outcome (exec (.ptpMessage ⟨0, 2001000, 37⟩) (timed 2000000 live)) (fun u => (u.cad, u.time.slew)) = some (2000000, 1000) := by decide +kernel
theorem witness_TimeEdges :
    let s := (timed 1000001001 live).setF F.CAD_STAT_STATE timeLocked
    s.powered = true ∧ (s.getF F.CAD_CTRL_SRC_EN).testBit 2 = true ∧ s.timeStat = timeLocked ∧ s.getF F.CAD_PPS_IN_DELAY_NS = 0 ∧ 1000 < (-(1001 : Int)).natAbs ∧ ¬ (1000 < (-(1000 : Int)).natAbs) ∧
    (s.setF F.CAD_CTRL_PPS_OUT_EN 1).getF F.CAD_CTRL_PPS_OUT_EN = 1 ∧ toSigned 32 (s.getF F.CAD_PPS_OUT_ADJ_NS) = 0 ∧ s.time.ppsSec ≠ some 1 ∧ (s.getF F.CAD_CTRL_SRC_EN).testBit 3 = true := by decide +kernel

/-- Words of a STEP of slot 0 to 7, whose digest is at 0x1000. -/
def stepWords : List Nat := [2 ^ 56 * 0x68, 0, 0, 7, 0x1000, 0]
theorem witness_StepCommand :
    let c := cmdOf .started stepWords
    let d := cmdOf .started (stepWords.take 3)
    (withCmd job c).cmd? 1 = some c ∧ c.opc = 0x68 ∧ (withCmd job c).stepOk c = true ∧ (withCmd job d).cmd? 1 = some d ∧ d.opc = 0x68 ∧ (withCmd job d).stepOk d = false ∧ c.byte 40 = 0 ∧ c.num 24 8 = 7 := by decide +kernel
/-- An uncorrectable word of the step log faults the jobs in ACCEPTING, and the STEP does not end (R338). -/
theorem test_step_ecc : outcome (exec (.step ⟨1, [⟨.unit, .uncorrectable⟩]⟩) (withCmd job (cmdOf .started stepWords)))
    (fun u => (u.getF F.CAD_ERR_ECC_UE, u.faulted 0, u.getF F.CAD_STEP_STEP 0 0)) = some (1, true, 0) := by decide +kernel

/-! ### Field I/O and register writes -/

/-- Streams of each kind at port 0: a C37.118 stream of one block, sampled values of one pair, and telemetry of two components. -/
def stC37 : FioStream := { kind := 1, ports := 1, id := 7, srcIp := 0, sourceId := 0, first := 0, count := 2, comps := 2, layout := [(0, 0, 0, 0)], rate := 0, timeBase := 1000000, mac := 0 }
def stSv : FioStream := { stC37 with kind := 2, comps := 1, rate := 4000, mac := 9 }
def stTel : FioStream := { stC37 with kind := 3, sourceId := 5, srcIp := 3 }
def fio (l : List FioStream) : State := { ((timed 2000000 pair).setF F.FIO_CTRL_EN 1).setF F.FIO_UDP_PORT_PORT 4242 with fio := { streams := l } }
def packet (bs : List Byte) : FieldPacket := ⟨0, BitVec.ofNat 48 (2 ^ 48 - 1), 3, 4242, bs, []⟩
def c37Bytes : List Byte := let b : List Byte := [0xAA, 1, 0, 22, 0, 7, 0, 0, 0, 1, 0, 0, 0, 0, 0, 0, 0, 5, 0, 0]; b ++ (natLe 2 (crcCcitt b)).reverse
def telBytes : List Byte := let b := natLe 2 0xC5A1 ++ natLe 2 1 ++ natLe 4 5 ++ natLe 8 0 ++ natLe 4 1 ++ natLe 4 1 ++ natLe 8 0 ++ natLe 8 0x3FF0000000000000; b ++ natLe 4 (crc32c b)

/-- A frame and a record that the second stream claims, and what no stream, a disabled unit and a closed port drop. -/
theorem witness_FieldRecords :
    let s := fio [stSv, stC37]
    let u := fio [stC37, stTel]
    let p := packet c37Bytes
    let q := packet telBytes
    let d := c37Bytes
    let e := telBytes
    let a : SampledAsdu := ⟨0, 9, 7, 1, 1, [(5, 0)], []⟩
    s.portOpen 0 = true ∧ s.fioOn = true ∧ s.macOk p = true ∧ live.fioOn = false ∧ s.fio.streams = [stSv] ++ stC37 :: [] ∧
    (stC37.kind = 1 && testBit stC37.ports 0 && stC37.id = beNat ((d.drop 4).take 2) && stC37.srcIp = 0) = true ∧ (decide (stSv.kind = 1)) = false ∧
    16 + stC37.layout.foldl (fun a b => a + pmuBytes b) 0 = 22 ∧ beNat (d.take 1) = 0xAA ∧ beNat ((d.drop 1).take 1) = 1 ∧ beNat ((d.drop 2).take 2) = 22 ∧ d.length = 22 ∧
    beNat ((d.drop 20).take 2) = crcCcitt (d.take 20) ∧
    u.macOk q = true ∧ u.fio.streams = [stC37] ++ stTel :: [] ∧ (stTel.kind = 3 && testBit stTel.ports 0 && stTel.sourceId = leNat ((e.drop 4).take 4) && stTel.srcIp = 3) = true ∧
    q.dstUdp.toNat = u.getF F.FIO_UDP_PORT_PORT ∧ leNat (e.take 2) = 0xC5A1 ∧ leNat ((e.drop 2).take 1) = 1 ∧ leNat ((e.drop 20).take 4) = 1 ∧ e.length = 36 + 8 * 1 ∧
    leNat ((e.drop 40).take 4) = crc32c (e.take 40) ∧ leNat ((e.drop 16).take 4) + 1 ≤ stTel.comps ∧
    (stSv.kind = 2 && testBit stSv.ports 0 && stSv.id = a.appid.toNat && stSv.mac = a.dstMac.toNat) = true ∧ a.pairs.length = stSv.comps ∧
    s.powered = true ∧ (s.getF F.FIO_CTRL_PORT_EN).testBit 0 = true ∧ (s.getF F.FIO_STAT_LINK).testBit 0 = true := by decide +kernel

/-- A record at each place: misaligned by one tick more than the tolerance, of no cut frame, one tick early, at the window's end, and in it. -/
theorem witness_RecordTimes :
    let v : FioWin := { k := 0, start := 0 }
    let f := fun (cad : Nat) => { (fio [stC37]).setF F.FIO_STAT_STATE fioOpen with cad := cad, time := { frameNext := some 1 }, fio := { streams := [stC37], wins := [v] } }
    let s := f 0
    let tol := s.getF F.FIO_ALIGN_TOL_NS
    let w := s.getF F.FIO_WINDOW_NS
    s.time.frameNext ≠ none ∧ s.nearestFrame 0 = 0 ∧ s.frameTick 0 = 0 ∧ s.nearestFrame (tol + 1) = 0 ∧ tol < tol + 1 - 0 ∧ s.fio.f0 ≤ 0 ∧ (0 - s.fio.f0) % max 1 (s.getF F.FIO_CUT_PERIOD_P) = 0 ∧
    ¬ (({ s.fio with f0 := 1 } : FioState).f0 ≤ 0) ∧ (let u := f (s.frameTick 1 - 1); u.cad < u.frameTick 1) ∧ 0 + w ≤ (f w).cad ∧ 0 < w ∧ 0 ≤ s.cad ∧ s.cad < 0 + w ∧ s.fio.wins.find? (fun w => !w.filling && w.start = 0) = some v ∧
    s.slotState s.fioSlot = slotAccepting := by decide +kernel

def pub0 : FioPub := { offset := 10, src := 0x1000, count := 1, ports := 1, dstUdp := 1, dstIp := 1, dstMac := 1, srcUdp := 1, gate := [] }
/-- A frame whose tick has come, a window that ends, a fill with no ingest queue and with one, and publications of each outcome. -/
theorem witness_FieldFrames :
    let s := { ready with regs := ((fio [stC37]).setF F.CAD_CTRL_FRAME_EN 1).regs, fio := { streams := [stC37] }, time := { frameNext := some 0 } }
    let s := (List.range 16).foldl (fun u st => u.setF F.LCH_STAT_READY 1 st) s
    let v : FioWin := { k := 0, start := 0 }
    let o := { s with fio := { s.fio with wins := [v] }, cad := s.getF F.FIO_WINDOW_NS }
    let f := { s.setF F.FIO_INGEST_Q_QUEUE 64 with fio := { s.fio with wins := [{ v with filling := true }] } }
    let q := { f.setF F.FIO_INGEST_Q_QUEUE 0 with qctx := [(0, qctx0 0 0 1)] }
    let p := { s with fio := { s.fio with pubs := [pub0], due := [(0, 3, 0)] }, cad := 10 }
    s.time.frameNext = some 0 ∧ s.getF F.CAD_CTRL_FRAME_EN = 1 ∧ s.frameTick 0 ≤ s.cad ∧ s.fioOn = true ∧ s.fio.f0 ≤ 0 ∧ (0 - s.fio.f0) % max 1 (s.getF F.FIO_CUT_PERIOD_P) = 0 ∧
    s.slotState s.fioSlot = slotAccepting ∧ o.fio.wins.find? (fun w => !w.filling) = some v ∧ v.start + o.getF F.FIO_WINDOW_NS ≤ o.cad ∧
    f.fio.wins.find? (fun w => w.filling) = some { v with filling := true } ∧ f.slotState f.fioSlot = slotAccepting ∧ f.mapCount = 1 ∧ f.mapBase = 0 ∧
    f.stacksReady f.mapBase 16 = true ∧ f.stacksReady (f.bankAddr 0) 16 = true ∧ f.fencedIn (f.bankAddr 0) 16 = false ∧ (f.fillEntry { v with filling := true } 0).1.length = 16 ∧
    f.partOfQueue 64 = none ∧ q.partOfQueue 0 = some 0 ∧ q.fioPart = some 0 ∧ q.slotFreeCq 0 = true ∧
    p.fio.due.find? (fun d => d.1 = 0) = some (0, 3, 0) ∧ p.fio.pubs[0]? = some pub0 ∧ p.fioOn = true ∧ 0 + pub0.offset ≤ p.cad ∧ p.stacksReady pub0.src 8 = true ∧ p.slotState p.fioSlot = slotAccepting ∧
    p.faulted p.fioSlot = false ∧ (p.sp p.fioSlot).restoring = false ∧ p.gateFail pub0.gate 0 10 = none ∧ p.gateFail [2 ^ 63] 0 10 ≠ none ∧
    eccBad (eccOn [⟨.hbm 0x1000, .uncorrectable⟩] true [(pub0.src, 8 * pub0.count)]) = true ∧
    ({ p with regs := State.reset.regs } : State).slotState 0 ≠ slotAccepting := by decide +kernel
theorem witness_FieldFrames_verify (s : State) : (sealed s).hbmVerify 0 (16 * 1) = true ∧ (sealed s).hbmVerify 0x1000 (8 * 1) = true :=
  ⟨hbmVerify_sealed s 0 16 (by decide), hbmVerify_sealed s 0x1000 8 (by decide)⟩

/-- Writes by management firmware of a register that is, one that is not and one of no page; a stopped clock with 15 and with 16 writes held;
and held writes with the clock running. -/
theorem witness_RegisterWrites :
    let s := job
    let o : Origin := .mgmt false
    let a := regAddr .clu 0 0x10
    let off := s.setF F.PRT_CLU_GROUPS_GROUPS 0 0
    let h : HeldWrite := { origin := o, addr := a, place := s.regPlace o .clu 0 0x10, written := 1, value := 1 }
    let t := s.seenBy o .clu 0
    s.serves o = true ∧ pageAt 0xFFFF000 = none ∧ pageAt a = some (.clu, 0, 0x10) ∧ regRows .clu 0 0x10 ≠ [] ∧ regRows .clu 0 0xFF8 = [] ∧ s.reaches o .clu 0 0x10 = true ∧
    s.mayWrite o .clu 0 0x10 1 = true ∧ s.blocked o .clu 0x10 = false ∧ s.mustHold .clu 0 0x10 = false ∧ t.mayWrite o .clu 0 0x10 1 = true ∧ t.blocked o .clu 0x10 = false ∧
    ((off.seenBy o .clu 0).mayWrite o .clu 0 0x10 1 = true) ∧ (off.seenBy o .clu 0).blocked o .clu 0x10 = false ∧ spGet [] ({ s with holds := [(a / 4096, [h])] } : State).holds (a / 4096) = [h] ∧ s.reaches (.host 1) .clu 0 0x10 = false ∧ s.serves (.host 1) = false ∧
    off.mustHold .clu 0 0x10 = true ∧ off.reaches o .clu 0 0x10 = true ∧ (List.replicate 15 h).length < 16 ∧ 16 ≤ (List.replicate 16 h).length ∧
    pageAt (4096 * (a / 4096)) = some (.clu, 0, 0) ∧ s.clkOff .clu 0 = false ∧ spGet [] s.holds (a / 4096) = [] ∧ h.addr % 4096 ≠ 0x20 ∧ (∀ r ∈ regRows .clu 0 0x10, r.acc ≠ .wo) ∧ a % 8 = 0 ∧ (a + 1) % 8 ≠ 0 ∧
    (4 : BitVec 8) ≠ 8 := by decide +kernel
theorem witness_DigestReads :
    let s := job
    let o : Origin := .mgmt false
    pageAt (0x38 + 4096 * (regAddr .clu 0 0 / 4096)) = some (.clu, 0, 0x38) ∧ s.serves o = true ∧ s.canSee o .clu 0 = true ∧ spGet [] s.holds (regAddr .clu 0 0 / 4096) = [] ∧
    s.serves (.os 0) = true ∧ s.canSee (.os 0) .clu 0 = false ∧ s.canSee o .glb 0 = true ∧ s.ownSlot o (s.selSlot o .glb) = true := by decide +kernel
/-- Each register's write is taken, from management firmware, and of the slot's EN from fabric management, which started the job. -/
theorem witness_EngineRegisterWrites :
    let s := job
    let o : Origin := .mgmt false
    (∀ x ∈ [(Block.clu, 0, 0x40, (1 : Word)), (.clu, 0, 0x40, 256), (.slv, 0, 0x40, 1), (.slv, 0, 0x58, 1), (.slv, 0, 0x60, 1), (.mov, 0, 0x10, 1), (.mov, 0, 0x10, 2), (.cad, 0, 0x10, 1), (.fio, 0, 0x10, 1), (.pwr, 0, 0x40, 1)],
      s.serves o = true ∧ s.reaches o x.1 x.2.1 x.2.2.1 = true ∧ s.mayWrite o x.1 x.2.1 x.2.2.1 x.2.2.2 = true ∧ s.blocked o x.1 x.2.2.1 = false ∧ s.mustHold x.1 x.2.1 x.2.2.1 = false) ∧
    s.serves .fabric = true ∧ s.reaches .fabric .spo 0 0x48 = true ∧ s.mayWrite .fabric .spo 0 0x48 1 = true ∧ s.blocked .fabric .spo 0x48 = false ∧ s.mustHold .spo 0 0x48 = false ∧
    (let q := s.setF F.QMG_STAT_READY 1; q.serves o = true ∧ q.reaches o .qmg 0 0x50 = true ∧ q.mayWrite o .qmg 0 0x50 1 = true ∧ q.blocked o .qmg 0x50 = false ∧ q.mustHold .qmg 0 0x50 = false ∧
      (∀ p, q.originPart o = some p → q.prtQueue p 0 = true)) ∧
    (s.clu 0).wiping = false ∧ (s.clu 1).wiping = true ∧ (s.regW .mov 0x10 0).getLsbD 0 = false ∧ s.getF F.CAD_CTRL_FRAME_EN = 0 ∧ (s.setF F.CAD_CTRL_FRAME_EN 1).getF F.CAD_CTRL_FRAME_EN = 1 ∧
    (s.setF F.CAD_STAT_STATE timeLocked).timeStat = timeLocked ∧ s.timeStat ≠ timeLocked ∧ s.timeStat ≠ timeHoldover ∧ s.fioOn = false ∧ (fio []).fioOn = true := by decide +kernel
/-- A one written to a reserved bit is clamped to zero, and the audit entry has both values (R7, R438). -/
theorem test_audit : outcome (exec (.registerWrite (.mgmt false) (BitVec.ofNat 28 (regAddr .pwr 0 0x10)) 1) live) (fun u => u.aud.entries.map (fun e => (e.old, e.written, e.applied, e.offset, e.flags))) =
    some [(0, 1, 0, 0x10, 1)] := by decide +kernel

/-! ### Jobs and Spore -/

/-- A slot in LOADING whose job meets R362: launch after the broadcast, and window 255 onto its image. -/
def loadable : State :=
  let s := (((job.setF F.HUB_JOB_CTL_STATE slotLoading).setF F.GLB_LAUNCH_TICK_TICK 9).setF F.HUB_WIN_DATA0_VALID 1 0 255).setF F.HUB_WIN_DATA0_PERM 15 0 255
  s.setF F.HUB_WIN_DATA1_SIZE 0x1000000000 0 255
def writes (s : State) (o : Origin) (b : Block) (inst off : Nat) (v : Word) : Bool :=
  s.serves o && s.reaches o b inst off && s.mayWrite o b inst off v && !s.blocked o b off && !s.mustHold b inst off

/-- A free slot, one in LOADING that may and one that may not enter ACCEPTING, one beside a teardown, and one in each other state. -/
theorem witness_JobControlWrites :
    let o : Origin := .fabric
    let s := loadable
    let t2 := s.setF F.HUB_JOB_CTL_TAG 1
    let leave := (((s.setF F.HUB_JOB_CTL_STATE slotDraining 0 1).setF F.GLB_SLOT_CFG_NAMED 1 0 1))
    writes job o .hub 0 0x58 0 = true ∧ writes s o .hub 0 0x58 (BitVec.ofNat 64 (2 ^ 60 * 2)) = true ∧ job.selSlot o .hub = 0 ∧ live.slotState 0 = slotFree ∧ live.tagOk 0 0xFFFE = true ∧ live.tagOk 0 0xFFFF = false ∧
    writes live o .hub 0 0x58 (BitVec.ofNat 64 (2 ^ 60 * 2)) = true ∧
    s.slotState 0 = slotLoading ∧ t2.acceptOk 0 = true ∧ t2.slotPart 0 = some 0 ∧ t2.otherSlot 0 0 isLeaveState = false ∧ leave.otherSlot 0 0 isLeaveState = true ∧ leave.acceptOk 0 = true ∧
    (job.setF F.HUB_JOB_CTL_STATE slotLoading).acceptOk 0 = false ∧ job.slotState 0 = slotAccepting ∧ job.applying = false ∧ (job.setF F.HUB_JOB_CTL_STATE slotWiping).slotState 0 = slotWiping ∧
    ({ job with mgmt := { job.mgmt with upd := some { iface := 0, applying := true } } } : State).applying = true ∧
    (let n := s.setF F.GLB_SLOT_CFG_NAMED 0; n.nameable 0 0 = true ∧ n.nameable 0 1 = false ∧ writes n o .glb 0 0x48 0 = true) := by decide +kernel

/-- A teardown with a cell unacknowledged before and at 5 ms, a wipe whose clusters are wiped, and a slot that waits for it. -/
theorem witness_JobTeardown :
    let d := { job.setF F.HUB_JOB_CTL_STATE slotDraining with tx := [(key0, { cells := [txc 0 1] })], now := 4999999 }
    let w := { job.setF F.HUB_JOB_CTL_STATE slotWiping with clus := (List.range 256).map (fun c => (c, { wiping := false })) }
    d.slotState 0 = slotDraining ∧ (∃ e ∈ d.tx, e.1.tag.toNat = d.slotTag 0 ∧ (e.2.cells ≠ [] ∨ e.2.queue ≠ [])) ∧ d.now < 5000000 + (d.jobX 0).drainAt ∧
    5000000 + (d.jobX 0).drainAt ≤ d.now + 1 ∧ w.slotState 0 = slotWiping ∧ (w.jobX 0).wipeFailed = false ∧ (∀ c ∈ w.jobClusters 0, (w.clu c).wiping = false) ∧
    w.getF F.GLB_REPORT_EP_EP 0 0 = epNone ∧ slotNums.filter (fun i => i ≠ 0 && (w.jobX i).pend && w.slotPart i = w.slotPart 0) = [] ∧
    (let v := ((w.setF F.GLB_SLOT_CFG_NAMED 1 0 1).setF F.HUB_JOB_CTL_STATE slotLoading 0 1).setJobX 1 { pend := true }
     slotNums.filter (fun i => i ≠ 0 && (v.jobX i).pend && v.slotPart i = v.slotPart 0) = [1]) := by decide +kernel

/-- A root and a member at each point of the broadcast, at 5 ms less one and at 5 ms; segment 1 of all zeros agrees with no digest. -/
def fronds (parent : Nat) : State := (((job.setF F.GLB_STAGE_STAGE stageFronding).setF F.GLB_FROND_SEGS_S 2).setF F.GLB_FROND_TREE_PARENT_VALID parent).setJobX 0 { started := true }
theorem witness_FrondCommands :
    let s := fronds 0
    let m := (fronds 1).setJobX 0 { started := true, polling := true }
    let seg := (fronds 1).setJobX 0 { started := true, fetch := [⟨0, 112, [(0, List.replicate 64 0), (1, List.replicate 48 0)]⟩] }
    job.slotState 0 = slotAccepting ∧ (job.setF F.GLB_STAGE_STAGE stageFronding).stage 0 = stageFronding ∧ (job.jobX 0).started = false ∧ job.getF F.GLB_FROND_TICK_TICK 0 0 ≤ job.cad ∧
    s.fronding 0 = true ∧ s.isRoot 0 = true ∧ m.fronding 0 = true ∧ m.isRoot 0 = false ∧ (m.jobX 0).srcHeld ≤ (m.jobX 0).next ∧ (m.jobX 0).next < m.frondSegs 0 ∧ (m.jobX 0).polling = true ∧
    5000000 + (m.jobX 0).lastReply ≤ ({ m with now := 5000000 } : State).now ∧ m.now < 5000000 + (m.jobX 0).lastReply ∧
    s.held 0 = 0 ∧ s.held 0 < s.frondSegs 0 ∧ (seg.segData 0 0).isSome = true ∧ seg.indexOk 0 ((seg.segData 0 0).getD []) = false ∧ (s.setF F.GLB_FROND_STAT_HELD 1).held 0 = 1 ∧
    1 ∉ (s.jobX 0).again ∧ 1 ∈ ((s.setJobX 0 { started := true, again := [1] }).jobX 0).again := by decide +kernel
/-- A consistent segment 0 of one program segment and none of weights, its digests the slot's, agrees (R363). -/
theorem witness_FrondCommands_good :
    let idx := natLe 4 0x46524E44 ++ natLe 4 1 ++ natLe 4 0 ++ natLe 4 0 ++ natLe 8 64 ++ natLe 8 0 ++ List.replicate 32 0 ++ List.replicate 48 1
    let put := fun (s : State) (off : Nat) (l : List Byte) => (List.range 6).foldl (fun (u : State) i => u.setW .cad (off + 8 * i) (BitVec.ofNat 64 (leNat ((l.drop (8 * i)).take 8))) 0 0) s
    let s := put (put (fronds 0) 0xD8 (sha384 (List.replicate 48 1))) 0x108 (sha384 [])
    s.indexOk 0 idx = true := by decide +kernel

theorem witness_LaunchCommands :
    let s := (fronds 0).setF F.GLB_FROND_STAT_HELD 2
    let b := (((job.setF F.GLB_STAGE_STAGE stageBarrier).setJobX 0 { passed := true }).setF F.GLB_SLOT_CFG_CLU_GROUPS 1)
    let r := job.setF F.GLB_STAGE_STAGE stageRunning
    s.fronding 0 = true ∧ s.held 0 = s.frondSegs 0 ∧ s.inflight < 64 ∧ b.slotState 0 = slotAccepting ∧ b.stage 0 = stageBarrier ∧ (b.jobX 0).passed = true ∧ (b.sp 0).restoring = false ∧
    b.getF F.GLB_LAUNCH_TICK_TICK 0 0 ≤ b.cad ∧ b.frondBase 0 = 0 ∧ r.slotState 0 = slotAccepting ∧ r.stage 0 = stageRunning ∧ 0 ∉ r.quiesced ∧
    r.getF F.GLB_LAUNCH_TICK_TICK 0 0 + (r.jobX 0).checks * (1000000 * r.getF F.GLB_SWEEP_MS 0 0) ≤ r.cad ∧ b.jobClusters 0 = [0, 1, 2, 3, 4, 5, 6, 7] ∧ (b.clu 0).wiping = false ∧ (b.thr 0 0).st = .off := by decide +kernel
/-- The 64 tiles of segment 1 sealed as they stand verify. -/
theorem witness_LaunchCommands_verify (s : State) : ({ s with hbmSum := (List.range' 1024 64).map (fun t => (t, tileSum s.hbm t)) } : State).hbmVerify 0x400000 0x40000 = true := by
  simp only [State.hbmVerify]
  have h : tilesOf 0x400000 0x40000 = List.range' 1024 64 := by decide
  rw [h]; simp [List.range', spGet]

/-- The launch copy covers the 64 tiles of its 256 KiB and their checksum words, and no more. -/
theorem test_launch_ecc : eccBad (eccOn [⟨.sum 0x43FFFF, .uncorrectable⟩] true [(0x400000, 0x40000)]) = true ∧
    eccOn [⟨.hbm 0x440000, .uncorrectable⟩] true [(0x400000, 0x40000)] = [] := by decide +kernel

/-- A root with a message of its own of each kind, in the stage in which it is due; and a member of two children. -/
def spore (x : SporeSlot) : State := (((job.setF F.GLB_STAGE_STAGE stageRunning).setF F.SPO_SLOT_CTRL_EN 1).setF F.SPO_GEN_LAST_GEN 4).setSp 0 x
def msg (kind gen : Nat) : SporeMsg := { kind := kind, flags := 0, cause := 0, count := 1, gen := gen, tick := 0, key := 0, value := 7, cost := 0, copy := 0 }
theorem witness_SporeRequests :
    let s := spore {}
    let c := cmdOf .started [2 ^ 56 * 0x69]
    let p := ((s.setF F.SPO_INTERVAL_MS 1).setF F.SPO_SLOT_CTRL_TRIG_EN 1)
    let late := { p with cad := 1000000 }
    let k := (s.setF F.GLB_FROND_TREE_KIDS 16)
    s.isRoot 0 = true ∧ (s.setSp 0 { s.sp 0 with held := true }).canAnnounce 0 = true ∧ c.opc = 0x69 ∧ (withCmd s c).cmd? 1 = some c ∧ c.byte 24 = 0 ∧ c.num 25 39 = 0 ∧ s.slotPart 0 = some c.part ∧
    s.getF F.SPO_SLOT_CTRL_EN 0 0 ≠ 0 ∧ job.getF F.SPO_SLOT_CTRL_EN 0 0 = 0 ∧ s.sporeLive 0 = true ∧ s.stage 0 = stageRunning ∧ p.getF F.SPO_INTERVAL_MS 0 0 ≠ 0 ∧ p.getF F.SPO_INTERVAL_AUTO 0 0 = 0 ∧
    (late.sp 0).lastResume + 1000000 * late.getF F.SPO_INTERVAL_MS 0 0 ≤ late.cad ∧ (p.getF F.SPO_SLOT_CTRL_TRIG_EN 0 0).testBit 0 = true ∧ ((s.setF F.SPO_SLOT_CTRL_TRIG_EN 2).getF F.SPO_SLOT_CTRL_TRIG_EN 0 0).testBit 0 = false ∧
    (k.kids 0).length = 16 ∧ readByte (writeByte k.hbm (0x800 + 64 * 15) 0x01) (0x800 + 64 * 15) = 0x01 ∧
    (spore { down := some (msg 0x02 5) }).downMsg 0 0x02 = some (msg 0x02 5) ∧ (s.sp 0).stage = 0 ∧ (s.sp 0).restoring = false ∧
    (∀ kind ∈ [0x03, 0x05, 0x07, 0x0A, 0x0C, 0x0E], (SporeMsg.ofBytes (msg kind 4).bytes).kind = kind ∧ (SporeMsg.ofBytes (msg kind 4).bytes).gen = s.curGen 0) := by decide +kernel

/-- The stages of a pause: Q has come, the drain is done, and its time is out; CAPTURE and RESUME; and silence before and at WAVE.MS. -/
theorem witness_SnapshotPause :
    let q := spore { stage := 1 }
    let d := spore { stage := 2 }
    let t := { d with cad := 1000000 * d.getF F.SPO_DRAIN_MS 0 0 + 1 }
    let w := (spore { stage := 2, upAt := some 0 }).setF F.GLB_FROND_TREE_PARENT_VALID 1
    q.sporeLive 0 = true ∧ (q.sp 0).stage = 1 ∧ q.getF F.SPO_Q_TICK_TICK 0 0 ≤ q.cad ∧ q.quiesced = [] ∧ q.fioOn = false ∧
    (d.sp 0).stage = 2 ∧ (d.sp 0).mine = none ∧ (d.sp 0).upAt = none ∧ d.drained 0 = true ∧ d.colls = [] ∧ (∃ k ∈ [{ collOf 0 with poison := true }], k.slot = 0 ∧ k.poison = true) ∧
    t.getF F.SPO_QUIESCE_TICK_TICK 0 0 + 1000000 * t.getF F.SPO_DRAIN_MS 0 0 < t.cad ∧
    (spore { stage := 2, upAt := some 0, down := some (msg 0x04 4) }).downMsg 0 0x04 = some (msg 0x04 4) ∧ (spore { stage := 3 }).sporeLive 0 = true ∧ ((spore { stage := 3 }).sp 0).mine = none ∧
    (spore { stage := 3, upAt := some 0, down := some (msg 0x06 4) }).downMsg 0 0x06 = some (msg 0x06 4) ∧
    (w.sp 0).upAt = some 0 ∧ w.isRoot 0 = false ∧ w.sporeLive 0 = true ∧ 0 < w.getF F.SPO_WAVE_MS 0 0 ∧ w.now < 0 + 1000000 * w.getF F.SPO_WAVE_MS 0 0 ∧
    0 + 1000000 * w.getF F.SPO_WAVE_MS 0 0 ≤ ({ w with now := 1000000 * w.getF F.SPO_WAVE_MS 0 0 } : State).now ∧ ((spore { stage := 6 }).sp 0).stage = 6 := by decide +kernel

/-- The last byte of granule 0 held, its copy, a part that fits its slot and one that does not, and the end of a wave. -/
theorem witness_SnapshotCopies :
    let w : HeldAccess := ⟨BitVec.ofNat 39 2097151, [1]⟩
    let s := spore { copying := true, granules := [0] }
    let big := (spore { stage := 4, copying := true }).setF F.SPO_HOST_SIZE_BYTES 0x1000000
    let done := fun (kind stage : Nat) => { spore { stage := stage, upAt := some 0, down := some (msg kind 4) } with qctx := [(0, qctx0 0 0 1)] }
    (s.sp 0).copying = true ∧ 0 ∈ (s.sp 0).granules ∧ 0 ∉ (s.sp 0).copied ∧ w.bytes ≠ [] ∧ (w.addr.toNat + w.bytes.length - 1) / 2097152 = 0 ∧ w.addr.toNat / 2097152 = 0 ∧
    ((spore { copying := true, granules := [0], holds := [(0, 0, w)] }).sp 0).holds = [(0, 0, w)] ∧
    big.sporeLive 0 = true ∧ (big.sp 0).stage = 4 ∧ (big.sp 0).mine = none ∧ (big.sp 0).upAt = none ∧ big.partBytes 0 ≤ big.hostSlotSize 0 ∧ s.hostSlotSize 0 < s.partBytes 0 ∧
    (let x := done 0x08 4; x.sporeRecordOk 0 = true ∧ x.downMsg 0 0x08 = some (msg 0x08 4)) ∧ (done 0x09 4).downMsg 0 0x09 = some (msg 0x09 4) ∧ (done 0x0B 5).downMsg 0 0x0B = some (msg 0x0B 4) := by decide +kernel

/-- A restore with no part, a part of another launch, and one that passes every check but the enable's; RESTORE_RESUME, a replay out of time,
and verdicts of each kind. -/
theorem witness_RestoreCommands :
    let s := ((spore { restoring := true }).setF F.GLB_STAGE_STAGE stageBarrier).setJobX 0 { passed := true }
    let gen := s.getF F.SPO_RESTORE_GEN_GEN 0 0
    let v := natLe 8 (validOf gen)
    let part := fun (k : Nat) => writeBytes (writeBytes (writeBytes (writeBytes [] (hostKey 0 0) (natLe 4 0x53504F52 ++ natLe 4 1 ++ natLe 8 gen ++ natLe 8 k)) (hostKey 0 4088) v) (hostKey 0 4096) (natLe 8 gen)) (hostKey 0 4152) v
    let p := { s with hostMem := part 0 }
    let r := { spore { stage := 7, restoring := true, down := some (msg 0x0F 0) } with qctx := [(0, qctx0 0 0 1)] }
    let late := { r with cad := 1000000 * r.getF F.SPO_REPLAY_MS 0 0 }
    s.sporeLive 0 = true ∧ s.stage 0 = stageBarrier ∧ (s.jobX 0).passed = true ∧ (s.sp 0).restoring = true ∧ (s.sp 0).stage = 0 ∧ s.restoreSlot 0 gen = none ∧
    p.restoreSlot 0 gen = some 0 ∧
    (spore { stage := 6, upAt := some 0, restoring := true, down := some (msg 0x0D 0) }).downMsg 0 0x0D = some (msg 0x0D 0) ∧
    (r.sp 0).recorded = false ∧ (late.sp 0).lastResume + 1000000 * late.getF F.SPO_REPLAY_MS 0 0 ≤ late.cad ∧
    r.sporeRecordOk 0 = true ∧ r.downMsg 0 0x0F = some (msg 0x0F 0) ∧ (msg 0x0F 0).flags.testBit 0 = false ∧ ({ msg 0x0F 0 with flags := 1 } : SporeMsg).flags.testBit 0 = true := by decide +kernel

/-- A part whose host slot reports failure never passes. -/
theorem witness_RestoreCommands_cause (s : State) (a : Nat) : s.restoreCause 0 a false ≠ 0 := by
  simp only [State.restoreCause]; split <;> (try decide); split <;> (try decide); split <;> (try decide); split <;> decide

theorem leNat_lt : ∀ l : List Byte, leNat l < 256 ^ l.length
  | [] => by decide
  | b :: bs => by have := leNat_lt bs; have := b.isLt; simp only [leNat, List.length_cons, Nat.pow_succ]; omega
theorem launchKey_lt (s : State) : s.launchKey 0 < 256 ^ 8 :=
  Nat.lt_of_lt_of_le (leNat_lt _) (Nat.pow_le_pow_right (by decide) (List.length_take_le _ _))
/-- The launch key reads nothing of host memory. -/
theorem launchKey_hostMem (s : State) (m : Memory) : ({ s with hostMem := m } : State).launchKey 0 = s.launchKey 0 := by
  have hd : ({ s with hostMem := m } : State).jobDigest 0 = s.jobDigest 0 := by
    have hw : ({ s with hostMem := m } : State).winBytes 0 = s.winBytes 0 := rfl
    have hp : ({ s with hostMem := m } : State).slotPart 0 = s.slotPart 0 := rfl
    have hg : ({ s with hostMem := m } : State).partPages = s.partPages := rfl
    have hc : ({ s with hostMem := m } : State).cfgDigest = s.cfgDigest := rfl
    unfold State.jobDigest; rw [hw, hp, hg, hc]
  have hp : ({ s with hostMem := m } : State).progDigest 0 = s.progDigest 0 := rfl
  have hw : ({ s with hostMem := m } : State).wtsDigest 0 = s.wtsDigest 0 := rfl
  unfold State.launchKey; rw [hd, hp, hw]; rfl
/-- The part of a job whose launch key is `k`. -/
def partMem (k : Nat) : Memory :=
  [(16, (natLe 8 k).getD 0 0), (17, (natLe 8 k).getD 1 0), (18, (natLe 8 k).getD 2 0), (19, (natLe 8 k).getD 3 0), (20, (natLe 8 k).getD 4 0),
   (21, (natLe 8 k).getD 5 0), (22, (natLe 8 k).getD 6 0), (23, (natLe 8 k).getD 7 0), (28, 1), (65, 1)]
def unitBytes (s : State) : List Byte := (List.range 6).flatMap (fun w => natLe 8 (s.regW .glb (0x58 + 8 * w) 0 0).toNat)
/-- A part of the slot's launch, rank and job passes every check. -/
theorem launchKey_passes (s : State) (hp : (s.slotPart 0).bind s.partLink = some 0) (e2 : s.myRank 0 = 0) (e3 : s.getF F.HUB_JOB_RANKS_COUNT 0 0 = 1)
    (e4 : s.jobClusterCount 0 = 256) (e5 : unitBytes s = List.replicate 48 0) (e6 : s.getF F.SPO_SLOT_CTRL_EN 0 0 = 1) :
    ({ s with hostMem := partMem (s.launchKey 0) } : State).restoreCause 0 0 true = 0 := by
  have hl := launchKey_hostMem s (partMem (s.launchKey 0))
  have hk := launchKey_lt s
  revert hl hk; generalize s.launchKey 0 = k; intro hl hk
  have h0 : ∀ a, ({ s with hostMem := partMem k } : State).hostKeyOf 0 a = a := fun a => by
    have : ({ s with hostMem := partMem k } : State).hostKeyOf 0 a = s.hostKeyOf 0 a := rfl
    rw [this]; simp [State.hostKeyOf, hp, hostKey]
  have hb : ∀ a n, ({ s with hostMem := partMem k } : State).hostBytes 0 a n = readBytes (partMem k) a n := fun a n => by rw [State.hostBytes, h0]
  have h1 : leNat (readBytes (partMem k) 16 8) = k := by
    rw [show readBytes (partMem k) 16 8 = natLe 8 k by simp [partMem, readBytes, readByte, spGet, natLe], leNat_natLe]; omega
  have h2 : leNat (readBytes (partMem k) 24 4) = 0 := by simp [partMem, readBytes, readByte, spGet, leNat]
  have h3 : leNat (readBytes (partMem k) 28 4) = 1 := by simp [partMem, readBytes, readByte, spGet, leNat]
  have h4 : leNat (readBytes (partMem k) 64 4) = 256 := by simp [partMem, readBytes, readByte, spGet, leNat]
  have h5 : readBytes (partMem k) 80 48 = List.replicate 48 0 := by simp [partMem, readBytes, readByte, spGet]
  have e2 : ({ s with hostMem := partMem k } : State).myRank 0 = 0 := e2
  have e3 : ({ s with hostMem := partMem k } : State).getF F.HUB_JOB_RANKS_COUNT 0 0 = 1 := e3
  have e4 : ({ s with hostMem := partMem k } : State).jobClusterCount 0 = 256 := e4
  have e5 : (List.range 6).flatMap (fun w => natLe 8 (({ s with hostMem := partMem k } : State).regW .glb (0x58 + 8 * w) 0 0).toNat) = List.replicate 48 0 := e5
  have e6 : ({ s with hostMem := partMem k } : State).getF F.SPO_SLOT_CTRL_EN 0 0 = 1 := e6
  unfold State.restoreCause
  simp only [hb, hl, h1, h2, h3, h4, h5, e2, e3, e4, e5, e6, Nat.zero_add]
  simp
theorem witness_RestoreCommands_fill :
    let s := ((spore { restoring := true }).setF F.GLB_STAGE_STAGE stageBarrier).setJobX 0 { passed := true }
    let s := (List.range 6).foldl (fun (u : State) i => u.setW .glb (0x58 + 8 * i) 0 0 0) s
    ({ s with hostMem := partMem (s.launchKey 0) } : State).restoreCause 0 0 true = 0 :=
  launchKey_passes _ (by decide +kernel) (by decide +kernel) (by decide +kernel) (by decide +kernel) (by decide +kernel) (by decide +kernel)

/-! ### Package, power, heat, partitions -/

def sample (w : Nat) : PowerSample := ⟨BitVec.ofNat 16 w, 48000, 5, List.replicate 8 500, List.replicate 8 10⟩
/-- A package that is off, one whose supply starts, and one whose over-voltage cut it off; a flash write in progress. -/
theorem witness_PackageResets :
    let off := State.reset
    let cut : State := { State.reset with pow := { stage := .off, overVolt := true } }
    let soft : State := { State.reset with pow := { stage := .soft } }
    let busy : State := { live with mgmt := { live.mgmt with upd := some { iface := 0, applying := true } } }
    off.pow.stage = .off ∧ off.pow.overVolt = false ∧ live.pow.stage ≠ .off ∧ live.pow.stage ≠ .trip ∧ cut.pow.stage = .off ∧ cut.pow.overVolt = true ∧ soft.pow.stage = .soft ∧
    live.powered = true ∧ busy.applying = true ∧ live.applying = false ∧ (0 : BitVec 7).toNat ≤ 72 ∧ (72 : BitVec 7).toNat ≤ 72 ∧ ({ live with pow := { live.pow with coresUp := 72 } } : State).pow.coresUp ≠ 0 ∧
    live.partEn 0 = true ∧ (live.setF F.PRT_OWNER_KIND 2).getF F.PRT_OWNER_KIND 0 = 2 ∧ (38000 : BitVec 16).toNat = 38000 ∧ (62001 : BitVec 16).toNat = 62001 ∧ (59500 : BitVec 16).toNat = 59500 := by decide +kernel

/-- A target met in full, one met by no setting, and one met by a setting between; a window of 0 s; a peak of 4.2 kW and one watt more. -/
theorem witness_PowerGovernor :
    let s := ((live.setF F.PWR_LIMIT_CAP_W 5000).setF F.PWR_BUDGET_W 904)
    let x := sample 300
    let y : PowerSample := { x with base := [1000, 900, 1000, 1000, 1000, 1000, 1000, 1000] }
    let m := s.measurePower x
    let n := (s.setF F.PWR_BUDGET_W 400).measurePower x
    s.powered = true ∧ s.diesReady = true ∧ (live.setF F.PWR_STAT_READY 0).diesReady = false ∧
    (∃ t r, m.settings = [] ++ t :: r ∧ m.predict x t ≤ 1000 * m.powerTarget) ∧
    (∀ t ∈ n.settings, 1000 * n.powerTarget < n.predict x t) ∧
    (let m := s.measurePower y; ∃ l t r, m.settings = l ++ t :: r ∧ l ≠ [] ∧ (∀ u ∈ l, 1000 * m.powerTarget < m.predict y u) ∧ m.predict y t ≤ 1000 * m.powerTarget) ∧
    (s.setF F.PWR_LIMIT_WINDOW_S 0).getF F.PWR_LIMIT_WINDOW_S = 0 ∧ s.getF F.PWR_LIMIT_WINDOW_S ≠ 0 ∧ (4200 : BitVec 16).toNat ≤ 4200 ∧ 4200 < (4201 : BitVec 16).toNat ∧
    (∀ k, k < 4 → max s.gov.op (spGet 0 s.gov.dieOp (1 + k)) ≤ 7) := by
  refine ⟨by decide +kernel, by decide +kernel, by decide +kernel, ⟨_, _, rfl, by decide +kernel⟩, by decide +kernel, ?_, by decide +kernel, by decide +kernel, by decide +kernel, by decide +kernel, by decide +kernel⟩
  exact ⟨[⟨0, 8, 8, 8⟩], ⟨1, 8, 8, 8⟩, _, rfl, by decide, by decide +kernel, by decide +kernel⟩

/-- The broker's root, a member that is not, and a package that is none of its ranks, at a new period; a REPORT, and GRANTs newer and older. -/
def brokers (rank : Nat) : State :=
  { ((((job.setF F.PWR_BROKER0_EN 1).setF F.HUB_JOB_CTL_MY_RANK rank).setF F.PWR_BROKER1_COMM 1).setF F.HUB_RT_DATA_VALID 1 0 1) with comms := [comm1], cad := 20000000 }
def powerIn (kind epoch : Nat) : Cell := let c := { emptyCell with type := 0xD, dstEp := 5, jobTag := 1, srcRank := 1, payload := powerPayload kind 0 epoch 300 900 5000 }; { c with crc := cellE2e c }
theorem witness_PowerBroker :
    let s := brokers 0
    let r := powerIn 1 2
    let g := powerIn 2 2
    let e := { s with gov := { s.gov with grantEpoch := some 3 } }
    s.powered = true ∧ s.brokerOn = true ∧ s.gov.epoch < s.cad / 10000000 ∧ s.getF F.MGT_STAT_BOOT = 1 ∧ s.brokerRanks = 0 :: [1] ∧ s.myRank s.brokerSlot = 0 ∧
    (brokers 1).brokerRanks = 0 :: [1] ∧ (brokers 1).myRank 0 = 1 ∧ 1 ∈ [1] ∧ (brokers 2).myRank 0 = 2 ∧ 2 ∉ [1] ∧
    s.powerCell r 1 = true ∧ r.srcRank.toNat ∈ s.brokerRanks ∧ s.powerCell g 2 = true ∧ s.gov.grantEpoch = none ∧ e.powerCell g 2 = true ∧
    seqBelow (payloadNum g 4 4) 3 = true ∧ seqBelow (payloadNum (powerIn 2 4) 4 4) 3 = false := by decide +kernel

/-- The last die, cool, HOT and at LIMIT; a bad sensor; and the last rail, with and without a lost phase. -/
theorem witness_DieHeatAndRails :
    let hot := live.setF F.THM_STAT_STATE (2 ^ 18)
    let lim := live.setF F.THM_STAT_STATE (2 ^ 19)
    let bad : State := { live with gov := { live.gov with badSensors := [6] } }
    let x : RailSample := ⟨47, 800, 10, 115, false⟩
    live.powered = true ∧ (6 : BitVec 3).toNat < 7 ∧ live.gov.badSensors.contains 6 = false ∧ live.dieState 6 = 0 ∧ hot.dieState 6 = 1 ∧ lim.dieState 6 = 2 ∧ 6 ∈ bad.gov.badSensors ∧
    (109 : BitVec 8).toNat < 110 ∧ 110 ≤ (110 : BitVec 8).toNat ∧ x.rail.toNat < 48 ∧ decide (115 < x.temp.toNat) = false ∧ decide (115 < (116 : BitVec 8).toNat) = true ∧
    (live.getF F.PWR_REG_DATA_FLAGS 0 47).testBit 3 = false := by decide +kernel
/-- 97 °C keeps a HOT die HOT, and 96 °C does not (Table 16-4). -/
theorem test_die_hysteresis : let hot := live.setF F.THM_STAT_STATE 1
    outcome (exec (.dieThermalSample 0 (some 97)) hot) (fun s => s.dieState 0) = some 1 ∧
    outcome (exec (.dieThermalSample 0 (some 96)) hot) (fun s => s.dieState 0) = some 0 := by decide +kernel

theorem witness_HostLinks :
    let up := live.setF F.LCH_STAT_READY 1
    let split : State := { up with pow := { up.pow with split1 := true } }
    let rcv : State := { live with mgmt := { live.mgmt with rcv := some 0 } }
    up.coreUp = true ∧ up.linkExists 0 = true ∧ split.linkExists 3 = true ∧ (up.hostLink 0).perst = false ∧ (live.hostLink 0).up = true ∧ live.partOfLink 0 = some 0 ∧ rcv.mgmt.rcv = some 0 ∧
    live.mgmt.rcv ≠ some 0 := by decide +kernel

/-- The last word of unit 367, ready, fenced, and of no partition. -/
theorem witness_Bar4Accesses :
    let own := fun (s : State) (a n : Nat) => (List.range' (unitOf a) (unitOf (a + n - 1) + 1 - unitOf a)).all (fun u => s.prtUnit 0 u)
    let none_ := [0x58, 0x60, 0x68, 0x70, 0x78, 0x80].foldl (fun s o => s.setW .prt o 0 0) ready
    let a := 368 * 0x40000000 - 8
    (ready.hostLink 0).up = true ∧ ready.getF F.MGT_STAT_BOOT = 1 ∧ ready.partOfLink 0 = some 0 ∧ own ready a 8 = true ∧ own none_ a 8 = false ∧
    ready.lichReady (stackOf a) = true ∧ ready.fencedAt a = false ∧ (ready.setF F.LCH_STAT_FENCED 1 15).fencedAt a = true ∧ own ready 0 4096 = true := by decide +kernel
/-- A fetch-and-add through BAR4 answers the old value and leaves the sum (R424). -/
theorem test_bar4_add : outcome (exec (.bar4Access 0 (.fetchAdd 8 true 3 .clean)) ready) (fun s => (readBytes s.hbm 8 4, s.out.head?)) =
    some ([8, 0, 0, 0], some (.bar4 (some ([5, 0, 0, 0], false)))) := by decide +kernel

/-- Fabric management may write a partition's page; a partition enabled and not, idle, updating, and wiping with work left and without. -/
theorem witness_PartitionControl :
    let off := live.setF F.PRT_CTRL_EN 0
    let o : Origin := .mgmt true
    let busy : State := { live with mgmt := { live.mgmt with upd := some { iface := 0, applying := true } } }
    let wiping := { live.setF F.PRT_STAT_WIPING 1 with clus := (List.range 256).map (fun c => (c, { wiping := false })) }
    let held := { ((live.setF F.PRT_CLASS_RT_PRIV 1).setChan 56 { holder := some 1, stage := slvIterating }) with fresh := 0 }
    (off.regW .prt 0x10 0).getLsbD 1 = false ∧ writes off o .prt 0 0x10 (BitVec.ofNat 64 (setBits (off.regW .prt 0x10 0).toNat 0 0 1)) = true ∧
    writes live o .prt 0 0x10 (BitVec.ofNat 64 (setBits (live.regW .prt 0x10 0).toNat 1 1 1)) = true ∧ writes live o .prt 0 0x48 0x0000000800FF0000 = true ∧
    held.getF F.PRT_CLASS_RT_PRIV 0 = 1 ∧ held.batchIdle 0 = false ∧ live.getF F.PRT_CLASS_RT_PRIV 0 = 0 ∧ off.partEn 0 = false ∧ live.partEn 0 = true ∧ busy.applying = true ∧
    (∀ j, j < 8 → live.slotPart j ≠ some 0) ∧ wiping.getF F.PRT_STAT_WIPING 0 = 1 ∧
    (∀ j, j < 8 → ¬ (wiping.slotPart j = some 0 ∧ (wiping.slotState j = slotDraining ∨ wiping.slotState j = slotWiping))) ∧
    (∀ c, c < 256 → ¬ (wiping.prtGroup 0 (c / 8) = true ∧ (wiping.clu c).wiping = true)) ∧
    (let w := live.setF F.PRT_STAT_WIPING 1; w.getF F.PRT_STAT_WIPING 0 = 1 ∧ w.prtGroup 0 (255 / 8) = true ∧ (w.clu 255).wiping = true) := by decide +kernel

/-- A capacity that reaches the division and one that does not; a guarantee met and one not, for the first and the second time. -/
theorem witness_Guarantees :
    let s := (live.setF F.PRT_SHARES_FAB 128).setF F.PRT_CLASS_CLASS 0
    let d := s.setF F.PRT_CLASS_ADMIT 255
    let x : ArbiterDemand := ⟨0, 3, 1000, 1000, [700, 0, 0, 0, 0, 0, 0, 0]⟩
    let b : BreachSample := ⟨0, 3, 2, 700, 100, 1000, 1000, none, true⟩
    let again := s.setPart 0 { s.part 0 with lastBreach := [(3, 0)] }
    s.powered = true ∧ x.resource.toNat < 3 ∧ totalOf (s.division x) ≤ x.capacity ∧ s.partEn 0 = true ∧ s.partEn 7 = false ∧
    s.breached 0 b = true ∧ s.breached 0 { b with received := 700 } = false ∧ (∀ e ∈ (s.part 0).lastBreach, e.1 ≠ 3) ∧ again.breached 0 b = true ∧
    (∃ y : ArbiterDemand, y.resource.toNat < 3 ∧ y.capacity < totalOf (d.division y)) := by
  refine ⟨by decide +kernel, by decide, by decide +kernel, by decide +kernel, by decide +kernel, by decide +kernel, by decide +kernel, by decide +kernel, by decide +kernel,
    ⟨0, 3, 10, 1000, [700, 0, 0, 0, 0, 0, 0, 0]⟩, by decide, by decide +kernel⟩

/-! ### Management -/

def booting (img : FlashImage) (lcs : Nat) : State := { ((live.setF F.LCH_STAT_READY 1).setF F.MGT_STAT_BOOT 0) with flash := { live.flash with image := img }, fuses := { live.fuses with lcs := lcs } }
/-- A package that boots, with each image and the fuses of each state; one in recovery with and without a fetch; one that runs. What the fuses' key
hashes hold is free, so an image passes check 2 only where a hypothesis says so. -/
theorem witness_BootAndRecovery :
    let b := booting .shipped 1
    let rec_ := live.setF F.MGT_STAT_BOOT 2
    let rcv : State := { rec_ with mgmt := { rec_.mgmt with rcv := some 0 } }
    b.coreUp = true ∧ b.boot = bootRom ∧ (booting .shipped 3).applyLcs.fuses.lcs = 3 ∧ b.applyLcs.fuses.lcs ≠ 3 ∧ b.applyLcs.flash.image = .shipped ∧
    (booting (.written []) 1).applyLcs.flash.image = .written [] ∧ leNat (([] : List Byte).take 4) ≠ 0x45574649 ∧ (booting .torn 1).applyLcs.flash.image = .torn ∧
    writes rec_ (.host 0) .mgt 0 0x70 1 = true ∧ rec_.boot = bootRecovery ∧ rec_.mgmt.rcv = none ∧ writes rcv (.host 0) .mgt 0 0x70 1 = true ∧ rcv.mgmt.rcv ≠ none ∧
    imageCause 0 [] ≠ 0 ∧ live.powered = true ∧ live.boot = bootRun := by decide +kernel

/-- The last byte of the largest image, one byte more, and 4,096 and 4,097 bytes; an update in progress here and elsewhere; LCS requests right and wrong. -/
theorem witness_UpdatesAndLifeCycle :
    let s := live.setF F.MGT_MCTP_EN_IFACES 3
    let u : Update := { iface := 0 }
    let busy : State := { s with mgmt := { s.mgmt with upd := some { u with applying := true } } }
    let mine : State := { s with mgmt := { s.mgmt with upd := some u } }
    let x : PldmData := ⟨BitVec.ofNat 32 (0x1800000 - 4096), List.replicate 4096 0, true⟩
    let o : Origin := .mgmt true
    let l : State := { s with fuses := { s.fuses with lcs := 1 } }
    let c := l.setF F.LCS_REQ_STATE 2
    s.mctpUp 0 = true ∧ s.mctpEnabled 0 = true ∧ s.mgmt.upd = none ∧ busy.mgmt.upd = some { u with applying := true } ∧ mine.mgmt.upd = some u ∧ ({ u with iface := 1 } : Update).iface ≠ 0 ∧
    x.data.length ≤ 4096 ∧ x.off.toNat + x.data.length ≤ 0x1800000 ∧ 0x1800000 < ({ x with off := x.off + 1 } : PldmData).off.toNat + x.data.length ∧
    4096 < (List.replicate 4097 (0 : Byte)).length ∧ imageCause 0 (readBytes [] 0 1) ≠ 0 ∧ s.mgmt.applied = false ∧ ({ s with mgmt := { s.mgmt with applied := true } } : State).mgmt.applied = true ∧
    s.mgmt.heldResets = [] ∧ writes l o .lcs 0 0x40 2 = true ∧ (2 : Word).toNat % 4 = l.fuses.lcs + 1 ∧ writes l o .lcs 0 0x40 3 = true ∧ (3 : Word).toNat % 4 ≠ l.fuses.lcs + 1 ∧
    writes c o .lcs 0 0x50 0 = true ∧ c.getF F.LCS_REQ_STATE = c.fuses.lcs + 1 ∧ (0 : Word).toNat = c.getF F.LCS_NONCE_VALUE ∧ c.fuses.lcs ≠ 0 ∧ (1 : Word).toNat ≠ c.getF F.LCS_NONCE_VALUE := by decide +kernel

theorem witness_Attestation :
    let m : State := { live with mgmt := { live.mgmt with spdm := [(0, { m := some [1] })] } }
    live.powered = true ∧ live.boot = bootRun ∧ (live.setF F.MGT_STAT_BOOT 3).boot = bootRetired ∧ live.ifaceUp 0 = true ∧ live.ifaceUp 1 = true ∧ live.fuses.lcs = 0 ∧
    ({ live with fuses := { live.fuses with lcs := 2 } } : State).fuses.lcs = 2 ∧ (live.spdm 0).m = none ∧ (m.spdm 0).m = some [1] ∧ (5 : BitVec 8).toNat ≤ 5 ∧ ¬ ((6 : BitVec 8).toNat ≤ 5 ∨ (6 : BitVec 8) = 0xFF) := by decide +kernel

theorem witness_ManagementMessages :
    let s := live.setF F.MGT_MCTP_EN_IFACES 1
    s.mctpUp 0 = true ∧ s.mctpEnabled 0 = true ∧ s.mctpUp 1 = true ∧ s.mctpEnabled 1 = false ∧ (s.setF F.LCH_STAT_READY 1).coreUp = true ∧ (0x8010 : Nat) % 8 = 0 ∧
    writes s (.mgmt true) .aud 0 0x48 0 = true ∧ (∃ e, pageAt (regAddr .aud 0 0x48) = some e) ∧ regRows .aud 0 0x48 ≠ [] ∧ s.partEn 0 = true ∧ job.slotState 0 = slotAccepting := by
  refine ⟨by decide +kernel, by decide +kernel, by decide +kernel, by decide +kernel, by decide +kernel, by decide, by decide +kernel, ⟨(.aud, 0, 0x48), by decide +kernel⟩, by decide +kernel, by decide +kernel, by decide +kernel⟩
/-- A damaged audit entry sets ERR.ECC_UE as it is read; one that is not asked for does not (R442). -/
theorem test_audit_damaged :
    let e : AuditEntry := { utc := 0, tick := 0, old := 0, written := 0, applied := 0, page := 0, offset := 0, origin := 0, flags := 0, seq := 3, check := 0 }
    let s := live.setF F.MGT_MCTP_EN_IFACES 1
    let s : State := { s with aud := { s.aud with entries := [e] } }
    outcome (exec (.auditRead 0 3 ⟨1, [3]⟩) s) (fun u => u.getF F.AUD_ERR_ECC_UE) = some 1 ∧ outcome (exec (.auditRead 0 3 ⟨1, [4]⟩) s) (fun u => u.getF F.AUD_ERR_ECC_UE) = some 0 := by decide +kernel
/-- Sensor 9 is the temperature of the last die (R456). -/
theorem test_sensor : outcome (exec (.pldmSensorRead 0 9) (live.setF F.THM_DIE_TEMP_TEMP (2 ^ 48 * 77))) (fun s => s.out.head?) = some (some (.pldm 0 0x11 [0, 77, 0, 0, 0])) := by decide +kernel

/-- Requests of the endpoint that fabric management is, and of another; a repeated one; writes of a register it may write and of one it may not. -/
def mgmtIn (kind req off : Nat) : Cell := let c := { emptyCell with type := 0xC, dstEp := 5, srcEp := 9, payload := mgmtPayload kind 0 0 9 req off 1 0 }; { c with crc := cellE2e c }
theorem witness_FabricManagement :
    let s := job.setF F.MGT_FM_EP_EP 9
    let off := regAddr .hub 0 0x68
    let w := mgmtIn 3 7 off
    let again := s.setMgmt { s.mgmt with replies := [(7, 0, [1])] }
    s.mgmtCell (mgmtIn 2 7 off) 2 = true ∧ s.mgmtCell w 3 = true ∧ w.srcEp.toNat = s.getF F.MGT_FM_EP_EP ∧ w.srcEp.toNat ≠ job.getF F.MGT_FM_EP_EP ∧ job.mgmtCell w 3 = true ∧
    again.mgmt.replies.find? (fun (r : Nat × Nat × List Byte) => r.1 = 7 && decide (again.now < 1000000000 + r.2.1)) = some (7, 0, [1]) ∧ again.mgmtCell w 3 = true ∧
    payloadNum w 8 4 = 7 ∧ payloadNum w 12 4 = off ∧ s.mgmt.replies = [] ∧ fabricTarget off = true ∧ pageAt off = some (.hub, 0, 0x68) ∧ regRows .hub 0 0x68 ≠ [] ∧
    writes s .fabric .hub 0 0x68 (BitVec.ofNat 64 (payloadNum w 16 8)) = true ∧ fabricTarget (regAddr .glb 0 0x10) = false := by decide +kernel

/-! ### Completion -/

/-- The premises of the statements that commands complete are those of the statements about each family, whose witnesses above meet most of them;
those here meet the rest, clause by clause. Each write of one register, taken. -/
theorem witness_RegisterCommandsComplete :
    let o : Origin := .mgmt false
    let q := (job.setF F.QMG_STAT_READY 1)
    let j := loadable
    let r := live.setF F.MGT_STAT_BOOT 2
    let a := regAddr .clu 0 0x10
    let h : HeldWrite := { origin := o, addr := a, place := job.regPlace o .clu 0 0x10, written := 1, value := 1 }
    let held := { job with holds := [(a / 4096, [h])] }
    (∀ x ∈ [(Block.clu, 255, 0x40, 255), (.clu, 255, 0x40, 256 * 255), (.slv, 63, 0x60, 1), (.mov, 47, 0x10, 1), (.mov, 47, 0x10, 2), (.cad, 0, 0x10, 1), (.cad, 0, 0x10, 0), (.fio, 0, 0x10, 0x731),
      (.pwr, 0, 0x40, 5000), (.prt, 7, 0x10, 1), (.prt, 7, 0x10, 2), (.prt, 7, 0x48, 0)], writes job (.mgmt true) x.1 x.2.1 x.2.2.1 (BitVec.ofNat 64 x.2.2.2) = true) ∧
    (∀ x ∈ [1, 2], writes q o .qmg 0 0x50 (BitVec.ofNat 64 x) = true) ∧ (∀ x ∈ [0x1F01, 0x11F01], writes job .fabric .spo 0 0x48 (BitVec.ofNat 64 x) = true) ∧
    writes live .fabric .hub 0 0x58 (BitVec.ofNat 64 (2 ^ 60 * 2 + 2 ^ 32 * 65534 + 131071)) = true ∧ writes j .fabric .hub 0 0x58 (BitVec.ofNat 64 (2 ^ 60 * 3 + 2 ^ 32)) = true ∧
    writes job .fabric .hub 0 0x58 (BitVec.ofNat 64 (2 ^ 60 * 4 + 2 ^ 32)) = true ∧ writes j .fabric .hub 0 0x58 (BitVec.ofNat 64 (2 ^ 60 + 2 ^ 32)) = true ∧ writes j .fabric .glb 0 0x48 (BitVec.ofNat 64 (2 ^ 32 * 7)) = true ∧
    (∀ x ∈ [0x40, 0x50], writes live (.mgmt true) .lcs 0 x 2 = true) ∧ (∀ l ∈ [0, 1], writes { r with hostLinks := [(l, { up := true, perst := false })] } (.host l) .mgt 0 0x70 1 = true) ∧
    pageAt a = some (.clu, 0, 0x10) ∧ regRows .clu 0 0x10 ≠ [] ∧ pageAt (4096 * (a / 4096)) = some (.clu, 0, 0) ∧ held.clkOff .clu 0 = false ∧ spGet [] held.holds (a / 4096) = [h] ∧
    (∀ r ∈ regRows .clu 0 (h.addr % 4096), r.acc ≠ .wo ∧ r.acc ≠ .w1c) ∧ job.canSee o .clu 0 = true ∧ (let t := job.seenBy o .glb 0; t.ownSlot o (t.selSlot o .glb) = true) := by decide +kernel

theorem witness_TimeAndJobCommandsComplete :
    let c := (((timed 0 pair).setF F.CAD_PARENT_VALID 1).setF F.CAD_PARENT_PORT 19).setF F.FAB_STAT_UP 1 19
    let k := cmdOf .started [2 ^ 56 * 0x68, 0, 0, 7, 0, 0]
    let p := (withCmd job k).setSp 0 { stepRec := some (6, 0, 0) }
    let u : State := { (timed 2000000 live).setF F.CAD_STAT_STATE timeLocked with time := { live.time with lostAt := some 0, everLocked := true }, now := 2000000000 }
    let e := (timed 1000001001 live).setF F.CAD_CTRL_PPS_OUT_EN 1
    let w := { job.setF F.HUB_JOB_CTL_STATE slotWiping with clus := (List.range 256).map (fun c => (c, { wiping := false })) }
    let d := { job.setF F.HUB_JOB_CTL_STATE slotDraining with now := 5000000 }
    let m := { (fronds 1).setJobX 0 { started := true, polling := true } with now := 5000000 }
    c.hasParent = true ∧ c.getF F.FAB_STAT_UP (c.getF F.CAD_PARENT_PORT) = 1 ∧ c.time.exchAt = none ∧ c.getF F.CAD_PARENT_PORT = 19 ∧ ({ t1 := 0, t2 := 0, t3 := 0, state := 2, utcOffset := 0 } : TimeCell).state = 2 ∧
    ((e.setF F.CAD_STAT_PRESENT 4).getF F.CAD_STAT_PRESENT).testBit 2 = true ∧ u.time.lostAt = some 0 ∧ 0 + 2000000000 ≤ u.now ∧ u.timeStat ≠ timeFree ∧ u.timeStat ≠ timeHoldover ∧ u.time.everLocked = true ∧
    p.cmd? 1 = some k ∧ k.phase = .started ∧ k.opc = 0x68 ∧ p.stepOk k = true ∧ k.num 32 8 = 0 ∧ (p.sp (k.byte 40)).stepRec ≠ none ∧
    e.powered = true ∧ (e.getF F.CAD_CTRL_SRC_EN).testBit 2 = true ∧ e.getF F.CAD_CTRL_PPS_OUT_EN = 1 ∧ toSigned 32 (e.getF F.CAD_PPS_OUT_ADJ_NS) ≤ e.cad ∧ e.time.ppsSec ≠ some 1 ∧
    d.slotState 0 = slotDraining ∧ 5000000 + (d.jobX 0).drainAt ≤ d.now ∧ w.slotState 0 = slotWiping ∧ (w.jobX 0).wipeFailed = false ∧ (∀ c ∈ w.jobClusters 0, (w.clu c).wiping = false) ∧
    (∀ i < 8, (w.jobX i).pend = false) ∧ w.getF F.GLB_REPORT_EP_EP 0 0 = epNone ∧ m.fronding 0 = true ∧ m.isRoot 0 = false ∧ (m.jobX 0).polling = true ∧ 5000000 + (m.jobX 0).lastReply ≤ m.now := by decide +kernel
theorem length_shaBlocks : ∀ (n : Nat) (bs : List Byte) (h : List Nat), h.length = 8 → (shaBlocks n bs h).length = 8
  | 0, _, _, e => e
  | n + 1, bs, h, _ => length_shaBlocks n (bs.drop 128) (shaBlock h (bs.take 128)) rfl
theorem length_sha384 (l : List Byte) : (sha384 l).length = 48 := by
  have n : ∀ l : List Nat, (l.flatMap (fun w => natBe 8 w)).length = 8 * l.length := by
    intro l; induction l with
    | nil => rfl
    | cons a l ih => rw [List.flatMap_cons, List.length_append, ih, natBe, List.length_reverse, length_natLe, List.length_cons]; omega
  simp only [sha384, n, List.length_take]; rw [length_shaBlocks _ _ _ rfl]; rfl
/-- Reads above what was written read what stood there. -/
theorem readBytes_above (l : List Byte) (m : Memory) (a : Nat) : ∀ n b, a + l.length ≤ b → readBytes (writeBytes m a l) b n = readBytes m b n
  | 0, _, _ => rfl
  | n + 1, b, h => by simp only [readBytes]; rw [readByte_writeBytes_other l m a b (Or.inr h), readBytes_above l m a n (b + 1) (by omega)]
theorem segment_root (u : State) (m : Memory) (N : Nat) (hN : N = segBytes) (hm : readBytes m N N = readBytes [] N N) (d : List Byte) (hd : d = sha384 (readBytes [] N N)) (hs : readBytes m 64 48 = d)
    (f1 : u.fronding 0 = true) (f2 : u.held 0 = 1) (f3 : u.frondSegs 0 = 2) (f4 : u.isRoot 0 = true) (f5 : u.getF F.GLB_FROND_BASE_ADDR 0 0 = 0) :
    ∃ s : State, s.fronding 0 = true ∧ s.held 0 = 1 ∧ s.frondSegs 0 = 2 ∧ s.segLen 0 1 = N ∧ s.isRoot 0 = true ∧ s.segData 0 (s.held 0) = some (readBytes s.hbm N N) ∧
    sha384 (readBytes s.hbm N N) = segDigest (readBytes s.hbm (4096 * s.getF F.GLB_FROND_BASE_ADDR 0 0) (64 + 48 * (s.frondSegs 0 - 1))) (s.held 0) := by
  obtain ⟨s, e, f1, f2, f3, f4, f5⟩ : ∃ s : State, s.hbm = m ∧ s.fronding 0 = true ∧ s.held 0 = 1 ∧ s.frondSegs 0 = 2 ∧ s.isRoot 0 = true ∧ s.getF F.GLB_FROND_BASE_ADDR 0 0 = 0 :=
    ⟨{ u with hbm := m }, rfl, f1, f2, f3, f4, f5⟩
  refine ⟨s, f1, f2, f3, by rw [State.segLen, if_neg (by decide), hN], f4, ?_, ?_⟩
  · rw [State.segData, f4, if_pos rfl, State.frondBase, f5, f2, State.segLen, if_neg (by decide), ← hN, Nat.mul_one, Nat.mul_zero, Nat.zero_add]
  · rw [f5, f3, f2, e, hm, ← hd, ← hs]; rfl
theorem fronds_one : let s := (fronds 0).setF F.GLB_FROND_STAT_HELD 1
    s.fronding 0 = true ∧ s.held 0 = 1 ∧ s.frondSegs 0 = 2 ∧ s.isRoot 0 = true ∧ s.getF F.GLB_FROND_BASE_ADDR 0 0 = 0 := by decide +kernel
/-- Segment 1 of a root, all zeros, with its digest in the index. -/
theorem witness_TimeAndJobCommandsComplete_segment :
    ∃ s : State, s.fronding 0 = true ∧ s.held 0 = 1 ∧ s.frondSegs 0 = 2 ∧ s.segLen 0 1 = segBytes ∧ s.isRoot 0 = true ∧ s.segData 0 (s.held 0) = some (readBytes s.hbm segBytes segBytes) ∧
      sha384 (readBytes s.hbm segBytes segBytes) = segDigest (readBytes s.hbm (4096 * s.getF F.GLB_FROND_BASE_ADDR 0 0) (64 + 48 * (s.frondSegs 0 - 1))) (s.held 0) := by
  obtain ⟨e1, e2, e3, e4, e5⟩ := fronds_one
  revert e1 e2 e3 e4 e5; generalize (fronds 0).setF F.GLB_FROND_STAT_HELD 1 = u; intro e1 e2 e3 e4 e5
  generalize hN : segBytes = N
  have l := length_sha384 (readBytes [] N N)
  generalize hd : sha384 (readBytes [] N N) = d at l
  have w := readBytes_writeBytes_self d [] 64
  rw [l] at w
  exact segment_root u (writeBytes [] 64 d) N hN.symm (readBytes_above d [] 64 N N (by rw [l, ← hN]; decide)) d hd.symm w e1 e2 e3 e4 e5

theorem witness_SporeStepsComplete :
    let s := spore {}
    let c := cmdOf .started [2 ^ 56 * 0x69]
    let p := { (s.setF F.SPO_INTERVAL_MS 1).setF F.SPO_SLOT_CTRL_TRIG_EN 1 with cad := 1000000 }
    let q := spore { stage := 1 }
    let d := { spore { stage := 2 } with colls := [collOf 0] }
    s.sporeLive 0 = true ∧ s.isRoot 0 = true ∧ s.stage 0 = stageRunning ∧ (withCmd s c).cmd? 1 = some c ∧ c.phase = .started ∧ c.opc = 0x69 ∧ c.engine = 0 ∧ c.byte 24 < 8 ∧ c.num 25 39 = 0 ∧
    (withCmd s c).slotPart (c.byte 24) = some c.part ∧ (withCmd s c).getF F.SPO_SLOT_CTRL_EN 0 (c.byte 24) ≠ 0 ∧
    p.getF F.SPO_INTERVAL_MS 0 0 ≠ 0 ∧ p.getF F.SPO_INTERVAL_AUTO 0 0 = 0 ∧ (p.sp 0).lastResume + 1000000 * p.getF F.SPO_INTERVAL_MS 0 0 ≤ p.cad ∧ p.getF F.SPO_SLOT_CTRL_EN 0 0 = 1 ∧
    (p.getF F.SPO_SLOT_CTRL_TRIG_EN 0 0).testBit 0 = true ∧
    (q.sp 0).stage = 1 ∧ q.getF F.SPO_Q_TICK_TICK 0 0 ≤ q.cad ∧ q.quiesced = [] ∧ q.fioOn = false ∧
    (d.sp 0).stage = 2 ∧ (d.sp 0).mine = none ∧ (d.sp 0).upAt = none ∧ d.drained 0 = true ∧ (∀ k ∈ d.colls, k.slot = 0 → k.poison = false) := by decide +kernel
theorem witness_SporeStepsComplete_waves :
    let gets := fun (stage kind : Nat) => { spore { stage := stage, upAt := some 0, down := some (msg kind 4) } with qctx := [(0, qctx0 0 0 1)] }
    let member := fun (stage kind : Nat) => (gets stage kind).setF F.GLB_FROND_TREE_PARENT_VALID 1
    (∀ x ∈ [(2, 0x04), (3, 0x06), (4, 0x08), (4, 0x09), (5, 0x0B), (6, 0x0D)], (gets x.1 x.2).downMsg 0 x.2 = some (msg x.2 4) ∧ ((gets x.1 x.2).sp 0).stage = x.1 ∧
      ((gets x.1 x.2).sp 0).upAt ≠ none ∧ (gets x.1 x.2).sporeRecordOk 0 = true ∧ (gets x.1 x.2).sporeLive 0 = true) ∧
    (let u := member 4 0x09
     let t := (u.setSp 0 { u.sp 0 with down := none, upAt := none }).sendDown 0 (msg 0x09 4)
     let u := ((t.copyEnd 0).setErr F.SPO_ERR_ABANDONED 0 (t.slotPart 0)).addF F.SPO_ABANDON_CNT_COUNT 1 0 0
     u.isRoot 0 = false ∧ ((u.setSp 0 { u.sp 0 with stage := 0 }).sporeRecord 0 0x01 (u.curGen 0)).isRoot 0 = false) ∧
    (let u := member 5 0x0B
     let t := (u.setSp 0 { u.sp 0 with down := none, upAt := none }).sendDown 0 (msg 0x0B 4)
     ((t.setF F.SPO_GEN_JOB_GEN 4 0 0).setSp 0 { t.sp 0 with stage := 0, genWait := false }).isRoot 0 = false) := by decide +kernel
theorem witness_SporeStepsComplete_copies :
    let s := spore {}
    let im := s.captureImage 0
    let part := (spore { stage := 4, copying := true, image := some im }).setF F.SPO_HOST_SIZE_BYTES 0x7FFFFFFFF
    let v := { spore { stage := 7, restoring := true, down := some (msg 0x0F 0) } with qctx := [(0, qctx0 0 0 1)] }
    let w : HeldAccess := ⟨BitVec.ofNat 39 (2097152 - 1), [1]⟩
    let h := spore { copying := true, granules := [0], holds := [(0, 0, w)] }
    (part.sp 0).stage = 4 ∧ (part.sp 0).copying = true ∧ (part.sp 0).mine = none ∧ (part.sp 0).upAt = none ∧ (part.sp 0).image = some im ∧ part.partBytes 0 ≤ part.hostSlotSize 0 ∧
    (v.sp 0).recorded = false ∧ v.sporeRecordOk 0 = true ∧ v.downMsg 0 0x0F = some (msg 0x0F 0) ∧ (v.sp 0).restoring = true ∧ (v.sp 0).stage = 7 ∧ (msg 0x0F 0).flags.testBit 0 = false ∧
    (h.sp 0).copying = true ∧ 0 ∈ (h.sp 0).granules ∧ 0 ∉ (h.sp 0).copied ∧ (h.sp 0).holds = [(0, 0, w)] ∧ w.bytes ≠ [] ∧ (w.addr.toNat + w.bytes.length - 1) / 2097152 = 0 := by decide +kernel

theorem witness_PackageCommandsComplete :
    let a := 368 * 0x40000000 - 8
    let r := ready.setLichen (stackOf a) { cache := (linesIn a 8).map (fun k => (k, 1)) }
    let b := { brokers 1 with now := 0 }
    let g := ((((live.setF F.PWR_LIMIT_CAP_W 5000).setF F.PWR_BUDGET_W 904)))
    let w := { live.setF F.PRT_STAT_WIPING 1 with clus := (List.range 256).map (fun c => (c, { wiping := false })) }
    (r.hostLink 0).up = true ∧ r.getF F.MGT_STAT_BOOT = 1 ∧ r.partOfLink 0 = some 0 ∧ r.prtUnit 0 (unitOf a) = true ∧ unitOf (a + 7) = unitOf a ∧ r.lichReady (stackOf a) = true ∧ r.fencedAt a = false ∧
    (∀ k ∈ linesIn a 8, r.cacheState k ≠ 0) ∧ live.powered = true ∧ live.applying = false ∧ (58000 : BitVec 16).toNat ≤ 58000 ∧ (42000 : BitVec 16).toNat = 42000 ∧
    g.diesReady = true ∧ (∃ t r, (g.measurePower (sample 300)).settings = t :: r ∧ (g.measurePower (sample 300)).predict (sample 300) t ≤ 1000 * (g.measurePower (sample 300)).powerTarget) ∧
    b.brokerOn = true ∧ b.gov.epoch < b.cad / 10000000 ∧ b.getF F.MGT_STAT_BOOT = 1 ∧ b.brokerRanks = [0, 1] ∧ b.myRank b.brokerSlot = 1 ∧
    (99 : BitVec 8).toNat < 100 ∧ (6 : BitVec 3).toNat < 7 ∧ live.gov.badSensors = [] ∧ live.dieState 6 = 0 ∧
    w.getF F.PRT_STAT_WIPING 0 = 1 ∧ (∀ j, j < 8 → w.slotPart j = some 0 → w.slotState j ≠ slotDraining ∧ w.slotState j ≠ slotWiping) ∧
    (∀ c, c < 256 → w.prtGroup 0 (c / 8) = true → (w.clu c).wiping = false) := by
  refine ⟨by decide +kernel, by decide +kernel, by decide +kernel, by decide +kernel, by decide +kernel, by decide +kernel, by decide +kernel, by decide +kernel, by decide +kernel, by decide +kernel,
    by decide, by decide, by decide +kernel, ⟨_, _, rfl, by decide +kernel⟩, by decide +kernel⟩

theorem witness_ManagementCommandsComplete :
    let s := live.setF F.MGT_MCTP_EN_IFACES 1
    let b := booting .shipped 1
    let u : Update := { iface := 0, staged := [(0, 1)], len := 1, applying := true }
    let x : PldmData := ⟨BitVec.ofNat 32 (0x1800000 - 4096), List.replicate 4096 0, false⟩
    let m : State := { live with mgmt := { live.mgmt with spdm := [(0, { m := some [1], large := List.replicate 5 1 })], upd := some u, applied := true }, fuses := { live.fuses with lcs := 2 }, flash := { live.flash with keys := true } }
    b.coreUp = true ∧ b.boot = bootRom ∧ b.applyLcs.fuses.lcs ≠ 3 ∧ b.applyLcs.flash.image = .shipped ∧ live.powered = true ∧ live.boot = bootRun ∧ live.applying = false ∧
    s.mctpUp 0 = true ∧ s.mctpEnabled 0 = true ∧ s.mgmt.upd = none ∧ x.data.length ≤ 4096 ∧ x.off.toNat + x.data.length ≤ 0x1800000 ∧ x.last = false ∧ m.mgmt.applied = true ∧ m.mgmt.upd = some u ∧
    m.ifaceUp 0 = true ∧ (m.spdm 0).m = some [1] ∧ m.fuses.lcs = 2 ∧ m.flash.keys = true ∧ (m.spdm 0).large = List.replicate 5 1 ∧ (0xFFFFFFF8 : BitVec 32).toNat % 8 = 0 ∧
    writes s (.mgmt true) .aud 0 0x48 0 = true ∧ (s.setF F.LCH_STAT_READY 1).coreUp = true := by decide +kernel
/-- What the chunk size is is free: some request reads a part of the object, or none does. -/
theorem witness_ManagementCommandsComplete_chunk (h : 0 < Config.chunkBytes) : (([1] : List Byte).drop (0 * Config.chunkBytes)).take Config.chunkBytes ≠ [] := by
  rw [Nat.zero_mul, List.drop_zero]; obtain ⟨n, e⟩ := Nat.exists_eq_succ_of_ne_zero (Nat.pos_iff_ne_zero.mp h); rw [e]; simp

/-- A host read of one line in flight, fresh and 50 ms old; a descriptor at its end; MOVE at the head of its channel. -/
theorem witness_EngineStepsComplete :
    let p : RPart := ⟨64, 64, none⟩
    let r : MovRun := { desc := dsc 1 5 0 64 64 8, isOver := false, loads := [p], hostAt := some 0 }
    let h := { go job {} with tms := [(0, { q := [r.desc], run := some r })], now := 50000000 }
    h.movRun (.tile 0 0) = some r ∧ r.hostAt = some 0 ∧ r.loads = [p] ∧ p.data = none ∧ 50000000 + 0 ≤ h.now ∧
    ((kt { mops := [(0, .zero 7 0)] } {}).clu 0).mops = (0, .zero 7 0) :: [] ∧ ((kt { mops := [(0, .zero 7 0)] } {}).clu 0).pushPend = [] := by decide +kernel

/-- Two RUN threads past the deadline, of which one has not halted; and a free channel. -/
theorem witness_SolverStepsComplete :
    let c := solveCmd .started
    let s := withCmd (solveJob 0) c
    (s.chan 0).holder = none ∧ s.nextForChannel 0 = some c ∧ c.isBatch = false ∧ c.isSolver = true ∧ c.deadline ≠ 0 ∧ c.deadline ≤ ({ s with cad := 5 } : State).cad := by decide +kernel
theorem witness_ClusterAndQueueStepsComplete :
    let c := cmdOf .running runWords
    let s := { withCmd (live.setThr 0 0 { st := .waitRemote, remote := some { vec := false, reg := 3, parts := [⟨0, 8, none⟩] } }) c with cad := 5 }
    let n := ((runTargets c).filter (fun p => (s.thr p.1 p.2).st ≠ .halted)).length
    s.cmd? 1 = some c ∧ c.opc = 0x6A ∧ s.heldQueue c.queue = false ∧ c.phase = .running ∧ c.deadline ≠ 0 ∧ c.deadline ≤ s.cad ∧ c.late = false ∧ (∃ p ∈ runTargets c, (s.thr p.1 p.2).st ≠ .halted) ∧
    (runTargets c).all ((runTargets c).foldl (fun s p => s.stopThread p.1 p.2) (s.setCmd { c with late := true, aux := n })).threadHalted = false := by decide +kernel
theorem witness_MemoryAndFabricStepsComplete :
    let s := { ready with now := 3600000000000 * ready.getF F.HBM_CTRL_SCRUB_HOURS 15 }
    s.powered = true ∧ s.lichReady 15 = true ∧ 3600000000000 * s.getF F.HBM_CTRL_SCRUB_HOURS 15 + (s.lichen 15).scrubAt ≤ s.now ∧ s.clkOff .hbm 15 = false := by decide +kernel
theorem witness_CollectiveAndFieldStepsComplete :
    let c := chainCmd 0x71 0x1000 0x2000 2 1
    let s := withCmd { pair with comms := [comm1] } c
    ∀ d ∈ s.cmds, d.queue = c.queue → d.id < c.id → d.phase = .started → ¬ (0x70 ≤ d.opc ∧ d.opc ≤ 0x7D) := by decide +kernel

/-! ### Steps -/

/-- No command waits; the counter runs, or is held. -/
theorem witness_EmptyQueueTicks : live.pending = [] ∧ live.powered = true ∧ State.reset.powered = false ∧ live.time.slew = 0 ∧ live.time.hold = 0 ∧
    0 < ({ live with time := { live.time with hold := 1 } } : State).time.hold := by decide
/-- A state whose memory holds a byte is canonical, and a command is run on it. -/
theorem witness_StepKeepsCanonical : ({ ready with pending := [.romBoot] } : State).Canonical := by constructor <;> decide +kernel
/-- A command in front is run on the rest of its queue, and an empty queue leaves a nanosecond pass (log 48). -/
theorem test_step_front : outcome (Machine.step { State.reset with pending := [.inputPowerOn 48000, .romBoot] }) (fun s => (s.pending, s.pow.stage)) = some ([.romBoot], .soft) := by decide +kernel
theorem test_step_empty : outcome (Machine.step live) (fun s => (s.pending, s.now)) = some ([], 1) := by decide +kernel

end Sys2Proof.Tests
end

section
/-! PROOFS. Register accesses (R4 to R6, R13 to R21, R368, R438): which case of `State.busWrite`, `State.busRead` and `State.badAccess` an access
takes, said once for each case, and the statement put together from them. -/

namespace Sys2Proof.Machine

/-! ### Where an address lies -/

theorem blockBase_mod_page (b : Block) : blockBase b % 4096 = 0 := by cases b <;> rfl

/-- The offset that `pageAt` gives is the address's own, and its page is the address's 4 KiB page. -/
theorem pageAt_eq_some {a inst off : Nat} {b : Block} (h : pageAt a = some (b, inst, off)) :
    off = a % 4096 ∧ a / 4096 = blockBase b / 4096 + inst := by
  obtain ⟨b', -, h⟩ := List.exists_of_findSome?_eq_some h
  have hb := blockBase_mod_page b'
  split at h
  · next hin =>
    simp only [Bool.and_eq_true, decide_eq_true_eq] at hin
    simp only [Option.some.injEq, Prod.mk.injEq] at h
    obtain ⟨rfl, rfl, rfl⟩ := h
    omega
  · cases h

/-- CFG_DIGEST is one read-only field on every page. -/
theorem regRows_cfgDigest (b : Block) (inst : Nat) : regRows b inst 0x38 = [⟨0x38, 63, 0, .ro, false, false, 0⟩] := by
  cases b
  case slv => cases hb : isBatchCh inst <;> simp only [regRows, pageFields, hb] <;> decide
  all_goals rfl

/-- Each word of GLB.CFG_DIGEST is one read-only field. -/
theorem regRows_jobDigest (inst w : Nat) (hw : w < 6) : regRows .glb inst (0x100 + 8 * w) = [⟨0x100 + 8 * w, 63, 0, .ro, false, false, 0⟩] := by
  match w, hw with
  | 0, _ | 1, _ | 2, _ | 3, _ | 4, _ | 5, _ => rfl

/-- The words of GLB.CFG_DIGEST lie in the one page of GLB, at address 0. -/
theorem pageAt_jobDigest (w : Nat) (hw : w < 6) : pageAt (regAddr .glb 0 (0x100 + 8 * w)) = some (.glb, 0, 0x100 + 8 * w) := by
  match w, hw with
  | 0, _ | 1, _ | 2, _ | 3, _ | 4, _ | 5, _ => rfl

/-! ### An error bit that is set reads 1 -/

theorem State.irqPart_regs (s : State) (p : Nat) : (s.irqPart p).regs = s.regs := by
  unfold State.irqPart
  dsimp only
  split
  · split <;> rfl
  · split <;> rfl

theorem State.foldl_irqPart_regs (ps : List Nat) : ∀ s : State, (ps.foldl State.irqPart s).regs = s.regs := by
  induction ps with
  | nil => exact fun _ => rfl
  | cons p ps ih => exact fun s => (ih _).trans (s.irqPart_regs p)

theorem State.irqPage_regs (s : State) (b : Block) (inst concern : Nat) : (s.irqPage b inst concern).regs = s.regs := by
  unfold State.irqPage
  refine (State.foldl_irqPart_regs _ _).trans ?_
  split
  · exact State.irqPart_regs _ _
  · split <;> rfl

theorem State.irqSince_regs (s0 s : State) (b : Block) (inst : Nat) : (State.irqSince s0 s b inst).regs = s.regs := by
  unfold State.irqSince
  dsimp only
  split
  · rfl
  · exact State.irqPage_regs _ _ _ _

theorem State.errConcerns_regs (s : State) (f : Fld) (inst : Nat) (concern : Option Nat) : (s.errConcerns f inst concern).regs = s.regs := by
  cases concern <;> rfl

/-- An interrupt changes no register, so the bit reads as it was set. -/
theorem State.getF_setErr_same (s : State) (f : Fld) (inst : Nat) (concern : Option Nat) (h : f.Ok) :
    (s.setErr f inst concern).getF f inst = 1 % 2 ^ (f.hi + 1 - f.lo) := by
  have hregs : (s.setErr f inst concern).regs = (s.setF f 1 inst).regs := (State.irqSince_regs _ _ _ _).trans (State.errConcerns_regs _ _ _ _)
  rw [← State.getF_setF_same s f 1 inst 0 h]
  unfold State.getF State.regW
  rw [hregs]

theorem State.getF_setErr_holdOvf (s : State) (b : Block) (inst : Nat) : (s.setErr (errHoldOvf b) inst).getF (errHoldOvf b) inst = 1 :=
  s.getF_setErr_same (errHoldOvf b) inst none ⟨by show 63 ≤ 63 + 1; omega, by show 63 < 64; omega⟩

theorem State.getF_setErr_accBad (s : State) (b : Block) (inst : Nat) : (s.setErr (errAccBad b) inst).getF (errAccBad b) inst = 1 :=
  s.getF_setErr_same (errAccBad b) inst none ⟨by show 62 ≤ 62 + 1; omega, by show 62 < 64; omega⟩

/-! ### Masks of a register's rows -/

theorem rowMask_eq_zero {test : FieldRow → Bool} : ∀ {rows : List FieldRow}, (∀ r ∈ rows, test r = false) → rowMask rows test = 0
  | [], _ => rfl
  | r :: rows, h => by
    obtain ⟨hr, hrows⟩ := List.forall_mem_cons.mp h
    have ih := rowMask_eq_zero hrows
    unfold rowMask at ih ⊢
    rw [List.foldl_cons, hr]
    exact ih

/-- Every bit of a register is in a read-only field. -/
def AllReadOnly (rows : List FieldRow) : Prop := rowMask rows (fun r => r.acc = .ro) = 2 ^ 64 - 1

theorem AllReadOnly.ne_nil {rows : List FieldRow} (h : AllReadOnly rows) : rows ≠ [] := by
  rintro rfl
  exact absurd (show 0 = 2 ^ 64 - 1 from h) (by decide)

/-- Row of one read-only field of 64 bits. -/
theorem allReadOnly_singleton (off reset : Nat) (wc d : Bool) : AllReadOnly [⟨off, 63, 0, .ro, wc, d, reset⟩] := by
  simp [AllReadOnly, rowMask, setBits, bitsOf]

/-- Writes held for a read-only register do not show (R6, R16). -/
theorem heldValue_of_allReadOnly {rows : List FieldRow} (h : AllReadOnly rows) (present : Word) :
    ∀ l : List HeldWrite, heldValue rows l present = present := by
  have hro : word (rowMask rows (fun r => r.acc = .ro)) = BitVec.allOnes 64 := by rw [h]; rfl
  have hstep (x y w : Word) : (present &&& BitVec.allOnes 64) ||| (present &&& x &&& w) ||| (y &&& ~~~(BitVec.allOnes 64 ||| w)) = present := by
    ext i hi
    simp only [BitVec.getElem_or, BitVec.getElem_and, BitVec.getElem_not, BitVec.getElem_allOnes]
    cases present[i] <;> simp
  intro l
  unfold heldValue
  rw [hro]
  induction l with
  | nil => rfl
  | cons x l ih => rw [List.foldl_cons, hstep]; exact ih

/-! ### What a page without held writes is seen as -/

theorem State.mustHold_eq_false {s : State} {b : Block} {inst off : Nat} (h : s.mustHold b inst off = false) : s.heldOn b inst = [] := by
  simp only [State.mustHold, Bool.or_eq_false_iff, Bool.not_eq_false', List.isEmpty_iff] at h
  exact h.1.2

theorem State.seenBy_of_heldOn_nil {s : State} {b : Block} {inst : Nat} (h : s.heldOn b inst = []) (o : Origin) : s.seenBy o b inst = s := by
  simp [State.seenBy, h]

/-! ### A write, case by case -/

section Write

variable {s : State} {o : Origin} {a inst off : Nat} {b : Block} {v : Word}

theorem State.busWrite_of_pageAt_none (hs : s.serves o = true) (hp : pageAt a = none) :
    s.busWrite o a v = (s.auditReg o a 0 v 0 fIgnored, 0) := by
  simp [State.busWrite, hs, hp]

theorem State.busWrite_of_regRows_nil (hs : s.serves o = true) (hp : pageAt a = some (b, inst, off)) (hr : regRows b inst off = []) :
    s.busWrite o a v = (s.auditReg o a 0 v 0 fIgnored, 0) := by
  simp [State.busWrite, hs, hp, hr]

theorem State.busWrite_of_refused (hs : s.serves o = true) (hp : pageAt a = some (b, inst, off)) (hr : regRows b inst off ≠ [])
    (hn : s.reaches o b inst off = false ∨ (s.seenBy o b inst).mayWrite o b inst off v = false ∨ (s.seenBy o b inst).blocked o b off = true) :
    s.busWrite o a v = (s.auditReg o a (s.regHeld o b inst off) v (s.regHeld o b inst off) fIgnored, s.regHeld o b inst off) := by
  have hn' : (!s.reaches o b inst off || !(s.seenBy o b inst).mayWrite o b inst off v || (s.seenBy o b inst).blocked o b off) = true := by
    rcases hn with h | h | h <;> simp [h]
  have hr' : (regRows b inst off).isEmpty = false := by simpa using hr
  simp only [State.busWrite, hs, hp, hr', hn', Bool.not_true, Bool.false_eq_true, if_false, if_true]

/-- A write that is taken in is held or applied. -/
theorem State.busWrite_of_taken (hs : s.serves o = true) (hp : pageAt a = some (b, inst, off)) (hr : regRows b inst off ≠ [])
    (hreach : s.reaches o b inst off = true) (hmay : (s.seenBy o b inst).mayWrite o b inst off v = true)
    (hown : (s.seenBy o b inst).blocked o b off = false) :
    s.busWrite o a v = if s.mustHold b inst off then s.holdWrite o a b inst off v else s.applyWrite o a b inst off v v 0 := by
  simp [State.busWrite, hs, hp, hr, hreach, hmay, hown]

theorem State.busWrite_of_writeTaken (hp : pageAt a = some (b, inst, off)) (hr : regRows b inst off ≠ []) (h : WriteTaken s o b inst off v) :
    s.busWrite o a v = s.applyWrite o a b inst off v v 0 := by
  have hseen := State.seenBy_of_heldOn_nil (State.mustHold_eq_false h.now) o
  rw [State.busWrite_of_taken h.serves hp hr h.reaches (by rw [hseen]; exact h.allowed) (by rw [hseen]; exact h.own), h.now]
  rfl

theorem State.holdWrite_of_room (h : (s.heldOn b inst).length < 16) :
    ∃ value : Word, (s.holdWrite o a b inst off v).1 =
      { s with holds := spPut [] s.holds (blockBase b / 4096 + inst) (s.heldOn b inst ++
          [{ origin := o, addr := a, place := (s.seenBy o b inst).regPlace o b inst off, written := v, value := value }]) } := by
  unfold State.holdWrite
  rw [if_neg (Nat.not_le.mpr h)]
  exact ⟨_, rfl⟩

theorem State.holdWrite_of_full (h : 16 ≤ (s.heldOn b inst).length) :
    (s.holdWrite o a b inst off v).1 =
      (s.setErr (errHoldOvf b) inst).auditReg o a (s.regHeld o b inst off) v (s.regHeld o b inst off) fDiscarded := by
  unfold State.holdWrite
  rw [if_pos h]

/-- The value a write's entry shows as applied: the register's after it, with the write-only bits as they were written. -/
theorem State.getLsbD_applyWrite (written value : Word) (flags : Nat) {k : Nat} (hk : k < 64) :
    (s.applyWrite o a b inst off written value flags).2.getLsbD k =
      if (rowMask (regRows b inst off) (fun r => r.acc = .wo)).testBit k then written.getLsbD k
      else ((s.regWrite o b inst off value).regValue o b inst off).getLsbD k := by
  unfold State.applyWrite word
  dsimp only
  rw [BitVec.getLsbD_ofNat, Nat.testBit_or, Nat.testBit_and, Nat.testBit_and, Nat.testBit_xor, Nat.testBit_two_pow_sub_one, BitVec.testBit_toNat, BitVec.testBit_toNat]
  cases hm : (rowMask (regRows b inst off) (fun r => r.acc = .wo)).testBit k <;> simp [hk]

/-- An applied write has its effect and one audit entry. -/
theorem State.applyWrite_eq (s : State) (o : Origin) (a : Nat) (b : Block) (inst off : Nat) (written value : Word) (flags : Nat) :
    ∃ fl : Nat, (s.applyWrite o a b inst off written value flags).1 =
      (s.regWrite o b inst off value).auditReg o a (s.regValue o b inst off) written (s.applyWrite o a b inst off written value flags).2 fl :=
  ⟨_, rfl⟩

end Write

/-! ### A read, case by case -/

section Read

variable {s : State} {o : Origin} {a inst off : Nat} {b : Block}

theorem State.busRead_of_unseen (hp : pageAt a = some (b, inst, off)) (h : s.canSee o b inst = false) : s.busRead o a = 0 := by
  simp [State.busRead, hp, h]

/-- A read-only register reads as its present value, whatever is held for it. -/
theorem State.busRead_of_allReadOnly (hs : s.serves o = true) (hp : pageAt a = some (b, inst, off)) (hsee : s.canSee o b inst = true)
    (hown : (s.seenBy o b inst).blocked o b off = false) (hro : AllReadOnly (regRows b inst off)) :
    s.busRead o a = (s.seenBy o b inst).regValue o b inst off := by
  have hr : (regRows b inst off).isEmpty = false := by simpa using hro.ne_nil
  simp only [State.busRead, hs, hp, hsee, hown, hr, Bool.not_true, Bool.or_self, Bool.false_eq_true, if_false]
  exact heldValue_of_allReadOnly hro _ _

end Read

/-- CFG_DIGEST is no slot field of any page. -/
theorem slotField_cfgDigest (b : Block) : slotField b 0x38 = false := by cases b <;> rfl

theorem State.regValue_cfgDigest (s : State) (o : Origin) (b : Block) (inst : Nat) : s.regValue o b inst 0x38 = s.cfgDigest b inst := by
  simp [State.regValue]

theorem State.regValue_jobDigest (s : State) (o : Origin) (w : Nat) (hw : w < 6) :
    s.regValue o .glb 0 (0x100 + 8 * w) = wordOf (s.jobDigest (s.selSlot o .glb)) w := by
  match w, hw with
  | 0, _ | 1, _ | 2, _ | 3, _ | 4, _ | 5, _ => rfl

theorem State.busRead_cfgDigest {s : State} {o : Origin} {a inst off : Nat} {b : Block} (hs : s.serves o = true)
    (hp : pageAt (0x38 + 4096 * a) = some (b, inst, off)) (hsee : s.canSee o b inst = true) :
    s.busRead o (0x38 + 4096 * a) = (s.seenBy o b inst).cfgDigest b inst := by
  obtain rfl : off = 0x38 := by have := (pageAt_eq_some hp).1; omega
  have hro : AllReadOnly (regRows b inst 0x38) := by rw [regRows_cfgDigest]; exact allReadOnly_singleton _ _ _ _
  rw [State.busRead_of_allReadOnly hs hp hsee (by simp [State.blocked, slotField_cfgDigest]) hro, State.regValue_cfgDigest]

theorem State.busRead_jobDigest {s : State} {o : Origin} {w : Nat} (hw : w < 6) (hs : s.serves o = true) (hsee : s.canSee o .glb 0 = true)
    (hown : (s.seenBy o .glb 0).ownSlot o ((s.seenBy o .glb 0).selSlot o .glb) = true) :
    s.busRead o (regAddr .glb 0 (0x100 + 8 * w)) = wordOf ((s.seenBy o .glb 0).jobDigest ((s.seenBy o .glb 0).selSlot o .glb)) w := by
  have hro : AllReadOnly (regRows .glb 0 (0x100 + 8 * w)) := by rw [regRows_jobDigest 0 w hw]; exact allReadOnly_singleton _ _ _ _
  rw [State.busRead_of_allReadOnly hs (pageAt_jobDigest w hw) hsee (by simp [State.blocked, hown]) hro, State.regValue_jobDigest _ _ w hw]

/-! ### The commands -/

theorem exec_registerWrite (o : Origin) (a : BitVec 28) (v : Word) (s : State) :
    exec (.registerWrite o a v) s = .next (s.busWrite o a.toNat v).1 := rfl

theorem exec_cfgDigestRead (o : Origin) (page : BitVec 16) (s : State) :
    exec (.cfgDigestRead o page) s = .next (s.emit (.regValue (s.busRead o (0x38 + 4096 * page.toNat)))) := rfl

theorem exec_jobDigestRead (o : Origin) (w : BitVec 3) (s : State) :
    exec (.jobDigestRead o w) s =
      .next (s.emit (.regValue (if w.toNat < 6 then s.busRead o (regAddr .glb 0 (0x100 + 8 * w.toNat)) else 0))) := rfl

theorem exec_badSizeAccess (o : Origin) (a : BitVec 28) (size : BitVec 8) (w : Option Word) (s : State) :
    exec (.badSizeAccess o a size w) s = execBadSizeAccess o a size w s := rfl

theorem exec_heldWritesApply (page : BitVec 16) (s : State) : exec (.heldWritesApply page) s = execHeldWritesApply page s := rfl

/-- An aligned 8-byte read is the read it names. -/
theorem exec_badSizeAccess_alignedRead (o : Origin) {a : BitVec 28} (s : State) (ha : a.toNat % 8 = 0) :
    exec (.badSizeAccess o a 8 none) s = .next (s.emit (.regValue (s.busRead o a.toNat))) := by
  rw [exec_badSizeAccess]
  simp [execBadSizeAccess, ha]

/-- An aligned 8-byte write is the write it names. -/
theorem exec_badSizeAccess_alignedWrite (o : Origin) {a : BitVec 28} (v : Word) (s : State) (ha : a.toNat % 8 = 0) :
    exec (.badSizeAccess o a 8 (some v)) s = exec (.registerWrite o a v) s := by
  rw [exec_badSizeAccess, exec_registerWrite]
  simp [execBadSizeAccess, ha]

/-- Any other access reads as zeros and is discarded as R5 says. -/
theorem exec_badSizeAccess_bad {s : State} {o : Origin} {a : BitVec 28} {size : BitVec 8} (hs : s.serves o = true)
    (hbad : size ≠ 8 ∨ a.toNat % 8 ≠ 0) (w : Option Word) :
    exec (.badSizeAccess o a size w) s =
      .next (if w.isSome then s.badAccess o a.toNat w else (s.badAccess o a.toNat w).emit (.regValue 0)) := by
  have hc : ¬ ((size = 8 && a.toNat % 8 = 0) = true) := by
    rw [Bool.and_eq_true, decide_eq_true_eq, decide_eq_true_eq]
    exact fun ⟨hsize, ha⟩ => hbad.elim (· hsize) (· ha)
  rw [exec_badSizeAccess]
  simp only [execBadSizeAccess, if_neg hc, hs, if_true]

section HeldWrites

variable {s : State} {page : BitVec 16} {b : Block} {inst off : Nat} (hp : pageAt (4096 * page.toNat) = some (b, inst, off))
  (hclk : s.clkOff b inst = false) (hqmg : b = .qmg → s.getF F.QMG_STAT_READY ≠ 0)
include hp hclk hqmg

theorem exec_heldWritesApply_nil (h : spGet [] s.holds page.toNat = []) :
    exec (.heldWritesApply page) s = .next { s with holds := spPut [] s.holds page.toNat [] } := by
  have hq : ¬ (b = .qmg ∧ s.getF F.QMG_STAT_READY = 0) := fun hq => hqmg hq.1 hq.2
  rw [exec_heldWritesApply]
  simp [execHeldWritesApply, hp, hclk, hq, h]

/-- The one write held is applied with the value it is held to, where no field of its register takes the written word itself. -/
theorem exec_heldWritesApply_singleton {x : HeldWrite} (h : spGet [] s.holds page.toNat = [x])
    (hrows : ∀ r ∈ regRows b inst (x.addr % 4096), r.acc ≠ .wo ∧ r.acc ≠ .w1c) :
    exec (.heldWritesApply page) s = .next
      (({ s with holds := spPut [] s.holds page.toNat [] } : State).applyWrite x.origin x.addr b inst (x.addr % 4096) x.written x.value fHeld).1 := by
  have hq : ¬ (b = .qmg ∧ s.getF F.QMG_STAT_READY = 0) := fun hq => hqmg hq.1 hq.2
  have hraw : rowMask (regRows b inst (x.addr % 4096)) (fun r => r.acc = .wo || r.acc = .w1c) = 0 :=
    rowMask_eq_zero fun r hr => by simp [hrows r hr]
  have hvalue : (x.value &&& ~~~word 0) ||| (x.written &&& word 0) = x.value := by
    rw [show word 0 = 0#64 from rfl, BitVec.not_zero, BitVec.and_allOnes, BitVec.and_zero, BitVec.or_zero]
  rw [exec_heldWritesApply]
  simp only [execHeldWritesApply, hp, hclk, hq, h, hraw, hvalue, Bool.false_or, Bool.and_eq_true, decide_eq_true_eq, if_false, List.foldl_cons, List.foldl_nil]

end HeldWrites

end Sys2Proof.Machine

open Sys2Proof Sys2Proof.Machine

/-- Settles O45: each clause is one case of `State.busWrite`, `State.busRead`, `State.badAccess` or of the fold over the held writes. -/
theorem registerAccesses : Obligations.RegisterAccesses := by
  unfold Obligations.RegisterAccesses
  refine ⟨fun o a v s => ⟨fun hs hp => ?unmapped, fun b inst off hp hs => ⟨fun hr => ?noRegister, fun hr hn => ?refused, fun hr hreach hmay hown hhold => ?held, fun hr ht => ?taken⟩,
    fun page b inst off hp hclk hqmg => ⟨exec_heldWritesApply_nil hp hclk hqmg, fun h hl hrows => ?heldApplied⟩,
    fun ha => ⟨exec_badSizeAccess_alignedRead o s ha, exec_badSizeAccess_alignedWrite o v s ha⟩,
    fun size hs hbad => ⟨fun b inst _ _ => s.getF_setErr_accBad b inst, ?badRead, ?badWrite⟩⟩,
    fun o s => ⟨fun page b inst off hp hs => ⟨fun hsee => ?pageDigest, fun hsee => ?unseenPage⟩, fun w hs hsee hown => ?jobDigest⟩⟩
  case unmapped => rw [exec_registerWrite, State.busWrite_of_pageAt_none hs hp]
  case noRegister => rw [exec_registerWrite, State.busWrite_of_regRows_nil hs hp hr]
  case refused => rw [exec_registerWrite, State.busWrite_of_refused hs hp hr hn]
  case held =>
    have hpage := (pageAt_eq_some hp).2
    rw [exec_registerWrite, State.busWrite_of_taken hs hp hr hreach hmay hown, if_pos hhold, hpage]
    refine ⟨fun hl => ?_, fun hl => ⟨?_, s.getF_setErr_holdOvf b inst⟩⟩
    · obtain ⟨value, e⟩ := State.holdWrite_of_room (o := o) (a := a.toNat) (off := off) (v := v) hl
      exact ⟨value, congrArg Host.Outcome.next e⟩
    · exact congrArg Host.Outcome.next (State.holdWrite_of_full hl)
  case taken =>
    rw [exec_registerWrite, State.busWrite_of_writeTaken hp hr ht]
    obtain ⟨flags, e⟩ := s.applyWrite_eq o a.toNat b inst off v v 0
    exact ⟨_, flags, congrArg Host.Outcome.next e, fun k hk => State.getLsbD_applyWrite v v 0 hk⟩
  case heldApplied =>
    rw [exec_heldWritesApply_singleton hp hclk hqmg hl hrows]
    obtain ⟨flags, e⟩ := ({ s with holds := spPut [] s.holds page.toNat [] } : State).applyWrite_eq h.origin h.addr b inst (h.addr % 4096) h.written h.value fHeld
    exact ⟨_, flags, congrArg Host.Outcome.next e⟩
  case badRead => exact exec_badSizeAccess_bad hs hbad none
  case badWrite => exact exec_badSizeAccess_bad hs hbad (some v)
  case pageDigest => rw [exec_cfgDigestRead, State.busRead_cfgDigest hs hp hsee]
  case unseenPage => rw [exec_cfgDigestRead, State.busRead_of_unseen hp hsee]
  case jobDigest =>
    rw [exec_jobDigestRead]
    split
    · next hw => rw [State.busRead_jobDigest hw hs hsee hown]; rfl
    · rfl

end

section
/-! PROOFS. Die heat and regulators (R212, R415 to R418, R469, R470, Table 16-4): what an error bit changes, what a job fault and a fence can reach, what
each step of a die's sample and of a rail's reading does, and the statement put together from them. -/

namespace Sys2Proof.Machine

/-! ### What an error bit changes (R11, R12) -/

theorem State.irqPart_form (s : State) (p : Nat) : ∃ o, s.irqPart p = { s with out := o } := by
  unfold State.irqPart
  dsimp only
  split
  · split <;> exact ⟨_, rfl⟩
  · split <;> exact ⟨_, rfl⟩

theorem State.foldl_irqPart_form (ps : List Nat) : ∀ s : State, ∃ o, ps.foldl State.irqPart s = { s with out := o } := by
  induction ps with
  | nil => exact fun s => ⟨s.out, rfl⟩
  | cons p ps ih =>
    intro s
    obtain ⟨o, hp⟩ := s.irqPart_form p
    obtain ⟨o', hps⟩ := ih { s with out := o }
    exact ⟨o', by rw [List.foldl_cons, hp, hps]⟩

theorem State.irqPage_form (s : State) (b : Block) (inst concern : Nat) : ∃ o, s.irqPage b inst concern = { s with out := o } := by
  unfold State.irqPage
  dsimp only
  split
  · next p _ =>
    obtain ⟨o, hp⟩ := s.irqPart_form p
    rw [hp]
    exact State.foldl_irqPart_form _ _
  · split <;> exact State.foldl_irqPart_form _ _

/-- An error bit changes its own register, whom the bits concern, and what is sent. -/
theorem State.setErr_form (s : State) (f : Fld) (inst : Nat) (concern : Option Nat) :
    ∃ e o, s.setErr f inst concern = { s.setF f 1 inst with errFor := e, out := o } := by
  have hconcerns : ∃ e, (s.setF f 1 inst).errConcerns f inst concern = { s.setF f 1 inst with errFor := e } := by
    cases concern <;> exact ⟨_, rfl⟩
  obtain ⟨e, he⟩ := hconcerns
  unfold State.setErr State.irqSince
  dsimp only
  rw [he]
  split
  · exact ⟨e, _, rfl⟩
  · obtain ⟨o, ho⟩ := State.irqPage_form { s.setF f 1 inst with errFor := e } f.blk inst
      (State.errParts { s.setF f 1 inst with errFor := e } f.blk inst _)
    exact ⟨e, o, ho⟩

section SetErr

variable (s : State) (f : Fld) (inst : Nat) (concern : Option Nat)

theorem State.setErr_regs : (s.setErr f inst concern).regs = (s.setF f 1 inst).regs := by
  obtain ⟨e, o, h⟩ := s.setErr_form f inst concern; rw [h]

@[simp] theorem State.setErr_pow : (s.setErr f inst concern).pow = s.pow := by
  obtain ⟨e, o, h⟩ := s.setErr_form f inst concern; rw [h]; rfl

@[simp] theorem State.setErr_gov : (s.setErr f inst concern).gov = s.gov := by
  obtain ⟨e, o, h⟩ := s.setErr_form f inst concern; rw [h]; rfl

/-- A field reads after an error bit is set as after the bit alone is written. -/
theorem State.getF_setErr (g : Fld) (i k : Nat) : (s.setErr f inst concern).getF g i k = (s.setF f 1 inst).getF g i k := by
  unfold State.getF State.regW
  rw [s.setErr_regs f inst concern]

theorem State.getF_setErr_other (g : Fld) (i k : Nat) (h : regKey f.blk inst f.off 0 ≠ regKey g.blk i g.off k) :
    (s.setErr f inst concern).getF g i k = s.getF g i k := by
  rw [State.getF_setErr, State.getF_setF_other _ _ _ _ _ _ _ _ h]

end SetErr

/-! ### Changes that stay within the pages of some blocks -/

/-- Whether a place of the register file is in a page of a block, in whatever bank. -/
def Block.HasKey (b : Block) (k : Nat) : Prop := blockBase b ≤ k % 2 ^ 28 ∧ k % 2 ^ 28 < blockBase b + 4096 * blockPages b

theorem Block.hasKey_regKey (b : Block) {inst off : Nat} (bank : Nat) (hi : inst < blockPages b) (ho : off < 4096) : b.HasKey (regKey b inst off bank) := by
  have hend : blockBase b + 4096 * blockPages b ≤ 2 ^ 28 := by cases b <;> decide
  unfold Block.HasKey regKey regAddr
  omega

/-- The power state stays, and no register changes outside the pages of the blocks listed. -/
def State.Within (bs : List Block) (s s' : State) : Prop :=
  s'.pow = s.pow ∧ ∀ d k, (∀ b ∈ bs, ¬ b.HasKey k) → spGet d s'.regs k = spGet d s.regs k

section Within

variable {bs : List Block} {s s' s'' : State}

theorem State.Within.of_eq (hpow : s'.pow = s.pow) (hregs : s'.regs = s.regs) : State.Within bs s s' := ⟨hpow, fun _ _ _ => by rw [hregs]⟩

theorem State.Within.trans (h : State.Within bs s s') (h' : State.Within bs s' s'') : State.Within bs s s'' :=
  ⟨h'.1.trans h.1, fun d k hk => (h'.2 d k hk).trans (h.2 d k hk)⟩

theorem State.Within.mono {cs : List Block} (hsub : bs ⊆ cs) (h : State.Within bs s s') : State.Within cs s s' :=
  ⟨h.1, fun d k hk => h.2 d k fun b hb => hk b (hsub hb)⟩

theorem State.within_setF (f : Fld) (v : Nat) {inst : Nat} (bank : Nat) (hb : f.blk ∈ bs) (hi : inst < blockPages f.blk) (ho : f.off < 4096) :
    State.Within bs s (s.setF f v inst bank) :=
  ⟨rfl, fun _ _ hk => spGet_spPut_other _ _ _ _ _ _ fun e => hk f.blk hb (e ▸ f.blk.hasKey_regKey bank hi ho)⟩

theorem State.within_setErr (f : Fld) {inst : Nat} (concern : Option Nat) (hb : f.blk ∈ bs) (hi : inst < blockPages f.blk) (ho : f.off < 4096) :
    State.Within bs s (s.setErr f inst concern) :=
  (State.within_setF f 1 0 hb hi ho).trans (.of_eq (s.setErr_pow f inst concern) (s.setErr_regs f inst concern))

theorem State.within_foldl {α : Type} {f : State → α → State} : ∀ (l : List α) (s : State), (∀ a ∈ l, ∀ u, State.Within bs u (f u a)) →
    State.Within bs s (l.foldl f s)
  | [], _, _ => .of_eq rfl rfl
  | a :: l, s, h => (h a List.mem_cons_self s).trans (State.within_foldl l (f s a) fun x hx => h x (List.mem_cons_of_mem a hx))

theorem State.Within.ite {c : Prop} [Decidable c] (ht : State.Within bs s s') (he : State.Within bs s s'') : State.Within bs s (if c then s' else s'') := by
  split
  · exact ht
  · exact he

/-- A step that a condition guards. -/
theorem State.Within.thenIf {c : Prop} [Decidable c] (h : State.Within bs s s') (h' : State.Within bs s' s'') :
    State.Within bs s (if c then s'' else s') := .ite (h.trans h') h

/-- A field of a page of none of the blocks reads as before. -/
theorem State.Within.getF (h : State.Within bs s s') (g : Fld) (i k : Nat) (hg : ∀ b ∈ bs, ¬ b.HasKey (fldKey g i k)) : s'.getF g i k = s.getF g i k := by
  unfold State.getF State.regW
  rw [show spGet _ s'.regs (regKey g.blk i g.off k) = _ from h.2 _ _ hg]

end Within

/-! ### What a job fault reaches (R162, R237, R372) -/

theorem State.releaseMtx_within (bs : List Block) (s : State) (c t : Nat) : State.Within bs s (s.releaseMtx c t) := by
  unfold State.releaseMtx; dsimp only; split <;> exact .of_eq rfl rfl

theorem State.releaseTq_within (bs : List Block) (s : State) (c t : Nat) : State.Within bs s (s.releaseTq c t) := by
  unfold State.releaseTq; dsimp only; split <;> exact .of_eq rfl rfl

theorem State.restThread7_within (bs : List Block) (s : State) (c : Nat) : State.Within bs s (s.restThread7 c) := by
  unfold State.restThread7
  have hset : State.Within bs s (s.setThr c 7 { s.thr c 7 with st := .reserved, wait := .none, adv := 0 }) := .of_eq rfl rfl
  exact .ite (.of_eq rfl rfl) ((hset.thenIf (State.releaseMtx_within bs _ c 7)).thenIf (State.releaseTq_within bs _ c 7))

theorem State.leaveChannel_within (s : State) {ch : Nat} (hch : ch < 64) : State.Within [.slv] s (s.leaveChannel ch) := by
  unfold State.leaveChannel
  have hbusy : State.Within [.slv] s (s.addF F.SLV_BUSY_TICKS_COUNT (s.cad - (s.chan ch).busyAt) ch) :=
    State.within_setF _ _ _ (by decide) hch (by decide)
  have hrest := hbusy.trans (State.within_foldl (s.boundClusters ch) _ fun c _ u => u.restThread7_within _ c)
  exact .trans (.thenIf (.ite (.of_eq rfl rfl) hrest) (State.within_setF _ _ _ (by decide) hch (by decide))) (.of_eq rfl rfl)

theorem State.slvLast_within (s : State) {ch : Nat} (hch : ch < 64) (tag status cause : Nat) : State.Within [.slv] s (s.slvLast ch tag status cause) :=
  ((State.within_setF F.SLV_LAST_STATUS _ _ (by decide) hch (by decide)).trans (State.within_setF F.SLV_LAST_TAG _ _ (by decide) hch (by decide))).trans
    (State.within_setF F.SLV_LAST_CAUSE _ _ (by decide) hch (by decide))

theorem State.stopFor_within (s : State) (c : Cmd) (st : Nat) : State.Within [.slv] s (s.stopFor c st) := by
  unfold State.stopFor
  refine .ite ?solver (.ite ?mover (.of_eq rfl rfl))
  case solver =>
    have hch : c.engine < 64 := bitsOf_lt _ 53 48
    have hleave := State.within_foldl (f := State.leaveChannel) ((List.range 64).filter fun ch => (s.chan ch).holder = some c.id) s
      fun ch hmem u => u.leaveChannel_within (List.mem_range.mp (List.mem_filter.mp hmem).1)
    have hfree := hleave.trans (.of_eq (s' := (State.free _).2) rfl rfl)
    exact .trans (hfree.thenIf (State.slvLast_within _ hch _ _ _)) (.of_eq rfl rfl)
  case mover => exact State.within_foldl _ _ fun ch _ u => .thenIf (.of_eq rfl rfl) (.of_eq rfl rfl)

theorem State.faultCmds_within (s : State) (q : Cmd → Bool) (st : Nat) : State.Within [.slv] s (s.faultCmds q st) := by
  unfold State.faultCmds
  have hloose := State.within_foldl (bs := [.slv]) (f := fun (s : State) (r : Nat × Nat) => s.hbmLoose r.1 r.2)
    ((s.cmds.filter (Cmd.faultable q)).flatMap fun c => c.outs) s fun _ _ _ => .of_eq rfl rfl
  have hstop (u : State) := State.within_foldl (f := fun (s : State) (c : Cmd) => s.stopFor c st) (s.cmds.filter (Cmd.faultable q)) u fun c _ v => v.stopFor_within c st
  exact (hloose.trans (hstop _)).trans (.of_eq rfl rfl)

/-- The blocks whose registers a job fault may change. -/
abbrev faultBlocks : List Block := [.glb, .slv, .spo]

theorem State.jobFault_within (s : State) (j : Nat) (f : JobFault) : State.Within faultBlocks s (s.jobFault j f) := by
  unfold State.jobFault
  have hstage : State.Within faultBlocks s (s.free.2.setStage j stageFaulted) := State.within_setF _ _ _ (by decide) (by decide) (by decide)
  exact .ite (.of_eq rfl rfl) ((hstage.thenIf (State.within_setErr _ _ (by decide) (by decide) (by decide))).trans
    ((State.faultCmds_within _ _ _).mono (by decide)))

theorem State.faultJobs_within (s : State) (f : JobFault) (test : Nat → Bool) : State.Within faultBlocks s (s.faultJobs f test) :=
  State.within_foldl _ _ fun j _ u => .thenIf (.of_eq rfl rfl) (u.jobFault_within j f)

/-! ### Fenced stacks (R212) -/

abbrev fenceBlocks : List Block := [.lch, .hbm, .glb, .slv, .spo]

theorem State.fenceStack_within (s : State) {st : Nat} (hst : st < 16) : State.Within fenceBlocks s (s.fenceStack st) := by
  have hbit : State.Within fenceBlocks s (s.setF F.LCH_STAT_FENCED 1 st) := State.within_setF _ _ _ (by decide) hst (by decide)
  have hlch := hbit.trans (State.within_setErr F.LCH_ERR_FENCED none (by decide) hst (by decide))
  have hhbm := hlch.trans (State.within_setErr F.HBM_ERR_FENCED none (by decide) hst (by decide))
  exact hhbm.trans ((State.faultJobs_within _ _ _).mono (by decide))

/-- A fence sets its own stack's FENCED bit and no other stack's. -/
theorem State.getF_fenceStack (s : State) (st : Nat) {k : Nat} (hk : k < 16) :
    (s.fenceStack st).getF F.LCH_STAT_FENCED k = if k = st then 1 else s.getF F.LCH_STAT_FENCED k := by
  have hjobs : ∀ b ∈ faultBlocks, ¬ b.HasKey (fldKey F.LCH_STAT_FENCED k) := by
    simp [Block.HasKey, fldKey, regKey, regAddr, blockBase, blockPages]; omega
  have hlch : regKey .lch st 0x20 0 ≠ regKey .lch k 0x18 0 := by simp [regKey, regAddr, blockBase]; omega
  have hhbm : regKey .hbm st 0x20 0 ≠ regKey .lch k 0x18 0 := by simp [regKey, regAddr, blockBase]; omega
  unfold State.fenceStack
  rw [(State.faultJobs_within _ _ _).getF _ _ _ hjobs, State.getF_setErr_other _ _ _ _ _ _ _ hhbm, State.getF_setErr_other _ _ _ _ _ _ _ hlch]
  split
  · next h => rw [h]; exact State.getF_setF_same s _ 1 _ _ ⟨by decide, by decide⟩
  · next h => exact State.getF_setF_other _ _ _ _ _ _ _ _ (by simp [regKey, regAddr, blockBase]; omega)

theorem State.foldl_fenceStack_within (s : State) : State.Within fenceBlocks s ((List.range 16).foldl State.fenceStack s) :=
  State.within_foldl _ _ fun _ h u => u.fenceStack_within (List.mem_range.mp h)

theorem State.getF_foldl_fenceStack (s : State) : ∀ n ≤ 16, ∀ k < n, ((List.range n).foldl State.fenceStack s).getF F.LCH_STAT_FENCED k = 1 := by
  intro n
  induction n with
  | zero => exact fun _ k hk => absurd hk (Nat.not_lt_zero k)
  | succ n ih =>
    intro hn k hk
    rw [List.range_succ, List.foldl_append, List.foldl_cons, List.foldl_nil, State.getF_fenceStack _ n (by omega)]
    split
    · rfl
    · exact ih (by omega) k (by omega)

/-! ### Bits of a field that holds one value for each die -/

theorem bitsOf_mod_two_pow (v : Nat) {w hi : Nat} (lo : Nat) (h : hi < w) : bitsOf (v % 2 ^ w) hi lo = bitsOf v hi lo := by
  apply Nat.eq_of_testBit_eq
  intro i
  rw [testBit_bitsOf, testBit_bitsOf, Nat.testBit_mod_two_pow]
  by_cases c : i < hi + 1 - lo
  · rw [decide_eq_true (show lo + i < w by omega), Bool.true_and]
  · simp [c]

/-- Sets bits [hi:lo] of a field. -/
def State.setLane (s : State) (f : Fld) (hi lo x : Nat) : State := s.setF f (setBits (s.getF f) hi lo x)

section SetLane

variable (s : State) {f : Fld} {hi lo : Nat} (x : Nat) (hf : f.Ok) (hlo : lo ≤ hi + 1)
include hf hlo

theorem State.bitsOf_setLane_same (hhi : hi < f.hi + 1 - f.lo) (hx : x < 2 ^ (hi + 1 - lo)) : bitsOf ((s.setLane f hi lo x).getF f) hi lo = x := by
  unfold State.setLane
  rw [State.getF_setF_same _ _ _ _ _ hf, bitsOf_mod_two_pow _ _ hhi, bitsOf_setBits_same _ _ _ _ hlo, Nat.mod_eq_of_lt hx]

theorem State.bitsOf_setLane_other {hi' lo' : Nat} (hhi : hi' < f.hi + 1 - f.lo) (hd : hi < lo' ∨ hi' < lo) :
    bitsOf ((s.setLane f hi lo x).getF f) hi' lo' = bitsOf (s.getF f) hi' lo' := by
  unfold State.setLane
  rw [State.getF_setF_same _ _ _ _ _ hf, bitsOf_mod_two_pow _ _ hhi, bitsOf_setBits_other _ _ _ _ _ _ hlo hd]

end SetLane

/-! ### A die's sample, part by part (R415, R417, Table 16-4) -/

/-- The state in which a failed sensor of die `n` is known (R417). -/
def State.sensorFailed (s : State) (n : Nat) : State :=
  (s.setGov { s.gov with badSensors := n :: s.gov.badSensors.filter (fun k => k ≠ n) }).setErr F.THM_ERR_SENSOR_BAD

/-- A temperature of die `n` is recorded, and its highest. -/
def State.dieReading (s : State) (n t : Nat) : State :=
  (s.setLane F.THM_DIE_TEMP_TEMP (8 * n + 7) (8 * n) t).setLane F.THM_DIE_MAX_TEMP (8 * n + 7) (8 * n)
    (Nat.max t (bitsOf (s.getF F.THM_DIE_MAX_TEMP) (8 * n + 7) (8 * n)))

/-- Die `n` goes from state `cur` to `next`, with the error that entering it raises. -/
def State.dieMoved (s : State) (n cur next : Nat) : State :=
  let u := s.setLane F.THM_STAT_STATE (3 * n + 2) (3 * n) next
  if next = 1 && cur ≠ 1 then u.setErr F.THM_ERR_HOT else if next = 2 && cur ≠ 2 then u.setErr F.THM_ERR_LIMIT else u

/-- The operating point that die `n` asks for once its state is `next` (R415). -/
def State.dieOpAfter (s : State) (n next : Nat) : Nat :=
  if next = 0 || !decide (n ≤ 4) then 0
  else if next = 1 then Nat.min 7 (Nat.max (spGet 0 s.gov.dieOp n) (if n = 0 then 0 else s.gov.op) + 1)
  else if n = 0 then 7 else spGet 0 s.gov.dieOp n

/-- Die `n` in state `next` asks for an operating point, and the issue levels follow. -/
def State.dieThrottled (s : State) (n next op : Nat) : State :=
  let u := (s.setGov { s.gov with dieOp := spPut 0 s.gov.dieOp n op }).applyIssue
  if decide (n ≤ 4) && n ≠ 0 && next ≠ 0 then { u with capAt := some u.now } else u

/-- The temperature a sample counts as: 105 °C where the sensor is bad (R417). -/
def State.sampledTemp (s : State) (n : Nat) (temp : Option (BitVec 8)) : Nat :=
  if temp.isNone || s.gov.badSensors.contains n then 105 else (temp.map BitVec.toNat).getD 0

/-- The state a sample is taken in: a sensor that fails is known first. -/
def State.sampledIn (s : State) (n : Nat) (temp : Option (BitVec 8)) : State := if temp.isNone then s.sensorFailed n else s

/-- What a sample of `t` does below the trip point, from state `s` of the package, recorded in `u`. -/
def State.dieSettled (s u : State) (n t : Nat) : State :=
  let next := dieNext (s.dieState n) t
  ((u.dieReading n t).dieMoved n (s.dieState n) next).dieThrottled n next (s.dieOpAfter n next)

/-- A sample is recorded; it trips the package from 110 °C, and else moves the die's state. -/
theorem exec_dieThermalSample (d : BitVec 3) (temp : Option (BitVec 8)) (s : State) :
    let t := s.sampledTemp d.toNat temp
    let u := s.sampledIn d.toNat temp
    exec (.dieThermalSample d temp) s = .next (if !s.powered || 7 ≤ d.toNat then s
      else if 110 ≤ t then (u.dieReading d.toNat t).trip else s.dieSettled u d.toNat t) := rfl

section Sample

variable {d : BitVec 3} {s : State} (hp : s.powered = true) (hd : d.toNat < 7)
include hp hd

theorem exec_dieThermalSample_of_trip {temp : Option (BitVec 8)} {t : Nat} (ht : s.sampledTemp d.toNat temp = t) (htrip : 110 ≤ t) :
    exec (.dieThermalSample d temp) s = .next ((s.sampledIn d.toNat temp).dieReading d.toNat t).trip := by
  have hc : ¬ ((!s.powered || decide (7 ≤ d.toNat)) = true) := by simp [hp, hd]
  rw [exec_dieThermalSample, if_neg hc, ht, if_pos htrip]

theorem exec_dieThermalSample_of_lt {temp : Option (BitVec 8)} {t : Nat} (ht : s.sampledTemp d.toNat temp = t) (hlt : t < 110) :
    exec (.dieThermalSample d temp) s = .next (s.dieSettled (s.sampledIn d.toNat temp) d.toNat t) := by
  have hc : ¬ ((!s.powered || decide (7 ≤ d.toNat)) = true) := by simp [hp, hd]
  rw [exec_dieThermalSample, if_neg hc, ht, if_neg (Nat.not_le.mpr hlt)]

end Sample

theorem State.sampledTemp_good {s : State} {n : Nat} (t : BitVec 8) (h : s.gov.badSensors.contains n = false) : s.sampledTemp n (some t) = t.toNat := by
  simp [State.sampledTemp, List.contains_eq_mem] at h ⊢
  exact fun hmem => absurd hmem h

theorem State.sampledTemp_bad {s : State} {n : Nat} (t : BitVec 8) (h : n ∈ s.gov.badSensors) : s.sampledTemp n (some t) = 105 := by
  simp [State.sampledTemp, h]

/-! ### Table 16-4 -/

section DieNext

variable {t : Nat}

theorem dieNext_of_limit (cur : Nat) (h : 105 ≤ t) : dieNext cur t = 2 := by simp [dieNext, h]

theorem dieNext_zero (h : t < 105) : dieNext 0 t = if 100 ≤ t then 1 else 0 := by simp [dieNext, Nat.not_le.mpr h]

theorem dieNext_one (h : t < 105) : dieNext 1 t = if 97 ≤ t then 1 else 0 := by
  have hlow : 100 ≤ t → 97 ≤ t := by omega
  simp [dieNext, Nat.not_le.mpr h, or_iff_right_of_imp hlow]

theorem dieNext_two (h : t < 105) : dieNext 2 t = if 102 ≤ t then 2 else if 97 ≤ t then 1 else 0 := by
  have hlow : 100 ≤ t → 97 ≤ t := by omega
  simp [dieNext, Nat.not_le.mpr h, or_iff_right_of_imp hlow]

theorem dieNext_lt (cur t : Nat) : dieNext cur t < 8 := by
  unfold dieNext; split
  · decide
  · split <;> decide

end DieNext

/-! ### What each part of a sample leaves -/

theorem State.sensorFailed_pow (s : State) (n : Nat) : (s.sensorFailed n).pow = s.pow := State.setErr_pow _ _ _ _

theorem State.getF_sensorFailed (s : State) (n : Nat) : (s.sensorFailed n).getF F.THM_ERR_SENSOR_BAD = 1 :=
  State.getF_setErr_same _ F.THM_ERR_SENSOR_BAD 0 none ⟨by decide, by decide⟩

theorem State.mem_sensorFailed (s : State) (n : Nat) : n ∈ (s.sensorFailed n).gov.badSensors := by
  rw [State.sensorFailed, State.setErr_gov]; exact List.mem_cons_self

section Parts

variable (s : State) {n : Nat} (t cur next op : Nat)

theorem State.dieReading_form : ∃ r, s.dieReading n t = { s with regs := r } := ⟨_, rfl⟩

/-- Only the two temperature registers change. -/
theorem State.getF_dieReading (g : Fld) (ht : fldKey F.THM_DIE_TEMP_TEMP ≠ fldKey g) (hm : fldKey F.THM_DIE_MAX_TEMP ≠ fldKey g) :
    (s.dieReading n t).getF g = s.getF g := (State.getF_setF_other _ _ g _ _ _ _ _ hm).trans (State.getF_setF_other _ _ g _ _ _ _ _ ht)

theorem State.bitsOf_dieReading_temp (hn : n < 7) (ht : t < 256) : bitsOf ((s.dieReading n t).getF F.THM_DIE_TEMP_TEMP) (8 * n + 7) (8 * n) = t := by
  have hw : 8 * n + 7 + 1 - 8 * n = 8 := by omega
  rw [State.dieReading, State.setLane, State.getF_setF_other _ _ _ _ _ _ _ _ (by decide)]
  exact State.bitsOf_setLane_same _ _ ⟨by decide, by decide⟩ (by omega) (show 8 * n + 7 < 56 by omega) (by rw [hw]; exact ht)

theorem State.bitsOf_dieReading_max (hn : n < 7) (ht : t < 256) :
    bitsOf ((s.dieReading n t).getF F.THM_DIE_MAX_TEMP) (8 * n + 7) (8 * n) = max t (bitsOf (s.getF F.THM_DIE_MAX_TEMP) (8 * n + 7) (8 * n)) := by
  have hw : 8 * n + 7 + 1 - 8 * n = 8 := by omega
  have hold := bitsOf_lt (s.getF F.THM_DIE_MAX_TEMP) (8 * n + 7) (8 * n)
  rw [hw] at hold
  exact State.bitsOf_setLane_same _ _ ⟨by decide, by decide⟩ (by omega) (show 8 * n + 7 < 56 by omega) (by rw [hw]; exact Nat.max_lt.mpr ⟨ht, hold⟩)

/-- The error bits that entering a state raises. -/
abbrev dieErrs : List Fld := [F.THM_ERR_HOT, F.THM_ERR_LIMIT]

/-- The move sets the die's state, and at most one error bit. -/
theorem State.dieMoved_cases :
    s.dieMoved n cur next = s.setLane F.THM_STAT_STATE (3 * n + 2) (3 * n) next ∨
      ∃ f ∈ dieErrs, s.dieMoved n cur next = (s.setLane F.THM_STAT_STATE (3 * n + 2) (3 * n) next).setErr f := by
  unfold State.dieMoved
  dsimp only
  split
  · exact .inr ⟨_, by simp, rfl⟩
  · split
    · exact .inr ⟨_, by simp, rfl⟩
    · exact .inl rfl

theorem State.dieMoved_form : ∃ r e o, s.dieMoved n cur next = { s with regs := r, errFor := e, out := o } := by
  obtain h | ⟨f, -, h⟩ := s.dieMoved_cases (n := n) cur next
  · exact ⟨_, _, _, h⟩
  · obtain ⟨e, o, he⟩ := (s.setLane F.THM_STAT_STATE (3 * n + 2) (3 * n) next).setErr_form f 0 none
    exact ⟨_, e, o, h.trans he⟩

/-- A field that neither error bit touches reads after the move as after the new state alone. -/
theorem State.getF_dieMoved (g : Fld) (hg : ∀ f ∈ dieErrs, ∀ u : State, (u.setErr f).getF g = u.getF g) :
    (s.dieMoved n cur next).getF g = (s.setLane F.THM_STAT_STATE (3 * n + 2) (3 * n) next).getF g := by
  obtain h | ⟨f, hf, h⟩ := s.dieMoved_cases (n := n) cur next
  · rw [h]
  · rw [h, hg f hf]

theorem State.getF_dieMoved_other (g : Fld) (hstat : fldKey F.THM_STAT_STATE ≠ fldKey g) (herr : ∀ f ∈ dieErrs, fldKey f ≠ fldKey g) :
    (s.dieMoved n cur next).getF g = s.getF g :=
  (s.getF_dieMoved cur next g fun f hf u => State.getF_setErr_other u f 0 none g 0 0 (herr f hf)).trans (State.getF_setF_other _ _ g _ _ _ _ _ hstat)

theorem State.getF_dieMoved_sensorBad : (s.dieMoved n cur next).getF F.THM_ERR_SENSOR_BAD = s.getF F.THM_ERR_SENSOR_BAD := by
  have hbits : ∀ f ∈ dieErrs, f.blk = .thm ∧ f.off = 0x20 ∧ f.lo ≤ f.hi + 1 ∧ f.hi < 2 := by decide
  refine (s.getF_dieMoved cur next _ fun f hf u => ?_).trans (State.getF_setF_other _ _ _ _ _ _ _ _ (by decide))
  obtain ⟨hblk, hoff, hlo, hhi⟩ := hbits f hf
  rw [State.getF_setErr, State.getF_setF_field _ _ F.THM_ERR_SENSOR_BAD _ _ _ ⟨hlo, by omega⟩ hblk hoff (.inl hhi)]

theorem State.getF_dieMoved_stat :
    (s.dieMoved n cur next).getF F.THM_STAT_STATE = (s.setLane F.THM_STAT_STATE (3 * n + 2) (3 * n) next).getF F.THM_STAT_STATE := by
  have hkeys : ∀ f ∈ dieErrs, fldKey f ≠ fldKey F.THM_STAT_STATE := by decide
  exact s.getF_dieMoved cur next _ fun f hf u => State.getF_setErr_other u f 0 none _ 0 0 (hkeys f hf)

theorem State.dieState_dieMoved_same (hn : n < 7) (hnext : next < 8) : (s.dieMoved n cur next).dieState n = next := by
  have hw : 3 * n + 2 + 1 - 3 * n = 3 := by omega
  rw [State.dieState, s.getF_dieMoved_stat cur next]
  exact State.bitsOf_setLane_same _ _ ⟨by decide, by decide⟩ (by omega) (show 3 * n + 2 < 21 by omega) (by rw [hw]; exact hnext)

theorem State.dieState_dieMoved_other {k : Nat} (hk : k < 7) (hkn : k ≠ n) : (s.dieMoved n cur next).dieState k = s.dieState k := by
  rw [State.dieState, s.getF_dieMoved_stat cur next]
  exact State.bitsOf_setLane_other _ _ ⟨by decide, by decide⟩ (by omega) (show 3 * k + 2 < 21 by omega) (by omega)

theorem State.getF_dieMoved_hot (hcur : cur ≠ 1) : (s.dieMoved n cur 1).getF F.THM_ERR_HOT = 1 := by
  rw [State.dieMoved, if_pos (by simp [hcur])]
  exact State.getF_setErr_same _ F.THM_ERR_HOT 0 none ⟨by decide, by decide⟩

theorem State.getF_dieMoved_limit (hcur : cur ≠ 2) : (s.dieMoved n cur 2).getF F.THM_ERR_LIMIT = 1 := by
  rw [State.dieMoved, if_neg (by simp), if_pos (by simp [hcur])]
  exact State.getF_setErr_same _ F.THM_ERR_LIMIT 0 none ⟨by decide, by decide⟩

theorem State.setF_form (f : Fld) (v i k : Nat) : ∃ r, s.setF f v i k = { s with regs := r } := ⟨_, rfl⟩

theorem State.applyIssue_form : ∃ r, s.applyIssue = { s with regs := r } := by
  unfold State.applyIssue
  obtain ⟨r, h⟩ := s.setF_form F.PWR_ISSUE0_LEVEL ((List.range 16).foldl (fun a j => a + s.groupLevel (16 * 0 + j) * 2 ^ (4 * j)) 0) 0 0
  dsimp only
  rw [h]
  exact State.setF_form { s with regs := r } _ _ _ _

theorem State.dieThrottled_form : ∃ r o cap, s.dieThrottled n next op = { s with regs := r, gov := { s.gov with dieOp := o }, capAt := cap } := by
  unfold State.dieThrottled
  obtain ⟨r, h⟩ := (s.setGov { s.gov with dieOp := spPut 0 s.gov.dieOp n op }).applyIssue_form
  dsimp only
  rw [h]
  split
  · exact ⟨r, _, some s.now, rfl⟩
  · exact ⟨r, _, s.capAt, rfl⟩

/-- Throttling writes the issue levels alone. -/
theorem State.getF_dieThrottled (g : Fld) (h0 : fldKey F.PWR_ISSUE0_LEVEL ≠ fldKey g) (h1 : fldKey F.PWR_ISSUE1_LEVEL ≠ fldKey g) :
    (s.dieThrottled n next op).getF g = s.getF g := by
  have hissue (u : State) : u.applyIssue.getF g = u.getF g :=
    (State.getF_setF_other _ _ g _ _ _ _ _ h1).trans (State.getF_setF_other _ _ g _ _ _ _ _ h0)
  have hcap (u : State) (cap : Option Nat) : State.getF { u with capAt := cap } g = u.getF g := rfl
  unfold State.dieThrottled
  dsimp only
  split
  · rw [hcap, hissue]; rfl
  · rw [hissue]; rfl

end Parts

/-! ### A sample below the trip point -/

section Settled

variable (s u : State) {n t : Nat}

theorem State.dieSettled_form : ∃ r e o gov cap, s.dieSettled u n t = { u with regs := r, errFor := e, out := o, gov := { u.gov with dieOp := gov }, capAt := cap } := by
  unfold State.dieSettled
  obtain ⟨r, h⟩ := u.dieReading_form (n := n) t
  obtain ⟨r', e, o, h'⟩ := (u.dieReading n t).dieMoved_form (n := n) (s.dieState n) (dieNext (s.dieState n) t)
  obtain ⟨r'', gov, cap, h''⟩ := ((u.dieReading n t).dieMoved n (s.dieState n) (dieNext (s.dieState n) t)).dieThrottled_form (n := n)
    (dieNext (s.dieState n) t) (s.dieOpAfter n (dieNext (s.dieState n) t))
  exact ⟨r'', e, o, gov, cap, by dsimp only; rw [h'', h', h]⟩

theorem State.dieSettled_pow : (s.dieSettled u n t).pow = u.pow := by
  obtain ⟨r, e, o, gov, cap, h⟩ := s.dieSettled_form u (n := n) (t := t); rw [h]

theorem State.dieSettled_hbm : (s.dieSettled u n t).hbm = u.hbm := by
  obtain ⟨r, e, o, gov, cap, h⟩ := s.dieSettled_form u (n := n) (t := t); rw [h]

theorem State.dieSettled_badSensors : (s.dieSettled u n t).gov.badSensors = u.gov.badSensors := by
  obtain ⟨r, e, o, gov, cap, h⟩ := s.dieSettled_form u (n := n) (t := t); rw [h]

theorem State.bitsOf_dieSettled_temp (hn : n < 7) (ht : t < 256) : bitsOf ((s.dieSettled u n t).getF F.THM_DIE_TEMP_TEMP) (8 * n + 7) (8 * n) = t := by
  rw [State.dieSettled, State.getF_dieThrottled _ _ _ _ (by decide) (by decide), State.getF_dieMoved_other _ _ _ _ (by decide) (by decide),
    State.bitsOf_dieReading_temp _ _ hn ht]

theorem State.bitsOf_dieSettled_max (hn : n < 7) (ht : t < 256) : bitsOf ((s.dieSettled u n t).getF F.THM_DIE_MAX_TEMP) (8 * n + 7) (8 * n) =
    max t (bitsOf (u.getF F.THM_DIE_MAX_TEMP) (8 * n + 7) (8 * n)) := by
  rw [State.dieSettled, State.getF_dieThrottled _ _ _ _ (by decide) (by decide), State.getF_dieMoved_other _ _ _ _ (by decide) (by decide),
    State.bitsOf_dieReading_max _ _ hn ht]

theorem State.dieState_dieSettled_same (hn : n < 7) : (s.dieSettled u n t).dieState n = dieNext (s.dieState n) t := by
  rw [State.dieSettled, State.dieState, State.getF_dieThrottled _ _ _ _ (by decide) (by decide)]
  exact State.dieState_dieMoved_same _ _ _ hn (dieNext_lt _ _)

theorem State.dieState_dieSettled_other {k : Nat} (hk : k < 7) (hkn : k ≠ n) : (s.dieSettled u n t).dieState k = u.dieState k := by
  rw [State.dieSettled, State.dieState, State.getF_dieThrottled _ _ _ _ (by decide) (by decide)]
  refine (State.dieState_dieMoved_other _ _ _ hk hkn).trans ?_
  rw [State.dieState, State.getF_dieReading _ _ _ (by decide) (by decide), State.dieState]

theorem State.getF_dieSettled_sensorBad : (s.dieSettled u n t).getF F.THM_ERR_SENSOR_BAD = u.getF F.THM_ERR_SENSOR_BAD := by
  rw [State.dieSettled, State.getF_dieThrottled _ _ _ _ (by decide) (by decide), State.getF_dieMoved_sensorBad,
    State.getF_dieReading _ _ _ (by decide) (by decide)]

theorem State.getF_dieSettled_hot (hcur : s.dieState n ≠ 1) (hnext : dieNext (s.dieState n) t = 1) : (s.dieSettled u n t).getF F.THM_ERR_HOT = 1 := by
  rw [State.dieSettled, State.getF_dieThrottled _ _ _ _ (by decide) (by decide), hnext, State.getF_dieMoved_hot _ _ hcur]

theorem State.getF_dieSettled_limit (hcur : s.dieState n ≠ 2) (hnext : dieNext (s.dieState n) t = 2) : (s.dieSettled u n t).getF F.THM_ERR_LIMIT = 1 := by
  rw [State.dieSettled, State.getF_dieThrottled _ _ _ _ (by decide) (by decide), hnext, State.getF_dieMoved_limit _ _ hcur]

end Settled

/-! ### The trip (R416, R469) -/

theorem State.linksDown_up (s : State) (l : Nat) : (spGet {} s.linksDown l).up = false := by
  unfold State.linksDown
  induction s.hostLinks with
  | nil => rfl
  | cons e m ih =>
    rw [List.map_cons, List.filter_cons]
    split
    · rw [spGet]
      split
      · rfl
      · exact ih
    · exact ih

/-- In a trip only THERMTRIP_N and FAULT_N are asserted. -/
theorem State.trip_pins (s : State) : s.trip.thermtripN = .low ∧ s.trip.faultN = .low ∧ s.trip.alertN = .highZ ∧ s.trip.pwrgd = .highZ := ⟨rfl, rfl, rfl, rfl⟩

/-! ### Regulators (R418, R470) -/

theorem testBit_eq_natTestBit (v i : Nat) : testBit v i = v.testBit i := by
  rw [Nat.testBit_eq_decide_div_mod_eq, testBit, Nat.shiftRight_eq_div_pow]

section Rail

variable (s : State) (x : RailSample) (flags : Nat)

theorem State.getF_railReading : let b := x.rail.toNat; let u := s.railReading x flags
    u.getF F.PWR_REG_DATA_MV 0 b = x.mv.toNat ∧ u.getF F.PWR_REG_DATA_DECI_A 0 b = x.deciA.toNat ∧ u.getF F.PWR_REG_DATA_TEMP 0 b = x.temp.toNat ∧
      u.getF F.PWR_REG_DATA_FLAGS 0 b = flags % 16 := by
  have hmv : F.PWR_REG_DATA_MV.Ok := ⟨by decide, by decide⟩
  have hda : F.PWR_REG_DATA_DECI_A.Ok := ⟨by decide, by decide⟩
  have htemp : F.PWR_REG_DATA_TEMP.Ok := ⟨by decide, by decide⟩
  have hflags : F.PWR_REG_DATA_FLAGS.Ok := ⟨by decide, by decide⟩
  refine ⟨?_, ?_, ?_, State.getF_setF_same _ _ _ _ _ hflags⟩
  · rw [State.railReading, State.getF_setF_field _ _ F.PWR_REG_DATA_MV _ _ _ hflags rfl rfl (by decide), State.getF_setF_field _ _ F.PWR_REG_DATA_MV _ _ _ htemp rfl rfl (by decide),
      State.getF_setF_field _ _ F.PWR_REG_DATA_MV _ _ _ hda rfl rfl (by decide), State.getF_setF_same _ _ _ _ _ hmv]
    exact Nat.mod_eq_of_lt x.mv.isLt
  · rw [State.railReading, State.getF_setF_field _ _ F.PWR_REG_DATA_DECI_A _ _ _ hflags rfl rfl (by decide), State.getF_setF_field _ _ F.PWR_REG_DATA_DECI_A _ _ _ htemp rfl rfl (by decide),
      State.getF_setF_same _ _ _ _ _ hda]
    exact Nat.mod_eq_of_lt x.deciA.isLt
  · rw [State.railReading, State.getF_setF_field _ _ F.PWR_REG_DATA_TEMP _ _ _ hflags rfl rfl (by decide), State.getF_setF_same _ _ _ _ _ htemp]
    exact Nat.mod_eq_of_lt x.temp.isLt

/-- FLAGS of a rail after a reading: phase lost, hot, out of regulation as recorded before, and warning (Table 16-5). -/
def railWarnFlags (x : RailSample) (old : Nat) : Nat :=
  let hot := decide (115 < x.temp.toNat)
  (if x.phaseLost then 1 else 0) + (if hot then 2 else 0) + (if old.testBit 2 then 4 else 0) + (if x.phaseLost || hot then 8 else 0)

theorem railWarnFlags_lt (x : RailSample) (old : Nat) : railWarnFlags x old < 16 := by
  unfold railWarnFlags
  dsimp only
  split <;> split <;> split <;> split <;> decide

/-- A die is held in reset. -/
def State.holdDie (s : State) (die : Nat) : State := { s with pow := { s.pow with heldDies := die :: s.pow.heldDies.filter (fun k => k ≠ die) } }

theorem State.holdDie_pow (die : Nat) : (s.holdDie die).pow = { s.pow with heldDies := die :: s.pow.heldDies.filter (fun k => k ≠ die) } := rfl

theorem State.getF_holdDie (die : Nat) (g : Fld) (i k : Nat) : (s.holdDie die).getF g i k = s.getF g i k := rfl

/-- The reading of a rail that fails, with bit 2 of FLAGS, and the error bit. -/
def State.railFailed : State := (s.free.2.railReading x (s.getF F.PWR_REG_DATA_FLAGS 0 x.rail.toNat ||| 4)).setErr F.PWR_ERR_RAIL_FAIL

theorem State.railFailed_pow : (s.railFailed x).pow = s.pow := State.setErr_pow _ _ _ _

theorem State.getF_railFailed_err : (s.railFailed x).getF F.PWR_ERR_RAIL_FAIL = 1 :=
  State.getF_setErr_same _ F.PWR_ERR_RAIL_FAIL 0 none ⟨by decide, by decide⟩

/-- The error bit leaves the reading as it is. -/
theorem State.getF_railFailed_data (g : Fld) (hb : g.blk = .pwr) (ho : g.off = 0xb8) : (s.railFailed x).getF g 0 x.rail.toNat =
    (s.free.2.railReading x (s.getF F.PWR_REG_DATA_FLAGS 0 x.rail.toNat ||| 4)).getF g 0 x.rail.toNat := by
  have hkey : regKey .pwr 0 0x20 0 ≠ regKey g.blk 0 g.off x.rail.toNat := by rw [hb, ho]; unfold regKey regAddr; omega
  exact State.getF_setErr_other _ F.PWR_ERR_RAIL_FAIL 0 none g 0 _ hkey

variable {s x} (hp : s.powered = true) (hx : x.rail.toNat < 48)
include hp hx

/-- A warning is raised anew where none stood. -/
theorem exec_regulatorWarning : let old := s.getF F.PWR_REG_DATA_FLAGS 0 x.rail.toNat
    let warn := x.phaseLost || decide (115 < x.temp.toNat)
    let u := s.railReading x (railWarnFlags x old)
    exec (.regulatorWarning x) s = .next (if warn && !old.testBit 3 then u.regWarn else if warn then u.setErr F.PWR_ERR_REG_WARN else u) := by
  have hc : ¬ ((!s.powered || decide (48 ≤ x.rail.toNat)) = true) := by simp [hp, hx]
  show execRegulatorWarning x s = _
  unfold execRegulatorWarning railWarnFlags
  simp only [if_neg hc, testBit_eq_natTestBit]

theorem exec_regulatorWarning_quiet (hw : (x.phaseLost || decide (115 < x.temp.toNat)) = false) :
    exec (.regulatorWarning x) s = .next (s.railReading x (railWarnFlags x (s.getF F.PWR_REG_DATA_FLAGS 0 x.rail.toNat))) := by
  have h := exec_regulatorWarning hp hx
  rwa [hw] at h

theorem exec_regulatorWarning_warns (hw : (x.phaseLost || decide (115 < x.temp.toNat)) = true) : let old := s.getF F.PWR_REG_DATA_FLAGS 0 x.rail.toNat
    let u := s.railReading x (railWarnFlags x old)
    exec (.regulatorWarning x) s = .next (if old.testBit 3 then u.setErr F.PWR_ERR_REG_WARN else u.regWarn) := by
  have h := exec_regulatorWarning hp hx
  dsimp only at h ⊢
  rw [h, hw]
  cases (s.getF F.PWR_REG_DATA_FLAGS 0 x.rail.toNat).testBit 3
  · rw [if_pos (by decide), if_neg (by decide)]
  · rw [if_neg (by decide), if_pos rfl, if_pos rfl]

theorem exec_railFail : ∃ die < 7, exec (.railFail x) s = .next ((List.range 16).foldl State.fenceStack ((s.railFailed x).holdDie die)) := by
  have hc : ¬ ((!s.powered || decide (48 ≤ x.rail.toNat)) = true) := by simp [hp, hx]
  refine ⟨s.free.1.toNat % 7, Nat.mod_lt _ (by decide), ?_⟩
  show execRailFail x s = _
  unfold execRailFail
  dsimp only [State.free]
  rw [if_neg hc]
  rfl

end Rail

/-- No fence changes a register of the power page. -/
theorem not_hasKey_pwr {g : Fld} (k : Nat) (hb : g.blk = .pwr) (ho : g.off < 4096) : ∀ b ∈ fenceBlocks, ¬ b.HasKey (fldKey g 0 k) := by
  simp [Block.HasKey, fldKey, regKey, regAddr, blockBase, blockPages, hb]; omega

theorem State.faultN_of_heldDies {s : State} (hp : s.powered = true) {die : Nat} (h : die ∈ s.pow.heldDies) : s.faultN = .low := by
  have hne : s.pow.heldDies.isEmpty = false := by simpa using List.ne_nil_of_mem h
  simp [State.faultN, State.faultCondition, openDrain, hp, hne]

theorem State.thermtripN_of_powered {s : State} (hp : s.powered = true) : s.thermtripN = .highZ := by
  have hstage : s.pow.stage = .on := by simpa [State.powered] using hp
  simp [State.thermtripN, State.tripHold, openDrain, hstage]

/-! ### The clauses of the statement -/

section Clauses

variable {s : State} (hp : s.powered = true)
include hp

/-- A bad sensor's die is at LIMIT, reading 105 °C (R417). -/
theorem completes_bad_sample {d : BitVec 3} (hd : d.toNat < 7) {temp : Option (BitVec 8)} (ht : s.sampledTemp d.toNat temp = 105) :
    Completes (.dieThermalSample d temp) s (fun s' => s' = s.dieSettled (s.sampledIn d.toNat temp) d.toNat 105 ∧
      bitsOf (s'.getF F.THM_DIE_TEMP_TEMP) (8 * d.toNat + 7) (8 * d.toNat) = 105 ∧ s'.dieState d.toNat = 2) :=
  ⟨_, exec_dieThermalSample_of_lt hp hd ht (by decide), rfl, State.bitsOf_dieSettled_temp _ _ hd (by decide),
    (State.dieState_dieSettled_same _ _ hd).trans (dieNext_of_limit _ (by decide))⟩

/-- A rail's failure (R418, R470). -/
theorem completes_railFail {x : RailSample} (hx : x.rail.toNat < 48) : let b := x.rail.toNat
    Completes (.railFail x) s (fun s' =>
      (s'.getF F.PWR_REG_DATA_MV 0 b = x.mv.toNat ∧ s'.getF F.PWR_REG_DATA_DECI_A 0 b = x.deciA.toNat ∧ s'.getF F.PWR_REG_DATA_TEMP 0 b = x.temp.toNat) ∧
      s'.getF F.PWR_ERR_RAIL_FAIL = 1 ∧ (s'.getF F.PWR_REG_DATA_FLAGS 0 b).testBit 2 = true ∧
      (∃ die, die < 7 ∧ die ∈ s'.pow.heldDies) ∧ s'.faultN = .low ∧ s'.thermtripN = .highZ ∧ (∀ k, k < 16 → s'.getF F.LCH_STAT_FENCED k = 1)) := by
  obtain ⟨die, hdie, hexec⟩ := exec_railFail hp hx
  obtain ⟨hmv, hda, htemp, hflags⟩ := s.free.2.getF_railReading x (s.getF F.PWR_REG_DATA_FLAGS 0 x.rail.toNat ||| 4)
  have hwithin := ((s.railFailed x).holdDie die).foldl_fenceStack_within
  have hfenced := ((s.railFailed x).holdDie die).getF_foldl_fenceStack 16 (Nat.le_refl 16)
  refine ⟨_, hexec, ?_⟩
  generalize (List.range 16).foldl State.fenceStack ((s.railFailed x).holdDie die) = s' at hwithin hfenced ⊢
  have hpow : s'.pow = _ := hwithin.1
  rw [State.holdDie_pow, State.railFailed_pow] at hpow
  have hread (g : Fld) (k : Nat) (hb : g.blk = .pwr) (ho : g.off < 4096) : s'.getF g 0 k = (s.railFailed x).getF g 0 k := by
    rw [hwithin.getF g 0 k (not_hasKey_pwr k hb ho), State.getF_holdDie]
  have hdata (g : Fld) (hb : g.blk = .pwr) (ho : g.off = 0xb8) := (hread g x.rail.toNat hb (by omega)).trans (s.getF_railFailed_data x g hb ho)
  have hheld : die ∈ s'.pow.heldDies := by rw [hpow]; exact List.mem_cons_self
  have hon : s'.powered = true := by rw [State.powered, hpow]; exact hp
  have hflag : (s'.getF F.PWR_REG_DATA_FLAGS 0 x.rail.toNat).testBit 2 = true := by
    rw [hdata F.PWR_REG_DATA_FLAGS rfl rfl, hflags, Nat.testBit_mod_two_pow _ 4, Nat.testBit_or, show Nat.testBit 4 2 = true by decide, Bool.or_true]
    decide
  exact ⟨⟨(hdata F.PWR_REG_DATA_MV rfl rfl).trans hmv, (hdata F.PWR_REG_DATA_DECI_A rfl rfl).trans hda, (hdata F.PWR_REG_DATA_TEMP rfl rfl).trans htemp⟩,
    (hread F.PWR_ERR_RAIL_FAIL 0 rfl (by decide)).trans (s.getF_railFailed_err x), hflag, ⟨die, hdie, hheld⟩,
    State.faultN_of_heldDies hon hheld, State.thermtripN_of_powered hon, hfenced⟩

end Clauses

end Sys2Proof.Machine

open Sys2Proof Sys2Proof.Machine

/-- Settles O54: a sample below the trip point is `State.dieSettled`, whose next state Table 16-4 gives case by case; a rail's failure fences within
blocks that hold neither the power page nor the power state. -/
theorem dieHeatAndRails : Obligations.DieHeatAndRails := by
  unfold Obligations.DieHeatAndRails
  refine ⟨fun d s t hp hd hbad => ⟨fun hlt => ?settles, fun htrip => ?trips⟩, fun d s hp hd => ?failed, fun d s t hp hd hbad => ?bad, fun s st => rfl,
    fun x s hp hx => ?rail⟩
  case settles =>
    have hstate : (s.dieSettled s d.toNat t.toNat).dieState d.toNat = dieNext (s.dieState d.toNat) t.toNat := State.dieState_dieSettled_same s s hd
    refine ⟨s.dieSettled s d.toNat t.toNat, exec_dieThermalSample_of_lt hp hd (State.sampledTemp_good t hbad) hlt, State.bitsOf_dieSettled_temp _ _ hd t.isLt,
      State.bitsOf_dieSettled_max _ _ hd t.isLt, fun k hk hkn => State.dieState_dieSettled_other _ _ hk hkn, State.dieSettled_pow _ _, State.dieSettled_hbm _ _,
      fun h => ⟨?_, fun hne => ?_⟩, fun h hcool => ?_, fun h hhot hlim => ⟨?_, ?_⟩, fun h hlim => ?_, fun h hlow hhigh => ?_, fun h hlim => ?_⟩
    · rw [hstate, dieNext_of_limit _ h]
    · exact State.getF_dieSettled_limit _ _ hne (dieNext_of_limit _ h)
    · rw [hstate, h, dieNext_zero (by omega), if_neg (by omega)]
    · rw [hstate, h, dieNext_zero hlim, if_pos hhot]
    · exact State.getF_dieSettled_hot _ _ (by omega) (by rw [h, dieNext_zero hlim, if_pos hhot])
    · rw [hstate, h, dieNext_one hlim]
    · exact State.getF_dieSettled_hot _ _ (by omega) (by rw [h, dieNext_two (by omega), if_neg (by omega), if_pos hlow])
    · rw [hstate, h, dieNext_two hlim]
  case trips =>
    refine ⟨(s.dieReading d.toNat t.toNat).trip, exec_dieThermalSample_of_trip hp hd (State.sampledTemp_good t hbad) htrip, ?_⟩
    have htemp := s.bitsOf_dieReading_temp t.toNat hd t.isLt
    obtain ⟨r, hr⟩ := s.dieReading_form (n := d.toNat) t.toNat
    rw [hr] at htemp ⊢
    exact ⟨rfl, State.linksDown_up _, htemp, rfl, State.trip_pins _⟩
  case failed =>
    obtain ⟨_, hexec, rfl, htemp, hstate⟩ := completes_bad_sample hp hd (temp := none) rfl
    refine ⟨_, hexec, htemp, ?_, hstate, ?_, ?_⟩
    · rw [State.getF_dieSettled_sensorBad]; exact s.getF_sensorFailed _
    · rw [State.dieSettled_badSensors]; exact s.mem_sensorFailed _
    · rw [State.dieSettled_pow]; exact s.sensorFailed_pow _
  case bad =>
    obtain ⟨_, hexec, rfl, htemp, hstate⟩ := completes_bad_sample hp hd (State.sampledTemp_bad t hbad)
    refine ⟨_, hexec, htemp, hstate, ?_, State.dieSettled_pow _ _⟩
    rw [State.dieSettled_badSensors]; exact hbad
  case rail =>
    obtain ⟨hmv, hda, htemp, hflags⟩ := s.getF_railReading x (railWarnFlags x (s.getF F.PWR_REG_DATA_FLAGS 0 x.rail.toNat))
    refine ⟨⟨hmv, hda, htemp⟩, hflags.trans (Nat.mod_eq_of_lt (railWarnFlags_lt x _)), fun hphase hcool => ?_, fun hwarn => ?_, completes_railFail hp hx⟩
    · exact exec_regulatorWarning_quiet hp hx (by rw [hphase, Bool.false_or]; exact hcool)
    · exact exec_regulatorWarning_warns hp hx (by simpa using hwarn)

end
